-- ==== Sys2Proof/Word.lean ====
section
/-! DEFINITION. The word types of the machine and their plainest readings (spec/00_scope.md R3, R4). -/

set_option autoImplicit false
set_option Elab.async false

namespace Sys2Proof

/-- A byte of any memory. -/
abbrev Byte := BitVec 8
/-- A move word or a 32-bit element. -/
abbrev HWord := BitVec 32
/-- A 64-bit register, latch or CSR (R13, R23). -/
abbrev Word := BitVec 64
/-- A 256-bit vector register or latch (R13, R23). -/
abbrev VWord := BitVec 256

end Sys2Proof
end

