-- ==== Sys2Proof/Machine/Memory.lean ====
section
/-! DEFINITION. Byte memories in one canonical form (spec/12_memory.md, spec/00_scope.md R4) and their accesses. Every memory
of the device is one: scratchpads, staging and local memories, HBM, host memory, and the Undertow's and dumps' buffers. -/

set_option autoImplicit false
set_option Elab.async false

namespace Sys2Proof.Machine

/-- A memory: the bytes that differ from `Memory.unlisted`, by strictly rising address. -/
abbrev Memory := List Host.Cell

/-- What a byte that no entry lists reads as: zero (DESIGN CHOICE, log 2: the spec gives no contents before the first write). -/
def Memory.unlisted : Byte := 0

/-- The canonical form: addresses strictly rising, no entry equal to what an unlisted address reads as. -/
abbrev Memory.wf (m : Memory) : Prop :=
  m.Pairwise (fun c d => c.1 < d.1) ∧ ∀ c ∈ m, c.2 ≠ Memory.unlisted

/-- The byte at an address. -/
def Memory.byte : Memory → Nat → Byte
  | [], _ => Memory.unlisted
  | (k, b) :: m, a => if k == a then b else Memory.byte m a

/-- The `n` bytes from address `a` on. -/
def Memory.bytes (m : Memory) (a : Nat) : Nat → List Byte
  | 0 => []
  | n + 1 => m.byte a :: Memory.bytes m (a + 1) n

/-- Entries for a run of bytes from address `a` on, leaving out bytes that need no entry. -/
def Memory.cells : Nat → List Byte → Memory
  | _, [] => []
  | a, b :: bs => if b == Memory.unlisted then Memory.cells (a + 1) bs else (a, b) :: Memory.cells (a + 1) bs

/-- A write of a run of bytes from address `a` on. -/
def Memory.write (m : Memory) (a : Nat) (bs : List Byte) : Memory :=
  m.filter (fun c => decide (c.1 < a)) ++ Memory.cells a bs ++ m.filter (fun c => decide (a + bs.length ≤ c.1))

/-- The number a little-endian byte string stands for (R4). -/
def leNat : List Byte → Nat
  | [] => 0
  | b :: bs => b.toNat + 256 * leNat bs

/-- The `n` little-endian bytes of a number (R4). -/
def leBytes : Nat → Nat → List Byte
  | 0, _ => []
  | n + 1, x => BitVec.ofNat 8 x :: leBytes n (x / 256)

/-- The `n`-byte little-endian number at an address. -/
def Memory.nat (m : Memory) (a n : Nat) : Nat := leNat (m.bytes a n)

/-- The doubleword at an address. -/
def Memory.dword (m : Memory) (a : Nat) : Word := BitVec.ofNat 64 (m.nat a 8)

/-- A write of an `n`-byte little-endian number. -/
def Memory.writeNat (m : Memory) (a n x : Nat) : Memory := m.write a (leBytes n x)

/-- A write of a doubleword. -/
def Memory.writeDword (m : Memory) (a : Nat) (w : Word) : Memory := m.writeNat a 8 w.toNat

/-! ## Small maps by number, sorted by key: the sparse state of the model -/

/-- The entry of a key, or a default. -/
def look {α : Type} (d : α) : List (Nat × α) → Nat → α
  | [], _ => d
  | (k, v) :: m, a => if k == a then v else look d m a

/-- The entry of a key, if there is one. -/
def look? {α : Type} : List (Nat × α) → Nat → Option α
  | [], _ => none
  | (k, v) :: m, a => if k == a then some v else look? m a

/-- Puts an entry, keeping the keys rising. -/
def put {α : Type} : List (Nat × α) → Nat → α → List (Nat × α)
  | [], a, x => [(a, x)]
  | (k, v) :: m, a, x => if a < k then (a, x) :: (k, v) :: m else if a == k then (a, x) :: m else (k, v) :: put m a x

/-- Removes the entry of a key. -/
def del {α : Type} (m : List (Nat × α)) (a : Nat) : List (Nat × α) := m.filter (fun c => c.1 != a)

/-- Puts a number into a rising list without repeats. -/
def insertNat : List Nat → Nat → List Nat
  | [], a => [a]
  | k :: m, a => if a < k then a :: k :: m else if a == k then k :: m else k :: insertNat m a

/-- Replaces the first element for which `p` holds. -/
def replaceFirst {α : Type} (p : α → Bool) (f : α → α) : List α → List α
  | [] => []
  | a :: l => if p a then f a :: l else a :: replaceFirst p f l

/-- Removes the first element for which `p` holds. -/
def eraseFirst {α : Type} (p : α → Bool) : List α → List α
  | [] => []
  | a :: l => if p a then l else a :: eraseFirst p l

/-- Changes the element at a position. -/
def modifyAt {α : Type} (f : α → α) : List α → Nat → List α
  | [], _ => []
  | a :: l, 0 => f a :: l
  | a :: l, n + 1 => a :: modifyAt f l n

/-! ## Bit fields (R79) -/

/-- `BITS(x, hi, lo)` as a number. -/
def bits (x : Word) (hi lo : Nat) : Nat := x.toNat / 2 ^ lo % 2 ^ (hi + 1 - lo)

/-- Bit `i`. -/
def bit (x : Word) (i : Nat) : Bool := x.getLsbD i

/-- `SEXT(x, n)`: the low `n` bits, sign-extended to 64. -/
def sext (x : Nat) (n : Nat) : Word :=
  let y := x % 2 ^ n
  if 2 * y < 2 ^ n then BitVec.ofNat 64 y else BitVec.ofInt 64 ((y : Int) - (2 ^ n : Nat))

/-- `ZEXT(x, n)`: the low `n` bits, zero-extended. -/
def zext (x : Nat) (n : Nat) : Word := BitVec.ofNat 64 (x % 2 ^ n)

/-- `x` with bits `[hi:lo]` replaced by the low bits of `v`. -/
def setBits (x : Word) (hi lo : Nat) (v : Nat) : Word :=
  BitVec.ofNat 64 (x.toNat % 2 ^ lo + (v % 2 ^ (hi + 1 - lo)) * 2 ^ lo + x.toNat / 2 ^ (hi + 1) * 2 ^ (hi + 1))

/-- The 64-bit value of a number. -/
def w64 (n : Nat) : Word := BitVec.ofNat 64 n

/-- A register's stored bundle address: bits [51:2] (R46, R82, R250). -/
def bundleAddr (w : Word) : Word := w64 (bits w 51 2 * 4)

end Sys2Proof.Machine
end

