-- ==== Sys2Proof/Machine/Flags.lean ====
section
/-! DEFINITION. Floating-point formats, the one rounding of an exact value, and the sticky flags it sets (spec/02_numbers.md R52 to
R67). A flag set is a number with the bits of `fflags` (R40). -/

set_option autoImplicit false
set_option Elab.async false

namespace Sys2Proof.Machine

/-! ## Flags (R40, R61) -/

/-- NX, inexact. -/
def fNX : Nat := 1
/-- UF, underflow. -/
def fUF : Nat := 2
/-- OF, overflow. -/
def fOF : Nat := 4
/-- DZ, division by zero. -/
def fDZ : Nat := 8
/-- NV, invalid operation. -/
def fNV : Nat := 16

/-- The flags of several elements together (R62). -/
def joinFlags (fs : List Nat) : Nat := fs.foldl (· ||| ·) 0

/-! ## Formats (R52) -/

/-- The floating-point formats. -/
inductive FFmt where
  | f32 | f16 | bf16 | e5m2 | e4m3
  deriving DecidableEq, Repr

/-- Width in bits. -/
def FFmt.width : FFmt → Nat
  | .f32 => 32 | .f16 => 16 | .bf16 => 16 | .e5m2 => 8 | .e4m3 => 8
/-- Fraction bits. -/
def FFmt.frac : FFmt → Nat
  | .f32 => 23 | .f16 => 10 | .bf16 => 7 | .e5m2 => 2 | .e4m3 => 3
/-- Exponent bits. -/
def FFmt.ebits : FFmt → Nat
  | .f32 => 8 | .f16 => 5 | .bf16 => 8 | .e5m2 => 5 | .e4m3 => 4
/-- Bias. -/
def FFmt.bias : FFmt → Int
  | .f32 => 127 | .f16 => 15 | .bf16 => 127 | .e5m2 => 15 | .e4m3 => 7
/-- The canonical NaN. -/
def FFmt.nan : FFmt → Nat
  | .f32 => 0x7FC00000 | .f16 => 0x7E00 | .bf16 => 0x7FC0 | .e5m2 => 0x7E | .e4m3 => 0x7F
/-- The magnitude bits of the largest finite value. -/
def FFmt.maxBits : FFmt → Nat
  | .f32 => 0x7F7FFFFF | .f16 => 0x7BFF | .bf16 => 0x7F7F | .e5m2 => 0x7B | .e4m3 => 0x7E
/-- The magnitude bits of infinity, or of the canonical NaN in E4M3, which has none (R58). -/
def FFmt.infBits : FFmt → Nat
  | .f32 => 0x7F800000 | .f16 => 0x7C00 | .bf16 => 0x7F80 | .e5m2 => 0x7C | .e4m3 => 0x7F
/-- The exponent of the unit in the last place of the subnormal grid. -/
def FFmt.emin (f : FFmt) : Int := 1 - f.bias - f.frac

/-- The sign bit in place. -/
def FFmt.sign (f : FFmt) (neg : Bool) : Nat := if neg then 2 ^ (f.width - 1) else 0

/-- The floating-point format of a format code (R77). -/
def ffmtOf : Nat → Option FFmt
  | 6 => some .f16 | 7 => some .bf16 | 8 => some .f32 | 9 => some .e4m3 | 10 => some .e5m2 | _ => none

/-- The value of a bit pattern: a NaN, signalling or quiet, an infinity, or sign × m × 2^e exactly. -/
inductive FVal where
  | nan (signalling : Bool)
  | inf (neg : Bool)
  | fin (neg : Bool) (m : Nat) (e : Int)
  deriving DecidableEq, Repr

/-- DEC(f, bits) (R52, R53, R79). -/
def decF (f : FFmt) (b : Nat) : FVal :=
  let neg := b / 2 ^ (f.width - 1) % 2 == 1
  let be := b / 2 ^ f.frac % 2 ^ f.ebits
  let fr := b % 2 ^ f.frac
  let top := be == 2 ^ f.ebits - 1
  if f == .e4m3 && top && fr == 7 then .nan false
  else if f != .e4m3 && top then
    if fr == 0 then .inf neg else .nan (f != .e5m2 && fr / 2 ^ (f.frac - 1) == 0)
  else if be == 0 then .fin neg fr f.emin
  else .fin neg (fr + 2 ^ f.frac) (be - 1 + f.emin)

/-- A signalling NaN operand sets NV (R61). -/
def FVal.snan : FVal → Nat
  | .nan true => fNV
  | _ => 0

/-- The operand is a NaN. -/
def FVal.isNan : FVal → Bool
  | .nan _ => true
  | _ => false

/-! ## Rounding (R54, R56 to R59, R66) -/

/-- The rounding modes of R56, by code. -/
inductive RMode where
  | rne | rtz | rup | rdn | rsr
  deriving DecidableEq, Repr

/-- The mode of a code 0 to 4. -/
def rmodeOf : Nat → Option RMode
  | 0 => some .rne | 1 => some .rtz | 2 => some .rup | 3 => some .rdn | 4 => some .rsr | _ => none

/-- ⌊log2(n / d)⌋ of a positive quotient. -/
def ilog2 (n d : Nat) : Int :=
  let a : Int := (Nat.log2 n : Int) - Nat.log2 d
  if a < 0 then (if d ≤ n * 2 ^ (-a).toNat then a else a - 1)
  else (if d * 2 ^ a.toNat ≤ n then a else a - 1)

/-- The magnitude n / d on the grid of unit 2^u: the units below it, the 16 bits that follow, the comparison of the rest with half
a unit, and whether there is a rest. -/
def onGrid (n d : Nat) (u : Int) : Nat × Nat × Ordering × Bool :=
  let n' := if u < 0 then n * 2 ^ (-u).toNat else n
  let d' := if u < 0 then d else d * 2 ^ u.toNat
  let t := n' / d'
  let r := n' % d'
  (t, r * 2 ^ 16 / d', compare (2 * r) d', r != 0)

/-- Whether the units are rounded up (R56, R59). `r16` is the random number of `rsr`. -/
def roundsUp (m : RMode) (neg : Bool) (r16 : Nat) (t d16 : Nat) (half : Ordering) (rest : Bool) : Bool :=
  match m with
  | .rne => half == .gt || (half == .eq && t % 2 == 1)
  | .rtz => false
  | .rup => rest && !neg
  | .rdn => rest && neg
  | .rsr => 2 ^ 16 ≤ d16 + r16

/-- Rounds a magnitude to units of 2^u. -/
def roundUnits (m : RMode) (neg : Bool) (r16 n d : Nat) (u : Int) : Nat × Bool :=
  let (t, d16, half, rest) := onGrid n d u
  (if roundsUp m neg r16 t d16 half rest then t + 1 else t, rest)

/-- What a magnitude past the largest finite value becomes (R58, R66). -/
def overflowBits (f : FFmt) (m : RMode) (neg sat : Bool) : Nat :=
  let toMax := sat || m == .rtz || (m == .rup && neg) || (m == .rdn && !neg)
  if toMax then f.sign neg + f.maxBits
  else if f == .e4m3 then f.nan else f.sign neg + f.infBits

/-- ROUND of the magnitude n / d with a sign (R79): the bits and the flags. A zero magnitude gives the signed zero. -/
def roundMag (f : FFmt) (m : RMode) (sat : Bool) (r16 : Nat) (neg : Bool) (n d : Nat) : Nat × Nat :=
  if n == 0 then (f.sign neg, 0)
  else
    let e := ilog2 n d
    let u := max (e - f.frac) f.emin
    let (k, rest) := roundUnits m neg r16 n d u
    let mag := (u - f.emin).toNat * 2 ^ f.frac + k
    if f.maxBits < mag then (overflowBits f m neg sat, fOF ||| fNX)
    else
      let uu := e - f.frac
      let (ku, _) := roundUnits m neg r16 n d uu
      let tiny := ku != 0 && (if ku == 2 ^ (f.frac + 1) then uu + 1 else uu) < f.emin
      (f.sign neg + mag, if rest then (if tiny then fUF ||| fNX else fNX) else 0)

/-- ROUND of m × 2^e with a sign. -/
def roundFin (f : FFmt) (mode : RMode) (sat : Bool) (r16 : Nat) (neg : Bool) (m : Nat) (e : Int) : Nat × Nat :=
  if e < 0 then roundMag f mode sat r16 neg m (2 ^ (-e).toNat) else roundMag f mode sat r16 neg (m * 2 ^ e.toNat) 1

/-- RNE_F32 of a signed rational, +0 when it is 0 (R79). -/
def rneF32 (n : Int) (d : Nat) : Nat × Nat := roundMag .f32 .rne false 0 (n < 0) n.natAbs d

/-! ## Arithmetic (R53, R55) -/

/-- A finite value as a signed number of units 2^e. -/
def signed (neg : Bool) (m : Nat) : Int := if neg then -(m : Int) else m

/-- The exact sum of two finite values as n × 2^e. -/
def exactSum (n1 : Int) (e1 : Int) (n2 : Int) (e2 : Int) : Int × Int :=
  let e := min e1 e2
  (n1 * 2 ^ (e1 - e).toNat + n2 * 2 ^ (e2 - e).toNat, e)

/-- The sign of an exact zero sum of two terms: their common sign, else + but in `rdn` (R55). -/
def zeroSign (m : RMode) (neg1 neg2 : Bool) : Bool := if neg1 == neg2 then neg1 else m == .rdn

/-- A product, before rounding: a NaN with NV, an infinity, or an exact value (R55). -/
inductive Prod where
  | nan (flags : Nat)
  | inf (neg : Bool)
  | fin (neg : Bool) (m : Nat) (e : Int)
  deriving DecidableEq, Repr

/-- The product of two values. -/
def mulV (x y : FVal) : Prod :=
  match x, y with
  | .nan _, _ | _, .nan _ => .nan (x.snan ||| y.snan)
  | .inf a, .inf b => .inf (a != b)
  | .inf a, .fin b m _ => if m == 0 then .nan fNV else .inf (a != b)
  | .fin a m _, .inf b => if m == 0 then .nan fNV else .inf (a != b)
  | .fin a m e, .fin b n g => .fin (a != b) (m * n) (e + g)

/-- A product with its sign inverted. -/
def Prod.negate : Prod → Prod
  | .nan f => .nan f
  | .inf n => .inf !n
  | .fin n m e => .fin (!n) m e

/-- A value as a product by one. -/
def FVal.toProd : FVal → Prod
  | .nan s => .nan (if s then fNV else 0)
  | .inf n => .inf n
  | .fin n m e => .fin n m e

/-- The sum of two products, scaled by 2^k and rounded once (R55, R181). -/
def addProd (f : FFmt) (m : RMode) (r16 : Nat) (k : Int) (x y : Prod) : Nat × Nat :=
  match x, y with
  | .nan a, .nan b => (f.nan, a ||| b)
  | .nan a, _ => (f.nan, a)
  | _, .nan b => (f.nan, b)
  | .inf a, .inf b => if a == b then (f.sign a + f.infBits, 0) else (f.nan, fNV)
  | .inf a, .fin _ _ _ => (f.sign a + f.infBits, 0)
  | .fin _ _ _, .inf b => (f.sign b + f.infBits, 0)
  | .fin a p e, .fin b q g =>
    let (n, h) := exactSum (signed a p) e (signed b q) g
    if n == 0 then (f.sign (zeroSign m a b), 0) else roundFin f m false r16 (n < 0) n.natAbs (h + k)

/-- a + b (R55). -/
def fadd (f : FFmt) (m : RMode) (r16 : Nat) (a b : Nat) : Nat × Nat := addProd f m r16 0 (decF f a).toProd (decF f b).toProd

/-- a − b (R55). -/
def fsub (f : FFmt) (m : RMode) (r16 : Nat) (a b : Nat) : Nat × Nat :=
  addProd f m r16 0 (decF f a).toProd (decF f b).toProd.negate

/-- a × b (R55). -/
def fmul (f : FFmt) (m : RMode) (r16 : Nat) (a b : Nat) : Nat × Nat :=
  match mulV (decF f a) (decF f b) with
  | .nan g => (f.nan, g)
  | .inf n => (f.sign n + f.infBits, 0)
  | .fin n p e => roundFin f m false r16 n p e

/-- ±(a × b) + c, rounded once (R55, R170). A signalling `c` sets NV as well. -/
def ffma (f : FFmt) (m : RMode) (neg : Bool) (r16 : Nat) (a b c : Nat) : Nat × Nat :=
  let p := mulV (decF f a) (decF f b)
  addProd f m r16 0 (if neg then p.negate else p) (decF f c).toProd

/-! ## Compares, minimum and maximum (R63) -/

/-- The order of two values that are no NaN; −0 equals +0. -/
def compareV (x y : FVal) : Ordering :=
  match x, y with
  | .inf a, .inf b => if a == b then .eq else if a then .lt else .gt
  | .inf a, _ => if a then .lt else .gt
  | _, .inf b => if b then .gt else .lt
  | .fin a m e, .fin b n g =>
    let (d, _) := exactSum (signed a m) e (-(signed b n)) g
    if d < 0 then .lt else if 0 < d then .gt else .eq
  | _, _ => .eq

/-- The sign of a value. -/
def FVal.neg : FVal → Bool
  | .nan _ => false
  | .inf n => n
  | .fin n _ _ => n

/-- Minimum or maximum by R63: −0 below +0, a single NaN ignored. -/
def fminmax (f : FFmt) (max? : Bool) (a b : Nat) : Nat × Nat :=
  let x := decF f a
  let y := decF f b
  let g := x.snan ||| y.snan
  if x.isNan && y.isNan then (f.nan, g)
  else if x.isNan then (b, g)
  else if y.isNan then (a, g)
  else
    let less := match compareV x y with
      | .lt => true
      | .gt => false
      | .eq => x.neg && !y.neg
    (if less == max? then b else a, g)

/-! ## Conversions (R64 to R67) -/

/-- A floating-point value into a floating-point format (R64, R66). -/
def cvtF (src dst : FFmt) (m : RMode) (sat : Bool) (r16 : Nat) (b : Nat) : Nat × Nat :=
  match decF src b with
  | .nan s => (dst.nan, if s then fNV else 0)
  | .inf n =>
    if sat then (dst.sign n + dst.maxBits, fNX)
    else if dst == .e4m3 then (dst.nan, fNV) else (dst.sign n + dst.infBits, 0)
  | .fin n k e => roundFin dst m sat r16 n k e

/-- An integer into a floating-point format (R65). -/
def cvtIF (dst : FFmt) (m : RMode) (sat : Bool) (r16 : Nat) (x : Int) : Nat × Nat :=
  roundMag dst m sat r16 (x < 0) x.natAbs 1

/-- SAT (R79). -/
def satInt (x lo hi : Int) : Int := if x < lo then lo else if hi < x then hi else x

/-- A floating-point value into an integer range (R67). -/
def cvtFI (src : FFmt) (m : RMode) (r16 : Nat) (lo hi : Int) (b : Nat) : Int × Nat :=
  match decF src b with
  | .nan _ => (0, fNV)
  | .inf n => (if n then lo else hi, fNV)
  | .fin n k e =>
    let num := if e < 0 then k else k * 2 ^ e.toNat
    let den := if e < 0 then 2 ^ (-e).toNat else 1
    let (t, rest) := roundUnits m n r16 num den 0
    let v := signed n t
    if v < lo || hi < v then (satInt v lo hi, fNV) else (v, if rest then fNX else 0)

/-! ## Stochastic rounding's register (R59, R60) -/

/-- LFSR_STEP (R59). -/
def lfsrStep (x : Word) : Word := if bit x 0 then (x >>> 1) ^^^ 0xD800000000000000 else x >>> 1

/-- The states after each of `n` steps. -/
def lfsrStates : Nat → Word → List Word
  | 0, _ => []
  | n + 1, x => lfsrStep x :: lfsrStates n (lfsrStep x)

/-- The random number that a state gives (R59). -/
def lfsrRandom (x : Word) : Nat := bits x 15 0

end Sys2Proof.Machine
end

