-- ==== Sys2Proof/Machine/Lanes.lean ====
section
/-! DEFINITION. Lanes of a vector register and what `vp` computes in them (spec/06_vector_ops.md R158, R161, R170 to R181;
spec/02_numbers.md R51, R65, R68, R69). A lane is the number its bits stand for. -/

set_option autoImplicit false
set_option Elab.async false

namespace Sys2Proof.Machine

/-! ## Lanes (R158) -/

/-- Bits per element of a format code below 16 (R77). -/
def formatBits (f : Nat) : Nat :=
  match f with
  | 0 | 1 | 2 | 9 | 10 => 8
  | 3 | 6 | 7 => 16
  | 4 | 8 => 32
  | 5 => 64
  | 11 | 12 | 13 => 4
  | 14 => 1
  | 15 => 2
  | _ => 0

/-- The tag of a fat pointer that no access may use: a format code of 16 or above, or CQ4 in blocks of another length than 64 (R77, R78). -/
def pointerBad (p : Word) : Bool := bit p 63 || (bits p 63 59 == 13 && bits p 58 56 != 3)

/-- Lane count of a lane format. -/
def laneCount (f : Nat) : Nat := 256 / formatBits f

/-- The `n` fields of `w` bits of a number, lowest first. -/
def fieldsOf (w n x : Nat) : List Nat := (List.range n).map fun i => x / 2 ^ (w * i) % 2 ^ w

/-- The number that fields of `w` bits make. -/
def packFields (w : Nat) (ls : List Nat) : Nat := ls.foldr (fun x acc => x % 2 ^ w + 2 ^ w * acc) 0

/-- The lanes of a register in format `f`. -/
def lanes (f : Nat) (v : VWord) : List Nat := fieldsOf (formatBits f) (laneCount f) v.toNat

/-- The register that lanes of format `f` make. -/
def ofLanes (f : Nat) (ls : List Nat) : VWord := BitVec.ofNat 256 (packFields (formatBits f) ls)

/-- A format code of an integer lane (R158). -/
def isIntFmt (f : Nat) : Bool := 1 ≤ f && f ≤ 5

/-- The signed reading of `w` bits. -/
def signedOf (w x : Nat) : Int := if 2 * x < 2 ^ w then x else (x : Int) - (2 ^ w : Nat)

/-- The low `w` bits of an integer. -/
def wrapTo (w : Nat) (x : Int) : Nat := (x % (2 ^ w : Nat)).toNat

/-- An integer format without sign: UINT8, UINT4, BIT1 (R77). -/
def isUnsignedFmt (f : Nat) : Bool := f == 2 || f == 12 || f == 14

/-- The value of an element of an integer format (R158). -/
def intValue (f x : Nat) : Int := if isUnsignedFmt f then x else signedOf (formatBits f) x

/-- The least and greatest value of an integer format. -/
def intRange (f : Nat) : Int × Int :=
  let w := formatBits f
  if isUnsignedFmt f then (0, (2 ^ w : Nat) - 1) else (-(2 ^ (w - 1) : Nat), (2 ^ (w - 1) : Nat) - 1)

/-- An exact integer into an integer format, wrapping or saturating (R65). -/
def intResult (f : Nat) (sat : Bool) (x : Int) : Nat :=
  let (lo, hi) := intRange f
  wrapTo (formatBits f) (if sat then satInt x lo hi else x)

/-- What one lane comes to: its bits and the flags it sets. -/
abbrev Lane := Nat × Nat

/-- Latches and control word as a computing operation copies them (R162), its rounding mode, and the random numbers of its
roundings, zero in every mode but `rsr` (R60). -/
structure VIn where
  a : VWord
  b : VWord
  c : VWord
  ctl : Word
  mode : RMode
  rnd : List Nat
  deriving DecidableEq, Repr

/-- The results of a vector operation. -/
structure VOut where
  q : VWord
  q2 : Word
  flags : Nat
  deriving DecidableEq, Repr

/-- FMT of the control word. -/
def VIn.fmt (i : VIn) : Nat := bits i.ctl 4 0
/-- M of the control word. -/
def VIn.masked (i : VIn) : Bool := bit i.ctl 8
/-- SAT of the control word. -/
def VIn.sat (i : VIn) : Bool := bit i.ctl 9
/-- FMT2 of the control word. -/
def VIn.fmt2 (i : VIn) : Nat := bits i.ctl 20 16
/-- LANE of the control word. -/
def VIn.lane (i : VIn) : Nat := bits i.ctl 29 24
/-- The random number of the `n`-th rounding. -/
def VIn.random (i : VIn) (n : Nat) : Nat := i.rnd.getD n 0

/-- Results that leave `q2` zero (R156). -/
def vq (q : VWord) (flags : Nat) : VOut := ⟨q, 0, flags⟩

/-! ## Lane by lane (R161, R170, R173) -/

/-- The active lanes of a mask (R161). -/
def activeLanes (f : Nat) (c : VWord) : List Bool := (lanes f c).map fun x => x / 2 ^ (formatBits f - 1) == 1

/-- Lane `i` of `a`, `b` and `c` gives lane `i` of the result; under M an inactive lane keeps lane `i` of `a` and sets no
flag (R161). -/
def laneWise (op : VIn → Nat → Nat → Nat → Nat → Lane) (i : VIn) : VOut :=
  let f := i.fmt
  let as := lanes f i.a
  let bs := lanes f i.b
  let cs := lanes f i.c
  let act := activeLanes f i.c
  let out := as.mapIdx fun n x =>
    if i.masked && !act.getD n false then (x, 0) else op i (i.random n) x (bs.getD n 0) (cs.getD n 0)
  vq (ofLanes f (out.map (·.1))) (joinFlags (out.map (·.2)))

/-- An operation with an integer and a floating-point meaning (R170). -/
def byKind (int : VIn → Nat → Nat → Nat) (flt : FFmt → VIn → Nat → Nat → Nat → Nat → Lane) (i : VIn) (r a b c : Nat) : Lane :=
  match ffmtOf i.fmt with
  | some f => flt f i r a b c
  | none => (int i a b, 0)

/-- An integer lane operation on the values of its lanes (R170). -/
def intOp (g : Int → Int → Int) (i : VIn) (a b : Nat) : Nat := intResult i.fmt i.sat (g (intValue i.fmt a) (intValue i.fmt b))

/-- `add`. -/
def vAdd : VIn → VOut := laneWise (byKind (intOp fun a b => a + b) fun f i r a b _ => fadd f i.mode r a b)
/-- `sub`. -/
def vSub : VIn → VOut := laneWise (byKind (intOp fun a b => a - b) fun f i r a b _ => fsub f i.mode r a b)
/-- `mul`. -/
def vMul : VIn → VOut := laneWise (byKind (intOp fun a b => a * b) fun f i r a b _ => fmul f i.mode r a b)
/-- `fma`. -/
def vFma : VIn → VOut := laneWise (byKind (fun _ a _ => a) fun f i r a b c => ffma f i.mode false r a b c)
/-- `fnma`. -/
def vFnma : VIn → VOut := laneWise (byKind (fun _ a _ => a) fun f i r a b c => ffma f i.mode true r a b c)
/-- `min`. -/
def vMin : VIn → VOut := laneWise (byKind (intOp min) fun f _ _ a b _ => fminmax f false a b)
/-- `max`. -/
def vMax : VIn → VOut := laneWise (byKind (intOp max) fun f _ _ a b _ => fminmax f true a b)
/-- `minu`. -/
def vMinu : VIn → VOut := laneWise fun _ _ a b _ => (min a b, 0)
/-- `maxu`. -/
def vMaxu : VIn → VOut := laneWise fun _ _ a b _ => (max a b, 0)
/-- `abs`. -/
def vAbs : VIn → VOut := laneWise (byKind (intOp fun a _ => a.natAbs) fun f _ _ a _ _ => (a % 2 ^ (f.width - 1), 0))
/-- `neg`. -/
def vNeg : VIn → VOut := laneWise (byKind (intOp fun a _ => 0 - a) fun f _ _ a _ _ => (a ^^^ 2 ^ (f.width - 1), 0))
/-- `and`. -/
def vAnd : VIn → VOut := laneWise fun _ _ a b _ => (a &&& b, 0)
/-- `or`. -/
def vOr : VIn → VOut := laneWise fun _ _ a b _ => (a ||| b, 0)
/-- `xor`. -/
def vXor : VIn → VOut := laneWise fun _ _ a b _ => (a ^^^ b, 0)
/-- `andn`. -/
def vAndn : VIn → VOut := laneWise fun i _ a b _ => (a &&& (2 ^ formatBits i.fmt - 1 - b), 0)
/-- `sll`. -/
def vSll : VIn → VOut := laneWise fun i _ a b _ => (a * 2 ^ (b % formatBits i.fmt) % 2 ^ formatBits i.fmt, 0)
/-- `srl`. -/
def vSrl : VIn → VOut := laneWise fun i _ a b _ => (a / 2 ^ (b % formatBits i.fmt), 0)
/-- `sra`. -/
def vSra : VIn → VOut := laneWise fun i _ a b _ =>
  let w := formatBits i.fmt
  (wrapTo w (signedOf w a / (2 ^ (b % w) : Nat)), 0)
/-- `sel` (R172): `c` chooses between `a` and `b`. -/
def vSel (i : VIn) : VOut :=
  let act := activeLanes i.fmt i.c
  let bs := lanes i.fmt i.b
  vq (ofLanes i.fmt ((lanes i.fmt i.a).mapIdx fun n x => if act.getD n false then x else bs.getD n 0)) 0

/-! ## Compares (R63, R171) -/

/-- The conditions of the compares. -/
inductive VCond where
  | eq | ne | lt | le
  deriving DecidableEq, Repr

/-- Whether a condition holds of an order; no order is unordered (R63). -/
def VCond.holds (k : VCond) : Option Ordering → Bool
  | some o => match k with
    | .eq => o == .eq
    | .ne => o != .eq
    | .lt => o == .lt
    | .le => o != .gt
  | none => k == .ne

/-- A compare in one lane: its truth and its flags. -/
def compareLane (k : VCond) (unsigned : Bool) (fmt a b : Nat) : Bool × Nat :=
  match ffmtOf fmt with
  | some f =>
    let x := decF f a
    let y := decF f b
    let un := x.isNan || y.isNan
    (k.holds (if un then none else some (compareV x y)),
     if k == .eq || k == .ne then x.snan ||| y.snan else if un then fNV else 0)
  | none =>
    let x := if unsigned then (a : Int) else intValue fmt a
    let y := if unsigned then (b : Int) else intValue fmt b
    (k.holds (some (compare x y)), 0)

/-- A compare: true lanes all ones, and the mask in `q2` (R171). -/
def vCompare (k : VCond) (unsigned : Bool) (i : VIn) : VOut :=
  let f := i.fmt
  let bs := lanes f i.b
  let out := (lanes f i.a).mapIdx fun n x => compareLane k unsigned f x (bs.getD n 0)
  ⟨ofLanes f (out.map fun r => if r.1 then 2 ^ formatBits f - 1 else 0), w64 (packFields 1 (out.map fun r => r.1.toNat)),
    joinFlags (out.map (·.2))⟩

/-! ## Conversions (R64 to R67, R174) -/

/-- One element from format `f` into format `g`. -/
def convert (f g : Nat) (m : RMode) (sat : Bool) (r16 x : Nat) : Lane :=
  match ffmtOf f, ffmtOf g with
  | some a, some b => cvtF a b m sat r16 x
  | none, some b => cvtIF b m sat r16 (intValue f x)
  | some a, none =>
    let (lo, hi) := intRange g
    let (v, fl) := cvtFI a m r16 lo hi x
    (wrapTo (formatBits g) v, fl)
  | none, none => (intResult g sat (intValue f x), 0)

/-- Number of elements that `cvt` converts. -/
def cvtCount (f g : Nat) : Nat := min (laneCount f) (laneCount g)

/-- `cvt` (R174). -/
def vCvt (sat : Bool) (i : VIn) : VOut :=
  let f := i.fmt
  let g := i.fmt2
  let n := cvtCount f g
  let src := if laneCount g < laneCount f then i.lane * n else 0
  let dst := if laneCount f < laneCount g then i.lane * n else 0
  let out := ((((lanes f i.a).drop src).take n).mapIdx fun k x => convert f g i.mode sat (i.random k) x)
  vq (ofLanes g (List.replicate dst 0 ++ out.map (·.1))) (joinFlags (out.map (·.2)))

/-! ## Reductions, permutes and lanes (R175 to R177) -/

/-- A lane extended to 64 bits (R175). -/
def extendLane (f : Nat) (unsigned : Bool) (x : Nat) : Word :=
  if isIntFmt f && !unsigned && f != 2 then sext x (formatBits f) else w64 x

/-- A scalar in both results (R175). -/
def vScalar (w : Word) (flags : Nat) : VOut := ⟨w.setWidth 256, w, flags⟩

/-- Folds the lanes of `a` in ascending order; step `n` gets the `n`-th random number (R175). -/
def vReduce (unsigned : Bool) (op : VIn → Nat → Nat → Nat → Lane) (i : VIn) : VOut :=
  match lanes i.fmt i.a with
  | [] => vScalar 0 0
  | x :: xs =>
    let (v, fl, _) := xs.foldl (fun (acc : Nat × Nat × Nat) y =>
      let (r, g) := op i (i.random acc.2.2) acc.1 y
      (r, acc.2.1 ||| g, acc.2.2 + 1)) (x, 0, 0)
    vScalar (extendLane i.fmt unsigned v) fl

/-- One step of `radd`. -/
def raddStep (i : VIn) (r a b : Nat) : Lane :=
  match ffmtOf i.fmt with
  | some f => fadd f i.mode r a b
  | none => ((a + b) % 2 ^ formatBits i.fmt, 0)

/-- One step of `rmin` or `rmax`. -/
def rminmaxStep (max? : Bool) (i : VIn) (_ a b : Nat) : Lane :=
  match ffmtOf i.fmt with
  | some f => fminmax f max? a b
  | none => (if decide (intValue i.fmt a < intValue i.fmt b) == max? then b else a, 0)

/-- `radd`. -/
def vRadd : VIn → VOut := vReduce false raddStep
/-- `rmin`. -/
def vRmin : VIn → VOut := vReduce false (rminmaxStep false)
/-- `rmax`. -/
def vRmax : VIn → VOut := vReduce false (rminmaxStep true)
/-- `rminu`. -/
def vRminu : VIn → VOut := vReduce true fun _ _ a b => (min a b, 0)
/-- `rmaxu`. -/
def vRmaxu : VIn → VOut := vReduce true fun _ _ a b => (max a b, 0)

/-- Lanes chosen by number from a list of lanes (R176). -/
def vPick (i : VIn) (from_ : List Nat) (at_ : Nat → Nat → Nat) : VOut :=
  vq (ofLanes i.fmt ((lanes i.fmt i.b).mapIdx fun n b => from_.getD (at_ n b) 0)) 0

/-- `perm`. -/
def vPerm (i : VIn) : VOut := vPick i (lanes i.fmt i.a) fun _ b => b % laneCount i.fmt
/-- `shuf`. -/
def vShuf (i : VIn) : VOut := vPick i (lanes i.fmt i.a ++ lanes i.fmt i.c) fun _ b => b % (2 * laneCount i.fmt)
/-- `ziplo` and `ziphi`: where `off` lanes are passed over. -/
def vZip (high : Bool) (i : VIn) : VOut :=
  let l := laneCount i.fmt
  vPick i (lanes i.fmt i.a ++ lanes i.fmt i.b) fun n _ => (if high then l / 2 else 0) + n / 2 + n % 2 * l
/-- `unzipe` and `unzipo`. -/
def vUnzip (odd : Bool) (i : VIn) : VOut :=
  vPick i (lanes i.fmt i.a ++ lanes i.fmt i.b) fun n _ => 2 * n + odd.toNat

/-- `ext` (R177). -/
def vExt (i : VIn) : VOut := vScalar (extendLane i.fmt false ((lanes i.fmt i.a).getD i.lane 0)) 0
/-- `ins`. -/
def vIns (i : VIn) : VOut :=
  vq (ofLanes i.fmt ((lanes i.fmt i.a).set i.lane (i.b.toNat % 2 ^ formatBits i.fmt))) 0
/-- `bcast`. -/
def vBcast (i : VIn) : VOut :=
  vq (ofLanes i.fmt (List.replicate (laneCount i.fmt) (i.a.toNat % 2 ^ formatBits i.fmt))) 0

/-! ## Products and CQ4 (R68, R69, R178, R179) -/

/-- `dot8`, `dot8u` and `dot8su`. -/
def vDot8 (signedA signedB : Bool) (i : VIn) : VOut :=
  let rd := fun (s : Bool) (x : Nat) => if s then signedOf 8 x else (x : Int)
  let as := lanes 1 i.a
  let bs := lanes 1 i.b
  vq (ofLanes 4 ((lanes 4 i.c).mapIdx fun j c =>
    intResult 4 i.sat ((List.range 4).foldl (fun acc k =>
      acc + rd signedA (as.getD (4 * j + k) 0) * rd signedB (bs.getD (4 * j + k) 0)) (signedOf 32 c)))) 0

/-- The codebook of CQ4 (R68). -/
def cq4Code (c : Nat) : Int :=
  [0, 90, 184, 282, 388, 508, 652, 824, 1024, -100, -202, -308, -424, -560, -736, -1024].getD c 0

/-- x × 2^e × S rounded to F32 as an exact real, +0 where it is 0 (R69, R73, R79); special operands by R55. -/
def scaleF32 (x : FVal) (e : Int) (sup : Nat) : Lane :=
  match mulV x (decF .f32 sup) with
  | .nan g => (FFmt.f32.nan, g)
  | .inf s => (FFmt.f32.sign s + FFmt.f32.infBits, 0)
  | .fin s m e' => if m == 0 then (0, 0) else roundFin .f32 .rne false 0 s m (e' + e)

/-- An integer as a value. -/
def intVal (x : Int) : FVal := .fin (x < 0) x.natAbs 0

/-- `dq` (R179). -/
def vDq (i : VIn) : VOut :=
  let codes := fieldsOf 4 64 i.a.toNat
  let scale := i.b.toNat % 256
  let sup := i.b.toNat / 2 ^ 32 % 2 ^ 32
  let out := (List.range 8).map fun k => scaleF32 (intVal (cq4Code (codes.getD (8 * i.lane + k) 0) * scale)) (-18) sup
  vq (ofLanes 8 (out.map (·.1))) (joinFlags (out.map (·.2)))

/-! ## Functions (R180, R181) -/

/-- 2^(1/2), 2^(1/4), ... in units of 2^-100, rounded down, `n` of them. -/
def rootsOfTwo : Nat → Nat → List Nat
  | 0, _ => []
  | n + 1, x =>
    let r := Nat.sqrt (x * 2 ^ 100)
    r :: rootsOfTwo n r

/-- 2^(f / 2^17) in units of 2^-100, for a fraction f below 2^17, to within 2^-90: the product of the roots that f's bits
choose. -/
def exp2Frac (f : Nat) : Nat :=
  ((rootsOfTwo 17 (2 ^ 101)).zip (List.range 17)).foldl (fun acc p =>
    if f / 2 ^ (16 - p.2) % 2 == 1 then acc * p.1 / 2 ^ 100 else acc) (2 ^ 100)

/-- 2^x of a finite BF16 value as an exact real, or, x being no integer, as a real on the same side of every rounding boundary of
BF16 (R180). -/
def exp2Real (neg : Bool) (m : Nat) (e : Int) : Nat × Int :=
  let n : Nat := if e < 0 then m * 2 ^ 17 / 2 ^ (-e).toNat else m * 2 ^ 17 * 2 ^ e.toNat
  if m == 0 then (1, 0)
  else if n < 2 ^ 7 then (if neg then 2 ^ 40 - 1 else 2 ^ 40 + 1, -40)
  else if 2 ^ 25 ≤ n then (1, if neg then -256 else 256)
  else
    let x : Int := signed neg n
    let k := x / 2 ^ 17
    let f := (x % 2 ^ 17).toNat
    if f == 0 then (1, k) else (exp2Frac f, k - 100)

/-- `n` binary places of log2 of x / 2^160 in [1, 2), by repeated squaring. -/
def log2Places : Nat → Nat → Nat
  | 0, _ => 0
  | n + 1, x =>
    let y := x * x / 2 ^ 160
    if 2 ^ 161 ≤ y then 2 ^ n + log2Places n (y / 2) else log2Places n y

/-- log2 of the finite positive value m × 2^e, in units of 2^-61: exact for a power of two, else half a unit of 2^-60 above the
places computed, which no rounding boundary of BF16 separates from it. -/
def log2Real (m : Nat) (e : Int) : Int :=
  let k := Nat.log2 m
  let whole : Int := (e + k) * 2 ^ 61
  if m == 2 ^ k then whole else whole + 2 * (log2Places 60 (m * 2 ^ 160 / 2 ^ k) : Nat) + 1

/-- The square root of n × 2^e' rounded down with a sticky half unit, for 1 / √(m × 2^e): numerator over 2^k. -/
def rsqrtReal (m : Nat) (e : Int) : Nat × Int :=
  let odd := e % 2 == 1
  let m' := if odd then 2 * m else m
  let e' := if odd then e - 1 else e
  let q := Nat.sqrt (2 ^ 200 / m')
  if q * q * m' == 2 ^ 200 then (2 * q, -e' / 2 - 101) else (2 * q + 1, -e' / 2 - 101)

/-- `exp2` in BF16. -/
def exp2Lane (i : VIn) (_ a _ _ : Nat) : Lane :=
  match decF .bf16 a with
  | .nan s => (FFmt.bf16.nan, if s then fNV else 0)
  | .inf n => (if n then 0 else FFmt.bf16.infBits, 0)
  | .fin n m e => let (k, g) := exp2Real n m e; roundFin .bf16 i.mode false 0 false k g

/-- `log2` in BF16. -/
def log2Lane (i : VIn) (_ a _ _ : Nat) : Lane :=
  match decF .bf16 a with
  | .nan s => (FFmt.bf16.nan, if s then fNV else 0)
  | .inf n => if n then (FFmt.bf16.nan, fNV) else (FFmt.bf16.infBits, 0)
  | .fin n m e =>
    if m == 0 then (FFmt.bf16.sign true + FFmt.bf16.infBits, fDZ)
    else if n then (FFmt.bf16.nan, fNV)
    else
      let v := log2Real m e
      roundFin .bf16 i.mode false 0 (v < 0) v.natAbs (-61)

/-- The F32 estimate of a positive magnitude n / d: 8 significant bits by `rne`, or the subnormal grid where it is coarser
(R180). R180 names NX alone: UF is judged on the rounding to 8 bits, as R54 judges it on the destination's precision (DESIGN CHOICE, log 124). -/
def estimate (neg : Bool) (n d : Nat) : Lane :=
  let e := ilog2 n d
  let (k, rest) := roundUnits .rne neg 0 n d (max (e - 7) FFmt.f32.emin)
  let u := max (e - 7) FFmt.f32.emin
  let (b, g) := roundFin .f32 .rne false 0 neg k u
  let (ku, _) := roundUnits .rne neg 0 n d (e - 7)
  let tiny := ku != 0 && (if ku == 2 ^ 8 then e + 1 else e) < -126
  (b, if rest then g ||| fNX ||| (if tiny then fUF else 0) else g)

/-- A magnitude as BF16 by the mode, or as an F32 estimate (R180). -/
def functionResult (f : FFmt) (m : RMode) (neg : Bool) (n : Nat) (e : Int) (d : Nat) : Lane :=
  let n' := if e < 0 then n else n * 2 ^ e.toNat
  let d' := if e < 0 then d * 2 ^ (-e).toNat else d
  if f == .f32 then estimate neg n' d' else roundMag f m false 0 neg n' d'

/-- `rcp`. -/
def rcpLane (i : VIn) (_ a _ _ : Nat) : Lane :=
  let f := (ffmtOf i.fmt).getD .f32
  match decF f a with
  | .nan s => (f.nan, if s then fNV else 0)
  | .inf n => (f.sign n, 0)
  | .fin n m e => if m == 0 then (f.sign n + f.infBits, fDZ) else functionResult f i.mode n 1 (-e) m

/-- `rsqrt`. -/
def rsqrtLane (i : VIn) (_ a _ _ : Nat) : Lane :=
  let f := (ffmtOf i.fmt).getD .f32
  match decF f a with
  | .nan s => (f.nan, if s then fNV else 0)
  | .inf n => if n then (f.nan, fNV) else (0, 0)
  | .fin n m e =>
    if m == 0 then (f.sign n + f.infBits, fDZ)
    else if n then (f.nan, fNV)
    else let (k, g) := rsqrtReal m e; functionResult f i.mode false k g 1

/-- `nrcp` and `nrsq` (R181): c − a × b, halved or not, rounded once. -/
def newtonLane (c : Nat) (half : Bool) (i : VIn) (r a b _ : Nat) : Lane :=
  let f := (ffmtOf i.fmt).getD .f32
  addProd f i.mode r (if half then -1 else 0) (.fin false c 0) (mulV (decF f a) (decF f b)).negate

/-- `exp2`. -/
def vExp2 : VIn → VOut := laneWise exp2Lane
/-- `log2`. -/
def vLog2 : VIn → VOut := laneWise log2Lane
/-- `rcp`. -/
def vRcp : VIn → VOut := laneWise rcpLane
/-- `rsqrt`. -/
def vRsqrt : VIn → VOut := laneWise rsqrtLane
/-- `nrcp`. -/
def vNrcp : VIn → VOut := laneWise (newtonLane 2 false)
/-- `nrsq`. -/
def vNrsq : VIn → VOut := laneWise (newtonLane 3 true)

end Sys2Proof.Machine
end

