-- ==== Sys2Proof/Config.lean ====
section
/-! DEFINITION. What one device fixes and what the spec leaves open. A constant declared `opaque` has no body: no proof
can see its value, so a statement that mentions one holds for every value of it. -/

set_option autoImplicit false
set_option Elab.async false

namespace Sys2Proof.Config

/-- Silicon revision, DEVID.REV (R406: reset "silicon"); free, see log 6. -/
opaque siliconRev : BitVec 16
/-- SHAKE256 with a 64-byte output (R497, R498); free, see log 5. -/
opaque shake256 : List Byte → List Byte
/-- The 57-byte seed fused at manufacture (R500); free, see log 5. -/
opaque identitySeed : List Byte
/-- The Ed448 public key of a private key (R500); free, see log 5. -/
opaque ed448Public : List Byte → List Byte
/-- Ed448 signature of a message under a private key (R500); free, see log 5. -/
opaque ed448Sign : List Byte → List Byte → List Byte
/-- Ed448 verification: key selector's public key, message digest, signature (R497, R498); free, see log 5. -/
opaque ed448Verify : List Byte → List Byte → List Byte → Bool
/-- The vendor public key in mask ROM (R498); free, see log 5. -/
opaque vendorKey : List Byte
/-- The digest of the recovery image in mask ROM (R498); free, see log 5. -/
opaque recoveryDigest : List Byte
/-- AES-256-XTS of a 16-byte unit: key, unit's physical address (R467); a permutation of the units, free, see log 5. -/
opaque xts : List Byte → Nat → Equiv.Perm (BitVec 128)
/-- AES-256-GCM sealing: key, nonce, plain bytes, giving cipher bytes and tag (R451, R468, R493); free, see log 5. -/
opaque gcmSeal : List Byte → List Byte → List Byte → List Byte
/-- The result of an island's temperature and power sensor at a sample (R505: no reset value); free, see log 6. -/
opaque sensor : Nat → BitVec 31

/-- The firmware version that RESYNC reports (R449: no value given); free, see log 6. -/
opaque firmwareVersion : BitVec 64

/-- A byte read from another device of the domain or through a port that is down: device, address and reference tick
(R471); free, see log 8. -/
opaque remoteByte : Nat → Nat → Nat → Byte

/-- Another device refuses an access to one of its regions: device, region and reference tick (R472); free, see log 8. -/
opaque remoteRefuses : Nat → Nat → Nat → Bool

/-- The AES-256-GCM tag of a key, a nonce and the bytes it covers (R470). -/
opaque flitTag : List Byte → List Byte → List Byte → List Byte

/-- How many flits of a port's replay buffer, oldest first, the peer acknowledges with a flit that arrives at a tick, free: the spec lays out no
acknowledgement (R470, log 121). -/
opaque flitAcked : Nat → Nat → Nat

/-- The flit number from which the peer asks for a replay with a flit that arrives at a port and tick, free: the spec lays out no replay request
(R470, log 121). -/
opaque replayAsked : Nat → Nat → Option Nat

/-- A byte that a unit of the device reads past the last byte of device memory: address and reference tick (R2, R404: no memory is there);
free, see log 76. -/
opaque noMemory : Nat → Nat → Byte

/-- A byte of a leg table entry as the front end leaves it (R440 gives the entry no layout): reference tick, queue and leg, byte;
free, see log 38. -/
opaque legByte : Nat → Nat → Nat → Byte

/-- How many of the earlier writes of its ring a DMA engine's read of a doubleword comes behind: reference tick, engine, HEAD and doubleword
(R421); free, see log 36. -/
opaque readEarly : Nat → Nat → Nat → Nat → Nat

/-- How far a DMA engine gets with a copy in a step, in bytes: reference tick, engine and bytes already written (R420); free, see log 36. -/
opaque dmaStride : Nat → Nat → Nat → Nat

/-- The 4 KiB page of the host that an I/O virtual page under a PASID names at a port (R419, R427); free, see log 89. -/
opaque hostPage : Nat → Nat → Nat → Nat

/-- What ATS and PRI answer for an I/O virtual page under a PASID at a port and a reference tick (R420, R461): 0 mapped, 1 not yet, otherwise
it fails finally; free, see log 89. -/
opaque pri : Nat → Nat → Nat → Nat → Nat

/-- The mode strap of a host port: it trains as CXL (R402: the board decides); free, see log 110. -/
opaque cxlStrap : Nat → Bool

/-- Number of compute dies (R2). -/
def computeDies : Nat := 8
/-- Number of dies with the I/O dies (R2, R399). -/
def dies : Nat := 10
/-- Bytes of device physical memory, 1 TiB (R2, R404). -/
def deviceBytes : Nat := 2 ^ 40

end Sys2Proof.Config
end

