-- ==== Sys2Proof/Machine/Names.lean ====
section
/-! DEFINITION. The names instructions and events speak in: functional units and their ports, the operand map of a
move (spec/03_encoding.md R80, R83, R84), cores (spec/01_transport_core.md R11, R43), and the device's registers
(spec/17 to spec/22). -/

set_option autoImplicit false
set_option Elab.async false

namespace Sys2Proof

/-- The functional units of R13, in the order of their numbers 0 to 13. -/
inductive FU where
  | ia | ib | ag | mu | cf | ls | vp | mx | ch | ks | sy | qm | qs | db
  deriving DecidableEq, Repr

/-- The port numbers of R83: `.a` 0, `.b` 1, `.c` 2, `.t` 3, `.q` 4, `.q2` 5. -/
inductive Port where
  | a | b | c | t | q | q2
  deriving DecidableEq, Repr

/-- A move's source (R83), with the long-immediate words that follow the move (R81). -/
inductive Src where
  | x (n : Fin 32)
  | v (n : Fin 32)
  | o (n : Fin 8)
  | g (n : Fin 4)
  | port (u : FU) (p : Port)
  | imm8 (b : BitVec 8)
  | imm32 (w : BitVec 32)
  | imm64 (w : BitVec 64)
  deriving DecidableEq, Repr

/-- A destination other than a trigger port (R83). -/
inductive Dst where
  | x (n : Fin 32)
  | v (n : Fin 32)
  | o (n : Fin 8)
  | g (n : Fin 4)
  | port (u : FU) (p : Port)
  deriving DecidableEq, Repr

/-- What every move word carries beside its destination and opcode: E, INV, GI and SRC (R80). -/
structure Hdr where
  /-- E: the move is the last of its bundle. -/
  last : Bool
  /-- INV: the move takes effect when its guard is 0. -/
  inv : Bool
  /-- GI: the guard index. -/
  gi : Fin 4
  /-- SRC, with its long-immediate words. -/
  src : Src
  deriving DecidableEq, Repr

/-- The core kinds of R11; their code is `xstat`.ROLE (R39). -/
inductive CoreKind where
  | compute | quay | harbour | lighthouse
  deriving DecidableEq, Repr

/-- A physical core: its kind, its physical die, and its number among its kind on the die
(compute cores: row × 32 + column, R43). -/
structure CoreId where
  kind : CoreKind
  die : Nat
  idx : Nat
  deriving DecidableEq, Repr

/-- Who writes a device register: a host port, a harbour core, or the lighthouse leader (HSEM source codes, R408). -/
inductive RegSource where
  | port (p : Nat)
  /-- A port's 4-byte configuration access to the low or the high half of a register of its capability (R453). -/
  | config (p : Nat) (high : Bool)
  | harbour
  | leader
  deriving DecidableEq, Repr

/-- The device's registers, by the names of their register maps (R386, R406, R408, R410, R417, R418, R424, R428, R444,
R453, R473, R481, R490, R494, R499, R500, R505, R506). -/
inductive Reg where
  | devid | devrst | bootst | bootctl
  | hsem (n : Nat) | hsemcmd | hsemst
  | irqsrc (s : Nat)
  | msixAddr (port vec : Nat) | msixData (port vec : Nat) | msixMask (port vec : Nat) | msixCtl (port : Nat) | aer (port : Nat)
  | udctl | udclr (die : Nat) | udcnt (die i : Nat)
  | iotctl (port : Nat) | iotbase (port : Nat) | iotidx (port : Nat) | ioperr (port : Nat)
  | drbase (die e : Nat) | drcfg (die e : Nat) | drhead (die e : Nat) | drtail (die e : Nat)
  | dmast (die e : Nat) | dmactl (die e : Nat)
  | fepool | feqt | fedump | fetslc | ferh
  | qtail (q : Nat) | qhead (q : Nat) | qst (q : Nat) | qctl (q : Nat)
  | mbcmd (port : Nat) | mbarg (port : Nat) | mbst (port : Nat)
  | astbase | tlbinv | tlbinva | tlbst | prqbase | prqhead | prqtail | prqresp | regcmt | clsceil
  | region (r : Nat) | vfctl (v : Nat) | vfqos (v : Nat)
  | domid | dactb | grpb | drefuse (die : Nat) | lnk (die p : Nat)
  | crbase (die : Nat) | crcfg (die : Nat) | crhead (die : Nat) | crtail (die : Nat) | crst (die : Nat) | crctl (die : Nat)
  | dctl (c : CoreId) | dcmd (c : CoreId) | dstat (c : CoreId) | bp (c : CoreId) (n : Nat) | dsel (c : CoreId)
  | ddata (c : CoreId) | trctl (c : CoreId) | trbase (c : CoreId) | tridx (c : CoreId)
  | dgrp | frzctl | tmctl | tmbase | tmsize | tmidx
  | attcmd | attst | isl (n : Nat) | pcap
  deriving DecidableEq, Repr

/-- Where an inbound host request lands (R404). -/
inductive BarAddr where
  /-- BAR2: device physical address. -/
  | bar2 (a : Nat)
  /-- BAR0: a device register, with the 4-byte half named when the access is 4 bytes. -/
  | bar0 (r : Reg) (half : Option Bool)
  /-- BAR0: UDCTL in the management block of a die, one register seen on every die (R386, R405). -/
  | udctl (die : Nat) (half : Option Bool)
  /-- BAR0: an offset that R405 leaves out. -/
  | bar0Free (off : Nat)
  /-- A BAR0 access that R406 rejects: another size or an unaligned offset. -/
  | bar0Bad (off : Nat)
  /-- BAR4: the MSI-X table, and the pending-bit array from 0x8000 on. -/
  | bar4 (off : Nat)
  /-- A CXL.mem request for a device physical address (R402, R403). -/
  | mem (a : Nat)
  deriving DecidableEq, Repr

/-- A CXL.mem request. -/
def BarAddr.isMem : BarAddr → Bool
  | .mem _ => true
  | _ => false

/-- What another device sends: an access (R472), or a message of the job of a record with its destination word and its sender (R212). -/
inductive RemoteKind where
  | read | write | atomicAdd | cas | swap | aand | aor | amin | amax | aminu | amaxu
  | message (record : Nat) (word : Word) (sender : Nat)
  deriving DecidableEq, Repr

/-- The units that BIST and ECC errors name (R502), a lighthouse, which may fail step 3 of boot (R496), and the data in which an error stands: the save area of a slot (R251), a line of code
(R314), and what the running descriptor of DMA engine `row` reads (R422). -/
inductive UnitKind where
  | computeCore | quayCore | harbourCore | matrixUnit | vectorUnit | hamperBank | hbmChannel | shumbiviaLane | pcieLane
  | islandRegulator | lighthouse | saveArea | codeLine | dmaData
  deriving DecidableEq, Repr

/-- A physical unit (R502): its die, kind, row or index, and column; and, for an error, the SRAM bank or the HBM row group of the unit (R503). -/
structure UnitId where
  die : Nat
  kind : UnitKind
  row : Nat
  col : Nat
  part : Nat
  deriving DecidableEq, Repr

/-- The unit as a whole. -/
def UnitId.whole (u : UnitId) : UnitId := { u with part := 0 }

/-- A BIST failure record's variable parts (R502). -/
structure BistFail where
  where_ : UnitId
  test : Nat
  removed : Bool
  addr : Word
  deriving DecidableEq, Repr

end Sys2Proof
end

