-- ==== Sys2Proof/Machine/Ports.lean ====
section
/-! DEFINITION. Unit numbers, the ports each unit has, and the units each kind of core carries
(spec/01_transport_core.md R11, R13; spec/03_encoding.md R83, R84). -/

set_option autoImplicit false
set_option Elab.async false

namespace Sys2Proof

/-- The unit number of R13. -/
def FU.number : FU → Nat
  | .ia => 0 | .ib => 1 | .ag => 2 | .mu => 3 | .cf => 4 | .ls => 5 | .vp => 6 | .mx => 7 | .ch => 8 | .ks => 9
  | .sy => 10 | .qm => 11 | .qs => 12 | .db => 13

/-- The unit with a given number; numbers 14 and above are not assigned (R83). -/
def FU.ofNumber : Nat → Option FU
  | 0 => some .ia | 1 => some .ib | 2 => some .ag | 3 => some .mu | 4 => some .cf | 5 => some .ls | 6 => some .vp
  | 7 => some .mx | 8 => some .ch | 9 => some .ks | 10 => some .sy | 11 => some .qm | 12 => some .qs | 13 => some .db
  | _ => none

/-- The port number of R83. -/
def Port.number : Port → Nat
  | .a => 0 | .b => 1 | .c => 2 | .t => 3 | .q => 4 | .q2 => 5

/-- The port with a given number; ports 6 and 7 exist in no unit (R83). -/
def Port.ofNumber : Nat → Option Port
  | 0 => some .a | 1 => some .b | 2 => some .c | 3 => some .t | 4 => some .q | 5 => some .q2 | _ => none

/-- The ports each unit has (R13, R84). -/
def FU.hasPort : FU → Port → Bool
  | _, .a | _, .t | _, .q => true
  | u, .b => match u with
    | .ia | .ib | .ag | .ls | .vp | .mx | .ch | .ks | .sy | .qm => true
    | .mu | .cf | .qs | .db => false
  | u, .c => match u with
    | .ls | .vp | .mx | .sy | .qm => true
    | .ia | .ib | .ag | .mu | .cf | .ch | .ks | .qs | .db => false
  | u, .q2 => match u with
    | .ls | .vp | .ch | .sy | .qm => true
    | .ia | .ib | .ag | .mu | .cf | .mx | .ks | .qs | .db => false

/-- The ports a move may read: every port of the unit but the trigger port (R13; operand ports as sources: R95, log 7). -/
def FU.canRead (u : FU) (p : Port) : Bool := u.hasPort p && p != .t

/-- The ports a move may write without triggering: operand ports only (R13, R83). -/
def FU.canWrite (u : FU) (p : Port) : Bool :=
  u.hasPort p && match p with
    | .a | .b | .c => true
    | .t | .q | .q2 => false

/-- Result ports, the ports R19's valid bit guards. -/
def Port.isResult : Port → Bool
  | .q | .q2 => true
  | .a | .b | .c | .t => false

/-- The units each kind of core carries (R11). -/
def CoreKind.carries : CoreKind → FU → Bool
  | .compute, u => match u with
    | .qm | .qs => false
    | .ia | .ib | .ag | .mu | .cf | .ls | .vp | .mx | .ch | .ks | .sy | .db => true
  | .quay, u => match u with
    | .vp | .mx | .ks => false
    | .ia | .ib | .ag | .mu | .cf | .ls | .ch | .sy | .qm | .qs | .db => true
  | .harbour, u => match u with
    | .vp | .mx | .ks | .qs => false
    | .ia | .ib | .ag | .mu | .cf | .ls | .ch | .sy | .qm | .db => true
  | .lighthouse, u => match u with
    | .vp | .mx | .ks | .qm | .qs => false
    | .ia | .ib | .ag | .mu | .cf | .ls | .ch | .sy | .db => true

/-- The code of a core kind in `xstat`.ROLE (R39). -/
def CoreKind.role : CoreKind → Nat
  | .compute => 0 | .quay => 1 | .harbour => 2 | .lighthouse => 3

end Sys2Proof
end

