-- ==== Sys2Proof/Syntax.lean ====
section
/-! DEFINITION. The instructions: one constructor per row of spec/opcode_table.json. A move word's row carries the move's
header (E, INV, GI, SRC with its long immediates, R80, R81); an event row carries what the event brings with it. -/

set_option autoImplicit false
set_option Elab.async false

namespace Sys2Proof

/-- Every row of the opcode table: the move words (R80, R87) and the device's events. -/
inductive Instr where
  /-- A move to a register, guard or operand latch copies its source value to the destination at the end of the bundle's cycle. (R17) -/
  | move (h : Hdr) (dst : Dst)
  /-- The word 0xFFFF_FFFF at a bundle start is skipped to the next line, issuing nothing and costing no cycle. (R86) -/
  | linePad
  /-- ia computes a + t, wrapping modulo 2^64. (R103) -/
  | iaAdd (h : Hdr)
  /-- ia computes a - t, wrapping. (R103) -/
  | iaSub (h : Hdr)
  /-- ia computes bitwise a and t. (R103) -/
  | iaAnd (h : Hdr)
  /-- ia computes bitwise a or t. (R103) -/
  | iaOr (h : Hdr)
  /-- ia computes bitwise a xor t. (R103) -/
  | iaXor (h : Hdr)
  /-- ia computes a and not t. (R103) -/
  | iaAndn (h : Hdr)
  /-- ia shifts a left by BITS(t,5,0). (R103) -/
  | iaSll (h : Hdr)
  /-- ia shifts a right logically by BITS(t,5,0). (R103) -/
  | iaSrl (h : Hdr)
  /-- ia shifts a right arithmetically by BITS(t,5,0). (R103) -/
  | iaSra (h : Hdr)
  /-- ia rotates a left by BITS(t,5,0). (R103) -/
  | iaRol (h : Hdr)
  /-- ia rotates a right by BITS(t,5,0). (R103) -/
  | iaRor (h : Hdr)
  /-- ia gives the signed smaller of a and t. (R103) -/
  | iaMin (h : Hdr)
  /-- ia gives the signed larger of a and t. (R103) -/
  | iaMax (h : Hdr)
  /-- ia gives the unsigned smaller of a and t. (R103) -/
  | iaMinu (h : Hdr)
  /-- ia gives the unsigned larger of a and t. (R103) -/
  | iaMaxu (h : Hdr)
  /-- ia gives 1 if a equals t, else 0. (R103) -/
  | iaCeq (h : Hdr)
  /-- ia gives 1 if a differs from t, else 0. (R103) -/
  | iaCne (h : Hdr)
  /-- ia gives 1 if a < t signed. (R103) -/
  | iaClt (h : Hdr)
  /-- ia gives 1 if a < t unsigned. (R103) -/
  | iaCltu (h : Hdr)
  /-- ia gives 1 if a >= t signed. (R103) -/
  | iaCge (h : Hdr)
  /-- ia gives 1 if a >= t unsigned. (R103) -/
  | iaCgeu (h : Hdr)
  /-- ia gives a if t is nonzero, otherwise b. (R104) -/
  | iaSel (h : Hdr)
  /-- ia counts the set bits of t. (R105) -/
  | iaPopc (h : Hdr)
  /-- ia counts leading zero bits of t. (R105) -/
  | iaClz (h : Hdr)
  /-- ia counts trailing zero bits of t. (R105) -/
  | iaCtz (h : Hdr)
  /-- ia extracts a sign-extended bit field of a selected by t. (R106) -/
  | iaExt (h : Hdr)
  /-- ia extracts a zero-extended bit field of a selected by t. (R106) -/
  | iaExtu (h : Hdr)
  /-- ia inserts a field of b into a at the position t selects. (R106) -/
  | iaIns (h : Hdr)
  /-- ia sign-extends the low byte of t. (R105) -/
  | iaSxb (h : Hdr)
  /-- ia sign-extends the low halfword of t. (R105) -/
  | iaSxh (h : Hdr)
  /-- ia sign-extends the low word of t. (R105) -/
  | iaSxw (h : Hdr)
  /-- ia zero-extends the low byte of t. (R105) -/
  | iaZxb (h : Hdr)
  /-- ia zero-extends the low halfword of t. (R105) -/
  | iaZxh (h : Hdr)
  /-- ia zero-extends the low word of t. (R105) -/
  | iaZxw (h : Hdr)
  /-- ia adds the low words and sign-extends the 32-bit sum. (R107) -/
  | iaAddw (h : Hdr)
  /-- ia subtracts the low words and sign-extends the result. (R107) -/
  | iaSubw (h : Hdr)
  /-- ia shifts the low word left by BITS(t,4,0) and sign-extends. (R107) -/
  | iaSllw (h : Hdr)
  /-- ia shifts the low word right logically and sign-extends. (R107) -/
  | iaSrlw (h : Hdr)
  /-- ia shifts the low word right arithmetically and sign-extends. (R107) -/
  | iaSraw (h : Hdr)
  /-- ib computes a + t, wrapping. (R103) -/
  | ibAdd (h : Hdr)
  /-- ib computes a - t, wrapping. (R103) -/
  | ibSub (h : Hdr)
  /-- ib computes a and t. (R103) -/
  | ibAnd (h : Hdr)
  /-- ib computes a or t. (R103) -/
  | ibOr (h : Hdr)
  /-- ib computes a xor t. (R103) -/
  | ibXor (h : Hdr)
  /-- ib computes a and not t. (R103) -/
  | ibAndn (h : Hdr)
  /-- ib shifts a left. (R103) -/
  | ibSll (h : Hdr)
  /-- ib shifts a right logically. (R103) -/
  | ibSrl (h : Hdr)
  /-- ib shifts a right arithmetically. (R103) -/
  | ibSra (h : Hdr)
  /-- ib rotates a left. (R103) -/
  | ibRol (h : Hdr)
  /-- ib rotates a right. (R103) -/
  | ibRor (h : Hdr)
  /-- ib gives the signed smaller of a and t. (R103) -/
  | ibMin (h : Hdr)
  /-- ib gives the signed larger of a and t. (R103) -/
  | ibMax (h : Hdr)
  /-- ib gives the unsigned smaller. (R103) -/
  | ibMinu (h : Hdr)
  /-- ib gives the unsigned larger. (R103) -/
  | ibMaxu (h : Hdr)
  /-- ib compares for equality. (R103) -/
  | ibCeq (h : Hdr)
  /-- ib compares for inequality. (R103) -/
  | ibCne (h : Hdr)
  /-- ib compares signed less-than. (R103) -/
  | ibClt (h : Hdr)
  /-- ib compares unsigned less-than. (R103) -/
  | ibCltu (h : Hdr)
  /-- ib compares signed greater-or-equal. (R103) -/
  | ibCge (h : Hdr)
  /-- ib compares unsigned greater-or-equal. (R103) -/
  | ibCgeu (h : Hdr)
  /-- ib selects a or b by t. (R104) -/
  | ibSel (h : Hdr)
  /-- ib counts set bits of t. (R105) -/
  | ibPopc (h : Hdr)
  /-- ib counts leading zeros of t. (R105) -/
  | ibClz (h : Hdr)
  /-- ib counts trailing zeros of t. (R105) -/
  | ibCtz (h : Hdr)
  /-- ib extracts a signed bit field. (R106) -/
  | ibExt (h : Hdr)
  /-- ib extracts an unsigned bit field. (R106) -/
  | ibExtu (h : Hdr)
  /-- ib inserts a bit field. (R106) -/
  | ibIns (h : Hdr)
  /-- ib sign-extends a byte. (R105) -/
  | ibSxb (h : Hdr)
  /-- ib sign-extends a halfword. (R105) -/
  | ibSxh (h : Hdr)
  /-- ib sign-extends a word. (R105) -/
  | ibSxw (h : Hdr)
  /-- ib zero-extends a byte. (R105) -/
  | ibZxb (h : Hdr)
  /-- ib zero-extends a halfword. (R105) -/
  | ibZxh (h : Hdr)
  /-- ib zero-extends a word. (R105) -/
  | ibZxw (h : Hdr)
  /-- ib adds words with sign extension. (R107) -/
  | ibAddw (h : Hdr)
  /-- ib subtracts words with sign extension. (R107) -/
  | ibSubw (h : Hdr)
  /-- ib shifts a word left. (R107) -/
  | ibSllw (h : Hdr)
  /-- ib shifts a word right logically. (R107) -/
  | ibSrlw (h : Hdr)
  /-- ib shifts a word right arithmetically. (R107) -/
  | ibSraw (h : Hdr)
  /-- Adds a signed byte offset to a tagged pointer, trapping TAG_CARRY on carry out of the address. (R109) -/
  | agPadd (h : Hdr)
  /-- Gives the byte distance between two addresses ignoring tags. (R110) -/
  | agPsub (h : Hdr)
  /-- Replaces the tag of a with a byte of t, trapping FORMAT on codes 16 and above. (R111) -/
  | agPtag (h : Hdr)
  /-- Reads the format code of a pointer. (R112) -/
  | agPfmt (h : Hdr)
  /-- Reads the block length in elements of a pointer. (R112) -/
  | agPblk (h : Hdr)
  /-- Strips the tag of a pointer. (R112) -/
  | agPclr (h : Hdr)
  /-- Turns an element index into a pointer by the base's format width. (R113) -/
  | agPidx (h : Hdr)
  /-- Builds a cluster-form scratchpad address of core a at offset t. (R114) -/
  | agCadr (h : Hdr)
  /-- Builds an own-memory scratchpad address at offset t. (R114) -/
  | agLcl (h : Hdr)
  /-- Gives the cluster address of the core at a logical row and column in the same cluster. (R115) -/
  | agCoord (h : Hdr)
  /-- Gives the low 64 bits of a × t after 3 cycles. (R117) -/
  | muMul (h : Hdr)
  /-- Gives the high 64 bits of the signed product. (R117) -/
  | muMulh (h : Hdr)
  /-- Gives the high 64 bits of the unsigned product. (R117) -/
  | muMulhu (h : Hdr)
  /-- Gives the high 64 bits of signed a times unsigned t. (R117) -/
  | muMulhsu (h : Hdr)
  /-- Multiplies low words and sign-extends the 32-bit product. (R117) -/
  | muMulw (h : Hdr)
  /-- Signed 64-bit quotient with the fixed results of R49 and operand-dependent latency. (R118) -/
  | muDiv (h : Hdr)
  /-- Unsigned 64-bit quotient. (R118) -/
  | muDivu (h : Hdr)
  /-- Signed 64-bit remainder. (R118) -/
  | muRem (h : Hdr)
  /-- Unsigned 64-bit remainder. (R118) -/
  | muRemu (h : Hdr)
  /-- Signed 32-bit quotient, sign-extended. (R118) -/
  | muDivw (h : Hdr)
  /-- Signed 32-bit remainder, sign-extended. (R118) -/
  | muRemw (h : Hdr)
  /-- Branches to B plus the signed offset in t after a 2-cycle bubble. (R123) -/
  | cfBr (h : Hdr)
  /-- Jumps to the address in t. (R123) -/
  | cfJmp (h : Hdr)
  /-- Jumps to t and writes the return address NEXT to cf.q. (R123) -/
  | cfCall (h : Hdr)
  /-- Sets loop level 0 with count a and end B + t, or skips the body for count zero. (R124) -/
  | cfLoop0 (h : Hdr)
  /-- Sets loop level 1 and deactivates level 0, or skips the body for count zero. (R124) -/
  | cfLoop1 (h : Hdr)
  /-- Starts the repetition buffer with the window, stride, length and pass count in a and t. (R127) -/
  | cfRep (h : Hdr)
  /-- Completes its bundle and raises BREAK with the code in t, or halts under debug catch. (R130) -/
  | cfBrk (h : Hdr)
  /-- Loads a sign-extended byte from a checked scratchpad address. (R138) -/
  | lsLd8 (h : Hdr)
  /-- Loads a zero-extended byte. (R138) -/
  | lsLd8u (h : Hdr)
  /-- Loads a sign-extended halfword. (R138) -/
  | lsLd16 (h : Hdr)
  /-- Loads a zero-extended halfword. (R138) -/
  | lsLd16u (h : Hdr)
  /-- Loads a sign-extended word. (R138) -/
  | lsLd32 (h : Hdr)
  /-- Loads a zero-extended word. (R138) -/
  | lsLd32u (h : Hdr)
  /-- Loads a doubleword. (R138) -/
  | lsLd64 (h : Hdr)
  /-- Stores the low byte of a into the store buffer. (R138) -/
  | lsSt8 (h : Hdr)
  /-- Stores the low halfword of a. (R138) -/
  | lsSt16 (h : Hdr)
  /-- Stores the low word of a. (R138) -/
  | lsSt32 (h : Hdr)
  /-- Stores a doubleword and sets its tag full. (R138) -/
  | lsSt64 (h : Hdr)
  /-- 64-bit load with acquire at core scope. (R140) -/
  | lsLdacqCore (h : Hdr)
  /-- 64-bit load with acquire at cluster scope. (R140) -/
  | lsLdacqCluster (h : Hdr)
  /-- 64-bit load with acquire at die scope. (R140) -/
  | lsLdacqDie (h : Hdr)
  /-- 64-bit load with acquire at device scope. (R140) -/
  | lsLdacqDevice (h : Hdr)
  /-- 64-bit load with acquire at domain scope. (R140) -/
  | lsLdacqDomain (h : Hdr)
  /-- 64-bit load with acquire at system scope. (R140) -/
  | lsLdacqSystem (h : Hdr)
  /-- 64-bit store with release at core scope, setting the tag full. (R140) -/
  | lsStrelCore (h : Hdr)
  /-- 64-bit store with release at cluster scope. (R140) -/
  | lsStrelCluster (h : Hdr)
  /-- 64-bit store with release at die scope. (R140) -/
  | lsStrelDie (h : Hdr)
  /-- 64-bit store with release at device scope. (R140) -/
  | lsStrelDevice (h : Hdr)
  /-- 64-bit store with release at domain scope. (R140) -/
  | lsStrelDomain (h : Hdr)
  /-- 64-bit store with release at system scope. (R140) -/
  | lsStrelSystem (h : Hdr)
  /-- Loads a doubleword and takes its hashed lock bit, waiting while another slot holds it. (R142) -/
  | lsLla (h : Hdr)
  /-- Stores and releases the held lock, or stores nothing and returns 0 if the link was lost. (R143) -/
  | lsSsu (h : Hdr)
  /-- Atomically stores b if the doubleword equals a, returning the old value. (R145) -/
  | lsCas (h : Hdr)
  /-- Atomically swaps a into the doubleword. (R145) -/
  | lsSwap (h : Hdr)
  /-- Atomically adds a to the doubleword. (R145) -/
  | lsAadd (h : Hdr)
  /-- Atomic bitwise and. (R145) -/
  | lsAand (h : Hdr)
  /-- Atomic bitwise or. (R145) -/
  | lsAor (h : Hdr)
  /-- Atomic signed minimum. (R145) -/
  | lsAmin (h : Hdr)
  /-- Atomic signed maximum. (R145) -/
  | lsAmax (h : Hdr)
  /-- Atomic unsigned minimum. (R145) -/
  | lsAminu (h : Hdr)
  /-- Atomic unsigned maximum. (R145) -/
  | lsAmaxu (h : Hdr)
  /-- Reads a future, trapping FUTURE_EMPTY or waiting while its tag is empty. (R148) -/
  | lsFget (h : Hdr)
  /-- Writes a future as a cluster release, setting its tag full and releasing fget waiters. (R149) -/
  | lsFput (h : Hdr)
  /-- Atomically reads a future and sets its tag empty. (R150) -/
  | lsFclr (h : Hdr)
  /-- Waits until a berth has n filled slots or n free slots and returns the slot address. (R152) -/
  | lsBwait (h : Hdr)
  /-- Advances a berth's consumer index by n as a cluster release. (R152) -/
  | lsBadv (h : Hdr)
  /-- Advances a berth's producer index by n as a cluster release. (R152) -/
  | lsBpush (h : Hdr)
  /-- Returns a berth's PI, CI and fill count. (R152) -/
  | lsBstat (h : Hdr)
  /-- Loads 32 raw bytes into the vector queue entry. (R167) -/
  | vpVld (h : Hdr)
  /-- Loads and widens elements of the tag's memory format into lanes. (R168) -/
  | vpVldx (h : Hdr)
  /-- Stores 32 raw bytes into the store buffer. (R167) -/
  | vpVst (h : Hdr)
  /-- Narrows lanes to the tag's memory format and stores them. (R168) -/
  | vpVstx (h : Hdr)
  /-- Stores the active lanes of a under the mask in c. (R167) -/
  | vpVstm (h : Hdr)
  /-- Broadcasts the low lane-width bits of a to every lane. (R177) -/
  | vpBcast (h : Hdr)
  /-- Decodes eight CQ4 elements of one block to F32. (R179) -/
  | vpDq (h : Hdr)
  /-- Loads one element, widens it and broadcasts it to every lane. (R169) -/
  | vpVldb (h : Hdr)
  /-- Lane-wise add. (R170) -/
  | vpAdd (h : Hdr)
  /-- Lane-wise subtract. (R170) -/
  | vpSub (h : Hdr)
  /-- Lane-wise multiply. (R170) -/
  | vpMul (h : Hdr)
  /-- Lane-wise fused a × b + c. (R170) -/
  | vpFma (h : Hdr)
  /-- Lane-wise fused −(a × b) + c. (R170) -/
  | vpFnma (h : Hdr)
  /-- Lane-wise minimum. (R170) -/
  | vpMin (h : Hdr)
  /-- Lane-wise maximum. (R170) -/
  | vpMax (h : Hdr)
  /-- Lane-wise unsigned minimum. (R170) -/
  | vpMinu (h : Hdr)
  /-- Lane-wise unsigned maximum. (R170) -/
  | vpMaxu (h : Hdr)
  /-- Lane-wise absolute value. (R170) -/
  | vpAbs (h : Hdr)
  /-- Lane-wise negation. (R170) -/
  | vpNeg (h : Hdr)
  /-- Lane-wise equality compare writing a lane mask. (R171) -/
  | vpCeq (h : Hdr)
  /-- Lane-wise inequality compare. (R171) -/
  | vpCne (h : Hdr)
  /-- Lane-wise less-than compare. (R171) -/
  | vpClt (h : Hdr)
  /-- Lane-wise less-or-equal compare. (R171) -/
  | vpCle (h : Hdr)
  /-- Lane-wise unsigned less-than. (R171) -/
  | vpCltu (h : Hdr)
  /-- Lane-wise unsigned less-or-equal. (R171) -/
  | vpCleu (h : Hdr)
  /-- Selects lanes of a or b by the mask in c. (R172) -/
  | vpSel (h : Hdr)
  /-- Bitwise and of 256 bits. (R173) -/
  | vpAnd (h : Hdr)
  /-- Bitwise or of 256 bits. (R173) -/
  | vpOr (h : Hdr)
  /-- Bitwise xor of 256 bits. (R173) -/
  | vpXor (h : Hdr)
  /-- Bitwise a and not b. (R173) -/
  | vpAndn (h : Hdr)
  /-- Lane-wise shift left. (R173) -/
  | vpSll (h : Hdr)
  /-- Lane-wise logical shift right. (R173) -/
  | vpSrl (h : Hdr)
  /-- Lane-wise arithmetic shift right. (R173) -/
  | vpSra (h : Hdr)
  /-- Converts lanes between formats rounding to nearest even. (R174) -/
  | vpCvtRne (h : Hdr)
  /-- Converts lanes rounding toward zero. (R174) -/
  | vpCvtRtz (h : Hdr)
  /-- Converts lanes rounding up. (R174) -/
  | vpCvtRup (h : Hdr)
  /-- Converts lanes rounding down. (R174) -/
  | vpCvtRdn (h : Hdr)
  /-- Converts lanes with stochastic rounding. (R174) -/
  | vpCvtRsr (h : Hdr)
  /-- Converts lanes with the mode in frm. (R174) -/
  | vpCvtDyn (h : Hdr)
  /-- Saturating conversion rounding to nearest even. (R174) -/
  | vpCvtSatRne (h : Hdr)
  /-- Saturating conversion toward zero. (R174) -/
  | vpCvtSatRtz (h : Hdr)
  /-- Saturating conversion rounding up. (R174) -/
  | vpCvtSatRup (h : Hdr)
  /-- Saturating conversion rounding down. (R174) -/
  | vpCvtSatRdn (h : Hdr)
  /-- Saturating conversion with stochastic rounding. (R174) -/
  | vpCvtSatRsr (h : Hdr)
  /-- Saturating conversion with the mode in frm. (R174) -/
  | vpCvtSatDyn (h : Hdr)
  /-- Reduces the lanes by ascending addition to a scalar. (R175) -/
  | vpRadd (h : Hdr)
  /-- Reduces the lanes by minimum. (R175) -/
  | vpRmin (h : Hdr)
  /-- Reduces the lanes by maximum. (R175) -/
  | vpRmax (h : Hdr)
  /-- Reduces integer lanes by unsigned minimum. (R175) -/
  | vpRminu (h : Hdr)
  /-- Reduces integer lanes by unsigned maximum. (R175) -/
  | vpRmaxu (h : Hdr)
  /-- Permutes lanes of a by indices in b. (R176) -/
  | vpPerm (h : Hdr)
  /-- Selects lanes from a and c by indices in b. (R176) -/
  | vpShuf (h : Hdr)
  /-- Interleaves the low halves of a and b. (R176) -/
  | vpZiplo (h : Hdr)
  /-- Interleaves the high halves of a and b. (R176) -/
  | vpZiphi (h : Hdr)
  /-- Takes the even lanes of a then b. (R176) -/
  | vpUnzipe (h : Hdr)
  /-- Takes the odd lanes of a then b. (R176) -/
  | vpUnzipo (h : Hdr)
  /-- Extracts lane LANE of a to a scalar. (R177) -/
  | vpExt (h : Hdr)
  /-- Replaces lane LANE of a with a scalar from b. (R177) -/
  | vpIns (h : Hdr)
  /-- Accumulates signed INT8 dot products of four into INT32 lanes. (R178) -/
  | vpDot8 (h : Hdr)
  /-- Unsigned INT8 dot products into INT32 lanes. (R178) -/
  | vpDot8u (h : Hdr)
  /-- Signed by unsigned INT8 dot products. (R178) -/
  | vpDot8su (h : Hdr)
  /-- Lane-wise BF16 base-2 exponential. (R180) -/
  | vpExp2 (h : Hdr)
  /-- Lane-wise BF16 base-2 logarithm. (R180) -/
  | vpLog2 (h : Hdr)
  /-- Lane-wise reciprocal, correctly rounded in BF16 or an 8-bit estimate in F32. (R180) -/
  | vpRcp (h : Hdr)
  /-- Lane-wise reciprocal square root. (R180) -/
  | vpRsqrt (h : Hdr)
  /-- Newton reciprocal step 2 − a × b rounded once. (R181) -/
  | vpNrcp (h : Hdr)
  /-- Newton reciprocal square root step (3 − a × b)/2. (R181) -/
  | vpNrsq (h : Hdr)
  /-- Queues a matrix multiply-accumulate command into the octet's matrix unit. (R191) -/
  | mxMmac (h : Hdr)
  /-- Queues a LUT-mode matrix command on BIT1 or INT2 weights. (R191) -/
  | mxMlut (h : Hdr)
  /-- Queues a semiring matrix command. (R191) -/
  | mxMsemi (h : Hdr)
  /-- Queues a command that zeroes an accumulator region. (R191) -/
  | mxMzero (h : Hdr)
  /-- Queues a command that loads F32 rows into an accumulator. (R191) -/
  | mxMload (h : Hdr)
  /-- Queues a command that converts and writes an accumulator region out. (R191) -/
  | mxMdrain (h : Hdr)
  /-- Queues a command that copies CQ4 scales into scale memory. (R191) -/
  | mxMscale (h : Hdr)
  /-- Queues a barrier that completes after earlier commands of the named queues. (R191) -/
  | mxMbar (h : Hdr)
  /-- Queues a command that writes the queue's 32-byte status record. (R193) -/
  | mxMstat (h : Hdr)
  /-- Loads a sign-extended byte from device memory through translation. (R195) -/
  | qmLd8 (h : Hdr)
  /-- Loads a zero-extended byte from device memory. (R195) -/
  | qmLd8u (h : Hdr)
  /-- Loads a sign-extended halfword from device memory. (R195) -/
  | qmLd16 (h : Hdr)
  /-- Loads a zero-extended halfword from device memory. (R195) -/
  | qmLd16u (h : Hdr)
  /-- Loads a sign-extended word from device memory. (R195) -/
  | qmLd32 (h : Hdr)
  /-- Loads a zero-extended word from device memory. (R195) -/
  | qmLd32u (h : Hdr)
  /-- Loads a doubleword from device memory. (R195) -/
  | qmLd64 (h : Hdr)
  /-- Stores a byte to device memory. (R195) -/
  | qmSt8 (h : Hdr)
  /-- Stores a halfword to device memory. (R195) -/
  | qmSt16 (h : Hdr)
  /-- Stores a word to device memory. (R195) -/
  | qmSt32 (h : Hdr)
  /-- Stores a doubleword to device memory. (R195) -/
  | qmSt64 (h : Hdr)
  /-- Device-memory load with acquire at core scope. (R195) -/
  | qmLdacqCore (h : Hdr)
  /-- Device-memory load with acquire at cluster scope. (R195) -/
  | qmLdacqCluster (h : Hdr)
  /-- Device-memory load with acquire at die scope. (R195) -/
  | qmLdacqDie (h : Hdr)
  /-- Device-memory load with acquire at device scope. (R195) -/
  | qmLdacqDevice (h : Hdr)
  /-- Device-memory load with acquire at domain scope. (R195) -/
  | qmLdacqDomain (h : Hdr)
  /-- Device-memory load with acquire at system scope. (R195) -/
  | qmLdacqSystem (h : Hdr)
  /-- Device-memory store with release at core scope. (R195) -/
  | qmStrelCore (h : Hdr)
  /-- Device-memory store with release at cluster scope. (R195) -/
  | qmStrelCluster (h : Hdr)
  /-- Device-memory store with release at die scope. (R195) -/
  | qmStrelDie (h : Hdr)
  /-- Device-memory store with release at device scope. (R195) -/
  | qmStrelDevice (h : Hdr)
  /-- Device-memory store with release at domain scope. (R195) -/
  | qmStrelDomain (h : Hdr)
  /-- Device-memory store with release at system scope. (R195) -/
  | qmStrelSystem (h : Hdr)
  /-- Compare-and-swap at the memory controller of the doubleword's home. (R196) -/
  | qmCas (h : Hdr)
  /-- Atomic swap in device memory. (R196) -/
  | qmSwap (h : Hdr)
  /-- Atomic add in device memory. (R196) -/
  | qmAadd (h : Hdr)
  /-- Atomic and in device memory. (R196) -/
  | qmAand (h : Hdr)
  /-- Atomic or in device memory. (R196) -/
  | qmAor (h : Hdr)
  /-- Atomic signed minimum in device memory. (R196) -/
  | qmAmin (h : Hdr)
  /-- Atomic signed maximum in device memory. (R196) -/
  | qmAmax (h : Hdr)
  /-- Atomic unsigned minimum in device memory. (R196) -/
  | qmAminu (h : Hdr)
  /-- Atomic unsigned maximum in device memory. (R196) -/
  | qmAmaxu (h : Hdr)
  /-- Copies staging memory to a compute scratchpad or berth slot. (R198) -/
  | qmPush (h : Hdr)
  /-- Copies a compute scratchpad or berth slot into staging memory. (R198) -/
  | qmPull (h : Hdr)
  /-- Waits until earlier qm accesses are performed at core scope. (R197) -/
  | qmFenceCore (h : Hdr)
  /-- qm fence at cluster scope. (R197) -/
  | qmFenceCluster (h : Hdr)
  /-- qm fence at die scope. (R197) -/
  | qmFenceDie (h : Hdr)
  /-- qm fence at device scope. (R197) -/
  | qmFenceDevice (h : Hdr)
  /-- qm fence at domain scope. (R197) -/
  | qmFenceDomain (h : Hdr)
  /-- qm fence at system scope. (R197) -/
  | qmFenceSystem (h : Hdr)
  /-- Reads, checks and queues a stream pattern record for the stream engine. (R202) -/
  | qsRun (h : Hdr)
  /-- Returns the stream engine's status. (R203) -/
  | qsStat (h : Hdr)
  /-- Stops the running record at a slot boundary and optionally discards queued records. (R203) -/
  | qsCancel (h : Hdr)
  /-- Reserves an entry of the destination channel and queues an 8-byte message for delivery. (R212) -/
  | chSend (h : Hdr)
  /-- Sends up to 248 bytes read from memory as a message. (R212) -/
  | chSendm (h : Hdr)
  /-- Takes the oldest arrived entry of a channel, waiting while none has arrived. (R213) -/
  | chRecv (h : Hdr)
  /-- Takes the oldest arrived entry of a channel or returns zero at once. (R213) -/
  | chPoll (h : Hdr)
  /-- Frees a taken channel entry as a release, granting it to a waiting notice or sender. (R214) -/
  | chFree (h : Hdr)
  /-- Writes a match-table entry and tests the channel's arrived entries against it. (R215) -/
  | chMatch (h : Hdr)
  /-- Clears a match-table entry and returns its marked entries to arrived. (R215) -/
  | chUnmatch (h : Hdr)
  /-- Saves the coroutine's carry and key window into its Hamper entry and ends the activation. (R219) -/
  | ksYield (h : Hdr)
  /-- Frees the key's entry and ends the coroutine activation. (R219) -/
  | ksEnd (h : Hdr)
  /-- Requests a stage credit and routes a keyed record to its target cluster's Hamper. (R218) -/
  | ksEmit (h : Hdr)
  /-- Retires every idle and spilled key of a stage, optionally counting when the stage is empty. (R220) -/
  | ksDrain (h : Hdr)
  /-- Returns the counts of a stage's entries in the issuing cluster. (R220) -/
  | ksStat (h : Hdr)
  /-- Ends the core's compute phase, checks the plan and waits for the exchange to end. (R222) -/
  | sySlack (h : Hdr)
  /-- Arrives at a barrier group and waits until every member has arrived. (R223) -/
  | syBar (h : Hdr)
  /-- Waits until a memory word satisfies a condition against a. (R225) -/
  | syWait (h : Hdr)
  /-- Waits until a completion counter reaches a. (R225) -/
  | syCwait (h : Hdr)
  /-- Atomically adds a to a completion counter as a die-scope release. (R226) -/
  | syCinc (h : Hdr)
  /-- Asks for a slot switch. (R227) -/
  | syYield (h : Hdr)
  /-- Queues a helper activation with an argument and returns its ID. (R228) -/
  | syHstart (h : Hdr)
  /-- Waits for a helper to end and returns its exit value. (R228) -/
  | syHjoin (h : Hdr)
  /-- Ends the slot's activation with an exit value and frees the slot. (R229) -/
  | syTend (h : Hdr)
  /-- Empties a future word and requests work from a dispenser grid. (R230) -/
  | syDreq (h : Hdr)
  /-- Arms a complete launch record owned by the issuing job. (R231) -/
  | syLaunch (h : Hdr)
  /-- Replaces masked bits of one doubleword of an idle launch record. (R231) -/
  | syLpatch (h : Hdr)
  /-- Full fence at core scope. (R224) -/
  | syFenceCore (h : Hdr)
  /-- Full fence at cluster scope. (R224) -/
  | syFenceCluster (h : Hdr)
  /-- Full fence at die scope. (R224) -/
  | syFenceDie (h : Hdr)
  /-- Full fence at device scope. (R224) -/
  | syFenceDevice (h : Hdr)
  /-- Full fence at domain scope. (R224) -/
  | syFenceDomain (h : Hdr)
  /-- Full fence at system scope. (R224) -/
  | syFenceSystem (h : Hdr)
  /-- Reads a CSR. (R232) -/
  | syCsrr (h : Hdr)
  /-- Writes a CSR with a and returns the old value. (R232) -/
  | syCsrw (h : Hdr)
  /-- Sets CSR bits from a and returns the old value. (R232) -/
  | syCsrs (h : Hdr)
  /-- Clears CSR bits from a and returns the old value. (R232) -/
  | syCsrc (h : Hdr)
  /-- Completes its bundle and raises SYSCALL. (R233) -/
  | syTrap (h : Hdr)
  /-- Checks and restores the context image, re-issues recorded triggers and resumes, or parks. (R252) -/
  | syTret (h : Hdr)
  /-- Invalidates instruction-cache lines of the core. (R234) -/
  | syIflushCore (h : Hdr)
  /-- Invalidates instruction-cache lines across the cluster. (R234) -/
  | syIflushCluster (h : Hdr)
  /-- Invalidates instruction-cache lines across the die. (R234) -/
  | syIflushDie (h : Hdr)
  /-- Invalidates instruction-cache lines across the package. (R234) -/
  | syIflushDevice (h : Hdr)
  /-- Advances a front-end queue's write index from a harbour core as a system release. (R235) -/
  | sySubmit (h : Hdr)
  /-- At machine level drains the store buffer and halts the core. (R236) -/
  | syHalt (h : Hdr)
  /-- Returns the core's cycle count. (R237) -/
  | dbCyc (h : Hdr)
  /-- Returns an event counter. (R237) -/
  | dbPerf (h : Hdr)
  /-- Selects an event for a counter and clears it. (R237) -/
  | dbPsel (h : Hdr)
  /-- Places a mark in the core's trace stream. (R237) -/
  | dbMark (h : Hdr)
  /-- A multi-cycle operation completes, writing both result ports and setting the unit's valid bit. (R18) -/
  | resultComplete (u : FU)
  /-- After three stalled cycles, a wait, a yield, an end or a 256-cycle quantum the core switches to the next Ready slot. (R27) -/
  | stallSwitch
  /-- After a bundle at a loop end, the count is decremented and execution loops back or the level ends. (R31) -/
  | loopEndCheck
  /-- After the last bundle of the last pass, repetition ends and execution continues after the body. (R128) -/
  | repetitionEnd
  /-- A missing code line arrives in the instruction cache, or its fetch fails with FETCH_BEYOND or FETCH_FAULT. (R315) -/
  | fetchLineFill (line : Word)
  /-- Store `k`, 0 the oldest, leaves the slot's store buffer and is performed at its home. (R332) -/
  | storePerformed (k : Nat)
  /-- A recorded wait's condition becomes true and the slot becomes Ready with ACTIVE cleared. (R381) -/
  | waitReleased
  /-- After in-flight work settles, the trap state and context image are written and the handler starts. (R246) -/
  | trapEntry
  /-- The quad arbiter binds ready queue heads to the lane groups by weight. (R163) -/
  | vectorBind
  /-- A vector entry completes, writing the slot's vp result ports and fflags. (R164) -/
  | vectorComplete
  /-- A checked matrix command enters the queue, enters its range locks and returns its sequence number. (R187) -/
  | matrixAccept
  /-- A step's operands have all arrived in the fetch buffer, releasing read-locks after the last fetch. (R346) -/
  | matrixFetchDone
  /-- The array picks the ready queue with the largest weighted credit and starts its next step. (R344) -/
  | matrixStepStart
  /-- A matrix command completes, releasing locks, moving berth indices, setting flags and incrementing its counter. (R350) -/
  | matrixCommandComplete
  /-- An idle stream engine takes the older of its run-queue head and engine-fed channel head. (R204) -/
  | streamRecordTake
  /-- The record's start counter reaches its value and the engine begins gathering runs. (R201) -/
  | streamStart
  /-- A complete slot of a target berth is written and its PI advances as a die release. (R201) -/
  | streamSlotCommit
  /-- The last slot is committed and the completion counter increments. (R201) -/
  | streamRecordEnd
  /-- A push's bytes are written at the far end, moving PI and the counter. (R198) -/
  | pushWriteDone
  /-- A pull's bytes reach staging memory, moving CI and the counter. (R198) -/
  | pullWriteDone
  /-- A message lands in its reserved entry, is offered to the match table, or is rejected or spilled. (R209) -/
  | messageLand (k : Nat)
  /-- A matched entry releases a task into the activation queue once it has room. (R215) -/
  | taskRelease
  /-- After a strel beyond its scope is performed, the router writes a notice into channel 15. (R338) -/
  | scopeMiss
  /-- The context engine fills a Free slot from the role image for the oldest queued activation. (R290) -/
  | activationFill
  /-- The Hamper grants a waiting credit request of a stage pool in arrival order. (R360) -/
  | creditGrant (stage : Nat)
  /-- A routed record arrives at its cluster's Hamper and is handled by the entry transition table. (R364) -/
  | hamperArrival (k : Nat)
  /-- An idle victim entry is written to its spill bucket and its way freed. (R366) -/
  | spillVictimWrite (set : Nat)
  /-- A spill bucket fetch completes and the key is refilled or treated as absent. (R369) -/
  | bucketFetch (set : Nat)
  /-- A record leaves the overflow queue when a way of its set frees. (R366) -/
  | overflowServe (set : Nat)
  /-- A queued coroutine activation enters the least-loaded stage core's activation queue. (R367) -/
  | activationHandoff
  /-- An idle entry's timeout expires and a retirement resumption is queued. (R371) -/
  | idleTimeout (set way : Nat)
  /-- The dispenser writes the next item or end token into the requesting future. (R300) -/
  | dispenserAnswer (rec k : Nat)
  /-- When all members have arrived and drained, the exchange phase starts at a common origin T0. (R296) -/
  | exchangeStart (rec : Nat)
  /-- A due transfer starts when every link of its route is free, holding them for LEN cycles. (R297) -/
  | transferStart (rec : Nat)
  /-- A transfer completes and releases its links. (R297) -/
  | transferEnd (rec : Nat)
  /-- The phase ends at the end of the slot of the last transfer. (R297) -/
  | exchangePhaseEnd (rec : Nat)
  /-- Every member's slack is released with the new superstep number as an acquire. (R299) -/
  | slackRelease (rec : Nat)
  /-- When the needed cores hold no context, the front end writes images, declares state, fills slot 0 and sets running. (R291) -/
  | recordPlace (rec : Nat) (dies clusters : List Nat)
  /-- The front end sends PREEMPT to a core, spilling later messages and trapping every occupied slot. (R254) -/
  | preempt
  /-- When all slots are parked and queues drained, the context engine copies the core state to its frame. (R254) -/
  | contextCopyOut
  /-- Resumption copies frames back, re-injects spilled messages and resumes parked slots. (R257) -/
  | jobResume (rec : Nat) (dies clusters : List Nat)
  /-- The job's time-slice tick raises TIMER at slot 0 of each core. (R442) -/
  | timer (rec : Nat)
  /-- A dead context's ID leaves the dead set once no request tagged with it remains. (R466) -/
  | contextIdRecycle (cid : Nat)
  /-- A wait active for DELAY µs in one generation makes its party a chase candidate. (R385) -/
  | undertowCandidate (die : Nat)
  /-- The chain is re-read after outbound queues drain, then the record is written and the fault delivered. (R391) -/
  | undertowConfirm (die : Nat)
  /-- A host write arrives at the port's ordering point and is cut into pieces or refused. (R413) -/
  | inboundWrite (port : Nat) (dst : BarAddr) (bytes : List Byte) (ro ido : Bool) (rid : Nat) (poisoned : Bool)
  /-- A piece leaves for its route once every followed write's other-route pieces are acknowledged. (R339) -/
  | pieceLeave (port wid piece : Nat)
  /-- A home performs a piece at system scope and acknowledges it. (R413) -/
  | pieceAck (port wid piece : Nat)
  /-- A host read is held behind followed writes and then completes with performed bytes. (R414) -/
  | inboundRead (port : Nat) (src : BarAddr) (len : Nat) (ro ido : Bool) (rid : Nat) (poisoned : Bool)
  /-- A pending interrupt source sends its MSI-X message once enabled, unmasked and its port up. (R411) -/
  | msixMessage (source : Nat)
  /-- A port's VF Enable assigns virtual function numbers from the shared pool. (R401) -/
  | vfEnable (port numVfs : Nat)
  /-- A host port's link goes down or its PF takes FLR, releasing its semaphores. (R409) -/
  | portLinkDown (port : Nat) (flr : Bool)
  /-- HSEMCMD acquire takes a free semaphore for the writer's source and tag. (R408) -/
  | hsemAcquire (src : RegSource) (n : Nat) (tag : HWord)
  /-- HSEMCMD release frees a semaphore held by the same source and tag. (R408) -/
  | hsemRelease (src : RegSource) (n : Nat) (tag : HWord)
  /-- A DEVRST write from the holder of semaphore 0 resets the package. (R406) -/
  | devrst (src : RegSource)
  /-- Power-on, DEVRST or thermal trip resets the package and runs the boot steps. (R496) -/
  | packageReset (thermal : Bool) (strap : Bool) (bist : List BistFail)
  /-- A DMA tail write posts descriptors or stops the engine on overflow. (R418) -/
  | drtailWrite (die e : Nat) (tail : HWord)
  /-- A DMA configuration write, where clearing EN stops the engine after its current descriptor. (R418) -/
  | drcfgWrite (die e : Nat) (v : Word)
  /-- DMACTL ABORT sets HEAD to TAIL and idles the engine. (R418) -/
  | dmaAbort (die e : Nat)
  /-- DMACTL RESUME restarts a stopped engine past the failing descriptor. (R418) -/
  | dmaResume (die e : Nat)
  /-- The engine reads and checks the descriptor at HEAD and starts its copy, fill or berth copy. (R420) -/
  | dmaDescriptorStart (die e : Nat)
  /-- A descriptor's writes finish; STATUS, counter and interrupt follow and HEAD advances. (R420) -/
  | dmaDescriptorDone (die e : Nat)
  /-- A tail write to a queue is applied or stops the queue with QUEUE_OVERFLOW. (R430) -/
  | qtailWrite (q : Nat) (tail : HWord)
  /-- QCTL RESET cancels waits, sets HEAD to TAIL, clears errors and releases the resident slot. (R431) -/
  | qctlReset (q : Nat)
  /-- A free resident slot goes to the highest-priority pending queue, which reads its descriptor. (R432) -/
  | queueResident (die : Nat)
  /-- A queue waiting 1 ms in a fence or wait while another pends gives up its slot. (R432) -/
  | queueSlotYield (q : Nat)
  /-- A no-op packet completes with its counter and interrupt actions. (R433) -/
  | pktNoop (q : Nat)
  /-- A launch packet arms a record with driver rights. (R434) -/
  | pktLaunch (q : Nat)
  /-- A fence packet waits until each listed counter reaches its value. (R435) -/
  | pktFence (q : Nat)
  /-- A wait packet waits until a memory word satisfies a condition. (R437) -/
  | pktWait (q : Nat)
  /-- A signal packet with OP 0 stores a value as a system release. (R439) -/
  | pktSignalStore (q : Nat)
  /-- A signal packet with OP 1 delivers HOST_SIGNAL to slot 0 of every core of a record. (R439) -/
  | pktSignalHost (q : Nat)
  /-- A leg packet stores a leg with its dependences and successors in the leg table. (R440) -/
  | pktLeg (q : Nat)
  /-- A waiting packet's condition is met or its job ends, and the packet completes and HEAD advances. (R429) -/
  | packetComplete (q : Nat)
  /-- A leg whose count reaches zero fires on the die holding most of its input bytes. (R441) -/
  | legFire (q leg : Nat)
  /-- The leader writes the RESYNC summary into the given buffer. (R448) -/
  | mbResync (port : Nat) (addr : Word)
  /-- KILL fails the record and marks every context of the job dead. (R444) -/
  | mbKill (port rec : Nat)
  /-- KILL with dump freezes the job, writes a dump and fails it. (R450) -/
  | mbKillDump (port rec : Nat)
  /-- An unknown mailbox operation finishes with RES 1. (R444) -/
  | mbBadCommand (port : Nat)
  /-- An uncorrectable error in consumed state marks the context dead and may trigger a fatal dump. (R450) -/
  | fatalEcc
  /-- Every 2 ms the leader sends a renewal and counts acknowledging weight. (R445) -/
  | leaseRenewal (acks : List Nat)
  /-- 10 ms without a successful renewal lapses the lease, stopping a minority side. (R446) -/
  | leaseLapse (die : Nat)
  /-- After its rank delay a lighthouse asks for votes and leads on weight 6 or more. (R446) -/
  | voteRequest (die : Nat) (votes : List Nat)
  /-- Management links fail and divide the package into sides. (R447) -/
  | mgmtLinkFail (side : List Nat)
  /-- Starts invalidating every TLB entry. (R460) -/
  | tlbinvAll
  /-- Starts invalidating every TLB entry of one ASID. (R460) -/
  | tlbinvAsid (asid : Nat)
  /-- Starts invalidating an ASID's entries for a page range. (R460) -/
  | tlbinvRange (asid : Nat)
  /-- Every TLB has dropped the entries and their accesses are performed, clearing BUSY. (R460) -/
  | tlbinvComplete
  /-- A TLB miss walk completes, giving a translation or a page request or fault. (R459) -/
  | tlbWalk (die asid vf : Nat) (va : Word) (access : Nat) (user : Bool) (party : BitVec 24)
  /-- PRQRESP retry makes the requester walk again. (R462) -/
  | prqRetry (tag : Nat)
  /-- PRQRESP fail stops the requester finally with PAGE_FAULT. (R462) -/
  | prqFail (tag : Nat)
  /-- Commits the staged region table or refuses it with ERR. (R454) -/
  | regcmtGo
  /-- Changed regions are cleared to zero and REGCMT BUSY clears. (R454) -/
  | regionClearDone
  /-- A VF reset or FLR fails the function's records, resets its queues and aborts its engines. (R465) -/
  | vfctlReset (v : Nat)
  /-- No request of the function remains, so its weights leave and STATE returns to ready. (R465) -/
  | vfResetDrained (v : Nat)
  /-- A remote device's access arrives and is performed or refused by the domain access table. (R472) -/
  | remoteAccessArrival (dev : Nat) (addr : Nat) (kind : RemoteKind) (len : Nat) (data : List Byte)
  /-- A Shumbivia flit is checked by its tag and used, or dropped with a replay request. (R470) -/
  | flitReceive (port seq : Nat) (kg tagOk replay : Bool)
  /-- A port goes down after repeated replays or lost training, re-sending its replay buffer elsewhere. (R479) -/
  | shumbiviaPortDown (port : Nat)
  /-- A request to a lost device times out after 1 ms and its jobs fail. (R480) -/
  | remoteTimeout (dev : Nat)
  /-- The leader loads a new link key and the transmitter switches key generation. (R478) -/
  | keyRollover (port : Nat) (key : List Byte)
  /-- The old link key is retired once no old flit remains and the peer confirms the new one. (R478) -/
  | keyRetire (port : Nat)
  /-- A collective ring tail write posts descriptors. (R473) -/
  | crtailWrite (die : Nat) (tail : HWord)
  /-- CRCTL ABORT empties the collective ring. (R473) -/
  | crAbort (die : Nat)
  /-- CRCTL RESUME restarts a stopped collective engine. (R473) -/
  | crResume (die : Nat)
  /-- The collective engine starts the next descriptor and waits for its peers. (R475) -/
  | collectiveStart (die : Nat)
  /-- The tree reduction result is written to DST, then STATUS and counter as domain releases. (R476) -/
  | collectiveComplete (die : Nat) (peers : List (Nat × List Byte))
  /-- Halts the core at its next bundle boundary. (R482) -/
  | dcmdHalt
  /-- Resumes a halted core. (R482) -/
  | dcmdResume
  /-- Issues one bundle of the selected slot and halts again. (R487) -/
  | dcmdStep
  /-- A slot about to issue a breakpoint address halts the core or raises DEBUG_HALT. (R483) -/
  | breakpointMatch
  /-- Other members of a halt group halt with CAUSE 4 after a member halts. (R488) -/
  | crossTriggerHalt
  /-- Resumes every halted member of a halt group. (R488) -/
  | dgrpResume (grp : Nat)
  /-- Reads the selected doubleword of a halted slot's state, or sets ERR. (R486) -/
  | ddataRead
  /-- Writes the selected doubleword of a halted slot's state, or is refused. (R486) -/
  | ddataWrite (v : Word)
  /-- Asserts a job's freeze wire, stopping its cores and store buffers. (R490) -/
  | frzctlAssert (rec : Nat)
  /-- Clears a job's freeze wire and its slots continue. (R490) -/
  | frzctlRelease (rec : Nat)
  /-- Clearing TEN completes once every accepted trace packet is written. (R492) -/
  | traceStop
  /-- Each period every core latches a sample and a run-length record is written. (R494) -/
  | tidemarkPulse
  /-- Requests the recovery image at the next reset. (R499) -/
  | bootctlRecovery (src : RegSource)
  /-- Requests a main image at the next reset. (R499) -/
  | bootctlMain (src : RegSource)
  /-- Raises SVNFLOOR to the running image's SVN. (R499) -/
  | bootctlRaiseSvn (src : RegSource)
  /-- Fuses an owner key slot with a digest, or is refused. (R499) -/
  | bootctlFuseOwner (src : RegSource) (slot : Nat) (addr : Nat)
  /-- Revokes an owner key slot, or is refused. (R499) -/
  | bootctlRevokeOwner (src : RegSource) (slot : Nat)
  /-- Raises OWNMODE, or is refused. (R499) -/
  | bootctlSetOwnmode (src : RegSource) (mode : Nat)
  /-- The leader writes a signed attestation report into the buffer and sets DONE. (R500) -/
  | attcmdGo (addr : Nat)
  /-- A lighthouse writes an ASID or link key slot. (R501) -/
  | keySlotWrite (slot : Nat) (key : List Byte)
  /-- An island's clock changes at a bundle boundary within 2 µs. (R505) -/
  | islandClockChange (n : Nat)
  /-- Every 100 µs the leader lowers or raises island clocks against the power cap. (R506) -/
  | cappingCheck
  /-- An island at 105 °C is held at 470 MHz, and at 115 °C the package resets. (R506) -/
  | thermalTrip (n temp : Nat)
  /-- A corrected or uncorrectable error is counted and may take a unit out of service. (R503) -/
  | eccError (where_ : UnitId) (uncorrectable : Bool)
  /-- A write to a register with no row of its own sets its fields by their access codes. (R6) -/
  | registerWrite (r : Reg) (v : Word) (src : RegSource)
  /-- A trigger move whose OPC holds no operation in its unit's map raises ILLEGAL_OP at its bundle. (R87) -/
  | illegalOp (h : Hdr) (u : FU) (opc : BitVec 8)
  /-- A move word with a nonzero OPC on a destination that is not a trigger port raises ILLEGAL_MOVE with reason 7. (R92) -/
  | illegalMove (w : HWord) (reason : Nat)
  /-- A host port's PCIe or CXL link trains and comes up again after being down, so held MSI-X events on it can be sent and outbound traffic
  resumes. `cxl` is the mode that its strap or a reconfiguration selects. (R402, R411) -/
  | hostLinkUp (port : Nat) (cxl : Bool)
  /-- A Shumbivia port completes training, or retrains at two lanes after a lane fault, and joins the set of ports that are up. (R479) -/
  | shumbiviaPortUp (port : Nat) (twoLanes : Bool)
  deriving DecidableEq, Repr

end Sys2Proof
end

