-- ==== Sys2Proof/Machine/State.lean ====
section
/-! DEFINITION. The state of the device as plain data: the thread slots and cores (spec/01), the storage and engines beside
them (spec/05 to spec/16), and the package (spec/17 to spec/22). The core in focus stands apart from the others (log 3). -/

set_option autoImplicit false
set_option Elab.async false

namespace Sys2Proof.Machine

/-! ## Stops -/

/-- Why a step stops: no step of this device does. What a unit of the device reads past the end of device memory is a free value, and what it
writes there is lost (log 76). -/
inductive Fault where
  deriving DecidableEq, Repr

/-- Why an instruction is refused. -/
inductive Refusal where
  /-- Raised by an arm of `exec` whose instruction has no meaning yet. Safe: nothing is concluded from it. -/
  | notModelled (mnemonic : String)
  deriving DecidableEq, Repr

/-! ## Thread slots (R25, R37) -/

/-- An operation in flight (R20): the core cycles since its trigger, the least and greatest latency, and its results. -/
structure Flight where
  /-- The opcode, by which trap entry knows a divide (R245, R248). -/
  opc : Nat
  age : Nat
  lo : Nat
  hi : Nat
  q : Word
  q2 : Word
  deriving DecidableEq, Repr

/-- The latches of one unit in one slot (R13), its valid bit (R19) and its operation in flight. -/
structure Lat where
  a : Word
  b : Word
  c : Word
  t : Word
  q : Word
  q2 : Word
  valid : Bool
  fly : Option Flight
  deriving DecidableEq, Repr

/-- The per-slot CSRs that the context image holds, in CSR-number order (R38, R247). -/
structure Csrs where
  xstat : Word
  fflags : Word
  frm : Word
  srseed : Word
  wrr : Word
  iret : Word
  codelim : Word
  lc0 : Word
  lb0 : Word
  le0 : Word
  lc1 : Word
  lb1 : Word
  le1 : Word
  rpc : Word
  rpb : Word
  estat : Word
  epc : Word
  cause : Word
  tval : Word
  uvec : Word
  svec : Word
  deriving DecidableEq, Repr

/-- The states of a slot (R26); Halted is the core's debug module's (`Debug.halted`). -/
inductive RunState where
  | free | ready | issuing | stalled | blocked
  deriving DecidableEq, Repr

/-- Where execution goes after a bundle: on with end checks (R31); to a taken branch's target after the bubble (R123); to
the bundle after a loop or repetition trigger, with no end check (R31); nowhere, the activation having ended (R229);
or to a handler or a resumed bundle (R246, R252). -/
inductive Flow where
  | seq | branch | loopSet | ended | entered
  deriving DecidableEq, Repr

/-- Where a byte is stored: a core's own memory, device memory, host memory, or that of another device of the domain, each with the key
slot of a confidential page (R467), 0 for none. -/
inductive Home where
  | core (c : CoreId) (off : Nat)
  | device (pa : Nat) (key : Nat)
  | host (addr : Nat) (key : Nat)
  | remote (dev addr : Nat) (key : Nat)
  deriving DecidableEq, Repr

/-- An entry of a slot's store FIFO (R139, R332). `scope` is set for `strel` (R140), `va` is the address as issued; `more` says that the
entry behind it belongs to the same doubleword, whose bytes are performed as one (R166). -/
structure StoreEntry where
  home : Home
  bytes : List Byte
  scope : Option Nat
  qm : Bool
  va : Word
  more : Bool
  deriving DecidableEq, Repr

/-- A bundle held in the repetition buffer (R33): its address and its moves with their long-immediate words. -/
structure RepBundle where
  addr : Word
  moves : List (HWord × List HWord)
  nwords : Nat
  deriving DecidableEq, Repr

/-- The blocked trigger of a slot (R241) and the tick at which its wait began (R381). `value` is what a release handed to it:
the word that satisfied a `sy.wait` (R225), a counter (R225), a superstep number (R299) or a group's generation (R223). `held` are
the bytes that the trigger has read and keeps while it waits (R212, R218). -/
structure Wait where
  unit : FU
  opc : BitVec 8
  value : Option Word
  held : List Byte
  deriving DecidableEq, Repr

/-- A delivery of an Undertow that a slot has not taken yet (R393): DEADLOCK, WAIT_DEAD or WAIT_STOPPED, the address of its fault record, the
die whose Undertow delivered it, and the generation of the wait that it is for. -/
structure Delivery where
  code : Nat
  addr : Word
  die : Nat
  gen : Nat
  deriving DecidableEq, Repr

/-- Pending async traps (R242), each with its `tval`. -/
structure Pending where
  debugHalt : Option Word
  preempt : Bool
  undertow : Option Delivery
  signals : List Word
  /-- Ticks since the last TIMER taken; zero when none is pending. -/
  timer : Nat
  deriving DecidableEq, Repr

/-- The keyed activation a slot or queue entry runs (R364 to R372). -/
structure KeyRun where
  stage : Nat
  key : Word
  set : Nat
  way : Nat
  retire : Bool
  deriving DecidableEq, Repr

/-- A thread slot. -/
structure Slot where
  x : Vector Word 32
  v : Vector VWord 32
  o : Vector Word 8
  g : Vector Bool 4
  lats : Vector Lat 14
  va : VWord
  vb : VWord
  vc : VWord
  vq : VWord
  csr : Csrs
  run : RunState
  /-- Address of the next bundle; while a bundle executes, of that bundle (B of R122). -/
  pc : Word
  /-- Where the executing bundle leads: NEXT of R122, or a taken branch's target. -/
  npc : Word
  /-- NEXT of the bundle last opened, whatever its branch did (R122). -/
  next : Word
  flow : Flow
  /-- A trap to be raised once the bundle has completed (R240, kind after). -/
  after : Option (Nat × Word)
  /-- A CSR write that takes effect at the end of the bundle (R232): number and value. -/
  csrw : Option (Nat × Word)
  /-- `srseed` after the roundings of the bundle, written at its end (R60). -/
  seedw : Option Word
  /-- Triggers that a trap return has to issue again (R252), the divide first. -/
  reissue : List (FU × BitVec 8)
  wait : Option Wait
  since : Nat
  link : Option (CoreId × Nat)
  sb : List StoreEntry
  rep : List RepBundle
  /-- Consecutive stalled core cycles (R27). -/
  stall : Nat
  /-- Core cycles since the slot was selected (R27; log 14). -/
  issued : Nat
  /-- Core cycles of the taken-branch bubble still to come (R123). -/
  bubble : Nat
  yielded : Bool
  pend : Pending
  key : Option KeyRun
  helper : Option Nat
  /-- The slot was parked by `sy.tret` and its image is its resumable state (R255). -/
  parked : Bool
  /-- `epc` of the CTX_INTEGRITY entry, where one was raised: the context dies when the activation ends (R253, R260). -/
  badImage : Option Word
  deriving DecidableEq, Repr

/-! ## Cores -/

/-- An entry of the activation queue (R292): KIND, entry address, and the words x21, x22, x23 receive. -/
structure Activation where
  kind : Nat
  entry : Word
  a1 : Word
  a2 : Word
  a3 : Word
  helper : Option Nat
  key : Option KeyRun
  deriving DecidableEq, Repr

/-- A helper ID (R228): held until joined; live until its `tend`; then its exit value. -/
structure Helper where
  held : Bool
  live : Bool
  slot : Option Nat
  exit : Word
  deriving DecidableEq, Repr

/-- An entry of the vector queue (R162): its slot, opcode, results and flags, the core cycles since its trigger, the latency, and
the least and the greatest delay of its load's data beyond the next cycle. It has been bound; it has completed, and leaves the queue
once those before it have left; it is void, its slot having returned from the handler that triggered it (R165). -/
structure VEntry where
  slot : Nat
  opc : BitVec 8
  q : VWord
  q2 : Word
  flags : Nat
  age : Nat
  lat : Nat
  ready : Nat
  late : Nat
  bound : Bool
  done : Bool
  void : Bool
  deriving DecidableEq, Repr

/-- The four states of a channel entry (R209). -/
inductive EntryState where
  | free | reserved | arrived | taken
  deriving DecidableEq, Repr

/-- A match-table entry (R215): the operands `t`, `a` and `b` of `ch.match`. -/
structure MatchEntry where
  t : Word
  a : Word
  b : Word
  deriving DecidableEq, Repr

/-- A channel entry (R209), with the match-table entry whose task it is marked for, and that entry's index (R215). -/
structure ChanEntry where
  state : EntryState
  resv : Nat
  mark : Option (Nat × MatchEntry)
  deriving DecidableEq, Repr

/-- A receive channel with its descriptor (R208), the senders waiting for an entry in order (R212), the slots waiting in `recv` in the
order of their triggers (R213), and its queue party's wait reason (R380). -/
structure Channel where
  declared : Bool
  base : Nat
  eng : Bool
  smode : Nat
  sender : Nat
  owner : Nat
  entries : List ChanEntry
  next : Nat
  /-- Slots waiting for a free entry, oldest first: core and slot. -/
  queue : List (CoreId × Nat)
  recvq : List Nat
  wrr : Word
  since : Nat
  deriving DecidableEq, Repr

/-- A system notice (R214): header and payload. -/
structure Notice where
  header : Word
  p0 : Word
  p1 : Word
  deriving DecidableEq, Repr

/-- A berth descriptor (R205). -/
structure Berth where
  base : Nat
  slotb : Nat
  n : Nat
  pi : Nat
  ci : Nat
  prod : Nat
  cons : Nat
  flags : Nat
  deriving DecidableEq, Repr

/-- A range-lock table entry (R326). -/
structure RangeLock where
  start : Nat
  stop : Nat
  write : Bool
  queue : Nat
  seq : Nat
  deriving DecidableEq, Repr

/-- A line of an instruction cache (R315): its ASID, its address and its sixteen words. -/
structure CodeLine where
  asid : Nat
  va : Nat
  words : List HWord
  deriving DecidableEq, Repr

/-- The context of a job on a core (R258): its launch record, its context ID (R466), and the state of its presence. -/
structure Ctx where
  record : Nat
  cid : Nat
  /-- Index of the role in the role table (R287). -/
  role : Nat
  dead : Bool
  /-- PREEMPT has been sent: later messages go to the spill buffer (R254). -/
  preempting : Bool
  /-- The core's part of the job is done (R229). -/
  done : Bool
  deriving DecidableEq, Repr

/-- An event counter's selection (R237) and its count. -/
structure Perf where
  event : Nat
  all : Bool
  slot : Nat
  count : Word
  deriving DecidableEq, Repr

/-! ## Matrix units (R341 to R355) -/

/-- A sub-tile in the fetch buffer (R346): where it starts along K, and the element codes of A, B and the block scales. -/
structure FetchBuf where
  k0 : Nat
  a : List (List Nat)
  b : List (List Nat)
  scales : List (Nat × Nat)
  deriving DecidableEq, Repr

/-- An accepted matrix command (R187): its class, the four parts of its word (R184), its sequence number, the record an
`mscale` read (R186), the earlier commands an `mbar` waits for, and how far it has come. -/
structure MCmd where
  cls : Nat
  p : Word
  q : Word
  c : Word
  t : Word
  seq : Nat
  layout : List Word
  before : List (Nat × Nat)
  /-- Counters of `mbar`s that have completed behind it and are incremented after it (R354). -/
  owed : List Nat
  /-- Elements along K that have executed. -/
  kdone : Nat
  /-- The sub-tile fetched for the next step. -/
  buf : Option FetchBuf
  /-- Every step has ended. -/
  ended : Bool
  flags : Nat
  deriving DecidableEq, Repr

/-- A core's matrix command queue (R91, R341): commands oldest first, the next sequence number, the last one completed, the
sticky flags, the arbiter's `cur`, the queue party's wait reason, the accumulator slots the core owns (R287), and the slots whose
triggers wait for acceptance, oldest first, with the record that an `mscale` has read (R91, R186). -/
structure MatQ where
  cmds : List MCmd
  next : Nat
  last : Nat
  flags : Nat
  cur : Int
  wrr : Word
  since : Nat
  accFirst : Nat
  accCount : Nat
  waiting : List (Nat × List Word)
  deriving DecidableEq, Repr

/-- What the cores of an octet share: accumulators by slot × 8192 + row × 64 + column, +0 where no entry stands, and scale
memory (R323, R341). -/
structure Octet where
  acc : List (Nat × HWord)
  scale : Memory
  deriving DecidableEq, Repr

/-! ## Stream engines (R199 to R204) -/

/-- A record being streamed: its 64 bytes, its sequence number, whether its start condition has been met, the slots committed at each
target, and the part of the stream that has been read and not yet written at every target, with where it begins (R201). -/
structure StreamRun where
  bytes : List Byte
  seq : Nat
  started : Bool
  done : List (Nat × Nat)
  buf : List Byte
  first : Nat
  /-- Bytes of the slot being written that stand in it (R318). -/
  wrote : Nat
  /-- A cancel has come: the record stops at its next slot boundary (R203). -/
  ending : Bool
  deriving DecidableEq, Repr

/-- A quay core's stream engine: the run queue, the record running, the error that stopped it, the next sequence number and the last
one ended, the engine party's wait reason, the order in which queued records and those of channels became available (R204: none for
the run queue, else the channel), and the slots whose triggers wait for a place, with the record they have read (R202). -/
structure Stream where
  queue : List (Nat × List Byte)
  run : Option StreamRun
  err : Option Nat
  next : Nat
  seq : Nat
  wrr : Word
  since : Nat
  order : List (Option Nat)
  waiting : List (Nat × List Byte)
  deriving DecidableEq, Repr

/-! ## The core -/

/-- A translation held by a TLB (R459): address space, virtual page, page size, physical address of the page, rights, and the
function. -/
structure TlbEntry where
  asid : Nat
  vf : Nat
  va : Nat
  pte : Word
  size : Nat
  deriving DecidableEq, Repr

/-- A debug module's halt state (R482): why it halted, and whether it halts again after one bundle (R487). -/
structure Debug where
  halted : Bool
  cause : Nat
  /-- The breakpoint that matched (R481). -/
  bpn : Nat
  slot : Nat
  step : Bool
  err : Bool
  /-- Another member of the halt group has halted, and this core has yet to halt with it (R488). -/
  cross : Bool
  /-- Trace packets of a confidential job collected for the next sealed block (R493). -/
  trace : List Word
  /-- Trace packets dropped since the last one written (R492). -/
  lost : Nat
  /-- Blocks sealed since TEN was set (R493). -/
  block : Nat
  deriving DecidableEq, Repr

/-- A core with its four slots (R11, R25, R37). -/
structure Core where
  slots : Vector Slot 4
  cur : Fin 4
  cycle : Word
  vqw : Word
  mqw : Word
  /-- `coord` without the slot field (R42). -/
  coord : Word
  actq : List Activation
  helpers : Vector Helper 10
  vq : List VEntry
  /-- The quad arbiter's `cur` of this core (R163), and whether the arbiter has chosen in its current core cycle. -/
  vcur : Int
  arb : Bool
  chans : Vector Channel 16
  matchTab : Vector (Option MatchEntry) 16
  notices : List Notice
  /-- Notices waiting outside the full buffer (R214). -/
  outside : List Notice
  berths : Vector (Option Berth) 16
  mem : Memory
  /-- Full doublewords, by doubleword number (R147). -/
  tags : List Nat
  /-- Lock bits held, by bank × 64 + bit, with the holder's core and slot (R141). -/
  locks : List (Nat × CoreId × Nat)
  /-- Requests for lock bits in the order they reached the bank (R142). -/
  lockq : List (Nat × CoreId × Nat)
  ranges : List RangeLock
  icache : List CodeLine
  /-- Lines of code, and save areas by slot, that hold an uncorrectable error (R251, R314). -/
  badLines : List (Nat × Nat)
  badAreas : List Nat
  perf : Vector Perf 8
  /-- Dispenser requests outstanding (R230). -/
  dreqs : Nat
  ctx : Option Ctx
  mq : MatQ
  stream : Stream
  tlb : List TlbEntry
  dbg : Debug
  /-- Stopped by `sy.halt` (R236). -/
  stopped : Bool
  /-- Core cycles of a slot-switch bubble still to come (R27). -/
  swap : Nat
  /-- A page fault of a stream engine being served in the background (R461): the tag of its page request. -/
  prq : Option Nat
  deriving DecidableEq, Repr

/-! ## Fabric and jobs -/

/-- A message on its way (R212): the sender and its job, the destination, the entry reserved there, header, destination word,
payload. -/
structure Msg where
  job : Option Nat
  src : CoreId
  slot : Nat
  dst : CoreId
  chan : Nat
  entry : Option Nat
  resv : Nat
  header : Word
  dest : Word
  payload : List Byte
  deriving DecidableEq, Repr

/-- A push whose bytes are on their way, or a pull likewise (R198). -/
structure Copy where
  src : CoreId
  slot : Nat
  /-- The core whose memory is written, and the offset. -/
  dst : CoreId
  off : Nat
  bytes : List Byte
  /-- The far end's core and berth in berth form. -/
  berth : Option (CoreId × Nat)
  ctr : Option Nat
  deriving DecidableEq, Repr

/-- A keyed record (R218): stage, key, header (R368) and payload. -/
structure KRec where
  stage : Nat
  key : Word
  header : Word
  payload : List Byte
  deriving DecidableEq, Repr

/-- A record routed to a cluster and not yet arrived (R218, R364). -/
structure Emit where
  src : CoreId
  slot : Nat
  die : Nat
  cluster : Nat
  krec : KRec
  deriving DecidableEq, Repr

/-- Where a record in a Hamper stands: the record of its queued key, behind its key, in the overflow queue, or behind a
held set (R364, R365). -/
inductive KPlace where
  | active | behind | overflow | heldSet
  deriving DecidableEq, Repr

/-- States of a Hamper entry (R363). -/
inductive HState where
  | idle | running | queued | retiring
  deriving DecidableEq, Repr

/-- A Hamper entry in a way (R362). -/
structure HEntry where
  stage : Nat
  key : Word
  rpc : Word
  st : HState
  carry : List Word
  loc : List Byte
  tidle : Nat
  /-- The core the entry's activation was handed to (R367). -/
  core : Option CoreId
  deriving DecidableEq, Repr

/-- A set held by a spill transfer (R366): writing a victim to its bucket, or fetching a bucket. -/
inductive HHold where
  | victim (way : Nat)
  | fetch (stage : Nat) (key : Word) (drain : Bool)
  deriving DecidableEq, Repr

/-- A cluster's Hamper (R356 to R376): entries by set × 8 + way; records in arrival order; each set's filter and SCOUNT; free
credits by stage; credit requests waiting; the activations it keeps; the sets held; the drains to count at the end. -/
structure Hamper where
  record : Option Nat
  ways : List (Nat × HEntry)
  recs : List (KRec × KPlace)
  filters : List (Nat × Nat)
  scount : List (Nat × Nat)
  credits : List (Nat × Nat)
  requests : List (Nat × CoreId × Nat)
  kept : List (Nat × Bool)
  holds : List (Nat × HHold)
  wrr : List (Nat × Word)
  since : List (Nat × Nat)
  deriving DecidableEq, Repr

/-- How far a transfer has come (R297). -/
inductive TState where
  | waiting | active | done
  deriving DecidableEq, Repr

/-- A transfer of an exchange phase (R296, R297): its slot, the source party, the issuer and its plan entry number, the two ends with the
logical devices on which they stand, its physical links, and how far it has come. -/
structure Transfer where
  xslot : Nat
  party : Nat
  entry : Nat
  issuer : CoreId
  srcDev : Nat
  dstDev : Nat
  src : CoreId
  soff : Nat
  dst : CoreId
  doff : Nat
  len : Nat
  links : List Nat
  state : TState
  counted : Bool
  /-- The fabric cycle after T0 at which it ends. -/
  stop : Nat
  /-- Units that wait for a range lock (R319), by offset. -/
  units : List (Nat × List Byte)
  deriving DecidableEq, Repr

/-- A request to the dispenser (R230): the core and slot, the grid, and the future word. -/
structure DReq where
  core : CoreId
  slot : Nat
  grid : Nat
  tgt : CoreId
  off : Nat
  deriving DecidableEq, Repr

/-- A drain that counts once its stage holds no key (R220). -/
structure DrainWait where
  stage : Nat
  die : Nat
  ctr : Nat
  deriving DecidableEq, Repr

/-- A slot that pre-emption has parked (R254): its party, what its activation runs, and its pending traps. -/
structure Parked where
  party : Nat
  key : Option KeyRun
  helper : Option Nat
  pend : Pending
  deriving DecidableEq, Repr

/-- What runs of a job beside its cores (R286 to R302, R379): the mapping of logical dies and clusters, the cores with a
role, its copied sets and groups with their generations, the superstep, the exchange phase, the dispenser's positions and
requests, the drains it owes, spilled messages, and its flags. -/
structure Job where
  dies : List Nat
  clusters : List Nat
  cores : List CoreId
  sets : List (List Nat)
  bars : List (Nat × Nat)
  barGen : List Nat
  superstep : Nat
  phase : Option (List Transfer)
  grids : List Nat
  dreqs : List DReq
  drains : List DrainWait
  spilled : List Msg
  /-- Messages that found MSPILL full (R305). -/
  held : List Msg
  frozen : Bool
  /-- Whole-job pre-emption asked for (R254). -/
  parking : Bool
  parkedCores : List CoreId
  /-- No bundle of the compute phase has issued since the last exchange, and only control contexts were parked (R289). -/
  boundary : Bool
  /-- Fabric cycles since T0 of the exchange phase (R296). -/
  fabric : Nat
  /-- The exchange phase has ended and its slacks are not yet released (R299). -/
  release : Bool
  parked : List Parked
  /-- Notices that waited outside a copied core's buffer, by party of its slot 0. -/
  notes : List (Nat × Notice)
  /-- The tick of arming, and the tick up to which time slices have been counted (R442). -/
  armedAt : Nat
  sliced : Nat
  /-- The counters of the grant as arming found them, where CZ sets them to zero (R303). -/
  ctrBase : List (Nat × Word)
  /-- Spilled keys that a drain has named and that found no way: logical cluster, stage and key (R220, R366). -/
  late : List (Nat × Nat × Word × Nat)
  deriving DecidableEq, Repr

/-! ## The package -/

/-- A party as a chase names it (R378): the record in whose job it is read, 4,096 for none, and its party ID. -/
structure Party where
  job : Nat
  pid : Nat
  deriving DecidableEq, Repr

/-- A link of a chain (R387, R396): a party, its `wrr` when read, what the next party was found to be (END), and that party. -/
structure Link where
  who : Party
  wrr : Word
  stop : Nat
  next : Party
  deriving DecidableEq, Repr

/-- A chase that found a stuck chain and awaits confirmation (R387, R391): the chain from the initiator, its kind of end (1 cycle, 2
dead, 3 stopped, 4 quiescent) and the party there, every party found Blocked with its generation (the initiator first), every party
found dead (2) or stopped (3), every job found quiescent with its epoch, and when confirmation began. -/
structure Chase where
  links : List Link
  kind : Nat
  target : Party
  read : List (Party × Nat)
  ends : List (Party × Nat)
  quiets : List (Nat × Nat)
  since : Nat
  deriving DecidableEq, Repr

/-- The Undertow of a die (R385): its candidates in order, each with the generation of its wait and the tick at which it became one;
the chase awaiting confirmation; when the last chase from each waiting party ended without a delivery; chains written without delivery (R394);
the waits whose chase ended with a delivery. -/
structure Undertow where
  cands : List (Party × Nat × Nat)
  chase : Option Chase
  last : List (Party × Nat × Nat)
  written : List (List (Party × Nat))
  /-- Waits whose chases ended with a delivery, each with the wait that it was delivered to. -/
  told : List (Party × Nat × Party × Nat)
  deriving DecidableEq, Repr

/-- A lighthouse (R445, R446): when it sent its last successful renewal or received one, when it last sent one, the weight that
acknowledged that, the highest epoch seen, the epoch it voted in, whether its lease has lapsed and its side of a split lost quorum (R447),
and when it last asked for votes. -/
structure Lighthouse where
  sent : Nat
  weight : Nat
  renewed : Nat
  epoch : Nat
  voted : Nat
  lapsed : Bool
  outOfQuorum : Bool
  asked : Nat
  deriving DecidableEq, Repr

/-- A piece of an inbound write (R339): its byte offset in the request, where it goes, its bytes, and how far it has come: 0 held, 1 left,
2 acknowledged. -/
structure Piece where
  num : Nat
  route : Nat
  addr : BarAddr
  bytes : List Byte
  stage : Nat
  /-- The place of its leaving in the order in which pieces of the port left. -/
  left : Nat
  deriving DecidableEq, Repr

/-- An inbound write at an ordering point (R339, R413): a CXL.mem write follows no other (R403), and a refused one takes its place and has no
effect (R416). -/
structure HostWrite where
  wid : Nat
  ro : Bool
  ido : Bool
  rid : Nat
  mem : Bool
  void : Bool
  pieces : List Piece
  deriving DecidableEq, Repr

/-- A piece of an inbound read that crosses stripes (R414): its byte offset in the request, its route, its address and length, and the bytes
it has returned. -/
structure ReadPiece where
  num : Nat
  route : Nat
  addr : Nat
  len : Nat
  got : Option (List Byte)
  deriving DecidableEq, Repr

/-- How an inbound read has completed (R406, R414, R416). -/
inductive Reply where
  | data (bs : List Byte)
  | completerAbort
  | unsupported
  deriving DecidableEq, Repr

/-- A host port (R399 to R417): its link, its CXL mode (R402), the virtual functions it enabled, the requests at its ordering
point in arrival order, reads held there, the next request number, and completions returned to the host. -/
structure HostPort where
  up : Bool
  cxl : Bool
  numVfs : Nat
  writes : List HostWrite
  wid : Nat
  /-- Pieces that have left. -/
  leaves : Nat
  /-- Reads whose pieces are on their way, by request number. -/
  reads : List (Nat × List ReadPiece)
  /-- The completion of the last read. -/
  reply : Option Reply
  /-- Lanes out of service (R504). -/
  lanes : List Nat
  deriving DecidableEq, Repr

/-- A front-end queue (R426 to R438): the descriptor copy it keeps while resident, the tick since which it is pending, where it is, its packet in
course while that waits, the marks of satisfied fence entries, the device word that a wait packet watches with its key slot, whether
a write has made its COND true (R437), whether its wait is to be tested afresh when it regains a slot (R438), the record in whose job
its releasers are read (log 37), its wait reason, and the page request it waits on. -/
structure FQueue where
  resident : Bool
  desc : List Byte
  pendingSince : Option Nat
  waiting : Option (List Byte)
  marks : List Nat
  watch : Option (Nat × Nat)
  hit : Bool
  fresh : Bool
  job : Option Nat
  wrr : Word
  since : Nat
  prq : Option Nat
  deriving DecidableEq, Repr

/-- A DMA or collective engine (R418, R473): the descriptor in course, read at its start; the wait reason; the page request
it waits on. -/
structure Engine where
  run : Option (List Byte)
  wrr : Word
  since : Nat
  prq : Option Nat
  /-- EN was cleared while a descriptor ran: stop after it (R418). -/
  stopping : Bool
  /-- Bytes of the running descriptor already written (R420, R422). -/
  off : Nat
  /-- What descriptors of the ring have overwritten, oldest first, with their index and TAIL at that time: an unfenced descriptor between the
  two may still read it (R421). -/
  before : List (Nat × Nat × Home × List Byte)
  deriving DecidableEq, Repr

/-- An entry of a leg table (R440, log 38): NDEP of the leg it stores, PEND since the queue was reset, whether a leg stands in it and has
fired, its record, successors and input ranges. -/
structure Leg where
  ndep : Nat
  pend : Int
  stored : Bool
  fired : Bool
  record : Nat
  succ : List Nat
  ranges : List (Nat × Nat)
  deriving DecidableEq, Repr

/-- The count of a leg (R440). -/
def Leg.count (l : Leg) : Int := l.ndep + l.pend

/-- An outstanding page request (R462): its tag, address, access and requester. -/
inductive Requester where
  | stream (c : CoreId)
  | dma (die e : Nat)
  | queue (q : Nat)
  | coll (die : Nat)
  deriving DecidableEq, Repr

/-- A flit as it was sent, kept for replay (R470, R478): SEQ, KG, the physical address that selects its plane, the bytes that its request or
response carries, and TAG. -/
structure Flit where
  seq : Nat
  kg : Bool
  pa : Nat
  body : List Byte
  tag : List Byte
  deriving DecidableEq, Repr

/-- A Shumbivia port (R469 to R479): up, its width code, the key generations it sends and receives under, the two key slots of each direction,
empty or loaded, whether the peer has confirmed the new generation, the next flit number to send and those expected under each key, the flits
of its replay buffer with their key generation and the address that selects their plane, and the replays of one flit that failed in a row. -/
structure ShumPort where
  up : Bool
  width : Nat
  kg : Bool
  rkg : Bool
  keys : List (Option (List Byte))
  rkeys : List (Option (List Byte))
  confirmed : Bool
  sent : Nat
  expect : List Nat
  replay : List Flit
  tries : Nat
  /-- The flit number from which a replay has been asked for (R470). -/
  wants : Option Nat
  /-- The flit that the peer last asked for again, and how often in a row (R479). -/
  again : Nat × Nat
  /-- What waits for a rollover, since no SEQ is left under the key (R478). -/
  held : List (Nat × List Byte)
  deriving DecidableEq, Repr

/-- A BIST failure or field failure record in the flash fault log (R502 to R504): the unit, the test or cause, whether it
was taken out of service, the address, and the tick. -/
structure LogEntry where
  unit : UnitId
  test : Nat
  result : Nat
  addr : Word
  time : Nat
  deriving DecidableEq, Repr

/-- The image that boot selected (R498, R500): its digest, security version and key selector. -/
structure Image where
  digest : List Byte
  svn : Nat
  keysel : Nat
  deriving DecidableEq, Repr

/-- What reset leaves as it is (R496): the flash's image slots and fault log, and the fuses of R499. -/
structure Persistent where
  slotA : Memory
  slotB : Memory
  slotR : Memory
  log : List LogEntry
  svnFloor : Nat
  ownMode : Nat
  owners : List (Option (List Byte))
  revoked : List Nat
  recoveryNext : Bool
  deriving DecidableEq, Repr

/-- Bytes of device or host memory that a slot, an agent off their home, still sees as they were (R333): the slot, their home, the bytes. -/
structure Unseen where
  who : CoreId
  slot : Nat
  home : Home
  old : List Byte
  deriving DecidableEq, Repr

/-- An event the environment offers next (log 3): the core and slot in whose context it comes about, and the row. -/
structure Event where
  core : CoreId
  slot : Fin 4
  op : Instr
  deriving DecidableEq, Repr

/-- What the moves of the bundle in issue carry (log 4): for each move still to execute its guard and its source value, both
as they stood at the start of the cycle (R17); the first trap a trigger raised; whether one must stall. -/
structure Bus where
  vals : List (Bool × VWord)
  raised : Option (Nat × Word)
  stalled : Bool
  deriving DecidableEq, Repr

/-- The device. -/
structure State where
  /-- The core in focus, and which one it is; `others` holds the rest, one that is absent being as reset leaves it. -/
  core : Core
  coreId : CoreId
  others : List (CoreId × Core)
  /-- Reference ticks since reset (R5), and the part of the next one that has passed: `subtick` of `subden` parts. -/
  time : Nat
  subtick : Nat
  subden : Nat
  regs : List (Reg × Word)
  dm : Memory
  hm : Memory
  ctrs : List (Nat × Word)
  octets : List (Nat × Octet)
  hampers : List (Nat × Hamper)
  ccache : List (Nat × List CodeLine)
  jobs : List (Nat × Job)
  /-- Records armed and not yet placed, in arming order (R291). -/
  armed : List Nat
  /-- The epoch of each job and whether the job was quiescent after the last step (R389). -/
  epochs : List (Nat × Nat × Bool)
  msgs : List Msg
  emits : List Emit
  pushes : List Copy
  pulls : List Copy
  /-- What slots have yet to see of performed stores, oldest first (R333). -/
  unseen : List Unseen
  undertows : List (Nat × Undertow)
  lights : List (Nat × Lighthouse)
  leader : Option Nat
  /-- One side of a divided package (R447). -/
  split : Option (List Nat)
  ports : List (Nat × HostPort)
  queues : List (Nat × FQueue)
  legs : List (Nat × Leg)
  dma : List (Nat × Engine)
  coll : List (Nat × Engine)
  tlbs : List (Nat × List TlbEntry)
  /-- The invalidation in progress (R460): OP, ASID, first page and pages. -/
  inval : Option (Nat × Nat × Nat × Nat)
  prqs : List (Nat × Requester)
  prqNext : Nat
  regions : List (Nat × Nat)
  clearing : List Nat
  /-- Low halves written to capability registers that act when their high half is written (R453). -/
  lows : List (Reg × Word)
  deadIds : List Nat
  cidNext : Nat
  shum : List (Nat × ShumPort)
  keySlots : List (Nat × List Byte)
  /-- Key slot writes that wait until no running job names their slot (R501). -/
  keyWaits : List (Nat × List Byte)
  flash : Persistent
  image : Image
  /-- The leader's BIST log: its 16-byte records (R502). -/
  bist : List (List Byte)
  /-- Corrected errors of the last hour, with their banks or row groups and their ticks (R503). -/
  corrected : List (UnitId × Nat)
  /-- The tick of the last capping comparison (R506). -/
  capped : Nat
  errs : List (Nat × Nat)
  oos : List UnitId
  /-- Fault records not yet returned by a RESYNC (R452): physical address and code. -/
  faults : List (Nat × Nat)
  /-- MSI-X messages posted to the host, newest first: port and vector (R411). -/
  msix : List (Nat × Nat)
  /-- Events held for a port of their own, whatever IRQSRC names: source and port (R447). -/
  portIrqs : List (Nat × Nat)
  /-- The BOOTSEL strap, and the units that BIST finds wrong, as they were at the last package reset (R498, R502; log 122). -/
  strap : Bool
  unfit : List BistFail
  /-- Pulses of Tidemark since TEN was set, and the tick at which it was set (R494). -/
  tmPulse : Nat
  tmStart : Nat
  /-- Mailbox commands in course: port, OP and ARG (R444). -/
  mail : List (Nat × Word)
  /-- The last value a debug module returned (R486). -/
  ddata : Word
  inbox : List Event
  bus : Option Bus
  deriving DecidableEq, Repr

/-! ## Reset (R496 and the Reset columns; values the spec does not give: log 1) -/

/-- A latch set right after reset. -/
def Lat.reset : Lat := ⟨0, 0, 0, 0, 0, 0, false, none⟩

/-- The per-slot CSRs at reset (R39 to R47, R250, R380). -/
def Csrs.reset (k : CoreKind) : Csrs where
  xstat := BitVec.ofNat 64 (k.role * 256 + if k = .lighthouse then 3 * 16 else 0)
  fflags := 0
  frm := 0
  srseed := 1
  wrr := 0
  iret := 0
  codelim := 0
  lc0 := 0
  lb0 := 0
  le0 := 0
  lc1 := 0
  lb1 := 0
  le1 := 0
  rpc := 0
  rpb := 0
  estat := 0
  epc := 0
  cause := 0
  tval := 0
  uvec := 0
  svec := 0

/-- No trap pending. -/
def Pending.none : Pending := ⟨Option.none, false, Option.none, [], 0⟩

/-- A slot right after reset: Free, every register zero (log 1). -/
def Slot.reset (k : CoreKind) : Slot where
  x := Vector.replicate 32 0
  v := Vector.replicate 32 0
  o := Vector.replicate 8 0
  g := Vector.replicate 4 false
  lats := Vector.replicate 14 Lat.reset
  va := 0
  vb := 0
  vc := 0
  vq := 0
  csr := Csrs.reset k
  run := .free
  pc := 0
  npc := 0
  next := 0
  flow := .seq
  after := none
  csrw := none
  seedw := none
  reissue := []
  wait := none
  since := 0
  link := none
  sb := []
  rep := []
  stall := 0
  issued := 0
  bubble := 0
  yielded := false
  pend := Pending.none
  key := none
  helper := none
  parked := false
  badImage := none

/-- An undeclared channel. -/
def Channel.reset : Channel := ⟨false, 0, false, 0, 0, 0, [], 0, [], [], 0, 0⟩

/-- A matrix queue right after reset: the next sequence number is 1 (R187); the default accumulator slots (R188). -/
def MatQ.reset (id : CoreId) : MatQ where
  cmds := []
  next := 1
  last := 0
  flags := 0
  cur := 0
  wrr := 0
  since := 0
  accFirst := 2 * (id.idx / 32 % 2 * 4 + id.idx % 4)
  accCount := 2
  waiting := []

/-- A stream engine right after reset. -/
def Stream.reset : Stream := ⟨[], none, none, 1, 0, 0, 0, [], []⟩

/-- The position field of `coord` at reset: the physical position, no job having mapped it (R42, R43). -/
def coordOf (kind : CoreKind) (die idx : Nat) : Word :=
  match kind with
  | .compute =>
    let row := idx / 32
    let col := idx % 32
    BitVec.ofNat 64 (die * 2 ^ 28 + (row / 16 * 2 + col / 16) * 2 ^ 26 + row * 2 ^ 21 + col * 2 ^ 16 +
      (row % 16 * 16 + col % 16) * 2 ^ 8)
  | .quay | .harbour | .lighthouse => BitVec.ofNat 64 (die * 2 ^ 28 + idx * 2 ^ 8)

/-- A core right after reset. -/
def Core.reset (id : CoreId) : Core where
  slots := Vector.replicate 4 (Slot.reset id.kind)
  cur := 0
  cycle := 0
  vqw := 0xF01
  mqw := 0xF01
  coord := coordOf id.kind id.die id.idx
  actq := []
  helpers := Vector.replicate 10 ⟨false, false, none, 0⟩
  vq := []
  vcur := 0
  arb := false
  chans := Vector.replicate 16 Channel.reset
  matchTab := Vector.replicate 16 none
  notices := []
  outside := []
  berths := Vector.replicate 16 none
  mem := []
  tags := []
  locks := []
  lockq := []
  ranges := []
  icache := []
  badLines := []
  badAreas := []
  perf := Vector.replicate 8 ⟨0, false, 0, 0⟩
  dreqs := 0
  ctx := none
  mq := MatQ.reset id
  stream := Stream.reset
  tlb := []
  dbg := ⟨false, 0, 0, 0, false, false, false, [], 0, 0⟩
  stopped := false
  swap := 0
  prq := none

/-- The compute core in focus after reset. -/
def coreZero : CoreId := ⟨.compute, 0, 0⟩

/-- The device right after a package reset (R496): every slot Free, no record armed, memory as log 2 says, flash and fuses
empty (log 1). -/
def State.reset : State where
  core := Core.reset coreZero
  coreId := coreZero
  others := []
  time := 0
  subtick := 0
  subden := 940
  regs := []
  dm := []
  hm := []
  ctrs := []
  octets := []
  hampers := []
  ccache := []
  jobs := []
  armed := []
  epochs := []
  msgs := []
  emits := []
  pushes := []
  pulls := []
  unseen := []
  undertows := []
  lights := []
  leader := none
  split := none
  ports := []
  queues := []
  legs := []
  dma := []
  coll := []
  tlbs := []
  inval := none
  prqs := []
  prqNext := 0
  regions := []
  clearing := []
  lows := []
  deadIds := []
  cidNext := 1
  shum := []
  keySlots := []
  keyWaits := []
  flash := ⟨[], [], [], [], 0, 0, [], [], false⟩
  image := ⟨[], 0, 0⟩
  bist := []
  corrected := []
  capped := 0
  errs := []
  oos := []
  faults := []
  msix := []
  portIrqs := []
  strap := false
  unfit := []
  tmPulse := 0
  tmStart := 0
  mail := []
  ddata := 0
  inbox := []
  bus := none

end Sys2Proof.Machine
end

