-- ==== Sys2Proof/Machine/Access.lean ====
section
/-! DEFINITION. The accessors through which every meaning reads and writes the state: the issuing slot, its registers and
latches, the other cores, and the device's registers. -/

set_option autoImplicit false
set_option Elab.async false

namespace Sys2Proof.Machine

/-- What a step answers. -/
abbrev Out := Host.Outcome State Fault Refusal

/-! ## The issuing slot and the cores -/

/-- The slot in focus. -/
def State.sl (s : State) : Slot := s.core.slots[s.core.cur]

/-- Replaces the slot in focus. -/
def State.setSl (s : State) (t : Slot) : State := { s with core := { s.core with slots := s.core.slots.set s.core.cur t } }

/-- Changes the slot in focus. -/
def State.onSl (s : State) (f : Slot → Slot) : State := s.setSl (f s.sl)

/-- Changes the core in focus. -/
def State.onCore (s : State) (f : Core → Core) : State := { s with core := f s.core }

/-- The entry of a core among the others. -/
def lookCore : List (CoreId × Core) → CoreId → Core
  | [], id => Core.reset id
  | (k, c) :: l, id => if k = id then c else lookCore l id

/-- Puts a core among the others. -/
def putCore : List (CoreId × Core) → CoreId → Core → List (CoreId × Core)
  | [], id, c => [(id, c)]
  | (k, d) :: l, id, c => if k = id then (k, c) :: l else (k, d) :: putCore l id c

/-- Any core of the package. -/
def State.coreAt (s : State) (id : CoreId) : Core := if id = s.coreId then s.core else lookCore s.others id

/-- Replaces a core. -/
def State.setCoreAt (s : State) (id : CoreId) (c : Core) : State :=
  if id = s.coreId then { s with core := c } else { s with others := putCore s.others id c }

/-- Changes a core. -/
def State.onCoreAt (s : State) (id : CoreId) (f : Core → Core) : State := s.setCoreAt id (f (s.coreAt id))

/-- The cores that differ from reset, the one in focus first. -/
def State.cores (s : State) : List (CoreId × Core) := (s.coreId, s.core) :: s.others.filter (fun p => p.1 != s.coreId)

/-- Brings another core into focus. -/
def State.focus (s : State) (id : CoreId) : State :=
  if id = s.coreId then s
  else { s with core := s.coreAt id, coreId := id, others := putCore s.others s.coreId s.core }

/-- A slot of a core, by number. -/
def Core.slot (c : Core) (n : Nat) : Slot := c.slots[(Fin.ofNat 4 n)]

/-- Changes a slot of a core. -/
def Core.onSlot (c : Core) (n : Nat) (f : Slot → Slot) : Core :=
  { c with slots := c.slots.set (Fin.ofNat 4 n) (f (c.slot n)) }

/-- Changes every slot of a core. -/
def Core.onSlots (c : Core) (f : Nat → Slot → Slot) : Core :=
  (((c.onSlot 0 (f 0)).onSlot 1 (f 1)).onSlot 2 (f 2)).onSlot 3 (f 3)

/-! ## Registers and latches (R13, R14, R23, R24) -/

/-- The latches of a unit. -/
def Slot.lat (t : Slot) (u : FU) : Lat := t.lats[(Fin.ofNat 14 u.number)]

/-- Changes the latches of a unit. -/
def Slot.onLat (t : Slot) (u : FU) (f : Lat → Lat) : Slot :=
  { t with lats := t.lats.set (Fin.ofNat 14 u.number) (f (t.lat u)) }

/-- The latches of a unit of the slot in focus. -/
def State.lat (s : State) (u : FU) : Lat := s.sl.lat u

/-- Reads x register `n`; x0 reads zero (R23). -/
def Slot.readX (t : Slot) (n : Fin 32) : Word := if n = 0 then 0 else t.x[n]

/-- Writes x register `n`; a write of x0 is discarded (R23). -/
def Slot.writeX (t : Slot) (n : Fin 32) (w : Word) : Slot := if n = 0 then t else { t with x := t.x.set n w }

/-- Reads a guard; g0 reads 1 (R24). -/
def Slot.readG (t : Slot) (n : Fin 4) : Bool := if n = 0 then true else t.g[n]

/-- Writes a guard; g0 is not writable (R83). -/
def Slot.writeG (t : Slot) (n : Fin 4) (b : Bool) : Slot := if n = 0 then t else { t with g := t.g.set n b }

/-- A 64-bit value on a move: zero-extended (R14). -/
def widen (w : Word) : VWord := w.setWidth 256

/-- A move's value at a 64-bit destination: bits [63:0] (R14). -/
def narrow (v : VWord) : Word := v.setWidth 64

/-- The value a port holds. -/
def Slot.port (t : Slot) (u : FU) (p : Port) : VWord :=
  match u, p with
  | .vp, .a => t.va
  | .vp, .b => t.vb
  | .vp, .c => t.vc
  | .vp, .q => t.vq
  | u, .a => widen (t.lat u).a
  | u, .b => widen (t.lat u).b
  | u, .c => widen (t.lat u).c
  | u, .t => widen (t.lat u).t
  | u, .q => widen (t.lat u).q
  | u, .q2 => widen (t.lat u).q2

/-- Sets the value a port holds. -/
def Slot.setPort (t : Slot) (u : FU) (p : Port) (v : VWord) : Slot :=
  match u, p with
  | .vp, .a => { t with va := v }
  | .vp, .b => { t with vb := v }
  | .vp, .c => { t with vc := v }
  | .vp, .q => { t with vq := v }
  | u, .a => t.onLat u fun l => { l with a := narrow v }
  | u, .b => t.onLat u fun l => { l with b := narrow v }
  | u, .c => t.onLat u fun l => { l with c := narrow v }
  | u, .t => t.onLat u fun l => { l with t := narrow v }
  | u, .q => t.onLat u fun l => { l with q := narrow v }
  | u, .q2 => t.onLat u fun l => { l with q2 := narrow v }

/-- The value of a move's source (R14, R83). -/
def Slot.readSrc (t : Slot) : Src → VWord
  | .x n => widen (t.readX n)
  | .v n => t.v[n]
  | .o n => widen t.o[n]
  | .g n => if t.readG n then 1 else 0
  | .port u p => t.port u p
  | .imm8 b => widen (b.signExtend 64)
  | .imm32 w => widen (w.signExtend 64)
  | .imm64 w => widen w

/-- Writes a move's value to a destination that is no trigger port (R14, R24). -/
def Slot.writeDst (t : Slot) (d : Dst) (v : VWord) : Slot :=
  match d with
  | .x n => t.writeX n (narrow v)
  | .v n => { t with v := t.v.set n v }
  | .o n => { t with o := t.o.set n (narrow v) }
  | .g n => t.writeG n (narrow v != 0)
  | .port u p => t.setPort u p v

/-! ## CSR fields of a slot -/

/-- `xstat`.PRIV (R39). -/
def Slot.priv (t : Slot) : Nat := bits t.csr.xstat 5 4
/-- `xstat`.KIND (R39). -/
def Slot.kind (t : Slot) : Nat := bits t.csr.xstat 1 0
/-- `xstat`.LA0 (R39). -/
def Slot.la0 (t : Slot) : Bool := bit t.csr.xstat 14
/-- `xstat`.LA1 (R39). -/
def Slot.la1 (t : Slot) : Bool := bit t.csr.xstat 15
/-- `rpc`.ACT (R47). -/
def Slot.repActive (t : Slot) : Bool := bit t.csr.rpc 63
/-- `estat`.INH (R250). -/
def Slot.inh (t : Slot) : Bool := bit t.csr.estat 0
/-- `estat`.HLVL (R250). -/
def Slot.hlvl (t : Slot) : Nat := bits t.csr.estat 9 8
/-- The slot holds an activation (R26). -/
def Slot.occupied (t : Slot) : Bool := t.run != .free

/-- Changes the CSRs of a slot. -/
def Slot.onCsr (t : Slot) (f : Csrs → Csrs) : Slot := { t with csr := f t.csr }

/-- Sets the loop levels' active bits. -/
def Slot.setLA (t : Slot) (la1 la0 : Bool) : Slot :=
  t.onCsr fun c => { c with xstat := setBits c.xstat 15 14 (la1.toNat * 2 + la0.toNat) }

/-- Sets `rpc`.ACT. -/
def Slot.setAct (t : Slot) (b : Bool) : Slot := t.onCsr fun c => { c with rpc := setBits c.rpc 63 63 b.toNat }

/-! ## Device registers (R6) -/

end Sys2Proof.Machine

namespace Sys2Proof

/-- The Reset column of the device's registers (R386, R406, R453, R494, R505); an MSI-X
vector is masked, as the PCIe definition that R410 names has it (log 17). -/
def Reg.reset : Reg → Word
  | .devid => Machine.w64 (0x7A11 * 2 ^ 32 + Config.siliconRev.toNat * 2 ^ 16)
  | .udctl => Machine.w64 (2 ^ 31 + 50)
  | .clsceil => 0xFFFFFFFF
  | .region _ => 0x02
  | .vfqos _ => Machine.w64 (2 ^ 24 + 2 ^ 16 + 0xF * 2 ^ 8 + 64)
  | .msixMask _ _ => 1
  | .isl _ => Machine.w64 (940 * 2 ^ 42 + 940 * 2 ^ 31)
  | _ => 0

/-- The memory size of a core kind, LIMIT of R135. -/
def CoreKind.limit : CoreKind → Nat
  | .compute => 0x30000
  | .quay => 0x80000
  | .harbour => 0x100000
  | .lighthouse => 0x40000

end Sys2Proof

namespace Sys2Proof.Machine

/-- A register file's entry. -/
def lookReg : List (Reg × Word) → Reg → Word
  | [], r => r.reset
  | (k, w) :: l, r => if k = r then w else lookReg l r

/-- Puts a register file's entry. -/
def putReg : List (Reg × Word) → Reg → Word → List (Reg × Word)
  | [], r, w => [(r, w)]
  | (k, v) :: l, r, w => if k = r then (k, w) :: l else (k, v) :: putReg l r w

/-- The value a device register holds. -/
def State.reg (s : State) (r : Reg) : Word := lookReg s.regs r

/-- Sets a device register, as the device itself does. -/
def State.setReg (s : State) (r : Reg) (w : Word) : State := { s with regs := putReg s.regs r w }

/-- Sets a field of a device register. -/
def State.setField (s : State) (r : Reg) (hi lo v : Nat) : State := s.setReg r (setBits (s.reg r) hi lo v)

/-! ## Places (R42, R43) -/

/-- The cluster, 0 to 3, of a compute core number row × 32 + column. -/
def clusterOf (idx : Nat) : Nat := idx / 32 / 16 * 2 + idx % 32 / 16

/-- The core index within the cluster of a compute core number. -/
def indexOf (idx : Nat) : Nat := idx / 32 % 16 * 16 + idx % 32 % 16

/-- The compute core number of an index in a cluster. -/
def coreOfIndex (cl i : Nat) : Nat := (cl / 2 * 16 + i / 16) * 32 + (cl % 2 * 16 + i % 16)

/-- The octet number on the die of a compute core number (R43). -/
def octetOf (idx : Nat) : Nat := clusterOf idx * 32 + idx / 32 % 16 / 2 * 4 + idx % 32 % 16 / 4

/-- The core's number in its octet (R188). -/
def inOctet (idx : Nat) : Nat := idx / 32 % 2 * 4 + idx % 4

/-- The cores of an octet of a die, in octet order. -/
def octetCores (die o : Nat) : List CoreId :=
  let cl := o / 32
  let r := cl / 2 * 16 + o % 32 / 4 * 2
  let c := cl % 2 * 16 + o % 4 * 4
  (List.range 8).map fun i => ⟨.compute, die, (r + i / 4) * 32 + c + i % 4⟩

/-- `coord` of a slot (R42). -/
def Core.coordOfSlot (c : Core) (n : Nat) : Word := setBits c.coord 1 0 n

/-- The logical die of a core (R42). -/
def Core.die (c : Core) : Nat := bits c.coord 31 28
/-- The logical row of a core (R42). -/
def Core.row (c : Core) : Nat := bits c.coord 25 21
/-- The logical column of a core (R42). -/
def Core.col (c : Core) : Nat := bits c.coord 20 16
/-- IDX of `coord` (R42). -/
def Core.cidx (c : Core) : Nat := bits c.coord 15 8

/-- The party ID of a slot of a core (R377). -/
def partyOf (id : CoreId) (c : Core) (slot : Nat) : Nat :=
  match id.kind with
  | .compute => c.die * 2 ^ 20 + c.row * 2 ^ 7 + c.col * 4 + slot
  | .quay => c.die * 2 ^ 20 + 2 ^ 16 + c.cidx * 4 + slot
  | .harbour => c.die * 2 ^ 20 + 8 * 2 ^ 16 + c.cidx * 4 + slot
  | .lighthouse => c.die * 2 ^ 20 + 9 * 2 ^ 16

/-- The party ID of the slot in focus. -/
def State.party (s : State) : Nat := partyOf s.coreId s.core s.core.cur

/-- The party ID of a core's matrix queue (R188, R377). -/
def queueParty (c : Core) : Nat :=
  let idx := c.row * 32 + c.col
  c.die * 2 ^ 20 + 2 * 2 ^ 16 + octetOf idx * 8 + inOctet idx

/-- The party ID of a compute core's vector queue (R377). -/
def vectorParty (c : Core) : Nat :=
  c.die * 2 ^ 20 + 3 * 2 ^ 16 + (c.row / 16 * 2 + c.col / 16) * 256 + c.row % 16 * 16 + c.col % 16

/-- The party ID of a quay core's stream engine (R377). -/
def streamParty (c : Core) : Nat := c.die * 2 ^ 20 + 12 * 2 ^ 16 + c.cidx

/-- The party ID of a channel's queue (R377). -/
def chanParty (id : CoreId) (c : Core) (ch : Nat) : Nat :=
  c.die * 2 ^ 20 + 11 * 2 ^ 16 + match id.kind with
    | .compute => c.row * 2 ^ 9 + c.col * 16 + ch
    | .quay => 2 ^ 14 + c.cidx * 16 + ch
    | .harbour | .lighthouse => 2 * 2 ^ 14 + c.cidx * 16 + ch

/-! ## Errors, interrupts and counts -/

/-- Adds one to a counter of a die's Undertow (R386). -/
def State.udCount (s : State) (die i : Nat) : State := s.setReg (.udcnt die i) (s.reg (.udcnt die i) + 1)

/-- Adds to an error counter (R507). -/
def State.countErr (s : State) (n : Nat) : State := { s with errs := put s.errs n (look 0 s.errs n + 1) }

/-- The port whose physical function a source's message goes to, given which ports are up (R411). -/
def irqPort (s : State) (w : Word) : Nat :=
  let p := (bit w 62).toNat
  let down := !((look? s.ports p).map (·.up)).getD false
  if bit w 61 && down then 1 - p else p

/-- The port on which requests of a function leave (R401, R412): a virtual function's own, the physical function's that of the I/O die
that issues them (log 39). -/
def State.fnPort (s : State) (vf die : Nat) : Nat :=
  let n := ((look? s.ports 0).map (·.numVfs)).getD 0
  if vf == 0 then die - 8 else if vf ≤ n then 0 else 1

/-- Where host memory holds the byte at an I/O virtual address under a PASID, on a port (R419, R427, R437; log 89). -/
def hostKey (port pasid a : Nat) : Nat := Config.hostPage port pasid (a / 4096) % 2 ^ 52 * 4096 + a % 4096 + port * 2 ^ 64

/-- An event at an interrupt source sets PEND (R411). -/
def State.raiseIrq (s : State) (src : Nat) : State := s.setField (.irqsrc src) 60 60 1

/-- Adds one to every event counter of a core that counts an event for a slot (R237). -/
def Core.count (c : Core) (e slot : Nat) : Core :=
  if c.dbg.halted then c
  else { c with perf := c.perf.map fun p => if p.event == e && (p.all || p.slot == slot) then { p with count := p.count + 1 } else p }

/-- Counts an event of the slot in focus (R237). -/
def State.count (s : State) (e : Nat) : State := s.onCore fun c => c.count e c.cur

end Sys2Proof.Machine
end

