-- ==== Sys2Proof/Machine/Csr.lean ====
section
/-! DEFINITION. The control and status registers as instructions see them (spec/01_transport_core.md R38 to R47; spec/09 R250; spec/04
R129; spec/08 R232). -/

set_option autoImplicit false
set_option Elab.async false

namespace Sys2Proof.Machine

/-- The CSR number is in the table of R38 and its register exists on the core. -/
def csrKnown (k : CoreKind) (n : Nat) : Bool :=
  n ≤ 8 || (k == .compute && (n == 9 || n == 10)) || (0x10 ≤ n && n ≤ 0x17) || (0x20 ≤ n && n ≤ 0x25)

/-- The User column of R38 says RW. -/
def csrUser (n : Nat) : Bool := n == 1 || n == 2 || n == 3 || n == 9 || n == 10 || n == 0x24

/-- The value of a CSR. -/
def State.csr (s : State) (n : Nat) : Word :=
  let c := s.sl.csr
  match n with
  | 0x00 => c.xstat
  | 0x01 => c.fflags
  | 0x02 => c.frm
  | 0x03 => c.srseed
  | 0x04 => c.wrr
  | 0x05 => s.core.coordOfSlot s.core.cur
  | 0x06 => s.core.cycle
  | 0x07 => c.iret
  | 0x08 => c.codelim
  | 0x09 => s.core.vqw
  | 0x0A => s.core.mqw
  | 0x10 => c.lc0
  | 0x11 => c.lb0
  | 0x12 => c.le0
  | 0x13 => c.lc1
  | 0x14 => c.lb1
  | 0x15 => c.le1
  | 0x16 => c.rpc
  | 0x17 => c.rpb
  | 0x20 => c.estat
  | 0x21 => c.epc
  | 0x22 => c.cause
  | 0x23 => c.tval
  | 0x24 => c.uvec
  | 0x25 => c.svec
  | _ => 0

/-- A value of `rpc` breaks its map, or leaves ACT at 1 (R47, R129). -/
def rpcRefused (w : Word) : Bool :=
  bit w 63 || (bits w 57 52 != 0 && (bits w 62 58 == 0 || 32 < bits w 62 58 + bits w 57 52)) || bits w 47 44 < bits w 43 40 ||
    bits w 35 24 < bits w 11 0

/-- A register refuses a value (R232). -/
def csrRefused (n : Nat) (w : Word) : Bool := (n == 2 && 5 ≤ bits w 2 0) || (n == 0x16 && rpcRefused w)

/-- The weight that a write of W stores: 0 stores 1, and CEIL bounds it (R45). Where CEIL is 0, as a CLSCEIL of 0 makes it (R464), the bound
prevails and W becomes 0, here and in `newCeiling` (DESIGN CHOICE, log 45). -/
def weightWrite (old w : Word) : Word := setBits old 3 0 (min (max 1 (bits w 3 0)) (bits old 11 8))

/-- The fields of `rpc` that a write sets. -/
def rpcWrite (w : Word) : Word :=
  w64 (bits w 63 49 * 2 ^ 49 + bits w 47 40 * 2 ^ 40 + bits w 35 24 * 2 ^ 24 + bits w 11 0)

/-- A vector register's fields (R250). -/
def vecWrite (w : Word) : Word := setBits (bundleAddr w) 0 0 (bits w 0 0)

/-- A write of a per-slot CSR, field by field: RO fields keep their values. -/
def Csrs.write (c : Csrs) (n : Nat) (w : Word) : Csrs :=
  match n with
  | 0x01 => { c with fflags := w64 (bits w 4 0) }
  | 0x02 => { c with frm := w64 (bits w 2 0) }
  | 0x03 => { c with srseed := if w == 0 then 1 else w }
  | 0x08 => { c with codelim := w64 (bits w 51 0) }
  | 0x10 => { c with lc0 := w64 (bits w 31 0) }
  | 0x11 => { c with lb0 := bundleAddr w }
  | 0x12 => { c with le0 := bundleAddr w }
  | 0x13 => { c with lc1 := w64 (bits w 31 0) }
  | 0x14 => { c with lb1 := bundleAddr w }
  | 0x15 => { c with le1 := bundleAddr w }
  | 0x16 => { c with rpc := rpcWrite w }
  | 0x17 => { c with rpb := bundleAddr w }
  | 0x20 => { c with estat := setBits c.estat 11 11 (bits w 11 11) }
  | 0x21 => { c with epc := bundleAddr w }
  | 0x24 => { c with uvec := vecWrite w }
  | 0x25 => { c with svec := vecWrite w }
  | _ => c

/-- A write of a CSR. -/
def State.writeCsr (s : State) (n : Nat) (w : Word) : State :=
  match n with
  | 0x09 => s.onCore fun c => { c with vqw := weightWrite c.vqw w }
  | 0x0A => s.onCore fun c => { c with mqw := weightWrite c.mqw w }
  | _ => s.onSl fun t => { t with csr := t.csr.write n w }

/-- `srseed` as the roundings of the bundle leave it (R60). -/
def State.applySeed (s : State) : State := match s.sl.seedw with
  | some w => s.onSl fun t => { t with seedw := none, csr := { t.csr with srseed := w } }
  | none => s

/-- The writes of `srseed` and of a CSR take effect at the end of their bundle (R60, R232), the CSR's last (log 103). -/
def State.applyCsr (s : State) : State :=
  let s1 := s.applySeed
  match s1.sl.csrw with
  | some (n, w) => (s1.writeCsr n w).onSl fun t => { t with csrw := none }
  | none => s1

end Sys2Proof.Machine
end

