-- ==== Sys2Proof/Machine/Records.lean ====
section
/-! DEFINITION. The launch record pool, the jobs that run of it, and the mapping of logical places to physical ones
(spec/11_execution_model.md R281 to R288, R510). -/

set_option autoImplicit false
set_option Elab.async false

namespace Sys2Proof.Machine

/-! ## Launch records (R281 to R283) -/

/-- Physical address of launch record `r` (R281, R424). -/
def State.recAddr (s : State) (r : Nat) : Nat := bits (s.reg .fepool) 51 20 * 2 ^ 20 + 256 * r

/-- Doubleword `i` of launch record `r` (R282). -/
def State.dw (s : State) (r i : Nat) : Word := s.dm.dword (s.recAddr r + 8 * i)

/-- Writes doubleword `i` of launch record `r`. -/
def State.setDw (s : State) (r i : Nat) (w : Word) : State := { s with dm := s.dm.writeDword (s.recAddr r + 8 * i) w }

/-- HDR.STATE: 0 idle, 1 armed, 2 running, 3 parked, 4 failed (R283). -/
def State.recState (s : State) (r : Nat) : Nat := bits (s.dw r 0) 58 56
/-- Sets HDR.STATE, which only the device writes (R283). -/
def State.setRecState (s : State) (r v : Nat) : State := s.setDw r 0 (setBits (s.dw r 0) 58 56 v)
/-- HDR.VF. -/
def State.recVf (s : State) (r : Nat) : Nat := bits (s.dw r 0) 53 48
/-- HDR.ASID. -/
def State.recAsid (s : State) (r : Nat) : Nat := bits (s.dw r 0) 47 32
/-- HDR.QOS. -/
def State.recQos (s : State) (r : Nat) : Nat := bits (s.dw r 0) 20 18
/-- HDR.CONF. -/
def State.recConf (s : State) (r : Nat) : Bool := bit (s.dw r 0) 17
/-- HDR.SS. -/
def State.recSS (s : State) (r : Nat) : Bool := bit (s.dw r 0) 16
/-- SPAN's device, die, row and column counts (R282). -/
def State.spanDevs (s : State) (r : Nat) : Nat := bits (s.dw r 3) 7 0 + 1
/-- Dies of the span. -/
def State.spanDies (s : State) (r : Nat) : Nat := bits (s.dw r 3) 10 8 + 1
/-- Rows of the span. -/
def State.spanRows (s : State) (r : Nat) : Nat := bits (s.dw r 3) 20 16 + 1
/-- Columns of the span. -/
def State.spanCols (s : State) (r : Nat) : Nat := bits (s.dw r 3) 28 24 + 1

/-! ## Jobs and places (R288) -/

/-- A job of which nothing runs. -/
def Job.empty : Job :=
  ⟨[], [], [], [], [], [], 0, Option.none, [], [], [], [], [], false, false, [], false, 0, false, [], [], 0, 0, [], []⟩

/-- What runs of the job of record `r`. -/
def State.job (s : State) (r : Nat) : Job := look Job.empty s.jobs r

/-- The freeze wire of a record's job is asserted, by the leader for a dump or through FRZCTL (R450, R490). -/
def State.wire (s : State) (r : Nat) : Bool := (s.job r).frozen || s.reg .frzctl == w64 (2 ^ 63 + r)

/-- Changes what runs of the job of record `r`. -/
def State.onJob (s : State) (r : Nat) (f : Job → Job) : State := { s with jobs := put s.jobs r (f (s.job r)) }

/-- Physical die of a logical die; dies 8 and 9 are never remapped (R288). -/
def Job.physDie (j : Job) (l : Nat) : Nat := if 8 ≤ l then l else j.dies.getD l l

/-- Physical number of a compute core at a logical die, row and column: its cluster is mapped, its position kept (R288). -/
def Job.physIdx (j : Job) (l row col : Nat) : Nat :=
  let i := row * 32 + col
  coreOfIndex (j.clusters.getD (4 * l + clusterOf i) (clusterOf i)) (indexOf i)

/-- The physical compute core at a logical place. -/
def Job.computeAt (j : Job) (l row col : Nat) : CoreId := ⟨.compute, j.physDie l, j.physIdx l row col⟩

/-- The physical core of a thread-slot party of the job (R377): classes 0, 1, 8 and 9. -/
def Job.coreOfParty (j : Job) (p : Nat) : Option CoreId :=
  let l := p / 2 ^ 20 % 16
  let i := p % 2 ^ 16
  match p / 2 ^ 16 % 16 with
  | 0 => some (j.computeAt l (i / 2 ^ 7 % 32) (i / 4 % 32))
  | 1 => some ⟨.quay, j.physDie l, i / 4 % 64⟩
  | 8 => some ⟨.harbour, j.physDie l, i / 4 % 16⟩
  | 9 => some ⟨.lighthouse, l, 0⟩
  | _ => none

/-- The logical device of a job that this device is (R288): the device of the domain of that number (log 108). A job of one device has only
device 0. -/
def State.myDev (s : State) (r : Nat) : Nat := if s.spanDevs r == 1 then 0 else bits (s.reg .domid) 7 0

/-- The span lies within the domain of the device (R285): a job of several devices needs the device's number, which is one of them. -/
def State.domainOk (s : State) (r : Nat) : Bool := s.spanDevs r == 1 || (bit (s.reg .domid) 8 && decide (s.myDev r < s.spanDevs r))

/-- The party of another device of the domain (R377, R472). -/
def externalParty (dev : Nat) : Nat := 15 * 2 ^ 16 + dev

/-- Whether a logical compute place lies in the span of record `r` (R510). -/
def State.inSpan (s : State) (r dev die row col : Nat) : Bool :=
  decide (dev < s.spanDevs r) && decide (die < s.spanDies r) && decide (row < s.spanRows r) && decide (col < s.spanCols r)

/-- Whether a quay or harbour core holds a role of the job (R510). -/
def State.hasRole (s : State) (r : Nat) (c : CoreId) : Bool := (s.job r).cores.contains c

/-- The record whose job the core in focus runs. -/
def State.record? (s : State) : Option Nat := s.core.ctx.map (·.record)

/-- The job of the core in focus; nothing of it where the core holds no context. -/
def State.myJob (s : State) : Job := match s.record? with
  | some r => s.job r
  | none => Job.empty

/-- The compute core with a logical index in the cluster of the core in focus. A core keeps its position in its cluster
(R288), so only the index changes. -/
def State.clusterCore (s : State) (i : Nat) : CoreId :=
  { s.coreId with idx := coreOfIndex (clusterOf s.coreId.idx) i }

/-- Whether the core with logical index `i` in the cluster of the core in focus is in the issuing job's span (R510); a core
that holds no context spans only itself. -/
def State.clusterInSpan (s : State) (i : Nat) : Bool :=
  match s.record? with
  | some r => s.inSpan r 0 s.core.die (s.core.row / 16 * 16 + i / 16) (s.core.col / 16 * 16 + i % 16)
  | none => i == s.core.cidx

/-- ASID of the job of the core in focus (R283); 0 where the core holds no context. -/
def State.asid (s : State) : Nat := match s.record? with
  | some r => s.recAsid r
  | none => 0

/-- Function of the job of the core in focus. -/
def State.vf (s : State) : Nat := match s.record? with
  | some r => s.recVf r
  | none => 0

/-- The job of the core in focus is confidential. -/
def State.confJob (s : State) : Bool := match s.record? with
  | some r => s.recConf r
  | none => false

/-- The cores of a job that hold a context of it. -/
def State.jobCores (s : State) (r : Nat) : List (CoreId × Core) :=
  s.cores.filter fun p => (p.2.ctx.map (·.record)) == some r

/-! ## Counters (R303) -/

/-- The key of counter `n` of a physical die. -/
def ctrKey (die n : Nat) : Nat := die * 4096 + n

/-- Completion counter `n` of a physical die. -/
def State.ctr (s : State) (die n : Nat) : Word := look 0 s.ctrs (ctrKey die n)

/-- Whether counter `n` lies in the grant of record `r` (R282, R303). -/
def State.granted (s : State) (r n : Nat) : Bool :=
  let c := s.dw r 8
  decide (bits c 11 0 ≤ n) && decide (n < bits c 11 0 + bits c 28 16)

end Sys2Proof.Machine
end

