-- ==== Sys2Proof/Machine/Translate.lean ====
section
/-! DEFINITION. Address translation and the homes of bytes (spec/19_virtualisation.md R454 to R459, R467; spec/12_memory.md
R321; spec/20_scaleup.md R471). -/

set_option autoImplicit false
set_option Elab.async false

namespace Sys2Proof.Machine

/-! ## Regions and stripes (R321, R454) -/

/-- The attribute byte of a region: octa at reset (R454). -/
def State.regionAttr (s : State) (r : Nat) : Nat := look 2 s.regions r

/-- Home die and HBM channel of a physical address under an attribute byte's IL and HOME (R321). -/
def stripeHome (il home pa : Nat) : Nat × Nat :=
  let st := pa / 2 ^ 11
  match il with
  | 0 => (home, st % 64)
  | 1 => (2 * home + st % 2, st / 2 % 64)
  | _ => (st % 8, st / 8 % 64)

/-- Home die and HBM channel of a physical byte (R454). -/
def State.homeOf (s : State) (pa : Nat) : Nat × Nat :=
  let b := s.regionAttr (pa / 2 ^ 32)
  stripeHome (b % 4) (b / 4 % 8) pa

/-! ## Page tables (R455 to R457) -/

/-- Why a translation fails: no valid entry (a page fault), or finally (ACCESS). -/
inductive XlatErr where
  | noPage
  | access
  deriving DecidableEq, Repr

/-- log2 of the size of the page that a leaf at a level maps (R455). -/
def leafSize : Nat → Nat
  | 1 => 34
  | 2 => 25
  | _ => 16

/-- Index of a virtual address at a level (R455). -/
def tableIndex (va level : Nat) : Nat := va / 2 ^ (43 - 9 * level) % 512

/-- Whether every region that a page covers has the attribute the leaf names (R456). -/
def State.regionsMatch (s : State) (oa size il home : Nat) : Bool :=
  (List.range (2 ^ (size - 32))).all fun i =>
    s.regionAttr (oa / 2 ^ 32 + i) == il + 4 * home

/-- Whether a leaf entry with V = 1 obeys R456 (and R471 for a domain page). -/
def State.leafOk (s : State) (e : Word) (level : Nat) : Bool :=
  let oa := bits e 51 16 * 2 ^ 16
  let il := bits e 7 6
  let home := bits e 10 8
  bits e 63 52 == 0 && bits e 15 12 == 0 && oa % 2 ^ leafSize level == 0 &&
    (if il == 3 then !bit e 10 && (!bit e 9 || bits e 51 48 == 0)
     else decide (oa + 2 ^ leafSize level ≤ Config.deviceBytes) && s.regionsMatch oa (leafSize level) il home)

/-- Whether a table entry with V = 1 obeys R456. -/
def tableOk (e : Word) : Bool := bits e 63 52 == 0 && bits e 11 2 == 0 && decide (bits e 51 12 * 4096 < Config.deviceBytes)

/-- The walk from a level's table on (R455): the leaf, with its level. -/
def State.walkFrom (s : State) (va : Nat) : Nat → Nat → Nat → Option (Word × Nat)
  | 0, _, _ => none
  | fuel + 1, level, table =>
    let e := s.dm.dword (table + 8 * tableIndex va level)
    if !bit e 0 then none
    else if bit e 1 then
      if level == 0 || !s.leafOk e level then none else some (e, level)
    else if level == 3 || !tableOk e then none
    else State.walkFrom s va fuel (level + 1) (bits e 51 12 * 4096)

/-- Physical base of the address space table (R453). -/
def State.astBase (s : State) : Nat := bits (s.reg .astbase) 51 20 * 2 ^ 20

/-- KEYSLOT of an ASID's address space entry (R457). -/
def State.keySlotOf (s : State) (asid : Nat) : Nat := (s.dm.byte (s.astBase + 16 * asid + 9)).toNat

/-- A walk under an ASID for a requester's function, as a TLB entry (R455 to R457, R459). -/
def State.walk (s : State) (asid vf va : Nat) : Except XlatErr TlbEntry :=
  let lo := s.dm.dword (s.astBase + 16 * asid)
  let hi := s.dm.dword (s.astBase + 16 * asid + 8)
  if !bit lo 0 || bits lo 63 52 != 0 || bits lo 11 1 != 0 || bits hi 5 0 != vf || bits hi 7 6 != 0 || bits hi 63 16 != 0 then
    .error .access
  else match s.walkFrom va 4 0 (bits lo 51 12 * 4096) with
    | some (e, level) => .ok ⟨asid, vf, va / 2 ^ leafSize level * 2 ^ leafSize level, e, leafSize level⟩
    | none => .error .noPage

/-- The entry a TLB holds for an address, if it holds one (R459): a hit may serve an older translation until an invalidation. -/
def tlbHit (tlb : List TlbEntry) (asid vf va : Nat) : Option TlbEntry :=
  tlb.find? fun e => e.asid == asid && e.vf == vf && e.va == va / 2 ^ e.size * 2 ^ e.size

/-- What an access needs of a page (R458). -/
inductive Access where
  | read | write | atomic | fetch
  deriving DecidableEq, Repr

/-- Whether a leaf's rights allow an access (R458); `user` asks for U as well. -/
def rightsOk (e : Word) (a : Access) (user : Bool) : Bool :=
  (!user || bit e 5) && match a with
    | .read => bit e 2
    | .write => bit e 3
    | .atomic => bit e 2 && bit e 3
    | .fetch => bit e 4

/-- Where a byte of a translated page is stored (R456, R467, R471). -/
def State.pageHome (s : State) (t : TlbEntry) (va : Nat) : Home :=
  let oa := bits t.pte 51 16 * 2 ^ 16 + va % 2 ^ t.size
  let key := if bit t.pte 11 then s.keySlotOf t.asid else 0
  if bits t.pte 7 6 != 3 then .device oa key
  else if !bit t.pte 9 then .host (oa + (bits t.pte 8 8) * 2 ^ 64) key
  else if oa / 2 ^ 40 % 256 == bits (s.reg .domid) 7 0 then .device (oa % 2 ^ 40) key
  else .remote (oa / 2 ^ 40 % 256) (oa % 2 ^ 40) key

/-- Translation of one access (R457 to R459, R467): through the TLBs given, else by a walk. -/
def State.translate (s : State) (tlb : List TlbEntry) (asid vf va : Nat) (a : Access) (user : Bool) : Except XlatErr Home :=
  let entry : Except XlatErr TlbEntry := match tlbHit tlb asid vf va with
    | some e => .ok e
    | none => s.walk asid vf va
  match entry with
  | .error e => .error e
  | .ok e =>
    if !rightsOk e.pte a user then .error .access
    else if bit e.pte 11 && s.keySlotOf asid == 0 then .error .access
    else .ok (s.pageHome e va)

/-- The TLB of a die (R459). -/
def State.dieTlb (s : State) (die : Nat) : List TlbEntry := look [] s.tlbs die

/-! ## Reading and writing at homes -/

/-- The 128-bit unit of sixteen bytes, and back (R467). -/
def unitOfBytes (bs : List Byte) : BitVec 128 := BitVec.ofNat 128 (leNat bs)

/-- Bytes as an access under a key slot sees them, where `raw` gives what is stored: the 16-byte units are deciphered, each under its physical
address (R467). -/
def State.unseal (s : State) (pa key n : Nat) (raw : Nat → Nat → List Byte) : List Byte :=
  if key == 0 then raw pa n
  else
    let first := pa / 16
    let k := look [] s.keySlots key
    let plain := (List.range ((pa + n + 15) / 16 - first)).flatMap fun i =>
      leBytes 16 ((Config.xts k (16 * (first + i) % 2 ^ 64)).symm (unitOfBytes (raw (16 * (first + i)) 16))).toNat
    (plain.drop (pa % 16)).take n

/-- What a write under a key slot stores, and where: each 16-byte unit that it touches, enciphered whole (R467). -/
def State.sealUnits (s : State) (pa key : Nat) (bs : List Byte) (raw : Nat → Nat → List Byte) : Nat × List Byte :=
  if key == 0 then (pa, bs)
  else
    let first := pa / 16
    let m := (pa + bs.length + 15) / 16 - first
    let k := look [] s.keySlots key
    let plain := s.unseal (16 * first) key (16 * m) raw
    let merged := plain.take (pa % 16) ++ bs ++ plain.drop (pa % 16 + bs.length)
    (16 * first, (List.range m).flatMap fun i =>
      leBytes 16 (Config.xts k (16 * (first + i) % 2 ^ 64) (unitOfBytes ((merged.drop (16 * i)).take 16))).toNat)

/-- Device bytes as an access under a key slot sees them. -/
def State.readDevice (s : State) (pa key n : Nat) : List Byte := s.unseal pa key n s.dm.bytes

/-- Device bytes changed under a key slot. -/
def State.placeDevice (s : State) (pa key : Nat) (bs : List Byte) : State :=
  let w := s.sealUnits pa key bs s.dm.bytes
  { s with dm := s.dm.write w.1 w.2 }

/-- What another device answers to a read (log 8): zeros where it refuses (R472). -/
def State.remoteBytes (s : State) (d a n : Nat) : List Byte :=
  if Config.remoteRefuses d (a / 2 ^ 32) s.time then List.replicate n 0 else (List.range n).map fun i => Config.remoteByte d (a + i) s.time

/-- COND of a wait control (R225) over a word and its operand. -/
def condHolds (cond : Nat) (w a : Word) : Bool :=
  match cond with
  | 0 => w == a
  | 1 => w != a
  | 2 => a.ule w
  | 3 => w.ult a
  | _ => w &&& a == a

/-- A queue whose wait packet watches a word of device memory sees a write of `n` bytes at `pa` (R437). -/
def FQueue.seen (s : State) (pa n : Nat) (q : FQueue) : FQueue :=
  match q.watch, q.waiting with
  | some (a, key), some p =>
    if pa < a + 8 && a < pa + n &&
        condHolds (bits (w64 (leNat ((p.drop 24).take 8))) 63 61) (w64 (leNat (s.readDevice a key 8))) (w64 (leNat ((p.drop 16).take 8)))
    then { q with hit := true } else q
  | _, _ => q

/-- A write of device bytes under a key slot, offered to the queues whose wait packets watch them. -/
def State.writeDevice (s : State) (pa key : Nat) (bs : List Byte) : State :=
  let s1 := s.placeDevice pa key bs
  { s1 with queues := s1.queues.map fun q => (q.1, q.2.seen s1 pa bs.length) }

/-- Bytes of device memory as an engine, a front-end or a lighthouse reads them: past its last byte there is none, and they are free (log 76). -/
def State.deviceRead (s : State) (pa n : Nat) : List Byte :=
  if pa + n ≤ Config.deviceBytes then s.dm.bytes pa n
  else (List.range n).map fun i => if pa + i < Config.deviceBytes then s.dm.byte (pa + i) else Config.noMemory (pa + i) s.time

/-- A write of an engine, a front-end or a lighthouse; what lies past the last byte of device memory is lost (log 76). -/
def State.deviceWrite (s : State) (pa : Nat) (bs : List Byte) : State := s.writeDevice pa 0 (bs.take (Config.deviceBytes - pa))

/-- The bytes at a home. -/
def State.readHome (s : State) (h : Home) (n : Nat) : List Byte :=
  match h with
  | .core c off => (s.coreAt c).mem.bytes off n
  | .device pa key => s.readDevice pa key n
  | .host a key => s.unseal a key n s.hm.bytes
  | .remote d a key => s.unseal a key n (s.remoteBytes d)

/-- Moves a home by some bytes. -/
def Home.shift (h : Home) (n : Nat) : Home :=
  match h with
  | .core c off => .core c (off + n)
  | .device pa key => .device (pa + n) key
  | .host a key => .host (a + n) key
  | .remote d a key => .remote d (a + n) key

/-- The number of a home's doubleword. -/
def Home.dword : Home → Nat
  | .core _ o => o / 8
  | .device pa _ => pa / 8
  | .host a _ => a / 8
  | .remote _ a _ => a / 8

/-- The runs of a virtual range that lie in one 64 KiB page each, with their homes, or the first error (R455). -/
def State.virtRuns (s : State) (tlb : List TlbEntry) (asid vf : Nat) (a : Access) (user : Bool) :
    Nat → Nat → Nat → Except (XlatErr × Nat) (List (Home × Nat))
  | 0, _, _ => .ok []
  | fuel + 1, va, n =>
    if n == 0 then .ok []
    else
      let m := min n (2 ^ 16 - va % 2 ^ 16)
      match s.translate tlb asid vf va a user with
      | .error e => .error (e, va)
      | .ok h =>
        match State.virtRuns s tlb asid vf a user fuel (va + m) (n - m) with
        | .error e => .error e
        | .ok rest => .ok ((h, m) :: rest)

/-- The homes of a virtual range. -/
def State.runs (s : State) (tlb : List TlbEntry) (asid vf : Nat) (a : Access) (user : Bool) (va n : Nat) :
    Except (XlatErr × Nat) (List (Home × Nat)) :=
  s.virtRuns tlb asid vf a user (n / 2 ^ 16 + 2) va n

/-- The bytes of the runs of a range. -/
def State.readRuns (s : State) (rs : List (Home × Nat)) : List Byte := rs.flatMap fun r => s.readHome r.1 r.2

/-- The bytes at a virtual range, U ignored, as the front end and the context engine read a record's tables (R508). -/
def State.readRec (s : State) (r va n : Nat) : Option (List Byte) :=
  match s.runs [] (s.recAsid r) (s.recVf r) .read false va n with
  | .ok rs => some (s.readRuns rs)
  | .error _ => none

end Sys2Proof.Machine
end

