-- ==== Sys2Proof/Machine/Banks.lean ====
section
/-! DEFINITION. Core memories as banks (spec/05_scratchpad_ops.md R139 to R141, R147; spec/09_traps.md R249), the writes that
release waits on words, store buffers (spec/13_ordering.md R332, R338), counters, and the trace encoder (spec/21 R492). -/

set_option autoImplicit false
set_option Elab.async false

namespace Sys2Proof.Machine

/-! ## Every core -/

/-- Changes every core that differs from reset. -/
def State.mapCores (s : State) (f : CoreId → Core → Core) : State :=
  { s with core := f s.coreId s.core, others := s.others.map fun p => (p.1, f p.1 p.2) }

/-- Changes every slot of every core that differs from reset. -/
def State.mapSlots (s : State) (f : CoreId → Core → Slot → Slot) : State :=
  s.mapCores fun id c => { c with slots := c.slots.map (f id c) }

/-! ## Save areas (R247, R249) -/

/-- Offset of the save area of a slot. -/
def saveArea (slot : Nat) : Nat := 0x2D000 + 0x800 * slot

/-- Rotation of a doubleword to the left. -/
def rotl (w : Word) (n : Nat) : Word := w.rotateLeft n

/-- TAG over the doublewords D0 to D254 (R249). -/
def imageTag (ds : List Word) : Word :=
  (ds.zip (List.range 255)).foldl (fun acc p => acc ^^^ rotl p.1 (p.2 % 64)) 0xA5A5A5A5A5A5A5A5

/-- The change to TAG of one save area that a write of a bank makes (R249): the rotated differences of the doublewords it
changes, unless the write covers TAG itself. -/
def tagUpkeep (old new : Memory) (off n slot : Nat) : Memory :=
  let a := saveArea slot
  if off + n ≤ a || a + 0x800 ≤ off then new
  else if a + 0x7F8 < off + n && off < a + 0x800 then new
  else
    let first := (max off a - a) / 8
    let last := (min (off + n) (a + 0x7F8) + 7 - a) / 8
    let diff := (List.range (last - first)).foldl (fun acc k =>
      let i := first + k
      acc ^^^ rotl (old.dword (a + 8 * i) ^^^ new.dword (a + 8 * i)) (i % 64)) (old.dword (a + 0x7F8))
    new.writeDword (a + 0x7F8) diff

/-- The doublewords that a write covers whole (R147). -/
def fullDwords (off n : Nat) : List Nat :=
  (List.range ((off + n) / 8 - (off + 7) / 8)).map fun k => (off + 7) / 8 + k

/-- A write of bytes at a bank (R147, R249): whole doublewords become full, and save areas keep their TAG. -/
def Core.bankWrite (c : Core) (off : Nat) (bs : List Byte) : Core :=
  let new := c.mem.write off bs
  let up := (List.range 4).foldl (fun m slot => tagUpkeep c.mem m off bs.length slot) new
  { c with mem := up, tags := (fullDwords off bs.length).foldl insertNat c.tags }

/-- The tag of a doubleword is full (R147). -/
def Core.full (c : Core) (off : Nat) : Bool := c.tags.contains (off / 8)

/-! ## Releasing waits on words and counters (R148, R225) -/

/-- The core and offset that an own-form or cluster-form address names (R114, R135). -/
def placeOf (id : CoreId) (t : Word) : CoreId × Nat :=
  if bit t 26 then (id, bits t 25 0)
  else ({ id with idx := coreOfIndex (clusterOf id.idx) (bits t 25 18) }, bits t 17 0)

/-- Hands a value to a blocked trigger that has none yet. -/
def Slot.hand (t : Slot) (w : Word) : Slot :=
  match t.wait with
  | some x => if x.value.isNone then { t with wait := some { x with value := some w } } else t
  | none => t

/-- A write of doubleword `off` of core `c`, which now holds `w` and has the tag `full`, as a slot of core `id` sees it: it
satisfies a future read (R148) or a flag wait (R225) on that doubleword. -/
def Slot.onWrite (id c : CoreId) (off : Nat) (w : Word) (full : Bool) (t : Slot) : Slot :=
  match t.wait with
  | none => t
  | some x =>
    if x.unit == FU.ls && x.opc == 0x30 then
      if placeOf id (t.lat .ls).t == (c, off) && full then t.hand w else t
    else if x.unit == FU.sy && x.opc == 3 then
      if placeOf id (t.lat .sy).t == (c, off) && condHolds (bits (t.lat .sy).b 63 61) w (t.lat .sy).a then t.hand w else t
    else t

/-- Offers each doubleword that a write touched to the waits on it. -/
def State.wakeWrite (s : State) (c : CoreId) (off n : Nat) : State :=
  let m := s.coreAt c
  (List.range ((off + n + 7) / 8 - off / 8)).foldl (fun s k =>
    let d := 8 * (off / 8 + k)
    s.mapSlots fun id _ t => t.onWrite id c d (m.mem.dword d) (m.full d)) s

/-- A write of bytes of a core's memory by any agent. -/
def State.writeCore (s : State) (c : CoreId) (off : Nat) (bs : List Byte) : State :=
  (s.onCoreAt c fun m => m.bankWrite off bs).wakeWrite c off bs.length

/-- A Shumbivia port right after reset. -/
def ShumPort.reset : ShumPort := ⟨false, 0, false, false, [none, none], [none, none], false, 0, [0, 0], [], 0, none, (0, 0), []⟩

/-- A Shumbivia port. -/
def State.shumPort (s : State) (p : Nat) : ShumPort := look ShumPort.reset s.shum p

/-- Changes a Shumbivia port. -/
def State.onShum (s : State) (p : Nat) (f : ShumPort → ShumPort) : State := { s with shum := put s.shum p (f (s.shumPort p)) }

/-- The ports that are up. -/
def State.portsUp (s : State) : List Nat := (List.range 18).filter fun p => (s.shumPort p).up

/-- The port that a request to a physical address of another device takes (R469). -/
def State.planeOf (s : State) (pa : Nat) : Option Nat := s.portsUp[pa / 2 ^ 11 % 32 % s.portsUp.length]?

/-- The nonce of a flit: its port, its direction (1 from this device) and SEQ (R478, log 121). -/
def flitNonce (port dir seq : Nat) : List Byte := leBytes 4 port ++ leBytes 2 dir ++ leBytes 6 seq

/-- Bytes 0 to 239 of a flit, over which its tag goes (R470). -/
def flitBytes (seq : Nat) (kg : Bool) (body : List Byte) : List Byte :=
  leBytes 6 seq ++ leBytes 1 kg.toNat ++ [0] ++ (body ++ List.replicate 232 0).take 232

/-- A flit leaves on a port with a request, a response or a message, and is kept for replay; none leaves under a key that has no SEQ left
(R470, R478). -/
def ShumPort.send (k : ShumPort) (port pa : Nat) (body : List Byte) : ShumPort :=
  if 2 ^ 48 ≤ k.sent + 1 then { k with held := k.held ++ [(pa, body)] }
  else
    let tag := Config.flitTag ((k.keys.getD k.kg.toNat none).getD []) (flitNonce port 1 k.sent) (flitBytes k.sent k.kg body)
    { k with sent := k.sent + 1, replay := k.replay ++ [⟨k.sent, k.kg, pa, body, tag⟩] }

/-- A flit leaves on the port that its address selects (R469). -/
def State.sendFlit (s : State) (pa : Nat) (body : List Byte) : State := match s.planeOf pa with
  | some p => s.onShum p fun k => k.send p pa body
  | none => s

/-- A remote access is refused: counted at the I/O die whose port carried it (R472). -/
def State.refuseRemote (s : State) (addr : Nat) : State :=
  let die := match s.planeOf addr with
    | some p => 8 + p / 9
    | none => 8
  (s.setReg (.drefuse die) (s.reg (.drefuse die) + 1)).countErr 10

/-- The parts of a range that lie in one stripe of 2 KiB each: where each begins, and its length (R469). -/
def stripes (a n : Nat) : List (Nat × Nat) :=
  (List.range ((a + n + 2047) / 2048 - a / 2048)).map fun i =>
    let lo := max a (2048 * (a / 2048 + i))
    (lo, min (a + n) (2048 * (a / 2048 + i + 1)) - lo)

/-- A request for `n` bytes of another device goes out, a flit for each stripe with what it carries; one that the device refuses is counted here
too (R469, R472, log 8). -/
def State.asks (s : State) (d a n : Nat) (bs : List Byte) : State :=
  (stripes a n).foldl (fun s p =>
    let s1 := s.sendFlit p.1 ((bs.drop (p.1 - a)).take p.2)
    if Config.remoteRefuses d (p.1 / 2 ^ 32) s.time then s1.refuseRemote p.1 else s1) s

/-- A load or atomic of this device at a home (R471). -/
def State.asked (s : State) (h : Home) : State := match h with
  | .remote d a _ => s.asks d a 8 []
  | _ => s

/-- Reads of this device at the homes of a range. -/
def State.askedRuns (s : State) (rs : List (Home × Nat)) : State := rs.foldl (fun s r => match r.1 with
  | .remote d a _ => s.asks d a r.2 []
  | _ => s) s

/-- A write at a home. Bytes of another device leave this one (R471). -/
def State.writeHome (s : State) (h : Home) (bs : List Byte) : State :=
  match h with
  | .core c off => s.writeCore c off bs
  | .device pa key => s.writeDevice pa key bs
  | .host a key =>
    let w := s.sealUnits a key bs s.hm.bytes
    { s with hm := s.hm.write w.1 w.2 }
  | .remote d a key =>
    let w := s.sealUnits a key bs (s.remoteBytes d)
    s.asks d w.1 w.2.length w.2

/-- Writes runs of a range, one byte string over all of them. -/
def State.writeRuns (s : State) : List (Home × Nat) → List Byte → State
  | [], _ => s
  | (h, n) :: rs, bs => State.writeRuns (s.writeHome h (bs.take n)) rs (bs.drop n)

/-- Adds to a completion counter, wrapping at 2^64 (R226, R303): every counter wait that the new value satisfies is handed it
(R225). -/
def State.addCtr (s : State) (die n : Nat) (v : Word) : State :=
  let w := s.ctr die n + v
  { s with ctrs := put s.ctrs (ctrKey die n) w }.mapSlots fun id _ t =>
    match t.wait with
    | none => t
    | some x =>
      if x.unit == FU.sy && x.opc == 4 && id.die == die && bits (t.lat .sy).t 11 0 == n && (t.lat .sy).a.ule w
      then t.hand w else t

/-! ## Scopes (R89, R329) -/

/-- The smallest scope that holds a core and a home. -/
def State.scopeFor (s : State) (id : CoreId) (h : Home) : Nat :=
  match h with
  | .core c _ =>
    if c = id then 0
    else if c.kind = .compute && id.kind = .compute && c.die == id.die && clusterOf c.idx == clusterOf id.idx then 1
    else if c.die == id.die then 2 else 3
  | .device pa _ => if (s.homeOf pa).1 == id.die then 2 else 3
  | .host _ _ => 5
  | .remote _ _ _ => 4

/-! ## Store buffers (R139, R332, R338) -/

/-- The SCOPE_MISS notice of a `strel` performed beyond its scope (R338). -/
def scopeMissNotice (party need : Nat) (e : StoreEntry) (sreq : Nat) : Notice where
  header := w64 (0xFF16 * 2 ^ 48 + 16 * 2 ^ 40 + party)
  p0 := w64 (e.qm.toNat * 2 ^ 62 + need * 2 ^ 59 + sreq * 2 ^ 56 + bits e.va 55 0)
  p1 := w64 (leNat e.bytes)

/-- Performs one buffered store of a slot at its home; a `strel` beyond its scope leaves a notice with the router. -/
def State.performStore (s : State) (id : CoreId) (slot : Nat) (e : StoreEntry) : State :=
  let s1 := s.writeHome e.home e.bytes
  match e.scope with
  | none => s1
  | some sc =>
    let need := s.scopeFor id e.home
    if need ≤ sc then s1
    else s1.onCoreAt id fun c => { c with outside := c.outside ++ [scopeMissNotice (partyOf id c slot) need e sc] }

/-- Where a home lies, for the order of stores (R332, R333): a die, host memory or another device. -/
def State.homePlace (s : State) : Home → Nat
  | .core c _ => c.die
  | .device pa _ => (s.homeOf pa).1
  | .host _ _ => 100
  | .remote d _ _ => 101 + d

/-- The byte at a home of bytes that stand at another, if they cover it. -/
def Home.byteOf (at_ : Home) (bs : List Byte) (h : Home) : Option Byte :=
  match at_, h with
  | .core c a, .core d b => if c = d && a ≤ b then bs[b - a]? else none
  | .device a _, .device b _ => if a ≤ b then bs[b - a]? else none
  | .host a _, .host b _ => if a ≤ b then bs[b - a]? else none
  | .remote d a _, .remote e b _ => if d == e && a ≤ b then bs[b - a]? else none
  | _, _ => none

/-- Every performed store is seen everywhere. -/
def State.seeAll (s : State) : State := if s.unseen.isEmpty then s else { s with unseen := [] }

/-- Bytes of device or host memory as a slot sees them: where a store has yet to reach it, as they were (R333). -/
def State.seenBy (s : State) (id : CoreId) (slot : Nat) (h : Home) (bs : List Byte) : List Byte :=
  if s.unseen.isEmpty then bs
  else bs.mapIdx fun i b =>
    (s.unseen.findSome? fun u => if u.who = id && u.slot == slot then u.home.byteOf u.old (h.shift i) else none).getD b

/-- The slots that access device and host memory: of the quay cores of dies 0 to 7, then of the harbour cores. -/
def qmSlots : List (CoreId × Nat) :=
  ((List.range 512).map (fun i => (⟨.quay, i / 64, i % 64⟩ : CoreId)) ++ (List.range 32).map fun i => (⟨.harbour, 8 + i / 16, i % 16⟩ : CoreId)).flatMap
    fun id => (List.range 4).map fun n => (id, n)

/-- The slots that a mask names, by their places in a list. -/
def maskedSlots (late : Nat) (ss : List (CoreId × Nat)) : List (CoreId × Nat) :=
  if late == 0 then [] else ((ss.zip (List.range ss.length)).filter fun p => late / 2 ^ p.2 % 2 == 1).map (·.1)

/-- A store of a slot to device or host memory is about to be performed: the slots of `late`, a bit each, but for those of its home's die and
the slot itself, see it later, each on its own. The others have seen every earlier store with that home (R333). -/
def State.delay (s : State) (id : CoreId) (slot late : Nat) (e : StoreEntry) : State :=
  let slow := (maskedSlots late qmSlots).filter fun a => a != (id, slot) && a.1.die != s.homePlace e.home
  let go : State :=
    if s.unseen.isEmpty && slow.isEmpty then s
    else
      let old := s.readHome e.home e.bytes.length
      { s with unseen := (s.unseen.filter fun u => slow.contains (u.who, u.slot) || s.homePlace u.home != s.homePlace e.home) ++
                 slow.map fun a => ⟨a.1, a.2, e.home, old⟩ }
  match e.home with
  | .device _ _ | .host _ _ => go
  | .core _ _ | .remote _ _ _ => s

/-- A store leaves the buffer of a slot, and the slots of `late` see it later; a release shows every performed store first (R334). -/
def State.storeOut (s : State) (id : CoreId) (slot late : Nat) (e : StoreEntry) : State :=
  if e.scope.isSome then s.seeAll.performStore id slot e else (s.delay id slot late e).performStore id slot e

/-- Performs every buffered store of a slot, oldest first. -/
def State.drainSlot (s : State) (id : CoreId) (slot : Nat) : State :=
  let sb := ((s.coreAt id).slot slot).sb
  (sb.foldl (fun s e => s.storeOut id slot 0 e) s).onCoreAt id fun c => c.onSlot slot fun t => { t with sb := [] }

/-- Performs every buffered store of the slot in focus. -/
def State.drain (s : State) : State := if s.sl.sb.isEmpty then s else s.drainSlot s.coreId s.core.cur

/-- The byte of a buffered store at a home, if it covers it. -/
def StoreEntry.byteAt (e : StoreEntry) (h : Home) : Option Byte := e.home.byteOf e.bytes h

/-- The byte a slot's loads see: its youngest buffered store to it, else the performed one (R139). -/
def forward (sb : List StoreEntry) (h : Home) (b : Byte) : Byte :=
  match sb.reverse.findSome? (fun e => e.byteAt h) with
  | some x => x
  | none => b

/-- The bytes a load of the slot in focus returns (R139). -/
def State.loadHome (s : State) (h : Home) (n : Nat) : List Byte :=
  let bs := s.readHome h n
  if s.sl.sb.isEmpty then bs else bs.mapIdx fun i b => forward s.sl.sb (h.shift i) b

/-- Bytes that a load of the slot in focus finds in device or host memory, whose stores it may see late (R333), with what its own buffer
forwards. -/
def State.loadFar (s : State) (h : Home) (n : Nat) : List Byte :=
  let bs := s.seenBy s.coreId s.core.cur h (s.readHome h n)
  if s.sl.sb.isEmpty then bs else bs.mapIdx fun i b => forward s.sl.sb (h.shift i) b

/-- Enters a store into the FIFO of the slot in focus (R139). -/
def State.buffer (s : State) (e : StoreEntry) : State := s.onSl fun t => { t with sb := t.sb ++ [e] }

/-! ## Locks (R141, R144) -/

/-- The lock bit of a doubleword: bank × 64 + bit. -/
def lockBit (off : Nat) : Nat :=
  let o := w64 off
  bits o 5 3 * 64 + (bits o 11 6 ^^^ bits o 17 12 ^^^ bits o 23 18)

/-- The lock identity, used as a wait object. -/
def lockIdentity (c : Core) (off : Nat) : Nat := c.cidx * 2 ^ 16 + lockBit off / 64 * 2 ^ 8 + lockBit off % 64

/-- The holder of a lock bit. -/
def Core.holder (c : Core) (b : Nat) : Option (CoreId × Nat) := (c.locks.find? fun l => l.1 == b).map (·.2)

/-- Releases the lock that a slot holds, and its link (R144). -/
def State.releaseLock (s : State) (id : CoreId) (slot : Nat) : State :=
  match ((s.coreAt id).slot slot).link with
  | none => s
  | some (c, _) =>
    (s.onCoreAt c fun m => { m with locks := m.locks.filter fun l => l.2 != (id, slot) }).onCoreAt id fun m =>
      m.onSlot slot fun t => { t with link := none }

/-! ## The trace encoder (R492, R493) -/

/-- The two doublewords of a trace packet. -/
def tracePacket (cycle : Word) (typ slot : Nat) (pay : Word) : List Byte :=
  leBytes 6 cycle.toNat ++ [BitVec.ofNat 8 typ, BitVec.ofNat 8 slot] ++ leBytes 8 pay.toNat

/-- Writes one packet into a core's ring; a packet that has no place is dropped and counted (R492). -/
def State.ringPacket (s : State) (id : CoreId) (bs : List Byte) : State :=
  let ctl := s.reg (.trctl id)
  let i := (s.reg (.tridx id)).toNat
  let at_ := bits (s.reg (.trbase id)) 51 4 * 16 + 16 * (i % 2 ^ (bits ctl 4 1 + 8))
  if Config.deviceBytes < at_ + 16 then s.onCoreAt id fun c => { c with dbg := { c.dbg with lost := c.dbg.lost + 1 } }
  else { s with dm := s.dm.write at_ bs }.setReg (.tridx id) (w64 ((i + 1) % 2 ^ 32))

/-- Seals a block of trace packets of a confidential job, padded with TYPE 0, and writes its tag packet: TYPE and PAY
are in the clear, and the tag fills the other bytes, as far as they go (R493, log 80). -/
def State.sealTrace (s : State) (id : CoreId) : State :=
  let c := s.coreAt id
  match c.ctx with
  | none => s
  | some x =>
    let key := look [] s.keySlots (s.keySlotOf (s.recAsid x.record))
    let plain := (c.dbg.trace.flatMap fun w => leBytes 8 w.toNat)
    let padded := plain ++ List.replicate (255 * 16 - plain.length) 0
    let nonce := leBytes 4 (partyOf id c 0) ++ leBytes 4 c.dbg.block ++ [0, 0, 0, 0]
    let out := Config.gcmSeal key nonce padded
    let s1 := (List.range 255).foldl (fun s k => s.ringPacket id ((out.drop (16 * k)).take 16)) s
    let tag := out.drop (255 * 16)
    let s2 := s1.ringPacket id (tag.take 6 ++ [10] ++ (tag.drop 6).take 1 ++ leBytes 8 c.dbg.block)
    s2.onCoreAt id fun c => { c with dbg := { c.dbg with trace := [], block := c.dbg.block + 1 } }

/-- Accepts one packet of a core: a LOST packet goes first where packets were dropped, and packets of a confidential job are
collected for a block (R492, R493). -/
def State.acceptPacket (s : State) (id : CoreId) (typ slot : Nat) (pay : Word) : State :=
  let c := s.coreAt id
  let conf := match c.ctx with
    | some x => s.recConf x.record
    | none => false
  if conf then
    let bs := tracePacket c.cycle typ slot pay
    let s1 := s.onCoreAt id fun c =>
      { c with dbg := { c.dbg with trace := c.dbg.trace ++ [w64 (leNat (bs.take 8)), w64 (leNat (bs.drop 8))] } }
    if 510 ≤ (s1.coreAt id).dbg.trace.length then s1.sealTrace id else s1
  else
    let s1 := if c.dbg.lost == 0 then s
      else (s.onCoreAt id fun c => { c with dbg := { c.dbg with lost := 0 } }).ringPacket id
        (tracePacket c.cycle 9 slot (w64 c.dbg.lost))
    s1.ringPacket id (tracePacket c.cycle typ slot pay)

/-- Traces an event of a slot of a core, where its trace is enabled; a Sync packet follows every 4,096 packets (R492). -/
def State.traceAt (s : State) (id : CoreId) (slot typ : Nat) (pay : Word) : State :=
  if !bit (s.reg (.trctl id)) 0 then s
  else
    let s1 := s.acceptPacket id typ slot pay
    let i := (s1.reg (.tridx id)).toNat
    if i / 4096 != (s.reg (.tridx id)).toNat / 4096 then s1.acceptPacket id 1 slot ((s1.coreAt id).slot slot).pc else s1

/-- Traces an event of the slot in focus. -/
def State.trace (s : State) (typ : Nat) (pay : Word) : State := s.traceAt s.coreId s.core.cur typ pay

end Sys2Proof.Machine
end

