-- ==== Sys2Proof/Machine/Entries.lean ====
section
/-! DEFINITION. Wait reasons (spec/16 R380, R381), and the entries of receive channels (spec/08_system_ops.md R209 to R215): reserving,
landing, matching, taking and freeing them, and the system notices. -/

set_option autoImplicit false
set_option Elab.async false

namespace Sys2Proof.Machine

/-! ## Wait reasons and locks -/

/-- A wait reason with its generation advanced (R380). -/
def wrrWord (old : Word) (kind mode releaser object : Nat) : Word :=
  w64 (2 ^ 63 + kind * 2 ^ 59 + mode * 2 ^ 56 + (bits old 55 48 + 1) % 256 * 2 ^ 48 + releaser % 2 ^ 24 * 2 ^ 24 + object % 2 ^ 24)

/-- An active wait states the same KIND, MODE, RELEASER and OBJECT (R381). -/
def sameReason (w : Word) (kind mode releaser object : Nat) : Bool :=
  bit w 63 && bits w 62 59 == kind && bits w 58 56 == mode && bits w 47 24 == releaser % 2 ^ 24 && bits w 23 0 == object % 2 ^ 24

/-- The slot waits in a generation (R381). -/
def Slot.standsIn (t : Slot) (gen : Nat) : Bool := t.run == .blocked && bit t.csr.wrr 63 && bits t.csr.wrr 55 48 == gen

/-- Ends a slot's wait, if it waits: ACTIVE becomes 0 and the slot Ready (R381). -/
def Slot.unblock (t : Slot) : Slot :=
  if t.run == .blocked then
    { t with run := .ready, wait := none, csr := { t.csr with wrr := setBits t.csr.wrr 63 63 0 } }
  else t

/-- The bytes [off, off + n) meet a range lock that conflicts with the access (R136). -/
def Core.conflict (c : Core) (off n : Nat) (writes : Bool) : Option RangeLock :=
  c.ranges.find? fun l => (writes || l.write) && decide (l.start < off + n) && decide (off ≤ l.stop)

/-! ## Entries (R209) -/

/-- A channel of a core. -/
def Core.chan (c : Core) (ch : Nat) : Channel := c.chans[(Fin.ofNat 16 ch)]

/-- Changes a channel of a core. -/
def Core.onChan (c : Core) (ch : Nat) (f : Channel → Channel) : Core :=
  { c with chans := c.chans.set (Fin.ofNat 16 ch) (f (c.chan ch)) }

/-- Changes an entry of a channel. -/
def Core.onEntry (c : Core) (ch i : Nat) (f : ChanEntry → ChanEntry) : Core :=
  c.onChan ch fun k => { k with entries := modifyAt f k.entries i }

/-- Offset of an entry. -/
def Channel.entryOff (ch : Channel) (i : Nat) : Nat := ch.base + 256 * i

/-- The lowest-numbered free entry. -/
def Channel.firstFree (ch : Channel) : Option Nat := ch.entries.findIdx? fun e => e.state == .free

/-- The arrived entry of the oldest reservation among those that a test admits. -/
def Channel.oldest (ch : Channel) (p : ChanEntry → Bool) : Option (Nat × ChanEntry) :=
  ((List.range ch.entries.length).zip ch.entries).foldl (fun best x =>
    if x.2.state == .arrived && p x.2 then match best with
      | none => some x
      | some y => if x.2.resv < y.2.resv then some x else some y
    else best) none

/-- An arrived entry that is marked for no task (R215). -/
def Channel.oldestPlain (ch : Channel) : Option (Nat × ChanEntry) := ch.oldest fun e => e.mark.isNone

/-- An entry becomes reserved, with the next reservation number. -/
def Core.reserveEntry (c : Core) (ch i : Nat) : Core :=
  (c.onEntry ch i fun e => { e with state := .reserved, resv := (c.chan ch).next, mark := none }).onChan ch fun k =>
    { k with next := k.next + 1 }

/-- Sends to a channel find a free entry: on channel 15, only while the notice buffer is empty (R214). -/
def Core.sendable (c : Core) (ch : Nat) : Option Nat := if ch == 15 && !c.notices.isEmpty then none else (c.chan ch).firstFree

/-- The engine of a quay core takes no record now (R204). -/
def Stream.busy (e : Stream) : Bool := e.run.isSome || e.err.isSome

/-- A landing of `n` payload bytes in an entry would conflict with a range lock (R319). -/
def Core.landLock (c : Core) (ch i n : Nat) : Option RangeLock := c.conflict ((c.chan ch).entryOff i) (8 + n) true

/-- The range lock that holds up a landing in a channel: of a message on its way, or of a notice in the buffer (R319). -/
def State.heldLanding (s : State) (id : CoreId) (ch : Nat) : Option RangeLock :=
  let c := s.coreAt id
  let entry := fun (m : Msg) => m.entry <|> c.sendable ch
  ((s.msgs.filter fun m => decide (m.dst = id) && m.chan == ch).findSome? fun m =>
      (entry m).bind fun i => c.landLock ch i m.payload.length) <|>
    if ch == 15 && !c.notices.isEmpty then (c.chan 15).firstFree.bind fun i => c.landLock 15 i 16 else none

/-- What the queue party of a channel waits for (R204, R212, R319, R381): kind, object and releaser. An engine-fed channel's wait begins when a
record finds the engine busy, and lasts while any record is untaken. -/
def State.chanWait (s : State) (id : CoreId) (ch : Nat) : Option (Nat × Nat × Nat) :=
  let c := s.coreAt id
  let k := c.chan ch
  match s.heldLanding id ch with
  | some l => some (8, c.cidx * 2 ^ 8, l.queue)
  | none =>
    if k.eng then
      if (c.stream.busy || (bit k.wrr 63 && bits k.wrr 62 59 == 11)) && k.oldestPlain.isSome then some (11, ch, streamParty c) else none
    else if !k.queue.isEmpty && (c.sendable ch).isNone then some (9, ch, k.owner)
    else none

/-- The queue party of a channel records its wait, or its end. -/
def State.noteChan (s : State) (id : CoreId) (ch : Nat) : State :=
  s.onCoreAt id fun c => match s.chanWait id ch with
    | none => c.onChan ch fun k => { k with wrr := setBits k.wrr 63 63 0 }
    | some (kind, object, releaser) =>
      if sameReason (c.chan ch).wrr kind 0 releaser object then c
      else c.onChan ch fun k => { k with wrr := wrrWord k.wrr kind 0 releaser object, since := s.time }

/-! ## The match table (R215) -/

/-- A match-table entry takes a message of a channel. -/
def MatchEntry.takes (m : MatchEntry) (ch : Nat) (header : Word) : Bool :=
  bits m.t 19 16 == ch &&
    (BitVec.ofNat 16 (bits header 63 48) &&& BitVec.ofNat 16 (bits m.t 47 32)) ==
      (BitVec.ofNat 16 (bits m.t 63 48) &&& BitVec.ofNat 16 (bits m.t 47 32)) &&
    decide (bits m.t 31 24 ≤ bits header 47 40)

/-- The first valid entry of the table that takes a message. -/
def Core.matching (c : Core) (ch : Nat) (header : Word) : Option Nat :=
  c.matchTab.toList.findIdx? fun e => match e with
    | some m => m.takes ch header
    | none => false

/-- Marks an arrived entry for the task of the match-table entry that takes it. -/
def Core.offerEntry (c : Core) (ch i : Nat) : Core :=
  match (c.matching ch (c.mem.dword ((c.chan ch).entryOff i))).bind fun k => (c.matchTab[(Fin.ofNat 16 k)]).map fun m => (k, m) with
  | some k => c.onEntry ch i fun e => { e with mark := some k }
  | none => c

/-- The marked entry of the oldest reservation, of the lowest channel among equals: channel, entry number and entry. -/
def Core.nextTask (c : Core) : Option (Nat × Nat × ChanEntry) :=
  (List.range 16).foldl (fun (best : Option (Nat × Nat × ChanEntry)) ch =>
    match (c.chan ch).oldest fun e => e.mark.isSome with
    | none => best
    | some (i, e) => match best with
      | some b => if b.2.2.resv ≤ e.resv then some b else some (ch, i, e)
      | none => some (ch, i, e)) none

/-- No slot's number: what the hardware does of itself counts only in counters that count for every slot (R237; log 109). -/
def noSlot : Nat := 4

/-- Releases one task into the activation queue, where it has room (R215, R292): the entry becomes taken. The task is the one that the entry
was marked for, whatever has become of the match-table entry. -/
def Core.releaseTask (c : Core) : Core :=
  if 16 ≤ c.actq.length then c
  else match c.nextTask with
    | none => c
    | some (ch, i, e) =>
      match e.mark with
      | none => c
      | some (_, m) =>
        let off := (c.chan ch).entryOff i
        let a : Activation := ⟨2, w64 (bits m.a 51 2 * 4), m.b, c.mem.dword off, w64 (0x4000000 + off), none, none⟩
        ({ (c.onEntry ch i fun e => { e with state := .taken, mark := none }) with actq := c.actq ++ [a] }).count 11 noSlot

/-! ## Taking (R213) -/

/-- A slot receives an entry: it becomes taken, and the wait of a `recv` ends, its results to follow (R239). -/
def Core.giveEntry (c : Core) (ch i slot : Nat) : Core :=
  let off := (c.chan ch).entryOff i
  let c1 := (c.onEntry ch i fun e => { e with state := .taken }).onChan ch fun k =>
    { k with recvq := k.recvq.filter fun q => q != slot }
  (c1.onSlot slot fun t => t.unblock.onLat .ch fun l =>
    { l with fly := some ⟨3, 0, 2, 2, w64 (0x4000000 + off), c.mem.dword off⟩ }).count 11 slot

/-- The core's slots keep their waits: the core is stopped, or its job frozen (R236, R490). A halted core's waits end (R482). -/
def State.still (s : State) (c : Core) : Bool :=
  c.stopped || match c.ctx with
    | some x => s.wire x.record
    | none => false

/-- An arrival that no match-table entry took goes to the `recv` that has waited longest. -/
def State.serveRecv (s : State) (id : CoreId) (ch : Nat) : State :=
  let c := s.coreAt id
  if s.still c then s
  else match (c.chan ch).recvq.head?, (c.chan ch).oldestPlain with
    | some slot, some (i, _) => s.setCoreAt id (c.giveEntry ch i slot)
    | _, _ => s

/-! ## Landing and freeing (R209, R212, R214) -/

/-- A message lands in its entry: header and payload are written, and it is offered to the match table, then to a `recv`. A record of
an engine-fed channel joins the engine's order (R204). -/
def State.landEntry (s : State) (id : CoreId) (ch i : Nat) (header : Word) (payload : List Byte) : State :=
  let s1 := s.writeCore id (((s.coreAt id).chan ch).entryOff i) (leBytes 8 header.toNat ++ payload)
  let s2 := s1.onCoreAt id fun c =>
    let c1 := c.onEntry ch i fun e => { e with state := .arrived, mark := none }
    if (c.chan ch).eng then { c1 with stream := { c1.stream with order := c1.stream.order ++ [some ch] } }
    else (c1.offerEntry ch i).releaseTask
  (s2.serveRecv id ch).noteChan id ch

/-- A notice lands in an entry of channel 15. -/
def State.landNotice (s : State) (id : CoreId) (i : Nat) (n : Notice) : State :=
  (s.onCoreAt id fun c => c.reserveEntry 15 i).landEntry id 15 i n.header (leBytes 8 n.p0.toNat ++ leBytes 8 n.p1.toNat)

/-- The free entry of channel 15 that a notice can land in now: no range lock bars it (R319). -/
def Core.noticeEntry (c : Core) : Option Nat := (c.chan 15).firstFree.filter fun i => (c.landLock 15 i 16).isNone

/-- Notices that wait outside the buffer enter channel 15, or the buffer, while they find a place (R214). -/
def State.admitNotices (s : State) (id : CoreId) : Nat → State
  | 0 => s
  | fuel + 1 =>
    let c := s.coreAt id
    match c.outside with
    | [] => s
    | n :: rest =>
      let s1 := s.onCoreAt id fun c => { c with outside := rest }
      match if c.notices.isEmpty then c.noticeEntry else none with
      | some i => State.admitNotices (s1.landNotice id i n) id fuel
      | none =>
        if 16 ≤ c.notices.length then s
        else State.admitNotices (s1.onCoreAt id fun c => { c with notices := c.notices ++ [n] }) id fuel

/-- Notices of the buffer land in free entries of channel 15, in order (R214). -/
def State.drainNotices (s : State) (id : CoreId) : Nat → State
  | 0 => s
  | fuel + 1 =>
    let c := s.coreAt id
    match c.notices, c.noticeEntry with
    | n :: rest, some i => State.drainNotices ((s.onCoreAt id fun c => { c with notices := rest }).landNotice id i n) id fuel
    | _, _ => s

/-- Every notice that finds a place takes it: those of the buffer first, then those outside it. -/
def State.admitAll (s : State) (id : CoreId) : State := (s.drainNotices id (s.coreAt id).notices.length).admitNotices id (s.coreAt id).outside.length

/-- An entry becomes free. On channel 15 a notice of the buffer takes it before any sender (R214). -/
def State.freeEntry (s : State) (id : CoreId) (ch i : Nat) : State :=
  let s1 := s.onCoreAt id fun c => c.onEntry ch i fun e => { e with state := .free, mark := none }
  (if ch != 15 then s1 else s1.admitAll id).noteChan id ch

end Sys2Proof.Machine
end

