-- ==== Sys2Proof/Machine/Dead.lean ====
section
/-! DEFINITION. Marking a context dead (spec/09_traps.md R258 to R260), the fault area of a job (R509), and what a dead context
leaves in the engines (spec/12 R325, spec/14 R355, spec/15 R374). -/

set_option autoImplicit false
set_option Elab.async false

namespace Sys2Proof.Machine

/-! ## The fault area (R509) -/

/-- Runs of a range of a record's own tables, for a write, U ignored (R508). -/
def State.recRuns (s : State) (r va n : Nat) : Option (List (Home × Nat)) :=
  match s.runs [] (s.recAsid r) (s.recVf r) .write false va n with
  | .ok rs => some rs
  | .error _ => none

/-- Writes bytes of a record's own tables; a range that cannot be translated is left as it is. -/
def State.writeRec (s : State) (r va : Nat) (bs : List Byte) : State :=
  match s.recRuns r va bs.length with
  | some rs => s.writeRuns rs bs
  | none => s

/-- A number in a record's own tables, 0 where it cannot be translated. -/
def State.recNat (s : State) (r va n : Nat) : Nat := leNat ((s.readRec r va n).getD [])

/-- Base of a job's fault area (R282). -/
def State.faultBase (s : State) (r : Nat) : Nat := bits (s.dw r 10) 51 0

/-- Appends a record to a job's fault area, or counts it lost (R509); lists it for RESYNC when it was written and is one that the host
is told of (R452). -/
def State.appendFault (s : State) (r code : Nat) (listed : Bool) (bs : List Byte) : State :=
  let base := s.faultBase r
  let next := s.recNat r base 8
  if bits (s.dw r 10) 63 52 * 4096 < next + bs.length then
    s.writeRec r (base + 8) (leBytes 8 (s.recNat r (base + 8) 8 + 1))
  else
    let pa := match s.recRuns r (base + next) 1 with
      | some ((.device pa _, _) :: _) => pa
      | _ => 0
    let s1 := (s.writeRec r (base + next) bs).writeRec r base (leBytes 8 (next + bs.length))
    if listed then { s1 with faults := s1.faults ++ [(pa, code)] } else s1

/-- A dead-context record (R260). -/
def deadRecord (party code ncode : Nat) (epc tval area : Word) (time job : Nat) : List Byte :=
  leBytes 4 party ++ leBytes 1 code ++ leBytes 1 ncode ++ [0, 0] ++ leBytes 8 epc.toNat ++ leBytes 8 tval.toNat ++
    leBytes 8 area.toNat ++ leBytes 8 time ++ leBytes 2 job ++ List.replicate 22 0

/-! ## What a dead context leaves (R259) -/

/-- A slot of a dead context: Free, its wait, lock link, buffered stores and traps dropped. -/
def Slot.kill (t : Slot) : Slot :=
  { t with run := .free, wait := none, link := none, sb := [], rep := [], reissue := [], after := none, pend := Pending.none,
           key := none, helper := none, parked := false, stall := 0, bubble := 0, yielded := false,
           lats := t.lats.map fun l => { l with fly := none },
           csr := { t.csr with wrr := setBits t.csr.wrr 63 63 0 } }

/-- The core of a dead context: queues, helpers, releases and matrix commands dropped (R259, R355). -/
def Core.kill (c : Core) : Core :=
  { c with slots := c.slots.map Slot.kill, actq := [], helpers := Vector.replicate 10 ⟨false, false, none, 0⟩, vq := [],
           matchTab := Vector.replicate 16 none,
           chans := c.chans.map fun ch => { ch with entries := ch.entries.map fun e => { e with mark := none }, queue := [], recvq := [] },
           mq := { c.mq with cmds := [], waiting := [], wrr := setBits c.mq.wrr 63 63 0 },
           stream := { c.stream with queue := [], run := none, order := [], waiting := [], wrr := setBits c.stream.wrr 63 63 0 },
           prq := none, dreqs := 0, ctx := c.ctx.map fun x => { x with dead := true } }

/-- Frees the entry that a message in flight had reserved (R259). -/
def State.freeReserved (s : State) (m : Msg) : State :=
  match m.entry with
  | none => s
  | some i =>
    if (((s.coreAt m.dst).chan m.chan).entries[i]?.map (·.state)) == some .reserved then s.freeEntry m.dst m.chan i else s

/-- Credit requests that a test names leave a Hamper; a pool's wait reason follows its first waiter (R361). -/
def Hamper.dropRequests (h : Hamper) (time : Nat) (p : CoreId × Nat → Bool) : Hamper :=
  let left := h.requests.filter fun q => !p q.2
  let head := fun (rs : List (Nat × CoreId × Nat)) (g : Nat) => (rs.find? fun q => q.1 == g).map (·.2)
  let changed := h.wrr.filter fun w => head h.requests w.1 != head left w.1
  { h with
    requests := left
    wrr := h.wrr.map fun w =>
      if head h.requests w.1 == head left w.1 then w
      else if (head left w.1).isNone then (w.1, setBits w.2 63 63 0)
      else (w.1, setBits w.2 55 48 (bits w.2 55 48 + 1))
    since := changed.foldl (fun m w => put m w.1 time) h.since }

/-- Records of a core on their way to a Hamper are discarded, their credits returned (R259, R374). -/
def State.dropEmits (s : State) (id : CoreId) : State :=
  let lost := s.emits.filter fun e => e.src == id
  let s1 := lost.foldl (fun (s : State) e =>
    let hk := e.die * 4 + e.cluster
    { s with hampers := s.hampers.map fun h =>
        if h.1 == hk then (h.1, { h.2 with credits := put h.2.credits e.krec.stage (look 0 h.2.credits e.krec.stage + 1) }) else h }) s
  { s1 with emits := s1.emits.filter (fun e => e.src != id),
            hampers := s1.hampers.map fun h => (h.1, h.2.dropRequests s.time fun q => q.1 == id) }

/-- Drops what a core has in flight: its messages, pushes and pulls, lock requests, channel requests and dispenser requests
(R259, R230). -/
def State.dropInFlight (s : State) (id : CoreId) : State :=
  let s0 := s.mapCores fun _ c =>
    { c with locks := c.locks.filter (fun l => l.2.1 != id), lockq := c.lockq.filter (fun l => l.2.1 != id),
             chans := c.chans.map fun ch => { ch with queue := ch.queue.filter fun q => q.1 != id } }
  let s1 := (s0.msgs.filter fun m => m.src == id).foldl (fun s m => s.freeReserved m) (s0.dropEmits id)
  { s1 with
    msgs := s1.msgs.filter fun m => m.src != id,
    pushes := s1.pushes.filter fun p => p.src != id,
    pulls := s1.pulls.filter fun p => p.src != id,
    jobs := s1.jobs.map fun p => (p.1, { p.2 with dreqs := p.2.dreqs.filter fun d => d.core != id }) }

/-- Releases the range locks of a queue in every scratchpad (R325). -/
def State.dropLocksOf (s : State) (queue : Nat) (die : Nat) : State :=
  s.mapCores fun id c => if id.die == die then { c with ranges := c.ranges.filter fun l => l.queue != queue } else c

/-- Returns a credit of a stage to a Hamper (R360). -/
def Hamper.returnCredit (h : Hamper) (stage : Nat) : Hamper := { h with credits := put h.credits stage (look 0 h.credits stage + 1) }

/-- The Hampers when a stage core's context dies: its queued, running and retiring entries become free, and the records
waiting behind those keys are discarded with their credits returned (R374). -/
def Hamper.coreDied (h : Hamper) (id : CoreId) : Hamper :=
  let dead := h.ways.filter fun w => w.2.core == some id && w.2.st != .idle
  let behind := fun (k : KRec) => dead.any fun w => w.2.stage == k.stage && w.2.key == k.key
  let lost := h.recs.filter fun r => behind r.1
  lost.foldl (fun h r => h.returnCredit r.1.stage)
    { h with ways := h.ways.filter fun w => !(w.2.core == some id && w.2.st != .idle),
             recs := h.recs.filter fun r => !behind r.1,
             kept := h.kept.filter fun k => !dead.any fun w => w.1 == k.1 }

/-- The Hamper when its job has failed: idle and spilled entries go (R374). -/
def Hamper.jobFailed (h : Hamper) : Hamper :=
  { h with ways := h.ways.filter (fun w => w.2.st != .idle), filters := [], scount := [] }

/-- The page request of a core's stream engine is answered no more (R462). -/
def State.dropStreamPage (s : State) (id : CoreId) : State :=
  let s1 : State := { s with prqs := s.prqs.filter fun p => decide (p.2 ≠ .stream id) }
  s1.onCoreAt id fun c => { c with prq := none }

/-- Marks the context on a core dead (R258, R259): frees its slots, drops its queues, its matrix commands and locks, and what
it has in flight; its context ID enters the dead set (R466). -/
def State.killCore (s : State) (id : CoreId) : State :=
  let c := s.coreAt id
  let s1 := (s.dropInFlight id).dropLocksOf (queueParty c) id.die
  let s2 : State := { s1 with hampers := s1.hampers.map fun h => (h.1, h.2.coreDied id) }
  let s3 := match c.ctx with
    | some x => { s2 with deadIds := insertNat s2.deadIds x.cid }
    | none => s2
  (s3.dropStreamPage id).onCoreAt id Core.kill

/-! ## DMA engines of a job (R418, R422) -/

/-- A DMA or collective engine right after reset. -/
def Engine.reset : Engine := ⟨none, 0, 0, none, false, 0, []⟩

/-- DMA engine `e` of an I/O die. -/
def State.engine (s : State) (die e : Nat) : Engine := look Engine.reset s.dma (die * 64 + e)

/-- Changes a DMA engine. -/
def State.onEngine (s : State) (die e : Nat) (f : Engine → Engine) : State :=
  { s with dma := put s.dma (die * 64 + e) (f (s.engine die e)) }

/-- STATE and ERR of DMAST, SIDX as it is. -/
def State.setDmaState (s : State) (die e state err : Nat) : State :=
  s.setReg (.dmast die e) (w64 (state * 2 ^ 61 + err * 2 ^ 48 + bits (s.reg (.dmast die e)) 31 0))

/-- ABORT (R418): the engine's descriptor is dropped, HEAD becomes TAIL, and STATE 0. -/
def State.abortEngine (s : State) (die e : Nat) : State :=
  let s1 : State := { s with prqs := s.prqs.filter fun p => decide (p.2 ≠ .dma die e) }
  let s2 := s1.onEngine die e fun g => { g with run := none, prq := none, stopping := false, off := 0, before := [], wrr := setBits g.wrr 63 63 0 }
  (s2.setReg (.drhead die e) (s2.reg (.drtail die e))).setDmaState die e 0 0

/-- ABORT of a collective engine (R473), as a DMA engine's. -/
def State.abortColl (s : State) (die : Nat) : State :=
  let s1 : State := { s with coll := put s.coll die Engine.reset, prqs := s.prqs.filter fun p => decide (p.2 ≠ .coll die) }
  (s1.setReg (.crhead die) (s1.reg (.crtail die))).setReg (.crst die) (w64 (bits (s1.reg (.crst die)) 31 0))

/-- The DMA engines for which `p` holds of DRCFG, and the collective engines for which it holds of CRCFG, are aborted (R422, R473). -/
def State.abortEngines (s : State) (p : Word → Bool) : State :=
  let s1 := (List.range 128).foldl (fun s k =>
    if p (s.reg (.drcfg (8 + k / 64) (k % 64))) then s.abortEngine (8 + k / 64) (k % 64) else s) s
  [8, 9].foldl (fun s d => if p (s.reg (.crcfg d)) then s.abortColl d else s) s1

/-! ## Legs (R440) -/

/-- An entry in which no leg stands, with its PEND. -/
def Leg.empty (pend : Int) : Leg := ⟨0, pend, false, false, 0, [], []⟩

/-- The fields of a queue's descriptor in the queue table (R424, R427). -/
def State.queueDesc (s : State) (q : Nat) : List Byte := s.dm.bytes (bits (s.reg .feqt) 51 18 * 2 ^ 18 + 64 * q) 64

/-- The interrupt source of a queue (R427). -/
def descSource (d : List Byte) : Nat := leNat ((d.drop 14).take 2) % 1024

/-- Raises a queue's source (R431, R440). IRQ names one of 264 to 1,023, and no other is raised for a queue (R427, R443). -/
def State.raiseQueue (s : State) (d : List Byte) : State := if 264 ≤ descSource d then s.raiseIrq (descSource d) else s

/-- The entry of leg `k % 1024` in the table of queue `k / 1024` changes. The 64 bytes that stand for it are free (R440, log 38). -/
def State.setLeg (s : State) (k : Nat) (l : Leg) : State :=
  let legt := bits (w64 (leNat (((s.queueDesc (k / 1024)).drop 24).take 8))) 51 16
  let s1 : State := { s with legs := put s.legs k l }
  s1.deviceWrite (legt * 2 ^ 16 + 64 * (k % 1024)) ((List.range 64).map (Config.legByte s.time k))

/-- PEND of a leg decreases by 1. -/
def State.releaseLeg (s : State) (k : Nat) : State :=
  let l := look (Leg.empty 0) s.legs k
  s.setLeg k { l with pend := l.pend - 1 }

/-- The legs that ran record `r` end, and PEND of their entries stays: for idle, their successors are released; for failed, their queues'
sources are raised. -/
def State.endLegs (s : State) (r : Nat) (ok : Bool) : State :=
  (s.legs.filter fun l => l.2.fired && l.2.record == r).foldl (fun s l =>
    let s1 : State := { s with legs := put s.legs l.1 (Leg.empty l.2.pend) }
    let q := l.1 / 1024
    if ok then l.2.succ.foldl (fun s n => s.releaseLeg (q * 1024 + n)) s1 else s1.raiseQueue (s1.queueDesc q)) s

/-- An armed, running or parked record becomes failed (R286), and an armed one waits for its place no longer; the idle and spilled entries of its stages are kept no longer (R374), and the
DMA engines that work for it are aborted (R422). -/
def State.failRecord (s : State) (r : Nat) : State :=
  if s.recState r == 1 || s.recState r == 2 || s.recState r == 3 then
    let s1 : State := { s with hampers := s.hampers.map fun h => (h.1, if h.2.record == some r then h.2.jobFailed else h.2) }
    (({ s1 with armed := s1.armed.filter fun q => q != r }.abortEngines fun w => bit w 62 && bits w 55 44 == r).endLegs r false).setRecState r 4
  else s

/-- Marks the context on a core dead with a cause (R258 to R260): its job becomes failed, a dead-context record is written to
the job's fault area and reported by source 131 (R452). A core that holds no context has only its slots freed. -/
def State.markDead (s : State) (id : CoreId) (slot code ncode : Nat) (epc tval area : Word) : State :=
  let c := s.coreAt id
  let s1 := s.killCore id
  match c.ctx with
  | none => s1
  | some x =>
    let rec_ := deadRecord (partyOf id c slot) code ncode epc tval area s.time x.record
    ((s1.failRecord x.record).appendFault x.record code true rec_).raiseIrq 131

/-- What is pending for slot 0 of every core of a job: a slot that holds an activation, one that is parked, and one whose core has been copied
out already (R439, R442). -/
def State.atControl (s : State) (r : Nat) (f : Pending → Pending) : State :=
  let s1 := (s.jobCores r).foldl (fun s c => s.onCoreAt c.1 fun k => k.onSlot 0 fun t =>
    if t.occupied || t.parked then { t with pend := f t.pend } else t) s
  s1.onJob r fun j => { j with parked := j.parked.map fun p => if p.party % 4 == 0 then { p with pend := f p.pend } else p }

/-- Marks every context of a job dead with a cause outside a slot (R258). A mailbox KILL writes no record (R260). -/
def State.killJob (s : State) (r code : Nat) (withRecord : Bool) : State :=
  (s.jobCores r).foldl (fun s p =>
    if (p.2.ctx.map (·.dead)) == some true then s
    else if withRecord then s.markDead p.1 0 code 0 0 0 0 else s.killCore p.1) (s.failRecord r)

end Sys2Proof.Machine
end

