-- ==== Sys2Proof/Machine/Finish.lean ====
section
/-! DEFINITION. The end of a core's part and of a job (spec/08 R229; spec/11 R286, R303; spec/15 R376). -/

set_option autoImplicit false
set_option Elab.async false

namespace Sys2Proof.Machine

/-- The 64 bytes of a declared stage descriptor of a record (R356). -/
def State.stage (s : State) (r g : Nat) : Option (List Byte) :=
  let w := s.dw r 5
  if bits w 58 52 ≤ g then none
  else match s.readRec r (bits w 51 0 + 64 * g) 64 with
    | some d => if (d.getD 35 0).toNat % 2 == 1 then some d else none
    | none => none

/-- The descriptor of a stage number of a record can no longer be translated (R508). -/
def State.stageLost (s : State) (r g : Nat) : Bool :=
  let w := s.dw r 5
  decide (g < bits w 58 52) && (s.readRec r (bits w 51 0 + 64 * g) 64).isNone

/-- The table of stages can be translated. -/
def State.stagesRead (s : State) (r : Nat) : Bool := (List.range (bits (s.dw r 5) 58 52)).all fun g => !s.stageLost r g

/-- Every declared stage of a record, with its number. -/
def State.stages (s : State) (r : Nat) : List (Nat × List Byte) :=
  (List.range (bits (s.dw r 5) 58 52)).filterMap fun g => (s.stage r g).map fun d => (g, d)

/-- The core's part of its job is done: no slot holds an activation, none is parked, and none is queued (R229). -/
def Core.partDone (c : Core) : Bool := c.slots.toList.all (fun t => !t.occupied && !t.parked) && c.actq.isEmpty

/-- No stage of a job holds an entry, a record or a spilled key, and no record is on its way (R376). -/
def State.stagesEmpty (s : State) (r : Nat) : Bool :=
  (s.hampers.all fun h => h.2.record != some r || (h.2.ways.isEmpty && h.2.recs.isEmpty && h.2.scount.all fun n => n.2 == 0)) &&
    s.emits.all fun e => ((s.coreAt e.src).ctx.map (·.record)) != some r

/-- The physical dies on which a job has cores, each once. -/
def State.jobDies (s : State) (r : Nat) : List Nat := (s.jobCores r).foldl (fun acc p => insertNat acc p.1.die) []

/-- The cores of a job on a die are marked as having done their part, and DCTR of the die is incremented (R303). -/
def State.finishDie (s : State) (r die : Nat) : State :=
  let mine := (s.jobCores r).filter fun p => p.1.die == die
  if mine.all (fun p => p.2.partDone) && mine.any fun p => (p.2.ctx.map (·.done)) != some true then
    let s1 := mine.foldl (fun s p => s.onCoreAt p.1 fun c => { c with ctx := c.ctx.map fun x => { x with done := true } }) s
    let d := s.dw r 9
    if bit d 15 then s1.addCtr die (bits d 11 0) 1 else s1
  else s

/-- A core of a job that has ended is free for another context. -/
def State.vacate (s : State) (id : CoreId) : State :=
  let s1 := (List.range 4).foldl (fun s n => s.drainSlot id n) s
  let s2 := if (s1.coreAt id).dbg.trace.isEmpty then s1 else s1.sealTrace id
  s2.onCoreAt id fun c => { c with ctx := none }

/-- A job whose every part is done, and whose stages are empty, becomes idle (R286, R376). DCTR of a die counts once the parts on it are done;
in a job with stages only once every part is, and the stages are empty (R303, R376). A core of a failed job is free once its
part is done. -/
def State.checkJob (s : State) (r : Nat) : State :=
  let live := (s.jobCores r).filter fun p => p.2.partDone && (p.2.ctx.map (·.dead)) == some false
  if s.recState r != 2 then live.foldl (fun s p => s.vacate p.1) s
  else if (s.job r).parking || !s.stagesEmpty r then s
  else
    let all := (s.jobCores r).all fun p => p.2.partDone
    let s1 := if (s.stages r).isEmpty || all then (s.jobDies r).foldl (fun s die => s.finishDie r die) s else s
    if (s1.jobCores r).all fun p => p.2.partDone && (p.2.ctx.map (·.dead)) == some false then
      let s2 := (s1.jobCores r).foldl (fun s p => s.vacate p.1) s1
      let s3 : State := { s2 with jobs := del s2.jobs r,
                                  hampers := s2.hampers.map fun h => (h.1, if h.2.record == some r then { h.2 with record := none } else h.2) }
      (s3.endLegs r true).setRecState r 0
    else s1

/-- Looks whether the job of the core in focus has ended. -/
def State.checkMine (s : State) : State := match s.record? with
  | some r => s.checkJob r
  | none => s

end Sys2Proof.Machine
end

