-- ==== Sys2Proof/Decode.lean ====
section
/-! DEFINITION. The decoder of move words and bundles, and the encoder (spec/03_encoding.md R80 to R87, R92). A word that is
no legal move decodes to `illegalMove` or `illegalOp`, with its reason: nothing is dropped. -/

set_option autoImplicit false
set_option Elab.async false

namespace Sys2Proof

/-! ## Fields of a move word (R80) -/

/-- E, bit 31. -/
def fieldE (w : HWord) : Bool := w.getLsbD 31
/-- INV, bit 30. -/
def fieldInv (w : HWord) : Bool := w.getLsbD 30
/-- GI, bits 29:28. -/
def fieldGi (w : HWord) : Fin 4 := Fin.ofNat 4 (w.toNat / 2 ^ 28)
/-- DST, bits 27:18. -/
def fieldDst (w : HWord) : Nat := w.toNat / 2 ^ 18 % 1024
/-- SRC, bits 17:8. -/
def fieldSrc (w : HWord) : Nat := w.toNat / 2 ^ 8 % 1024
/-- OPC, bits 7:0. -/
def fieldOpc (w : HWord) : Nat := w.toNat % 256

/-- How many long-immediate words follow a move word (R81). -/
def longWords (w : HWord) : Nat :=
  if fieldSrc w == 0x3FE then 1 else if fieldSrc w == 0x3FF then 2 else 0

/-- A port code 0x080 to 0x0EF, by unit and port; ports 6 and 7 exist in no unit (R83). -/
def portOf (code : Nat) : Option (FU × Port) :=
  match FU.ofNumber ((code - 0x80) / 8), Port.ofNumber ((code - 0x80) % 8) with
  | some u, some p => some (u, p)
  | _, _ => none

/-- Whether a code lies in the ports' range (R83); such a code is judged only under reasons 8 and 9 (R92). -/
def isPortCode (code : Nat) : Bool := 0x80 ≤ code && code < 0xF0

/-- The unit a port code names. -/
def unitOfCode (code : Nat) : Option FU := if isPortCode code then FU.ofNumber ((code - 0x80) / 8) else none

/-- The operands of SRC: a source, or the reason R92 gives for refusing it (4 or 9). -/
def decodeSrc (code : Nat) (imms : List HWord) : Except Nat Src :=
  if code < 0x20 then .ok (.x (Fin.ofNat 32 code))
  else if code < 0x40 then .ok (.v (Fin.ofNat 32 (code - 0x20)))
  else if code < 0x48 then .ok (.o (Fin.ofNat 8 (code - 0x40)))
  else if code < 0x4C then .ok (.g (Fin.ofNat 4 (code - 0x48)))
  else if isPortCode code then
    match portOf code with
    | some (u, p) => if u.canRead p then .ok (.port u p) else .error 9
    | none => .error 9
  else if 0x200 ≤ code && code < 0x300 then .ok (.imm8 (BitVec.ofNat 8 (code - 0x200)))
  else if code == 0x3FE then
    match imms with
    | a :: _ => .ok (.imm32 a)
    | [] => .error 4
  else if code == 0x3FF then
    match imms with
    | a :: b :: _ => .ok (.imm64 (b ++ a))
    | _ => .error 4
  else .error 4

/-- What DST names: a trigger port, another destination, or the reason for refusing it (5 or 9). -/
inductive Target where
  | trigger (u : FU)
  | dst (d : Dst)
  | bad (reason : Nat)
  deriving DecidableEq, Repr

/-- The destination that DST names (R83). -/
def decodeDst (code : Nat) : Target :=
  if code < 0x20 then .dst (.x (Fin.ofNat 32 code))
  else if code < 0x40 then .dst (.v (Fin.ofNat 32 (code - 0x20)))
  else if code < 0x48 then .dst (.o (Fin.ofNat 8 (code - 0x40)))
  else if code == 0x48 then .bad 5
  else if code < 0x4C then .dst (.g (Fin.ofNat 4 (code - 0x48)))
  else if isPortCode code then
    match portOf code with
    | some (u, .t) => .trigger u
    | some (u, p) => if u.canWrite p then .dst (.port u p) else .bad 9
    | none => .bad 9
  else .bad 5

/-- Whether DST's code is a trigger port (R83): the only destinations that may carry a nonzero OPC (R87). -/
def isTriggerCode (code : Nat) : Bool := isPortCode code && (code - 0x80) % 8 == 3

/-- The opcode map of `ia`. -/
noncomputable def decodeIa (opc : Nat) (h : Hdr) : Instr :=
  match opc with
  | 0x01 => .iaAdd h
  | 0x02 => .iaSub h
  | 0x03 => .iaAnd h
  | 0x04 => .iaOr h
  | 0x05 => .iaXor h
  | 0x06 => .iaAndn h
  | 0x07 => .iaSll h
  | 0x08 => .iaSrl h
  | 0x09 => .iaSra h
  | 0x0A => .iaRol h
  | 0x0B => .iaRor h
  | 0x0C => .iaMin h
  | 0x0D => .iaMax h
  | 0x0E => .iaMinu h
  | 0x0F => .iaMaxu h
  | 0x10 => .iaCeq h
  | 0x11 => .iaCne h
  | 0x12 => .iaClt h
  | 0x13 => .iaCltu h
  | 0x14 => .iaCge h
  | 0x15 => .iaCgeu h
  | 0x16 => .iaSel h
  | 0x17 => .iaPopc h
  | 0x18 => .iaClz h
  | 0x19 => .iaCtz h
  | 0x1A => .iaExt h
  | 0x1B => .iaExtu h
  | 0x1C => .iaIns h
  | 0x20 => .iaSxb h
  | 0x21 => .iaSxh h
  | 0x22 => .iaSxw h
  | 0x23 => .iaZxb h
  | 0x24 => .iaZxh h
  | 0x25 => .iaZxw h
  | 0x28 => .iaAddw h
  | 0x29 => .iaSubw h
  | 0x2A => .iaSllw h
  | 0x2B => .iaSrlw h
  | 0x2C => .iaSraw h
  | _ => .illegalOp h .ia (BitVec.ofNat 8 opc)

/-- The opcode map of `ib`. -/
noncomputable def decodeIb (opc : Nat) (h : Hdr) : Instr :=
  match opc with
  | 0x01 => .ibAdd h
  | 0x02 => .ibSub h
  | 0x03 => .ibAnd h
  | 0x04 => .ibOr h
  | 0x05 => .ibXor h
  | 0x06 => .ibAndn h
  | 0x07 => .ibSll h
  | 0x08 => .ibSrl h
  | 0x09 => .ibSra h
  | 0x0A => .ibRol h
  | 0x0B => .ibRor h
  | 0x0C => .ibMin h
  | 0x0D => .ibMax h
  | 0x0E => .ibMinu h
  | 0x0F => .ibMaxu h
  | 0x10 => .ibCeq h
  | 0x11 => .ibCne h
  | 0x12 => .ibClt h
  | 0x13 => .ibCltu h
  | 0x14 => .ibCge h
  | 0x15 => .ibCgeu h
  | 0x16 => .ibSel h
  | 0x17 => .ibPopc h
  | 0x18 => .ibClz h
  | 0x19 => .ibCtz h
  | 0x1A => .ibExt h
  | 0x1B => .ibExtu h
  | 0x1C => .ibIns h
  | 0x20 => .ibSxb h
  | 0x21 => .ibSxh h
  | 0x22 => .ibSxw h
  | 0x23 => .ibZxb h
  | 0x24 => .ibZxh h
  | 0x25 => .ibZxw h
  | 0x28 => .ibAddw h
  | 0x29 => .ibSubw h
  | 0x2A => .ibSllw h
  | 0x2B => .ibSrlw h
  | 0x2C => .ibSraw h
  | _ => .illegalOp h .ib (BitVec.ofNat 8 opc)

/-- The opcode map of `ag`. -/
noncomputable def decodeAg (opc : Nat) (h : Hdr) : Instr :=
  match opc with
  | 0x01 => .agPadd h
  | 0x02 => .agPsub h
  | 0x03 => .agPtag h
  | 0x04 => .agPfmt h
  | 0x05 => .agPblk h
  | 0x06 => .agPclr h
  | 0x07 => .agPidx h
  | 0x08 => .agCadr h
  | 0x09 => .agLcl h
  | 0x0A => .agCoord h
  | _ => .illegalOp h .ag (BitVec.ofNat 8 opc)

/-- The opcode map of `mu`. -/
noncomputable def decodeMu (opc : Nat) (h : Hdr) : Instr :=
  match opc with
  | 0x01 => .muMul h
  | 0x02 => .muMulh h
  | 0x03 => .muMulhu h
  | 0x04 => .muMulhsu h
  | 0x05 => .muMulw h
  | 0x08 => .muDiv h
  | 0x09 => .muDivu h
  | 0x0A => .muRem h
  | 0x0B => .muRemu h
  | 0x0C => .muDivw h
  | 0x0D => .muRemw h
  | _ => .illegalOp h .mu (BitVec.ofNat 8 opc)

/-- The opcode map of `cf`. -/
noncomputable def decodeCf (opc : Nat) (h : Hdr) : Instr :=
  match opc with
  | 0x01 => .cfBr h
  | 0x02 => .cfJmp h
  | 0x03 => .cfCall h
  | 0x08 => .cfLoop0 h
  | 0x09 => .cfLoop1 h
  | 0x0A => .cfRep h
  | 0x0F => .cfBrk h
  | _ => .illegalOp h .cf (BitVec.ofNat 8 opc)

/-- The opcode map of `ls`. -/
noncomputable def decodeLs (opc : Nat) (h : Hdr) : Instr :=
  match opc with
  | 0x01 => .lsLd8 h
  | 0x02 => .lsLd8u h
  | 0x03 => .lsLd16 h
  | 0x04 => .lsLd16u h
  | 0x05 => .lsLd32 h
  | 0x06 => .lsLd32u h
  | 0x07 => .lsLd64 h
  | 0x09 => .lsSt8 h
  | 0x0A => .lsSt16 h
  | 0x0B => .lsSt32 h
  | 0x0C => .lsSt64 h
  | 0x10 => .lsLdacqCore h
  | 0x11 => .lsLdacqCluster h
  | 0x12 => .lsLdacqDie h
  | 0x13 => .lsLdacqDevice h
  | 0x14 => .lsLdacqDomain h
  | 0x15 => .lsLdacqSystem h
  | 0x18 => .lsStrelCore h
  | 0x19 => .lsStrelCluster h
  | 0x1A => .lsStrelDie h
  | 0x1B => .lsStrelDevice h
  | 0x1C => .lsStrelDomain h
  | 0x1D => .lsStrelSystem h
  | 0x20 => .lsLla h
  | 0x21 => .lsSsu h
  | 0x22 => .lsCas h
  | 0x23 => .lsSwap h
  | 0x24 => .lsAadd h
  | 0x25 => .lsAand h
  | 0x26 => .lsAor h
  | 0x27 => .lsAmin h
  | 0x28 => .lsAmax h
  | 0x29 => .lsAminu h
  | 0x2A => .lsAmaxu h
  | 0x30 => .lsFget h
  | 0x31 => .lsFput h
  | 0x32 => .lsFclr h
  | 0x40 => .lsBwait h
  | 0x41 => .lsBadv h
  | 0x42 => .lsBpush h
  | 0x43 => .lsBstat h
  | _ => .illegalOp h .ls (BitVec.ofNat 8 opc)

/-- The opcode map of `vp`. -/
noncomputable def decodeVp (opc : Nat) (h : Hdr) : Instr :=
  match opc with
  | 0x01 => .vpVld h
  | 0x02 => .vpVldx h
  | 0x03 => .vpVst h
  | 0x04 => .vpVstx h
  | 0x05 => .vpVstm h
  | 0x06 => .vpBcast h
  | 0x07 => .vpDq h
  | 0x08 => .vpVldb h
  | 0x10 => .vpAdd h
  | 0x11 => .vpSub h
  | 0x12 => .vpMul h
  | 0x13 => .vpFma h
  | 0x14 => .vpFnma h
  | 0x15 => .vpMin h
  | 0x16 => .vpMax h
  | 0x17 => .vpMinu h
  | 0x18 => .vpMaxu h
  | 0x19 => .vpAbs h
  | 0x1A => .vpNeg h
  | 0x20 => .vpCeq h
  | 0x21 => .vpCne h
  | 0x22 => .vpClt h
  | 0x23 => .vpCle h
  | 0x24 => .vpCltu h
  | 0x25 => .vpCleu h
  | 0x26 => .vpSel h
  | 0x27 => .vpAnd h
  | 0x28 => .vpOr h
  | 0x29 => .vpXor h
  | 0x2A => .vpAndn h
  | 0x2B => .vpSll h
  | 0x2C => .vpSrl h
  | 0x2D => .vpSra h
  | 0x30 => .vpCvtRne h
  | 0x31 => .vpCvtRtz h
  | 0x32 => .vpCvtRup h
  | 0x33 => .vpCvtRdn h
  | 0x34 => .vpCvtRsr h
  | 0x37 => .vpCvtDyn h
  | 0x38 => .vpCvtSatRne h
  | 0x39 => .vpCvtSatRtz h
  | 0x3A => .vpCvtSatRup h
  | 0x3B => .vpCvtSatRdn h
  | 0x3C => .vpCvtSatRsr h
  | 0x3F => .vpCvtSatDyn h
  | 0x40 => .vpRadd h
  | 0x41 => .vpRmin h
  | 0x42 => .vpRmax h
  | 0x43 => .vpRminu h
  | 0x44 => .vpRmaxu h
  | 0x48 => .vpPerm h
  | 0x49 => .vpShuf h
  | 0x4A => .vpZiplo h
  | 0x4B => .vpZiphi h
  | 0x4C => .vpUnzipe h
  | 0x4D => .vpUnzipo h
  | 0x4E => .vpExt h
  | 0x4F => .vpIns h
  | 0x50 => .vpDot8 h
  | 0x51 => .vpDot8u h
  | 0x52 => .vpDot8su h
  | 0x54 => .vpExp2 h
  | 0x55 => .vpLog2 h
  | 0x56 => .vpRcp h
  | 0x57 => .vpRsqrt h
  | 0x58 => .vpNrcp h
  | 0x59 => .vpNrsq h
  | _ => .illegalOp h .vp (BitVec.ofNat 8 opc)

/-- The opcode map of `mx`. -/
noncomputable def decodeMx (opc : Nat) (h : Hdr) : Instr :=
  match opc with
  | 0x01 => .mxMmac h
  | 0x02 => .mxMlut h
  | 0x03 => .mxMsemi h
  | 0x04 => .mxMzero h
  | 0x05 => .mxMload h
  | 0x06 => .mxMdrain h
  | 0x07 => .mxMscale h
  | 0x08 => .mxMbar h
  | 0x09 => .mxMstat h
  | _ => .illegalOp h .mx (BitVec.ofNat 8 opc)

/-- The opcode map of `ch`. -/
noncomputable def decodeCh (opc : Nat) (h : Hdr) : Instr :=
  match opc with
  | 0x01 => .chSend h
  | 0x02 => .chSendm h
  | 0x03 => .chRecv h
  | 0x04 => .chPoll h
  | 0x05 => .chFree h
  | 0x06 => .chMatch h
  | 0x07 => .chUnmatch h
  | _ => .illegalOp h .ch (BitVec.ofNat 8 opc)

/-- The opcode map of `ks`. -/
noncomputable def decodeKs (opc : Nat) (h : Hdr) : Instr :=
  match opc with
  | 0x01 => .ksYield h
  | 0x02 => .ksEnd h
  | 0x03 => .ksEmit h
  | 0x04 => .ksDrain h
  | 0x05 => .ksStat h
  | _ => .illegalOp h .ks (BitVec.ofNat 8 opc)

/-- The opcode map of `sy`. -/
noncomputable def decodeSy (opc : Nat) (h : Hdr) : Instr :=
  match opc with
  | 0x01 => .sySlack h
  | 0x02 => .syBar h
  | 0x03 => .syWait h
  | 0x04 => .syCwait h
  | 0x05 => .syCinc h
  | 0x06 => .syYield h
  | 0x07 => .syHstart h
  | 0x08 => .syHjoin h
  | 0x09 => .syTend h
  | 0x0A => .syDreq h
  | 0x0B => .syLaunch h
  | 0x0C => .syLpatch h
  | 0x10 => .syFenceCore h
  | 0x11 => .syFenceCluster h
  | 0x12 => .syFenceDie h
  | 0x13 => .syFenceDevice h
  | 0x14 => .syFenceDomain h
  | 0x15 => .syFenceSystem h
  | 0x20 => .syCsrr h
  | 0x21 => .syCsrw h
  | 0x22 => .syCsrs h
  | 0x23 => .syCsrc h
  | 0x24 => .syTrap h
  | 0x25 => .syTret h
  | 0x30 => .syIflushCore h
  | 0x31 => .syIflushCluster h
  | 0x32 => .syIflushDie h
  | 0x33 => .syIflushDevice h
  | 0x40 => .sySubmit h
  | 0x41 => .syHalt h
  | _ => .illegalOp h .sy (BitVec.ofNat 8 opc)

/-- The opcode map of `qm`. -/
noncomputable def decodeQm (opc : Nat) (h : Hdr) : Instr :=
  match opc with
  | 0x01 => .qmLd8 h
  | 0x02 => .qmLd8u h
  | 0x03 => .qmLd16 h
  | 0x04 => .qmLd16u h
  | 0x05 => .qmLd32 h
  | 0x06 => .qmLd32u h
  | 0x07 => .qmLd64 h
  | 0x09 => .qmSt8 h
  | 0x0A => .qmSt16 h
  | 0x0B => .qmSt32 h
  | 0x0C => .qmSt64 h
  | 0x10 => .qmLdacqCore h
  | 0x11 => .qmLdacqCluster h
  | 0x12 => .qmLdacqDie h
  | 0x13 => .qmLdacqDevice h
  | 0x14 => .qmLdacqDomain h
  | 0x15 => .qmLdacqSystem h
  | 0x18 => .qmStrelCore h
  | 0x19 => .qmStrelCluster h
  | 0x1A => .qmStrelDie h
  | 0x1B => .qmStrelDevice h
  | 0x1C => .qmStrelDomain h
  | 0x1D => .qmStrelSystem h
  | 0x22 => .qmCas h
  | 0x23 => .qmSwap h
  | 0x24 => .qmAadd h
  | 0x25 => .qmAand h
  | 0x26 => .qmAor h
  | 0x27 => .qmAmin h
  | 0x28 => .qmAmax h
  | 0x29 => .qmAminu h
  | 0x2A => .qmAmaxu h
  | 0x30 => .qmPush h
  | 0x31 => .qmPull h
  | 0x40 => .qmFenceCore h
  | 0x41 => .qmFenceCluster h
  | 0x42 => .qmFenceDie h
  | 0x43 => .qmFenceDevice h
  | 0x44 => .qmFenceDomain h
  | 0x45 => .qmFenceSystem h
  | _ => .illegalOp h .qm (BitVec.ofNat 8 opc)

/-- The opcode map of `qs`. -/
noncomputable def decodeQs (opc : Nat) (h : Hdr) : Instr :=
  match opc with
  | 0x01 => .qsRun h
  | 0x02 => .qsStat h
  | 0x03 => .qsCancel h
  | _ => .illegalOp h .qs (BitVec.ofNat 8 opc)

/-- The opcode map of `db`. -/
noncomputable def decodeDb (opc : Nat) (h : Hdr) : Instr :=
  match opc with
  | 0x01 => .dbCyc h
  | 0x02 => .dbPerf h
  | 0x03 => .dbPsel h
  | 0x04 => .dbMark h
  | _ => .illegalOp h .db (BitVec.ofNat 8 opc)

/-- The operation that a trigger of unit `u` with opcode `opc` starts (R87); a cell with no operation gives `illegalOp`. -/
noncomputable def decodeTrigger (u : FU) (opc : Nat) (h : Hdr) : Instr :=
  match u with
  | .ia => decodeIa opc h
  | .ib => decodeIb opc h
  | .ag => decodeAg opc h
  | .mu => decodeMu opc h
  | .cf => decodeCf opc h
  | .ls => decodeLs opc h
  | .vp => decodeVp opc h
  | .mx => decodeMx opc h
  | .ch => decodeCh opc h
  | .ks => decodeKs opc h
  | .sy => decodeSy opc h
  | .qm => decodeQm opc h
  | .qs => decodeQs opc h
  | .db => decodeDb opc h

/-- The unit, opcode and header of a trigger move (the inverse of `decodeTrigger`); `none` for every other row. -/
def triggerOf : Instr → Option (FU × Nat × Hdr)
  | .move _ _ => none
  | .linePad => none
  | .iaAdd h => some (.ia, 0x01, h)
  | .iaSub h => some (.ia, 0x02, h)
  | .iaAnd h => some (.ia, 0x03, h)
  | .iaOr h => some (.ia, 0x04, h)
  | .iaXor h => some (.ia, 0x05, h)
  | .iaAndn h => some (.ia, 0x06, h)
  | .iaSll h => some (.ia, 0x07, h)
  | .iaSrl h => some (.ia, 0x08, h)
  | .iaSra h => some (.ia, 0x09, h)
  | .iaRol h => some (.ia, 0x0A, h)
  | .iaRor h => some (.ia, 0x0B, h)
  | .iaMin h => some (.ia, 0x0C, h)
  | .iaMax h => some (.ia, 0x0D, h)
  | .iaMinu h => some (.ia, 0x0E, h)
  | .iaMaxu h => some (.ia, 0x0F, h)
  | .iaCeq h => some (.ia, 0x10, h)
  | .iaCne h => some (.ia, 0x11, h)
  | .iaClt h => some (.ia, 0x12, h)
  | .iaCltu h => some (.ia, 0x13, h)
  | .iaCge h => some (.ia, 0x14, h)
  | .iaCgeu h => some (.ia, 0x15, h)
  | .iaSel h => some (.ia, 0x16, h)
  | .iaPopc h => some (.ia, 0x17, h)
  | .iaClz h => some (.ia, 0x18, h)
  | .iaCtz h => some (.ia, 0x19, h)
  | .iaExt h => some (.ia, 0x1A, h)
  | .iaExtu h => some (.ia, 0x1B, h)
  | .iaIns h => some (.ia, 0x1C, h)
  | .iaSxb h => some (.ia, 0x20, h)
  | .iaSxh h => some (.ia, 0x21, h)
  | .iaSxw h => some (.ia, 0x22, h)
  | .iaZxb h => some (.ia, 0x23, h)
  | .iaZxh h => some (.ia, 0x24, h)
  | .iaZxw h => some (.ia, 0x25, h)
  | .iaAddw h => some (.ia, 0x28, h)
  | .iaSubw h => some (.ia, 0x29, h)
  | .iaSllw h => some (.ia, 0x2A, h)
  | .iaSrlw h => some (.ia, 0x2B, h)
  | .iaSraw h => some (.ia, 0x2C, h)
  | .ibAdd h => some (.ib, 0x01, h)
  | .ibSub h => some (.ib, 0x02, h)
  | .ibAnd h => some (.ib, 0x03, h)
  | .ibOr h => some (.ib, 0x04, h)
  | .ibXor h => some (.ib, 0x05, h)
  | .ibAndn h => some (.ib, 0x06, h)
  | .ibSll h => some (.ib, 0x07, h)
  | .ibSrl h => some (.ib, 0x08, h)
  | .ibSra h => some (.ib, 0x09, h)
  | .ibRol h => some (.ib, 0x0A, h)
  | .ibRor h => some (.ib, 0x0B, h)
  | .ibMin h => some (.ib, 0x0C, h)
  | .ibMax h => some (.ib, 0x0D, h)
  | .ibMinu h => some (.ib, 0x0E, h)
  | .ibMaxu h => some (.ib, 0x0F, h)
  | .ibCeq h => some (.ib, 0x10, h)
  | .ibCne h => some (.ib, 0x11, h)
  | .ibClt h => some (.ib, 0x12, h)
  | .ibCltu h => some (.ib, 0x13, h)
  | .ibCge h => some (.ib, 0x14, h)
  | .ibCgeu h => some (.ib, 0x15, h)
  | .ibSel h => some (.ib, 0x16, h)
  | .ibPopc h => some (.ib, 0x17, h)
  | .ibClz h => some (.ib, 0x18, h)
  | .ibCtz h => some (.ib, 0x19, h)
  | .ibExt h => some (.ib, 0x1A, h)
  | .ibExtu h => some (.ib, 0x1B, h)
  | .ibIns h => some (.ib, 0x1C, h)
  | .ibSxb h => some (.ib, 0x20, h)
  | .ibSxh h => some (.ib, 0x21, h)
  | .ibSxw h => some (.ib, 0x22, h)
  | .ibZxb h => some (.ib, 0x23, h)
  | .ibZxh h => some (.ib, 0x24, h)
  | .ibZxw h => some (.ib, 0x25, h)
  | .ibAddw h => some (.ib, 0x28, h)
  | .ibSubw h => some (.ib, 0x29, h)
  | .ibSllw h => some (.ib, 0x2A, h)
  | .ibSrlw h => some (.ib, 0x2B, h)
  | .ibSraw h => some (.ib, 0x2C, h)
  | .agPadd h => some (.ag, 0x01, h)
  | .agPsub h => some (.ag, 0x02, h)
  | .agPtag h => some (.ag, 0x03, h)
  | .agPfmt h => some (.ag, 0x04, h)
  | .agPblk h => some (.ag, 0x05, h)
  | .agPclr h => some (.ag, 0x06, h)
  | .agPidx h => some (.ag, 0x07, h)
  | .agCadr h => some (.ag, 0x08, h)
  | .agLcl h => some (.ag, 0x09, h)
  | .agCoord h => some (.ag, 0x0A, h)
  | .muMul h => some (.mu, 0x01, h)
  | .muMulh h => some (.mu, 0x02, h)
  | .muMulhu h => some (.mu, 0x03, h)
  | .muMulhsu h => some (.mu, 0x04, h)
  | .muMulw h => some (.mu, 0x05, h)
  | .muDiv h => some (.mu, 0x08, h)
  | .muDivu h => some (.mu, 0x09, h)
  | .muRem h => some (.mu, 0x0A, h)
  | .muRemu h => some (.mu, 0x0B, h)
  | .muDivw h => some (.mu, 0x0C, h)
  | .muRemw h => some (.mu, 0x0D, h)
  | .cfBr h => some (.cf, 0x01, h)
  | .cfJmp h => some (.cf, 0x02, h)
  | .cfCall h => some (.cf, 0x03, h)
  | .cfLoop0 h => some (.cf, 0x08, h)
  | .cfLoop1 h => some (.cf, 0x09, h)
  | .cfRep h => some (.cf, 0x0A, h)
  | .cfBrk h => some (.cf, 0x0F, h)
  | .lsLd8 h => some (.ls, 0x01, h)
  | .lsLd8u h => some (.ls, 0x02, h)
  | .lsLd16 h => some (.ls, 0x03, h)
  | .lsLd16u h => some (.ls, 0x04, h)
  | .lsLd32 h => some (.ls, 0x05, h)
  | .lsLd32u h => some (.ls, 0x06, h)
  | .lsLd64 h => some (.ls, 0x07, h)
  | .lsSt8 h => some (.ls, 0x09, h)
  | .lsSt16 h => some (.ls, 0x0A, h)
  | .lsSt32 h => some (.ls, 0x0B, h)
  | .lsSt64 h => some (.ls, 0x0C, h)
  | .lsLdacqCore h => some (.ls, 0x10, h)
  | .lsLdacqCluster h => some (.ls, 0x11, h)
  | .lsLdacqDie h => some (.ls, 0x12, h)
  | .lsLdacqDevice h => some (.ls, 0x13, h)
  | .lsLdacqDomain h => some (.ls, 0x14, h)
  | .lsLdacqSystem h => some (.ls, 0x15, h)
  | .lsStrelCore h => some (.ls, 0x18, h)
  | .lsStrelCluster h => some (.ls, 0x19, h)
  | .lsStrelDie h => some (.ls, 0x1A, h)
  | .lsStrelDevice h => some (.ls, 0x1B, h)
  | .lsStrelDomain h => some (.ls, 0x1C, h)
  | .lsStrelSystem h => some (.ls, 0x1D, h)
  | .lsLla h => some (.ls, 0x20, h)
  | .lsSsu h => some (.ls, 0x21, h)
  | .lsCas h => some (.ls, 0x22, h)
  | .lsSwap h => some (.ls, 0x23, h)
  | .lsAadd h => some (.ls, 0x24, h)
  | .lsAand h => some (.ls, 0x25, h)
  | .lsAor h => some (.ls, 0x26, h)
  | .lsAmin h => some (.ls, 0x27, h)
  | .lsAmax h => some (.ls, 0x28, h)
  | .lsAminu h => some (.ls, 0x29, h)
  | .lsAmaxu h => some (.ls, 0x2A, h)
  | .lsFget h => some (.ls, 0x30, h)
  | .lsFput h => some (.ls, 0x31, h)
  | .lsFclr h => some (.ls, 0x32, h)
  | .lsBwait h => some (.ls, 0x40, h)
  | .lsBadv h => some (.ls, 0x41, h)
  | .lsBpush h => some (.ls, 0x42, h)
  | .lsBstat h => some (.ls, 0x43, h)
  | .vpVld h => some (.vp, 0x01, h)
  | .vpVldx h => some (.vp, 0x02, h)
  | .vpVst h => some (.vp, 0x03, h)
  | .vpVstx h => some (.vp, 0x04, h)
  | .vpVstm h => some (.vp, 0x05, h)
  | .vpBcast h => some (.vp, 0x06, h)
  | .vpDq h => some (.vp, 0x07, h)
  | .vpVldb h => some (.vp, 0x08, h)
  | .vpAdd h => some (.vp, 0x10, h)
  | .vpSub h => some (.vp, 0x11, h)
  | .vpMul h => some (.vp, 0x12, h)
  | .vpFma h => some (.vp, 0x13, h)
  | .vpFnma h => some (.vp, 0x14, h)
  | .vpMin h => some (.vp, 0x15, h)
  | .vpMax h => some (.vp, 0x16, h)
  | .vpMinu h => some (.vp, 0x17, h)
  | .vpMaxu h => some (.vp, 0x18, h)
  | .vpAbs h => some (.vp, 0x19, h)
  | .vpNeg h => some (.vp, 0x1A, h)
  | .vpCeq h => some (.vp, 0x20, h)
  | .vpCne h => some (.vp, 0x21, h)
  | .vpClt h => some (.vp, 0x22, h)
  | .vpCle h => some (.vp, 0x23, h)
  | .vpCltu h => some (.vp, 0x24, h)
  | .vpCleu h => some (.vp, 0x25, h)
  | .vpSel h => some (.vp, 0x26, h)
  | .vpAnd h => some (.vp, 0x27, h)
  | .vpOr h => some (.vp, 0x28, h)
  | .vpXor h => some (.vp, 0x29, h)
  | .vpAndn h => some (.vp, 0x2A, h)
  | .vpSll h => some (.vp, 0x2B, h)
  | .vpSrl h => some (.vp, 0x2C, h)
  | .vpSra h => some (.vp, 0x2D, h)
  | .vpCvtRne h => some (.vp, 0x30, h)
  | .vpCvtRtz h => some (.vp, 0x31, h)
  | .vpCvtRup h => some (.vp, 0x32, h)
  | .vpCvtRdn h => some (.vp, 0x33, h)
  | .vpCvtRsr h => some (.vp, 0x34, h)
  | .vpCvtDyn h => some (.vp, 0x37, h)
  | .vpCvtSatRne h => some (.vp, 0x38, h)
  | .vpCvtSatRtz h => some (.vp, 0x39, h)
  | .vpCvtSatRup h => some (.vp, 0x3A, h)
  | .vpCvtSatRdn h => some (.vp, 0x3B, h)
  | .vpCvtSatRsr h => some (.vp, 0x3C, h)
  | .vpCvtSatDyn h => some (.vp, 0x3F, h)
  | .vpRadd h => some (.vp, 0x40, h)
  | .vpRmin h => some (.vp, 0x41, h)
  | .vpRmax h => some (.vp, 0x42, h)
  | .vpRminu h => some (.vp, 0x43, h)
  | .vpRmaxu h => some (.vp, 0x44, h)
  | .vpPerm h => some (.vp, 0x48, h)
  | .vpShuf h => some (.vp, 0x49, h)
  | .vpZiplo h => some (.vp, 0x4A, h)
  | .vpZiphi h => some (.vp, 0x4B, h)
  | .vpUnzipe h => some (.vp, 0x4C, h)
  | .vpUnzipo h => some (.vp, 0x4D, h)
  | .vpExt h => some (.vp, 0x4E, h)
  | .vpIns h => some (.vp, 0x4F, h)
  | .vpDot8 h => some (.vp, 0x50, h)
  | .vpDot8u h => some (.vp, 0x51, h)
  | .vpDot8su h => some (.vp, 0x52, h)
  | .vpExp2 h => some (.vp, 0x54, h)
  | .vpLog2 h => some (.vp, 0x55, h)
  | .vpRcp h => some (.vp, 0x56, h)
  | .vpRsqrt h => some (.vp, 0x57, h)
  | .vpNrcp h => some (.vp, 0x58, h)
  | .vpNrsq h => some (.vp, 0x59, h)
  | .mxMmac h => some (.mx, 0x01, h)
  | .mxMlut h => some (.mx, 0x02, h)
  | .mxMsemi h => some (.mx, 0x03, h)
  | .mxMzero h => some (.mx, 0x04, h)
  | .mxMload h => some (.mx, 0x05, h)
  | .mxMdrain h => some (.mx, 0x06, h)
  | .mxMscale h => some (.mx, 0x07, h)
  | .mxMbar h => some (.mx, 0x08, h)
  | .mxMstat h => some (.mx, 0x09, h)
  | .qmLd8 h => some (.qm, 0x01, h)
  | .qmLd8u h => some (.qm, 0x02, h)
  | .qmLd16 h => some (.qm, 0x03, h)
  | .qmLd16u h => some (.qm, 0x04, h)
  | .qmLd32 h => some (.qm, 0x05, h)
  | .qmLd32u h => some (.qm, 0x06, h)
  | .qmLd64 h => some (.qm, 0x07, h)
  | .qmSt8 h => some (.qm, 0x09, h)
  | .qmSt16 h => some (.qm, 0x0A, h)
  | .qmSt32 h => some (.qm, 0x0B, h)
  | .qmSt64 h => some (.qm, 0x0C, h)
  | .qmLdacqCore h => some (.qm, 0x10, h)
  | .qmLdacqCluster h => some (.qm, 0x11, h)
  | .qmLdacqDie h => some (.qm, 0x12, h)
  | .qmLdacqDevice h => some (.qm, 0x13, h)
  | .qmLdacqDomain h => some (.qm, 0x14, h)
  | .qmLdacqSystem h => some (.qm, 0x15, h)
  | .qmStrelCore h => some (.qm, 0x18, h)
  | .qmStrelCluster h => some (.qm, 0x19, h)
  | .qmStrelDie h => some (.qm, 0x1A, h)
  | .qmStrelDevice h => some (.qm, 0x1B, h)
  | .qmStrelDomain h => some (.qm, 0x1C, h)
  | .qmStrelSystem h => some (.qm, 0x1D, h)
  | .qmCas h => some (.qm, 0x22, h)
  | .qmSwap h => some (.qm, 0x23, h)
  | .qmAadd h => some (.qm, 0x24, h)
  | .qmAand h => some (.qm, 0x25, h)
  | .qmAor h => some (.qm, 0x26, h)
  | .qmAmin h => some (.qm, 0x27, h)
  | .qmAmax h => some (.qm, 0x28, h)
  | .qmAminu h => some (.qm, 0x29, h)
  | .qmAmaxu h => some (.qm, 0x2A, h)
  | .qmPush h => some (.qm, 0x30, h)
  | .qmPull h => some (.qm, 0x31, h)
  | .qmFenceCore h => some (.qm, 0x40, h)
  | .qmFenceCluster h => some (.qm, 0x41, h)
  | .qmFenceDie h => some (.qm, 0x42, h)
  | .qmFenceDevice h => some (.qm, 0x43, h)
  | .qmFenceDomain h => some (.qm, 0x44, h)
  | .qmFenceSystem h => some (.qm, 0x45, h)
  | .qsRun h => some (.qs, 0x01, h)
  | .qsStat h => some (.qs, 0x02, h)
  | .qsCancel h => some (.qs, 0x03, h)
  | .chSend h => some (.ch, 0x01, h)
  | .chSendm h => some (.ch, 0x02, h)
  | .chRecv h => some (.ch, 0x03, h)
  | .chPoll h => some (.ch, 0x04, h)
  | .chFree h => some (.ch, 0x05, h)
  | .chMatch h => some (.ch, 0x06, h)
  | .chUnmatch h => some (.ch, 0x07, h)
  | .ksYield h => some (.ks, 0x01, h)
  | .ksEnd h => some (.ks, 0x02, h)
  | .ksEmit h => some (.ks, 0x03, h)
  | .ksDrain h => some (.ks, 0x04, h)
  | .ksStat h => some (.ks, 0x05, h)
  | .sySlack h => some (.sy, 0x01, h)
  | .syBar h => some (.sy, 0x02, h)
  | .syWait h => some (.sy, 0x03, h)
  | .syCwait h => some (.sy, 0x04, h)
  | .syCinc h => some (.sy, 0x05, h)
  | .syYield h => some (.sy, 0x06, h)
  | .syHstart h => some (.sy, 0x07, h)
  | .syHjoin h => some (.sy, 0x08, h)
  | .syTend h => some (.sy, 0x09, h)
  | .syDreq h => some (.sy, 0x0A, h)
  | .syLaunch h => some (.sy, 0x0B, h)
  | .syLpatch h => some (.sy, 0x0C, h)
  | .syFenceCore h => some (.sy, 0x10, h)
  | .syFenceCluster h => some (.sy, 0x11, h)
  | .syFenceDie h => some (.sy, 0x12, h)
  | .syFenceDevice h => some (.sy, 0x13, h)
  | .syFenceDomain h => some (.sy, 0x14, h)
  | .syFenceSystem h => some (.sy, 0x15, h)
  | .syCsrr h => some (.sy, 0x20, h)
  | .syCsrw h => some (.sy, 0x21, h)
  | .syCsrs h => some (.sy, 0x22, h)
  | .syCsrc h => some (.sy, 0x23, h)
  | .syTrap h => some (.sy, 0x24, h)
  | .syTret h => some (.sy, 0x25, h)
  | .syIflushCore h => some (.sy, 0x30, h)
  | .syIflushCluster h => some (.sy, 0x31, h)
  | .syIflushDie h => some (.sy, 0x32, h)
  | .syIflushDevice h => some (.sy, 0x33, h)
  | .sySubmit h => some (.sy, 0x40, h)
  | .syHalt h => some (.sy, 0x41, h)
  | .dbCyc h => some (.db, 0x01, h)
  | .dbPerf h => some (.db, 0x02, h)
  | .dbPsel h => some (.db, 0x03, h)
  | .dbMark h => some (.db, 0x04, h)
  | .resultComplete _ => none
  | .stallSwitch => none
  | .loopEndCheck => none
  | .repetitionEnd => none
  | .fetchLineFill _ => none
  | .storePerformed _ => none
  | .waitReleased => none
  | .trapEntry => none
  | .vectorBind => none
  | .vectorComplete => none
  | .matrixAccept => none
  | .matrixFetchDone => none
  | .matrixStepStart => none
  | .matrixCommandComplete => none
  | .streamRecordTake => none
  | .streamStart => none
  | .streamSlotCommit => none
  | .streamRecordEnd => none
  | .pushWriteDone => none
  | .pullWriteDone => none
  | .messageLand _ => none
  | .taskRelease => none
  | .scopeMiss => none
  | .activationFill => none
  | .creditGrant _ => none
  | .hamperArrival _ => none
  | .spillVictimWrite _ => none
  | .bucketFetch _ => none
  | .overflowServe _ => none
  | .activationHandoff => none
  | .idleTimeout _ _ => none
  | .dispenserAnswer _ _ => none
  | .exchangeStart _ => none
  | .transferStart _ => none
  | .transferEnd _ => none
  | .exchangePhaseEnd _ => none
  | .slackRelease _ => none
  | .recordPlace _ _ _ => none
  | .preempt => none
  | .contextCopyOut => none
  | .jobResume _ _ _ => none
  | .timer _ => none
  | .contextIdRecycle _ => none
  | .undertowCandidate _ => none
  | .undertowConfirm _ => none
  | .inboundWrite _ _ _ _ _ _ _ => none
  | .pieceLeave _ _ _ => none
  | .pieceAck _ _ _ => none
  | .inboundRead _ _ _ _ _ _ _ => none
  | .msixMessage _ => none
  | .vfEnable _ _ => none
  | .portLinkDown _ _ => none
  | .hsemAcquire _ _ _ => none
  | .hsemRelease _ _ _ => none
  | .devrst _ => none
  | .packageReset _ _ _ => none
  | .drtailWrite _ _ _ => none
  | .drcfgWrite _ _ _ => none
  | .dmaAbort _ _ => none
  | .dmaResume _ _ => none
  | .dmaDescriptorStart _ _ => none
  | .dmaDescriptorDone _ _ => none
  | .qtailWrite _ _ => none
  | .qctlReset _ => none
  | .queueResident _ => none
  | .queueSlotYield _ => none
  | .pktNoop _ => none
  | .pktLaunch _ => none
  | .pktFence _ => none
  | .pktWait _ => none
  | .pktSignalStore _ => none
  | .pktSignalHost _ => none
  | .pktLeg _ => none
  | .packetComplete _ => none
  | .legFire _ _ => none
  | .mbResync _ _ => none
  | .mbKill _ _ => none
  | .mbKillDump _ _ => none
  | .mbBadCommand _ => none
  | .fatalEcc => none
  | .leaseRenewal _ => none
  | .leaseLapse _ => none
  | .voteRequest _ _ => none
  | .mgmtLinkFail _ => none
  | .tlbinvAll => none
  | .tlbinvAsid _ => none
  | .tlbinvRange _ => none
  | .tlbinvComplete => none
  | .tlbWalk _ _ _ _ _ _ _ => none
  | .prqRetry _ => none
  | .prqFail _ => none
  | .regcmtGo => none
  | .regionClearDone => none
  | .vfctlReset _ => none
  | .vfResetDrained _ => none
  | .remoteAccessArrival _ _ _ _ _ => none
  | .flitReceive _ _ _ _ _ => none
  | .shumbiviaPortDown _ => none
  | .remoteTimeout _ => none
  | .keyRollover _ _ => none
  | .keyRetire _ => none
  | .crtailWrite _ _ => none
  | .crAbort _ => none
  | .crResume _ => none
  | .collectiveStart _ => none
  | .collectiveComplete _ _ => none
  | .dcmdHalt => none
  | .dcmdResume => none
  | .dcmdStep => none
  | .breakpointMatch => none
  | .crossTriggerHalt => none
  | .dgrpResume _ => none
  | .ddataRead => none
  | .ddataWrite _ => none
  | .frzctlAssert _ => none
  | .frzctlRelease _ => none
  | .traceStop => none
  | .tidemarkPulse => none
  | .bootctlRecovery _ => none
  | .bootctlMain _ => none
  | .bootctlRaiseSvn _ => none
  | .bootctlFuseOwner _ _ _ => none
  | .bootctlRevokeOwner _ _ => none
  | .bootctlSetOwnmode _ _ => none
  | .attcmdGo _ => none
  | .keySlotWrite _ _ => none
  | .islandClockChange _ => none
  | .cappingCheck => none
  | .thermalTrip _ _ => none
  | .eccError _ _ => none
  | .registerWrite _ _ _ => none
  | .illegalOp h u opc => some (u, opc.toNat, h)
  | .illegalMove _ _ => none
  | .hostLinkUp _ _ => none
  | .shumbiviaPortUp _ _ => none

/-- One move word with its long-immediate words (R80, R92 item 2, reasons in order 4, 5, 6, 7, 9; reason 8 needs the core and
is judged where the bundle is checked; R92 item 5 for a trigger with no operation). -/
noncomputable def decodeMove (w : HWord) (imms : List HWord) : Instr :=
  let src := decodeSrc (fieldSrc w) imms
  let dst := decodeDst (fieldDst w)
  if src matches .error 4 then .illegalMove w 4
  else if dst matches .bad 5 then .illegalMove w 5
  else if fieldGi w == 0 && fieldInv w then .illegalMove w 6
  else if fieldOpc w != 0 && !isTriggerCode (fieldDst w) then .illegalMove w 7
  else
    match src, dst with
    | .ok s, .trigger u => decodeTrigger u (fieldOpc w) ⟨fieldE w, fieldInv w, fieldGi w, s⟩
    | .ok s, .dst d => .move ⟨fieldE w, fieldInv w, fieldGi w, s⟩ d
    | _, _ => .illegalMove w 9

/-- The line pad of R86. -/
def padWord : HWord := 0xFFFFFFFF

/-- The first move of a bundle: a line pad, or a move word with its long-immediate words (R81, R86). `none` when the words
end before the instruction does. -/
noncomputable def decodeFirst : List HWord → Option (Instr × List HWord)
  | [] => none
  | w :: ws =>
    if w == padWord then some (.linePad, ws)
    else if ws.length < longWords w then none
    else some (decodeMove w (ws.take (longWords w)), ws.drop (longWords w))

/-! ## The word stream of a bundle (R81, R85, R92 item 1) -/

/-- What the decoder finds from a bundle's first word to the end of its line: the moves, the words read, and the reason (1, 2
or 3) when a word-stream check fails. -/
structure Scan where
  moves : List (HWord × List HWord)
  read : Nat
  err : Option Nat
  deriving DecidableEq, Repr

/-- Takes `n` long-immediate words, or the reason they cannot be had: a third one (3) before the end of the line (1). -/
def takeLong : Nat → Nat → List HWord → List HWord → Nat → (List HWord × List HWord × Nat × Option Nat)
  | 0, _, acc, ws, read => (acc.reverse, ws, read, none)
  | n + 1, seen, acc, ws, read =>
    if 2 ≤ seen then (acc.reverse, ws, read, some 3)
    else match ws with
      | [] => (acc.reverse, [], read, some 1)
      | w :: ws' => takeLong n (seen + 1) (w :: acc) ws' (read + 1)

/-- The bundle's moves in word order (R81): at most four moves, two long-immediate words, one line. -/
def scanMoves : Nat → Nat → List (HWord × List HWord) → List HWord → Nat → Scan
  | 0, _, ms, _, read => ⟨ms.reverse, read, some 2⟩
  | fuel + 1, longs, ms, ws, read =>
    match ws with
    | [] => ⟨ms.reverse, read, some 1⟩
    | w :: ws' =>
      let (ls, rest, read', err) := takeLong (longWords w) longs [] ws' (read + 1)
      match err with
      | some r => ⟨((w, ls) :: ms).reverse, read', some r⟩
      | none =>
        if fieldE w then ⟨((w, ls) :: ms).reverse, read', none⟩
        else scanMoves fuel (longs + longWords w) ((w, ls) :: ms) rest read'

/-- The bundle that starts at the first of the given words, which end where the line ends. -/
def scanBundle (ws : List HWord) : Scan := scanMoves 4 0 [] ws 0

/-! ## Encoding -/

/-- The code of a port (R83). -/
def portCode (u : FU) (p : Port) : Nat := 0x80 + u.number * 8 + p.number

/-- SRC's code (R83). -/
def srcCode : Src → Nat
  | .x n => n
  | .v n => 0x20 + n
  | .o n => 0x40 + n
  | .g n => 0x48 + n
  | .port u p => portCode u p
  | .imm8 b => 0x200 + b.toNat
  | .imm32 _ => 0x3FE
  | .imm64 _ => 0x3FF

/-- The long-immediate words of a source, low word first (R81). -/
def srcWords : Src → List HWord
  | .imm32 w => [w]
  | .imm64 w => [w.extractLsb' 0 32, w.extractLsb' 32 32]
  | .x _ | .v _ | .o _ | .g _ | .port _ _ | .imm8 _ => []

/-- DST's code of a destination that is no trigger port (R83). -/
def dstCode : Dst → Nat
  | .x n => n
  | .v n => 0x20 + n
  | .o n => 0x40 + n
  | .g n => 0x48 + n
  | .port u p => portCode u p

/-- The move word with the given header, destination code and opcode (R80). -/
def moveWord (h : Hdr) (dst opc : Nat) : HWord :=
  BitVec.ofNat 32 (h.last.toNat * 2 ^ 31 + h.inv.toNat * 2 ^ 30 + h.gi.val * 2 ^ 28 + dst * 2 ^ 18 + srcCode h.src * 2 ^ 8 + opc)

/-- The words of an instruction (R80, R81, R86). An event row has no words. -/
def encode (i : Instr) : List HWord :=
  match i with
  | .linePad => [padWord]
  | .move h d => moveWord h (dstCode d) 0 :: srcWords h.src
  | .illegalMove w _ => [w]
  | i =>
    match triggerOf i with
    | some (u, opc, h) => moveWord h (portCode u .t) opc :: srcWords h.src
    | none => []

/-- The first word of an instruction, zero for an event. -/
def headWord (i : Instr) : HWord := (encode i).headD 0

/-- The header of a move word's row. -/
def hdrOf (i : Instr) : Option Hdr :=
  match i with
  | .move h _ => some h
  | i => (triggerOf i).map (·.2.2)

/-! ## The opcode table's numbering of bits -/

/-- The 32-bit words of a number, least significant word first. -/
def wordsOfNat : Nat → Nat → List HWord
  | 0, _ => []
  | n + 1, w => BitVec.ofNat 32 w :: wordsOfNat n (w / 2 ^ 32)

/-- The instruction the decoder reads from `w`, whose bit 0 is the least significant bit of the first word; every bit at or
above `nbits` is zero. -/
noncomputable def decodeTableWord (nbits w : Nat) : Option Instr :=
  (decodeFirst (wordsOfNat 6 (w % 2 ^ nbits))).map (·.1)

/-- The little-endian words of a byte string (R4); a rest shorter than a word is dropped. -/
def wordsOfBytes : List Byte → List HWord
  | a :: b :: c :: d :: rest => (d ++ c ++ b ++ a) :: wordsOfBytes rest
  | _ => []

/-- The first instruction of a byte string at a bundle address. -/
noncomputable def decodeBytes (bs : List Byte) : Option Instr := (decodeFirst (wordsOfBytes bs)).map (·.1)

end Sys2Proof
end

