-- ==== Sys2Proof/Machine/Operands.lean ====
section
/-! DEFINITION. The operand forms of a move as the core meets them: register renaming (spec/01 R33), the checks of R92 that need
the core and its slot (reasons 8 and 13), and the interlocks of R18, R21 and R22. -/

set_option autoImplicit false
set_option Elab.async false

namespace Sys2Proof.Machine

/-! ## Renaming (R33) -/

/-- `rename(n)` of R33: the register that stands for `n` in the current pass. -/
def renameReg (rpc : Word) (n : Fin 32) : Fin 32 :=
  let base := bits rpc 62 58
  let size := bits rpc 57 52
  if bit rpc 63 && decide (base ≤ n.val) && decide (n.val < base + size) then
    Fin.ofNat 32 (base + (n.val - base + bits rpc 11 0 * bits rpc 51 49) % size)
  else n

/-- A source with its register renamed. -/
def renameSrc (rpc : Word) : Src → Src
  | .x n => .x (renameReg rpc n)
  | .v n => .v (renameReg rpc n)
  | .o n => .o n
  | .g n => .g n
  | .port u p => .port u p
  | .imm8 b => .imm8 b
  | .imm32 w => .imm32 w
  | .imm64 w => .imm64 w

/-- A destination with its register renamed. -/
def renameDst (rpc : Word) : Dst → Dst
  | .x n => .x (renameReg rpc n)
  | .v n => .v (renameReg rpc n)
  | .o n => .o n
  | .g n => .g n
  | .port u p => .port u p

/-- A header with its source's register renamed. -/
def renameHdr (rpc : Word) (h : Hdr) : Hdr := { h with src := renameSrc rpc h.src }

/-- A register code of SRC or DST renamed; every other code as it is. -/
def renameCode (rpc : Word) (code : Nat) : Nat :=
  if code < 0x20 then (renameReg rpc (Fin.ofNat 32 code)).val
  else if code < 0x40 then 0x20 + (renameReg rpc (Fin.ofNat 32 (code - 0x20))).val
  else code

/-- A move word with its registers renamed, as `tval` shows it (R92, R93). -/
def renameWord (rpc : Word) (w : HWord) : HWord :=
  BitVec.ofNat 32 (w.toNat / 2 ^ 28 * 2 ^ 28 + renameCode rpc (fieldDst w) * 2 ^ 18 + renameCode rpc (fieldSrc w) * 2 ^ 8 + fieldOpc w)

/-! ## Checks that need the core and the slot (R92, reasons 8 and 13) -/

/-- The unit a source names. -/
def srcUnit : Src → Option FU
  | .port u _ => some u
  | .x _ | .v _ | .o _ | .g _ | .imm8 _ | .imm32 _ | .imm64 _ => none

/-- The unit a destination names. -/
def dstUnit : Dst → Option FU
  | .port u _ => some u
  | .x _ | .v _ | .o _ | .g _ => none

/-- Whether the core carries the unit, where one is named (R12). -/
def carried (k : CoreKind) : Option FU → Bool
  | some u => k.carries u
  | none => true

/-- An entry of the vector queue is an operation of a slot. -/
def VEntry.ofSlot (e : VEntry) (slot : Nat) : Bool := e.slot == slot && !e.void

/-- A `vp` operation of a slot has not completed (R162, R165). -/
def Core.hasVector (c : Core) (slot : Nat) : Bool := c.vq.any fun e => e.ofSlot slot && !e.done

/-- The most recent `vp` operation of a slot has not completed (R21). -/
def Core.lastVector (c : Core) (slot : Nat) : Bool :=
  match (c.vq.filter fun e => e.ofSlot slot).getLast? with
  | some e => !e.done
  | none => false

/-- The slot's most recent trigger of the unit has not completed (R21). -/
def State.inFlight (s : State) (u : FU) : Bool :=
  (s.lat u).fly.isSome || (u == .vp && s.core.lastVector s.core.cur)

/-- A result port may be read: the unit was triggered since the activation began (R19; R92, reason 13). -/
def State.readable (s : State) (u : FU) : Bool := (s.lat u).valid || s.inFlight u

/-- Reason 13 does not arise at a source. -/
def State.validSrc (s : State) : Src → Bool
  | .port u p => !p.isResult || s.readable u
  | .x _ | .v _ | .o _ | .g _ | .imm8 _ | .imm32 _ | .imm64 _ => true

/-- `tval` of a decode trap (R93). -/
def decodeTval (reason move : Nat) (w : HWord) : Word := w64 (reason * 2 ^ 36 + move * 2 ^ 32 + w.toNat)

/-- The trap of a one-move bundle whose source is `src` and whose destination names unit `du`: reasons 8 and 13 (R92). -/
def State.soloFault (s : State) (src : Src) (du : Option FU) (w : HWord) : Option (Nat × Word) :=
  if !(carried s.coreId.kind (srcUnit src) && carried s.coreId.kind du) then some (0x01, decodeTval 8 0 w)
  else if !s.validSrc src then some (0x01, decodeTval 13 0 w)
  else none

/-! ## Interlocks -/

/-- A source that names a result still in flight stalls its bundle (R18), whatever the move's guard. -/
def State.srcStall (s : State) : Src → Bool
  | .port u p => p.isResult && s.inFlight u
  | .x _ | .v _ | .o _ | .g _ | .imm8 _ | .imm32 _ | .imm64 _ => false

/-- An operand latch that an operation in flight still holds stalls a move into it (R21); `vp` and `mx` latches are free at
once (R20). -/
def State.dstStall (s : State) : Dst → Bool
  | .port u _ => (s.lat u).fly.isSome
  | .x _ | .v _ | .o _ | .g _ => false

/-- The divider holds another slot's divide (R120). -/
def State.dividerBusy (s : State) : Bool :=
  (List.range 4).any fun n => n != s.core.cur.val && match ((s.core.slot n).lat .mu).fly with
    | some f => decide (8 ≤ f.opc) && decide (f.opc ≤ 0x0D)
    | none => false

/-- A trigger of opcode `opc` of a unit must wait for the unit (R21, R22, R120, R162): for the slot's own operation, for another
slot's divide, or for room in the vector queue, where an entry counts until it has completed: entries complete in order, and R162 does not say
which of being bound and being complete leaves the queue (DESIGN CHOICE, log 124). -/
def State.unitStall (s : State) (u : FU) (opc : Nat) : Bool :=
  (s.lat u).fly.isSome ||
    (u == .mu && decide (8 ≤ opc) && decide (opc ≤ 0x0D) && s.dividerBusy) ||
    (u == .vp && decide (8 ≤ s.core.vq.length))

/-- Whether a move takes effect (R17). -/
def Slot.takes (t : Slot) (h : Hdr) : Bool := h.gi == 0 || t.readG h.gi != h.inv

end Sys2Proof.Machine
end

