-- ==== Sys2Proof/Machine/Arbiter.lean ====
section
/-! DEFINITION. Core cycles and the vector queue: clocks (spec/00 R5; spec/22 R505), operations in flight (spec/01 R18, R20), and the quad's
arbiter (spec/06 R162 to R165). -/

set_option autoImplicit false
set_option Elab.async false

namespace Sys2Proof.Machine

/-! ## Clocks (R5, R505) -/

/-- The island of a core (R505); quay cores and lighthouses of compute dies are placed by the model (log 16). -/
def islandOf (id : CoreId) : Nat :=
  match id.kind with
  | .compute => 64 * id.die + 16 * clusterOf id.idx + octetOf id.idx % 32 / 2
  | .quay => 64 * id.die
  | .harbour => 512 + (id.die - 8) * 8
  | .lighthouse => if 8 ≤ id.die then 512 + (id.die - 8) * 8 else 64 * id.die

/-- The clock in force of a core, in MHz: ACT of its island. -/
def State.mhz (s : State) (id : CoreId) : Nat := bits (s.reg (.isl (islandOf id))) 52 42

/-- Reference ticks pass as the clock in force of the core has it (R5). The part of a tick that has passed is kept exactly across clocks. -/
def State.passTime (s : State) : State :=
  let m := s.mhz s.coreId
  let d := Nat.lcm s.subden m
  let sub := s.subtick * (d / s.subden) + 100 * (d / m)
  { s with time := s.time + sub / d, subtick := sub % d, subden := if sub % d == 0 then m else d }

/-! ## Results in flight (R18, R20) -/

/-- Writes both result ports of a unit and sets its valid bit (R18, R19). -/
def Slot.setResult (t : Slot) (u : FU) (q q2 : Word) : Slot :=
  t.onLat u fun l => { l with q := q, q2 := q2, valid := true, fly := none }

/-- The operation in flight in a unit completes (R18, R19). -/
def Slot.land (t : Slot) (u : FU) : Slot :=
  match (t.lat u).fly with
  | some f => t.setResult u f.q f.q2
  | none => t

/-- An operation in flight is one core cycle older. -/
def Lat.older (l : Lat) : Lat := { l with fly := l.fly.map fun f => { f with age := f.age + 1 } }

/-- Every unit. -/
def allUnits : List FU := [.ia, .ib, .ag, .mu, .cf, .ls, .vp, .mx, .ch, .ks, .sy, .qm, .qs, .db]

/-- The units of a slot whose operation has its greatest latency behind it. -/
def Slot.due (t : Slot) : List FU := allUnits.filter fun u => match (t.lat u).fly with
  | some f => decide (f.hi ≤ f.age)
  | none => false

/-! ## The vector queue (R162, R164) -/

/-- A bound entry that has its latency behind it and has not completed, oldest first, with its place. -/
def Core.vectorDue (c : Core) : Option (VEntry × Nat) :=
  (c.vq.zip (List.range c.vq.length)).find? fun p => p.1.bound && !p.1.done && decide (p.1.lat ≤ p.1.age)

/-- What an entry's completion writes: both `vp` result ports and the valid bit of its slot, unless a later operation of the slot has
completed before it (R21), and its flags (R164). A void entry writes nothing. -/
def Core.landVector (c : Core) (e : VEntry) (i : Nat) : Core :=
  if e.void then c
  else
    let later := (c.vq.drop (i + 1)).any fun o => o.ofSlot e.slot && o.done
    c.onSlot e.slot fun t =>
      let t1 := if later then t else { t.setResult .vp 0 e.q2 with vq := e.q }
      { t1 with csr := { t1.csr with fflags := t1.csr.fflags ||| w64 e.flags } }

/-- One entry of a core completes; entries leave the queue in the order they entered (R162). -/
def Core.completeVector (c : Core) : Core :=
  match c.vectorDue with
  | none => c
  | some (e, i) =>
    let c1 := c.landVector e i
    { c1 with vq := (modifyAt (fun o => { o with done := true }) c1.vq i).dropWhile fun o => o.done }

/-- Every entry due completes. -/
def Core.completeVectors (c : Core) : Core := c.vq.foldl (fun c _ => c.completeVector) c

/-! ## The quad's arbiter (R163) -/

/-- The compute cores of a core's quad, lowest first (R11). -/
def quadOf (id : CoreId) : List CoreId := (List.range 4).map fun i => { id with idx := id.idx / 4 * 4 + i }

/-- The unbound head of a core's vector queue is ready: a load's data have returned, at any time from the least delay on where the
environment says so, and at the greatest by themselves. -/
def Core.vectorReady (c : Core) (early : Bool) : Bool :=
  match c.vq.find? fun e => !e.bound with
  | some e => decide (1 + (if early then e.ready else e.late) ≤ e.age)
  | none => false

/-- Binds the head entry of a core, each cycle it waited beyond the first adding one to its latency (R164). -/
def Core.bindVector (c : Core) : Core :=
  let bind := fun (e : VEntry) => { e with bound := true, lat := e.lat + (e.age - 1 - e.ready) }
  { c with vq := replaceFirst (fun e => !e.bound) bind c.vq }

/-- Weight of a core's vector queue, `vqw`.W (R45). -/
def Core.vweight (c : Core) : Int := bits c.vqw 3 0

/-- The core with the largest `cur` among those ready and not yet chosen, ties to the lowest. -/
def State.pickVector (s : State) (left : List CoreId) : Option CoreId :=
  left.foldl (fun best id => match best with
    | none => some id
    | some b => if (s.coreAt b).vcur < (s.coreAt id).vcur then some id else best) none

/-- Binds the heads of up to `n` cores. -/
def State.bindQuad (s : State) (share : Int) : Nat → List CoreId → State
  | 0, _ => s
  | n + 1, left => match s.pickVector left with
    | none => s
    | some id => State.bindQuad (s.onCoreAt id fun c => { c.bindVector with vcur := c.vcur - share }) share n
        (left.filter fun k => k != id)

/-- The arbiter's choice for the cores of the quad whose core cycle it has not served (R163): `cur` of each, and at most two heads bound. Where
a head is ready, the cycle of every one of them is served, of an idle one too; where none is, nothing is chosen. -/
def State.arbitrate (s : State) (early : Bool) : State :=
  let quad := (quadOf s.coreId).filter fun id => !(s.coreAt id).arb
  let ready := quad.filter fun id => (s.coreAt id).vectorReady early
  let s1 := quad.foldl (fun s id =>
    let c := s.coreAt id
    if ready.isEmpty && c.vcur == 0 then s
    else s.setCoreAt id { c with vcur := if ready.contains id then c.vcur + 2 * c.vweight else 0, arb := !ready.isEmpty }) s
  let total := ready.foldl (fun acc id => acc + (s1.coreAt id).vweight) 0
  let k := min 2 ready.length
  s1.bindQuad (2 * total / (k : Int)) k ready

/-- The core cycle of the core in focus ends: where the arbiter has not chosen in it, it chooses now. -/
def State.closeArbiter (s : State) : State :=
  let s1 := if s.core.arb then s else s.arbitrate false
  if s1.core.arb then s1.onCore fun c => { c with arb := false } else s1

/-- The vector queue of the core in focus is one core cycle older: the arbiter has chosen, and entries that are due complete. -/
def State.ageVectors (s : State) : State :=
  if s.coreId.kind != .compute then s
  else s.closeArbiter.onCore fun c => Core.completeVectors { c with vq := c.vq.map fun e => { e with age := e.age + 1 } }

/-! ## A core cycle passes (R41, R237) -/

/-- What the cycle counts for a slot that is not the issuing one: Blocked and Stalled cycles, and those that wait for a lock. -/
def Core.countSlot (c : Core) (n : Nat) : Core :=
  let t := c.slot n
  match t.run with
  | .blocked =>
    let c1 := c.count 3 n
    if bits t.csr.wrr 62 59 == 13 then c1.count 14 n else c1
  | .stalled => if n == c.cur.val then c else c.count 2 n
  | .free | .ready | .issuing => c

/-- The core cycle ends for every core of the quad, so that the arbiter chooses among all their heads in the next (R163, R165). -/
def State.closeQuad (s : State) : State :=
  (quadOf s.coreId).foldl (fun s id => if (s.coreAt id).arb then s.onCoreAt id fun c => { c with arb := false } else s) s

/-- A core cycle in which a compute core only waits for its vector queue: trap entry and the end of an activation (R165, R245). -/
def State.waitCycle (s : State) : State :=
  (((s.passTime.onCore fun c =>
    { c.onSlots fun _ t =>
        let t1 : Slot := { t with lats := t.lats.map Lat.older }
        t1.due.foldl Slot.land t1
      with cycle := if c.dbg.halted then c.cycle else c.cycle + 1 }).ageVectors).closeQuad).onCore fun c => (List.range 4).foldl Core.countSlot c

/-- An entry of a slot stands in the queue: it, or one ahead of it, has not completed (R162, R165). -/
def Core.queuedVector (c : Core) (slot : Nat) : Bool := c.vq.any fun e => e.ofSlot slot

/-- Core cycles pass until every vector operation of a slot has completed, with those ahead of them (R165): at most 64 to bind each head, and
its latency. -/
def State.settleVector (slot : Nat) : Nat → State → State
  | 0, s => s
  | n + 1, s => if s.core.queuedVector slot then State.settleVector slot n s.waitCycle else s

/-- Core cycles within which eight entries are bound and complete. -/
def settleBound : Nat := 8 * (64 + 42) + 16

/-- The entries of a slot that has returned from its handler complete without effect (R165; DEDUCED, log 119). -/
def Core.voidVectors (c : Core) (slot : Nat) : Core :=
  { c with vq := c.vq.map fun e => if e.slot == slot && !e.done then { e with void := true } else e }

end Sys2Proof.Machine
end

