-- ==== Sys2Proof/Machine/Ops.lean ====
section
/-! DEFINITION. The shared operations: the outcome of a trigger, waits (spec/16 R381), addresses (spec/05 R135), taking a trap and
returning from one (spec/09 R240 to R255), and the course of a bundle (spec/01 R17, R18). -/

set_option autoImplicit false
set_option Elab.async false

namespace Sys2Proof.Machine

/-! ## Outcomes of a trigger -/

/-- What a trigger comes to: a new state, a fault with its `tval` (R240), a bundle that cannot issue yet (R26), or a debug halt
before its bundle issues (R484). -/
inductive Res where
  | ok (s : State)
  | trap (code : Nat) (tval : Word)
  | stall
  | halt
  deriving DecidableEq, Repr

/-- Trap codes (R240). -/
def trapIllegalOp : Nat := 0x02
/-- PRIV. -/
def trapPriv : Nat := 0x03
/-- MISALIGN. -/
def trapMisalign : Nat := 0x06
/-- ACCESS. -/
def trapAccess : Nat := 0x07
/-- PAGE_FAULT. -/
def trapPageFault : Nat := 0x08
/-- TAG_CARRY. -/
def trapTagCarry : Nat := 0x09
/-- FORMAT. -/
def trapFormat : Nat := 0x0A
/-- RANGE_CONFLICT. -/
def trapRange : Nat := 0x0B
/-- FUTURE_EMPTY. -/
def trapFuture : Nat := 0x0C
/-- QUEUE_OVERFLOW. -/
def trapOverflow : Nat := 0x0D

/-- The slot in focus goes on with a trigger whose wait may have ended: its checks have been passed (R133). -/
def State.resuming (s : State) : Bool := s.bus.isNone && s.sl.run == .blocked && s.sl.wait.isSome

/-- A check of a trigger (R101, R133): a failing one traps. A trigger released from its wait is not checked again. -/
def State.check (s : State) (bad : Bool) (code : Nat) (tval : Word) (k : Res) : Res :=
  if bad && !s.resuming then .trap code tval else k

/-! ## Results (R18, R20) -/

/-- A trigger of latency 1 completes (R20). -/
def State.complete (s : State) (u : FU) (q q2 : Word) : State := s.onSl fun t => t.unblock.setResult u q q2

/-- A trigger enters its unit, its results to be written after `lo` to `hi` core cycles (R20). -/
def State.launch (s : State) (u : FU) (opc lo hi : Nat) (q q2 : Word) : State :=
  s.onSl fun t => t.unblock.onLat u fun l => { l with fly := some ⟨opc, 0, lo, hi, q, q2⟩ }

/-! ## Waits (R380, R381) -/

/-- WAIT(kind, object, releaser) of R381 for a trigger of the slot in focus. A supervisor handler that would wait raises
DOUBLE_FAULT (R244). A wait whose reason has not changed goes on. -/
def State.block (s : State) (u : FU) (opc kind mode releaser object : Nat) : Res :=
  let t := s.sl
  if t.inh && t.hlvl != 0 then .trap 0x17 0
  else if t.run == .blocked && sameReason t.csr.wrr kind mode releaser object then .ok s
  else
    let w := wrrWord t.csr.wrr kind mode releaser object
    .ok ((s.onSl fun t => { t with run := .blocked, wait := some ⟨u, BitVec.ofNat 8 opc, none, []⟩, since := s.time,
                                   csr := { t.csr with wrr := w } }).trace 7 w)

/-- What a trigger has read is kept while it waits (R212, R218). -/
def Res.holding (r : Res) (bs : List Byte) : Res :=
  match r with
  | .ok s => .ok (s.onSl fun t => { t with wait := t.wait.map fun w => { w with held := bs } })
  | .trap code tval => .trap code tval
  | .stall => .stall
  | .halt => .halt

/-- The bytes that the blocked trigger of the slot in focus keeps. -/
def State.held (s : State) : List Byte := match s.sl.wait with
  | some w => w.held
  | none => []

/-- The value that a release handed to the blocked trigger, if it has been released. -/
def State.handed (s : State) : Option Word := s.sl.wait.bind (·.value)

/-! ## Addresses of `ls`, `vp` and matrix operands (R135, R136) -/

/-- The bytes [off, off + n) meet a declared berth descriptor of a core (R309, R311). -/
def Core.meetsDescriptor (c : Core) (off n : Nat) : Bool :=
  (List.range 16).any fun b => (c.berths[(Fin.ofNat 16 b)]).isSome &&
    decide (off < 0x2C800 + 32 * b + 32) && decide (0x2C800 + 32 * b < off + n)

/-- The place an address names, with the checks of R135 that come before its offset's. -/
def State.spaTarget (s : State) (t : Word) : Except Nat (CoreId × Nat) :=
  if bits t 55 27 != 0 then .error trapAccess
  else if bit t 26 then
    if s.coreId.kind == .compute && bits t 25 18 != 0 then .error trapAccess else .ok (s.coreId, bits t 25 0)
  else if s.coreId.kind != .compute then .error trapAccess
  else if !s.clusterInSpan (bits t 25 18) then .error trapAccess
  else .ok (s.clusterCore (bits t 25 18), bits t 17 0)

/-- The checks of R135 on an offset of a target. `align` is the alignment asked for. -/
def State.spaOffset (s : State) (c : CoreId) (off n align : Nat) (writes : Bool) : Option Nat :=
  if c.kind.limit < off + n then some trapAccess
  else if decide (0x2D000 ≤ off) && decide (off < 0x30000) && s.sl.priv == 0 && (c.kind == .compute || c.kind == .quay) then
    some trapPriv
  else if c.kind == .harbour && s.sl.priv == 0 then some trapPriv
  else if off % align != 0 then some trapMisalign
  else if writes && (s.coreAt c).meetsDescriptor off n then some trapAccess
  else if ((s.coreAt c).conflict off n writes).isSome then some trapRange
  else none

/-- SPA(t, n, access) of R135: the target and offset, or the trap. -/
def State.spa (s : State) (t : Word) (n : Nat) (writes : Bool) : Except Nat (CoreId × Nat) :=
  match s.spaTarget t with
  | .error e => .error e
  | .ok (c, off) =>
    match s.spaOffset c off n n writes with
    | some e => .error e
    | none => .ok (c, off)

/-- Goes on with the place that an address names, or traps with `tval`. A trigger released from its wait keeps its place. -/
def State.withSpa (s : State) (t : Word) (n : Nat) (writes : Bool) (tval : Word) (k : CoreId × Nat → Res) : Res :=
  if s.resuming then k (placeOf s.coreId t)
  else match s.spa t n writes with
    | .error e => .trap e tval
    | .ok p => k p

/-- The access stays on the issuing core (R134). -/
def State.isLocal (s : State) (c : CoreId) : Bool := c = s.coreId

/-! ## The context image (R247, R248) -/

/-- The scalar ports of the image from offset 0x5D8 on, common to every core (R247). -/
def commonPorts : List (FU × Port) :=
  [(.ia, .a), (.ia, .b), (.ia, .t), (.ia, .q), (.ib, .a), (.ib, .b), (.ib, .t), (.ib, .q),
   (.ag, .a), (.ag, .b), (.ag, .t), (.ag, .q), (.mu, .a), (.mu, .t), (.mu, .q), (.cf, .a), (.cf, .t), (.cf, .q),
   (.ls, .a), (.ls, .b), (.ls, .c), (.ls, .t), (.ls, .q), (.ls, .q2), (.ch, .a), (.ch, .b), (.ch, .t), (.ch, .q), (.ch, .q2),
   (.sy, .a), (.sy, .b), (.sy, .c), (.sy, .t), (.sy, .q), (.sy, .q2), (.db, .a), (.db, .t), (.db, .q)]

/-- The ports of the image at 0x708 to 0x74F, by core kind. -/
def kindPorts : CoreKind → List (FU × Port)
  | .compute => [(.mx, .a), (.mx, .b), (.mx, .c), (.mx, .t), (.mx, .q), (.ks, .a), (.ks, .b), (.ks, .t), (.ks, .q)]
  | .quay | .harbour =>
    [(.qm, .a), (.qm, .b), (.qm, .c), (.qm, .t), (.qm, .q), (.qm, .q2), (.qs, .a), (.qs, .t), (.qs, .q)]
  | .lighthouse => []

/-- The four doublewords of a 256-bit value. -/
def vdwords (v : VWord) : List Word :=
  [v.extractLsb' 0 64, v.extractLsb' 64 64, v.extractLsb' 128 64, v.extractLsb' 192 64]

/-- The 256-bit value of four doublewords. -/
def ofVdwords : List Word → VWord
  | [a, b, c, d] => d ++ c ++ b ++ a
  | _ => 0

/-- The per-slot CSRs in CSR-number order (R247). -/
def Csrs.toList (c : Csrs) : List Word :=
  [c.xstat, c.fflags, c.frm, c.srseed, c.wrr, c.iret, c.codelim, c.lc0, c.lb0, c.le0, c.lc1, c.lb1, c.le1, c.rpc, c.rpb,
   c.estat, c.epc, c.cause, c.tval, c.uvec, c.svec]

/-- The guards' field of STATE, with g0's bit (R248). -/
def Slot.guardBits (t : Slot) : Nat := 1 + 2 * t.g[1].toNat + 4 * t.g[2].toNat + 8 * t.g[3].toNat

/-- VAL of STATE (R248). -/
def Slot.validBits (t : Slot) : Nat :=
  (List.range 14).foldl (fun acc u => acc + t.lats[(Fin.ofNat 14 u)].valid.toNat * 2 ^ u) 0

/-- STATE: guards, valid bits, and what is to be issued again: the divide and the blocked trigger (R248). -/
def stateWord (t : Slot) (dv : Option (BitVec 8)) (rv : Option (FU × BitVec 8)) : Word :=
  let d := match dv with
    | some opc => 2 ^ 50 + opc.toNat * 2 ^ 40
    | none => 0
  let r := match rv with
    | some (u, opc) => 2 ^ 51 + u.number * 2 ^ 52 + opc.toNat * 2 ^ 56
    | none => 0
  w64 (t.guardBits + t.validBits * 2 ^ 16 + d + r)

/-- A port's doubleword in the image: zero where the core lacks the unit (R247). -/
def imagePort (k : CoreKind) (t : Slot) (p : FU × Port) : Word := if k.carries p.1 then narrow (t.port p.1 p.2) else 0

/-- The doublewords D0 to D254 of the image of a slot (R247). -/
def imageWords (k : CoreKind) (t : Slot) (dv : Option (BitVec 8)) (rv : Option (FU × BitVec 8)) : List Word :=
  let vp := if k.carries .vp then vdwords t.va ++ vdwords t.vb ++ vdwords t.vc ++ vdwords t.vq ++ [(t.lat .vp).t, (t.lat .vp).q2]
    else List.replicate 18 0
  let kp := (kindPorts k).map (imagePort k t)
  0 :: t.x.toList.tail ++ t.v.toList.flatMap vdwords ++ t.o.toList ++ vp ++ [stateWord t dv rv] ++
    commonPorts.map (imagePort k t) ++ kp ++ List.replicate (9 - kp.length) 0 ++ t.csr.toList

/-- The bytes of an image, TAG included (R249). -/
def imageBytes (ds : List Word) : List Byte := (ds ++ [imageTag ds]).flatMap fun w => leBytes 8 w.toNat

/-- The 256 doublewords of an image in a memory. -/
def imageAt (m : Memory) (a : Nat) : List Word := (List.range 256).map fun i => m.dword (a + 8 * i)

/-- Doubleword `i` of an image. -/
def dwordAt (img : List Word) (i : Nat) : Word := img.getD i 0

/-- The CSRs of an image, reserved bits reading zero and ROLE the core's own (R6, R39). -/
def imageCsrs (k : CoreKind) (img : List Word) : Csrs :=
  let d := fun i => dwordAt img (234 + i)
  { xstat := setBits (w64 (bits (d 0) 15 0)) 9 8 k.role
    fflags := w64 (bits (d 1) 4 0)
    frm := w64 (bits (d 2) 2 0)
    srseed := if d 3 == 0 then 1 else d 3
    wrr := d 4
    iret := d 5
    codelim := w64 (bits (d 6) 51 0)
    lc0 := w64 (bits (d 7) 31 0)
    lb0 := bundleAddr (d 8)
    le0 := bundleAddr (d 9)
    lc1 := w64 (bits (d 10) 31 0)
    lb1 := bundleAddr (d 11)
    le1 := bundleAddr (d 12)
    rpc := d 13
    rpb := bundleAddr (d 14)
    estat := d 15
    epc := bundleAddr (d 16)
    cause := w64 (bits (d 17) 7 0)
    tval := d 18
    uvec := setBits (bundleAddr (d 19)) 0 0 (bits (d 19) 0 0)
    svec := setBits (bundleAddr (d 20)) 0 0 (bits (d 20) 0 0) }

/-- Loads a port from an image, where the core carries its unit. -/
def loadPort (k : CoreKind) (img : List Word) (t : Slot) (e : (FU × Port) × Nat) : Slot :=
  if k.carries e.1.1 then t.setPort e.1.1 e.1.2 (widen (dwordAt img e.2)) else t

/-- Loads x, v, o, g, every latch, VAL and every CSR of an image into a slot (R252, R290). -/
def Slot.loadImage (k : CoreKind) (img : List Word) (t : Slot) : Slot :=
  let st := dwordAt img 186
  let vec := fun i => ofVdwords [dwordAt img i, dwordAt img (i + 1), dwordAt img (i + 2), dwordAt img (i + 3)]
  let t1 := { t with
    x := Vector.ofFn fun i : Fin 32 => if i = 0 then 0 else dwordAt img i.val
    v := Vector.ofFn fun i : Fin 32 => vec (32 + 4 * i.val)
    o := Vector.ofFn fun i : Fin 8 => dwordAt img (160 + i.val)
    g := Vector.ofFn fun i : Fin 4 => i.val != 0 && bit st i.val
    csr := imageCsrs k img }
  let t2 := if k.carries .vp then
      { t1.onLat .vp (fun l => { l with t := dwordAt img 184, q2 := dwordAt img 185 }) with
        va := vec 168, vb := vec 172, vc := vec 176, vq := vec 180 }
    else t1
  let t3 := (commonPorts.mapIdx fun i p => (p, 187 + i)).foldl (loadPort k img) t2
  let t4 := ((kindPorts k).mapIdx fun i p => (p, 225 + i)).foldl (loadPort k img) t3
  { t4 with lats := Vector.ofFn fun i : Fin 14 => { t4.lats[i] with valid := bit st (16 + i.val), fly := none } }

/-! ## Settling in-flight work (R245) -/

/-- The opcode of the divide that a slot has in flight, which a trap abandons (R120, R245). -/
def Slot.divide (t : Slot) : Option (BitVec 8) :=
  match (t.lat .mu).fly with
  | some f => if 8 ≤ f.opc && f.opc ≤ 0x0D then some (BitVec.ofNat 8 f.opc) else none
  | none => none

/-- Every unit's operation in flight completes, but for the divide, which is abandoned (R245). -/
def Slot.settle (t : Slot) : Slot :=
  let t1 := if t.divide.isSome then t.onLat .mu fun l => { l with fly := none } else t
  [FU.ia, .ib, .ag, .mu, .cf, .ls, .vp, .mx, .ch, .ks, .sy, .qm, .qs, .db].foldl Slot.land t1

/-- Takes the slot in focus out of every queue in which its blocked trigger stands (R241). -/
def State.leaveQueues (s : State) : State :=
  let me := (s.coreId, s.core.cur.val)
  let s1 := s.mapCores fun _ c =>
    { c with lockq := c.lockq.filter (fun l => l.2 != me),
             chans := c.chans.map fun ch => { ch with queue := ch.queue.filter fun q => q != me } }
  let s2 := s1.onCore fun c => { c with chans := c.chans.map fun ch => { ch with recvq := ch.recvq.filter fun q => q != c.cur.val },
                                        mq := { c.mq with waiting := c.mq.waiting.filter fun w => w.1 != c.cur.val },
                                        stream := { c.stream with waiting := c.stream.waiting.filter fun w => w.1 != c.cur.val } }
  { s2 with hampers := s2.hampers.map fun h => (h.1, h.2.dropRequests s.time fun q => q == me) }

/-- Settles the slot in focus before a handler starts (R144, R245). -/
def State.settle (s : State) : State :=
  let s1 := if s.sl.wait.isSome then s.leaveQueues else s
  let s2 := s1.releaseLock s1.coreId s1.core.cur
  (s2.onSl Slot.settle).settleVector s2.core.cur settleBound

/-- The activation of the slot in focus ends (R219, R229): the results of its vector entries are discarded, its lock goes, a helper leaves
its exit value, and the slot becomes Free. Its stores stay in its buffer. A save area found bad makes the context die (R253). -/
def State.endSlot (s : State) (exit : Word) : State :=
  let slot := s.core.cur.val
  let s1 := (s.releaseLock s.coreId slot).onCore fun c => c.voidVectors slot
  let s2 := match s1.sl.helper with
    | some h => s1.onCore fun c => { c with helpers := c.helpers.set (Fin.ofNat 10 h) ⟨true, false, some slot, exit⟩ }
    | none => s1
  match s2.sl.badImage with
  | some epc => s2.markDead s2.coreId slot 0x15 0 epc (w64 (0x4000000 + saveArea s.core.cur)) (w64 (0x4000000 + saveArea s.core.cur))
  | none => s2.onSl fun t =>
    { t with run := .free, flow := .ended, wait := none, rep := [], reissue := [], after := none, pend := Pending.none, key := none,
             helper := none, parked := false, badImage := none, yielded := false, stall := 0, bubble := 0,
             lats := t.lats.map fun l => { l with fly := none } }

/-! ## Taking a trap (R243, R244, R246) -/

/-- Trap codes whose Vector column says user (R240). -/
def userCode (code : Nat) : Bool :=
  code == 0x0B || code == 0x0C || code == 0x0E || (0x10 ≤ code && code ≤ 0x12)

/-- The last three lines of ENTER (R246): valid bits, loop levels and repetition inactive, the level, and the handler's first
bundle. -/
def Slot.startHandler (t : Slot) (lvl : Nat) : Slot :=
  let t1 : Slot := { t with lats := t.lats.map fun l => { l with valid := false } }
  let t2 := (t1.setLA false false).setAct false
  let entry := bundleAddr (if lvl == 0 then t2.csr.uvec else t2.csr.svec)
  { t2 with csr := { t2.csr with xstat := setBits t2.csr.xstat 5 4 lvl }, pc := entry, npc := entry, flow := .entered, run := .ready,
            wait := none, rep := [], stall := 0, bubble := 0, after := none, reissue := [] }

/-- Own-form address of the save area of the slot in focus (R247). -/
def State.areaAddr (s : State) : Word := w64 (0x4000000 + saveArea s.core.cur)

/-- Taking a trap on the slot in focus, from the state before its bundle (a fault) or at a boundary (R243, R244, R246):
first-level, nested, CTX_INTEGRITY re-entry, or the context's death. -/
def enterTrap (code : Nat) (tval at_ : Word) (s : State) : State :=
  let t := s.sl
  let epc := bundleAddr at_
  let slot := s.core.cur.val
  let lvl := if s.coreId.kind == .lighthouse then 3 else 1
  if t.inh && t.hlvl != 0 then
    if code == 0x15 && !bit t.csr.svec 0 then s.markDead s.coreId slot code 0 epc tval s.areaAddr
    else if code == 0x15 then
      ((s.settle.onSl fun t => { t with badImage := some epc, csr := { t.csr with cause := w64 code, tval := tval, epc := epc,
                                                                                  wrr := setBits t.csr.wrr 63 63 0 } }).onSl
        (·.startHandler t.hlvl)).trace 4 (w64 (code * 2 ^ 56 + bits epc 51 0))
    else if code == 0x17 then s.markDead s.coreId slot 0x17 0 epc 0 0
    else s.markDead s.coreId slot 0x17 code epc tval 0
  else
    let user := userCode code && bit t.csr.uvec 0 && t.priv == 0 && !t.inh
    if !user && !bit t.csr.svec 0 then
      s.markDead s.coreId slot code 0 epc tval (if code == 0x15 then s.areaAddr else 0)
    else if t.inh then
      ((s.settle.onSl fun t => { t with badImage := if code == 0x15 then some epc else t.badImage,
                                        csr := { t.csr with cause := w64 code, tval := tval, epc := epc, estat := 0x501,
                                                            wrr := setBits t.csr.wrr 63 63 0 } }).onSl
        (·.startHandler 1)).trace 4 (w64 (code * 2 ^ 56 + bits epc 51 0))
    else
      let l := if user then 0 else lvl
      let dv := match t.divide with
        | some d => some d
        | none => (t.reissue.find? fun e => e.1 == .mu).map (·.2)
      let rv := match t.wait with
        | some w => some (w.unit, w.opc)
        | none => t.reissue.find? fun e => e.1 != .mu
      let s1 := s.settle.onSl fun t =>
        { t with csr := { t.csr with cause := w64 code, tval := tval, epc := epc, wrr := setBits t.csr.wrr 63 63 0,
                                     estat := w64 (1 + t.priv * 2 ^ 4 + l * 2 ^ 8) } }
      let s2 := (s1.writeCore s1.coreId (saveArea slot) (imageBytes (imageWords s1.coreId.kind s1.sl dv rv))).onCore fun c =>
        { c with badAreas := c.badAreas.filter fun n => n != slot }
      (s2.onSl (·.startHandler l)).trace 4 (w64 (code * 2 ^ 56 + bits epc 51 0))

/-! ## The return from a trap (R251, R252, R255) -/

/-- The checks of R251 on the fields of an image, for a handler of a level; the offset of the first doubleword that fails.
Their order: `estat`, `xstat`, STATE, PRIV, `frm`, `rpc`, RUNIT, DOPC. -/
def imageFault (k : CoreKind) (img : List Word) (lvl : Nat) : Option Nat :=
  let d := dwordAt img
  let st := d 186
  let rpcBad := fun w : Word =>
    (bits w 57 52 != 0 && (bits w 62 58 == 0 || decide (32 < bits w 62 58 + bits w 57 52))) ||
    decide (bits w 47 44 < bits w 43 40) || decide (bits w 35 24 < bits w 11 0) ||
    bits w 48 48 != 0 || bits w 39 36 != 0 || bits w 23 12 != 0
  let unitBad := match FU.ofNumber (bits st 55 52) with
    | some u => !k.carries u
    | none => true
  if bits (d 249) 63 12 != 0 || bits (d 249) 7 6 != 0 || bits (d 249) 3 1 != 0 then some 0x7C8
  else if bits (d 234) 63 16 != 0 || bits (d 234) 13 10 != 0 || bits (d 234) 7 6 != 0 || bits (d 234) 3 2 != 0 then some 0x750
  else if bits st 49 48 != 0 || bits st 39 30 != 0 || bits st 15 4 != 0 then some 0x5D0
  else if bits (d 234) 5 4 == 2 || decide (lvl < bits (d 234) 5 4) then some 0x750
  else if 5 ≤ bits (d 236) 2 0 then some 0x760
  else if rpcBad (d 247) then some 0x7B8
  else if bit st 51 && unitBad then some 0x5D0
  else if bit st 50 && (bits st 47 40 < 8 || 0x0D < bits st 47 40) then some 0x5D0
  else none

/-- The triggers that STATE says are to be issued again, the divide first (R252). -/
def imageReissue (img : List Word) : List (FU × BitVec 8) :=
  let st := dwordAt img 186
  (if bit st 50 then [(FU.mu, BitVec.ofNat 8 (bits st 47 40))] else []) ++
    (if bit st 51 then match FU.ofNumber (bits st 55 52) with
      | some u => [(u, BitVec.ofNat 8 (bits st 63 56))]
      | none => []
    else [])

/-- A user handler is run again from its start, on the image of the first entry (R252, R257). -/
def Slot.rerunHandler (k : CoreKind) (img : List Word) (t : Slot) : Slot := (t.loadImage k img).startHandler 0

/-- The interrupted program goes on at an address (R252, R35). -/
def Slot.resumeFrom (k : CoreKind) (img : List Word) (resume : Word) (t : Slot) : Slot :=
  let t1 := t.loadImage k img
  { t1 with csr := { t1.csr with estat := 0, epc := t.csr.epc, cause := t.csr.cause, tval := t.csr.tval },
            pc := resume, npc := resume, flow := .entered, reissue := imageReissue img, rep := [] }

/-- PARK(T) (R255): the image stands as the slot's resumable state, and the slot becomes Free. -/
def State.park (s : State) : State :=
  let area := saveArea s.core.cur
  let s1 := if bit s.sl.csr.estat 10 then s else s.writeCore s.coreId (area + 0x7D0) (leBytes 8 s.sl.csr.epc.toNat)
  (s1.onCore fun c => c.voidVectors c.cur).onSl fun t => { t with run := .free, flow := .ended, parked := true, wait := none, rep := [] }

/-- `sy.tret` (R233, R251 to R255): checks the image, then restores the interrupted program, runs the user handler again, or
parks. After STAGE_RETIRE_YIELD the activation ends (R372). In a bundle that also steps `srseed` (R60), the stepped seed is written last, over the
restored one (DESIGN CHOICE, log 124). -/
def trapReturn (s : State) : Res :=
  let t := s.sl
  let m := s.core.mem
  let img := imageAt m (saveArea s.core.cur)
  if !t.inh then .trap trapIllegalOp 0
  else if t.badImage.isSome || s.core.badAreas.contains s.core.cur.val || imageTag (img.take 255) != dwordAt img 255 then .trap 0x15 s.areaAddr
  else match imageFault s.coreId.kind img t.hlvl with
    | some off => .trap trapIllegalOp (w64 off)
    | none =>
      if t.kind == 3 && t.key.isNone then .ok (s.endSlot 0)
      else if bit t.csr.estat 11 then .ok s.park
      else
        let s1 := s.onCore fun c => c.voidVectors c.cur
        if bit t.csr.estat 10 then .ok ((s1.onSl (Slot.rerunHandler s.coreId.kind img)).trace 5 (bundleAddr t.csr.uvec))
        else .ok ((s1.onSl (Slot.resumeFrom s.coreId.kind img t.csr.epc)).trace 5 t.csr.epc)

/-! ## Halting (R482, R485) -/

/-- The core of a debug module's control register. -/
def dctlCore : Reg → Option CoreId
  | .dctl c => some c
  | _ => none

/-- The cores that are members of a halt group (R488). -/
def State.groupCores (s : State) (g : Nat) : List CoreId :=
  s.regs.filterMap fun p => match dctlCore p.1 with
    | some c => if bit p.2 15 && bit p.2 12 && bits p.2 5 0 == g then some c else none
    | none => none

/-- The other members of the core's halt group, where it is a member, have to halt (R488). -/
def State.crossTrigger (s : State) : State :=
  let ctl := s.reg (.dctl s.coreId)
  if bit ctl 15 && bit ctl 12 then
    ((s.groupCores (bits ctl 5 0)).filter fun c => c != s.coreId).foldl (fun s c =>
      s.onCoreAt c fun k => { k with dbg := { k.dbg with cross := !k.dbg.halted } }) s
  else s

/-- A halt event of the core in focus: every slot becomes Halted, or, with TRAP, DEBUG_HALT is raised at every occupied slot
(R482, R485). -/
def State.halt (s : State) (cause slot : Nat) : State :=
  let ctl := s.reg (.dctl s.coreId)
  if bit ctl 13 then
    s.onCore fun c => c.onSlots fun _ t =>
      if t.occupied then { t with pend := { t.pend with debugHalt := some (w64 (bits ctl 5 0)) } } else t
  else
    let s1 := (s.onCore fun c => { c with dbg := { c.dbg with halted := true, step := false, cross := false, cause := cause, slot := slot } })
    (if 1 ≤ cause && cause ≤ 3 then s1.crossTrigger else s1).traceAt s.coreId slot 8 (w64 (1 + cause * 2 ^ 8))

/-! ## The course of a bundle (R17, R18, R27, R240) -/

/-- Opens a bundle of `n` words: NEXT is the bundle after it (R122). -/
def State.openBundle (s : State) (n : Nat) : State :=
  s.onSl fun t => { t with npc := t.pc + w64 (4 * n), next := t.pc + w64 (4 * n), flow := .seq, after := none, csrw := none, seedw := none }

/-- The repetition state after a body bundle (R128): the next body bundle, the next pass, or the end. -/
def nextRep (rpc : Word) : Word :=
  if bits rpc 43 40 != bits rpc 47 44 then setBits rpc 43 40 (bits rpc 43 40 + 1)
  else if bits rpc 11 0 != bits rpc 35 24 then setBits (setBits rpc 43 40 0) 11 0 (bits rpc 11 0 + 1)
  else setBits rpc 63 63 0

/-- The end of a body bundle of a repetition (R128): POS and PASS move on; after the last bundle of a pass execution goes on at
`rpb`, and after the last of the last pass repetition ends and execution goes on after the body. -/
def State.repetitionEnd (s : State) : State :=
  let t := s.sl
  let rpc := nextRep t.csr.rpc
  let wrapped := bits t.csr.rpc 43 40 == bits t.csr.rpc 47 44
  let s1 := s.onSl fun t => { t with csr := { t.csr with rpc := rpc },
                                     npc := if wrapped && bit rpc 63 then t.csr.rpb else t.npc }
  if wrapped then s1.count 13 else s1

/-- Closes a bundle: it is retired (R41), counted, its writes of `srseed` (R60) and of a CSR (R232) take effect,
and a trap of kind after is taken with `epc` NEXT (R240), the repetition state of a body bundle standing at the following one (R130). -/
def State.closeBundle (s : State) : State :=
  let s1 := ((s.onSl fun t => { t with csr := { t.csr with iret := t.csr.iret + 1 }, stall := 0 }).count 1).applyCsr
  match s1.sl.after with
  | some (code, tval) => enterTrap code tval s1.sl.next (if s1.sl.repActive && s1.sl.flow != .loopSet then s1.repetitionEnd else s1)
  | none => if s1.sl.flow == .ended then s1.checkMine else s1

/-- A bundle that cannot issue in this core cycle (R26, R27). -/
def State.stallBundle (s : State) : State :=
  (s.onSl fun t => { t with run := .stalled, stall := t.stall + 1 }).count 2

/-- The words a move takes with its long immediates (R81). -/
def moveWords (src : Src) : Nat := 1 + (srcWords src).length

/-- The value of a move at the head of the bus, and the rest of the bus (R17). -/
def Bus.pop (b : Bus) : (Bool × VWord) × Bus :=
  match b.vals with
  | v :: rest => (v, { b with vals := rest })
  | [] => ((false, 0), b)

/-- A move to a destination that is no trigger port, as a whole one-move bundle. -/
def soloMove (h : Hdr) (d : Dst) (s : State) : State :=
  let h := renameHdr s.sl.csr.rpc h
  let d := renameDst s.sl.csr.rpc d
  match s.soloFault h.src (dstUnit d) (moveWord h (dstCode d) 0) with
  | some (code, tval) => enterTrap code tval s.sl.pc s
  | none =>
    if s.srcStall h.src || (s.sl.takes h && s.dstStall d) then s.stallBundle
    else
      let s1 := s.openBundle (moveWords h.src)
      (if s.sl.takes h then s1.onSl fun t => t.writeDst d (s.sl.readSrc h.src) else s1).closeBundle

/-- A move to a destination that is no trigger port (R17): alone as a bundle, or as a move of the bundle on the bus. -/
def execMoveTo (h : Hdr) (d : Dst) (s : State) : Out :=
  match s.bus with
  | none => .next (soloMove h d s)
  | some b =>
    let ((take, val), b') := b.pop
    let d := renameDst s.sl.csr.rpc d
    let s1 := { s with bus := some b' }
    if take && s.dstStall d then .next { s with bus := some { b' with stalled := true } }
    else .next (if take then s1.onSl fun t => t.writeDst d val else s1)

/-- A trigger, as a whole one-move bundle: `op` is the operation, on the state whose trigger latch holds the value (R15). -/
def soloTrigger (u : FU) (opc : Nat) (h : Hdr) (op : State → Res) (s : State) : State :=
  let h := renameHdr s.sl.csr.rpc h
  match s.soloFault h.src (some u) (moveWord h (portCode u .t) opc) with
  | some (code, tval) => enterTrap code tval s.sl.pc s
  | none =>
    if s.srcStall h.src || (s.sl.takes h && s.unitStall u opc) then s.stallBundle
    else
      let s1 := s.openBundle (moveWords h.src)
      if s.sl.takes h then
        match op (s1.onSl fun t => t.setPort u .t (s.sl.readSrc h.src)) with
        | .ok s2 => s2.closeBundle
        | .trap code tval => enterTrap code tval s.sl.pc s
        | .stall => s.stallBundle
        | .halt => s.halt 3 s.core.cur
      else s1.closeBundle

/-- What the bus notes in place of a trap code when a trigger halts the core before its bundle (R484). -/
def haltCode : Nat := 0x100

/-- A trigger behind one that has entered a wait in the same bundle (R241): the slot's wait stands whatever the trigger does. One that would
wait itself goes out once the first wait has ended (log 104). -/
def besideWait (u : FU) (opc : Nat) (op : State → Res) (s : State) : Res :=
  let t := s.sl
  match op (s.onSl fun t => { t with run := .issuing, wait := none }) with
  | .ok s1 =>
    if s1.sl.run == .blocked then .ok (s.onSl fun t => { t with reissue := t.reissue ++ [(u, BitVec.ofNat 8 opc)] })
    else if s1.sl.flow == .ended then .ok s1
    else .ok (s1.onSl fun t1 => { t1 with run := t.run, wait := t.wait, since := t.since })
  | .trap code tval => .trap code tval
  | .stall => .stall
  | .halt => .halt

/-- A trigger as a move of the bundle on the bus. A debug halt comes before every fault of its bundle's triggers, since the bundle does not
issue (R484). -/
def busTrigger (u : FU) (opc : Nat) (b : Bus) (op : State → Res) (s : State) : State :=
  let ((take, val), b') := b.pop
  let s1 := { s with bus := some b' }
  let run := if s.sl.run == .blocked then besideWait u opc op else op
  if !take then s1
  else if s.unitStall u opc then { s with bus := some { b' with stalled := true } }
  else match run (s1.onSl fun t => t.setPort u .t val) with
    | .ok s2 => s2
    | .trap code tval => { s with bus := some { b' with raised := b'.raised <|> some (code, tval) } }
    | .stall => { s with bus := some { b' with stalled := true } }
    | .halt => { s with bus := some { b' with raised := some (haltCode, 0) } }

/-- A trigger of operation `op` of a unit: alone as a bundle, or as a move of the bundle on the bus. -/
def execTrigger (u : FU) (opc : Nat) (h : Hdr) (op : State → Res) (s : State) : Out :=
  match s.bus with
  | none => .next (soloTrigger u opc h op s)
  | some b => .next (busTrigger u opc b op s)

end Sys2Proof.Machine
end

