-- ==== Sys2Proof/Machine/Addr.lean ====
section
/-! DEFINITION. The address unit `ag` (spec/04_scalar_control_ops.md R108 to R115). -/

set_option autoImplicit false
set_option Elab.async false

namespace Sys2Proof.Machine

/-- Block length in elements of a block field (R76). -/
def blockLen (n : Nat) : Nat := if n == 0 then 0 else 2 ^ (n + 3)

/-- The tag of a pointer, in place, with an address of 56 bits. -/
def withTag (a : Word) (s : Nat) : Word := w64 (bits a 63 56 * 2 ^ 56 + s)

/-- A pointer moved by a signed number of bytes; a carry out of the address traps (R76, R109). -/
def movePointer (s : State) (a : Word) (d : Int) : Res :=
  let r : Int := (bits a 55 0 : Nat) + d
  if r < 0 || 2 ^ 56 ≤ r then .trap trapTagCarry a
  else .ok (s.complete .ag (withTag a r.toNat) 0)

/-- `padd` (R109). -/
def agPadd (s : State) : Res := let l := s.lat .ag; movePointer s l.a l.t.toInt

/-- `psub` (R110). -/
def agPsub (s : State) : Res :=
  let l := s.lat .ag
  .ok (s.complete .ag (w64 (bits l.a 55 0) - w64 (bits l.t 55 0)) 0)

/-- `ptag` (R111). -/
def agPtag (s : State) : Res :=
  let l := s.lat .ag
  if 16 ≤ bits l.t 7 3 then .trap trapFormat l.t
  else .ok (s.complete .ag (w64 (bits l.t 7 0 * 2 ^ 56 + bits l.a 55 0)) 0)

/-- `pfmt` (R112). -/
def agPfmt (s : State) : Res := .ok (s.complete .ag (w64 (bits (s.lat .ag).t 63 59)) 0)

/-- `pblk` (R112). -/
def agPblk (s : State) : Res := .ok (s.complete .ag (w64 (blockLen (bits (s.lat .ag).t 58 56))) 0)

/-- `pclr` (R112). -/
def agPclr (s : State) : Res := .ok (s.complete .ag (w64 (bits (s.lat .ag).t 55 0)) 0)

/-- `pidx` (R113): FORMAT before TAG_CARRY. -/
def agPidx (s : State) : Res :=
  let l := s.lat .ag
  let f := bits l.a 63 59
  let n : Int := l.t.toInt * formatBits f
  if 16 ≤ f then .trap trapFormat l.a
  else if n % 8 != 0 then .trap trapFormat l.a
  else movePointer s l.a (n / 8)

/-- `cadr` (R114), on compute cores only. -/
def agCadr (s : State) : Res :=
  let l := s.lat .ag
  if s.coreId.kind != .compute then .trap trapIllegalOp l.t
  else if 256 ≤ l.a.toNat then .trap trapAccess l.a
  else if 0x30000 ≤ l.t.toNat then .trap trapAccess l.t
  else .ok (s.complete .ag (w64 (l.a.toNat * 2 ^ 18 + l.t.toNat)) 0)

/-- `lcl` (R114), on compute cores only. -/
def agLcl (s : State) : Res :=
  let l := s.lat .ag
  if s.coreId.kind != .compute then .trap trapIllegalOp l.t
  else if 0x30000 ≤ l.t.toNat then .trap trapAccess l.t
  else .ok (s.complete .ag (w64 (0x4000000 + l.t.toNat)) 0)

/-- `coord` (R115), on compute cores only: logical row and column to a cluster address. -/
def agCoord (s : State) : Res :=
  let l := s.lat .ag
  let row := bits l.t 12 8
  let col := bits l.t 4 0
  if s.coreId.kind != .compute then .trap trapIllegalOp l.t
  else if row / 16 != s.core.row / 16 || col / 16 != s.core.col / 16 then .trap trapAccess l.t
  else .ok (s.complete .ag (w64 ((row % 16 * 16 + col % 16) * 2 ^ 18)) 0)

/-- AG_PADD (R109): adds a signed byte offset to a pointer and keeps its tag. -/
def execAgPadd (h : Hdr) (s : State) : Out := execTrigger .ag 0x01 h agPadd s

/-- AG_PSUB (R110): the byte distance of two addresses, tags ignored. -/
def execAgPsub (h : Hdr) (s : State) : Out := execTrigger .ag 0x02 h agPsub s

/-- AG_PTAG (R111): replaces the tag. -/
def execAgPtag (h : Hdr) (s : State) : Out := execTrigger .ag 0x03 h agPtag s

/-- AG_PFMT (R112): the format code. -/
def execAgPfmt (h : Hdr) (s : State) : Out := execTrigger .ag 0x04 h agPfmt s

/-- AG_PBLK (R112): the block length in elements. -/
def execAgPblk (h : Hdr) (s : State) : Out := execTrigger .ag 0x05 h agPblk s

/-- AG_PCLR (R112): the address without its tag. -/
def execAgPclr (h : Hdr) (s : State) : Out := execTrigger .ag 0x06 h agPclr s

/-- AG_PIDX (R113): a pointer to an element. -/
def execAgPidx (h : Hdr) (s : State) : Out := execTrigger .ag 0x07 h agPidx s

/-- AG_CADR (R114): a cluster address. -/
def execAgCadr (h : Hdr) (s : State) : Out := execTrigger .ag 0x08 h agCadr s

/-- AG_LCL (R114): an own-form address. -/
def execAgLcl (h : Hdr) (s : State) : Out := execTrigger .ag 0x09 h agLcl s

/-- AG_COORD (R115): the cluster address of the core at a row and column. -/
def execAgCoord (h : Hdr) (s : State) : Out := execTrigger .ag 0x0A h agCoord s

/-- The operation of an opcode of `ag` (R108). -/
def agOp (opc : Nat) : Option (State → Res) :=
  match opc with
  | 0x01 => some agPadd | 0x02 => some agPsub | 0x03 => some agPtag | 0x04 => some agPfmt | 0x05 => some agPblk
  | 0x06 => some agPclr | 0x07 => some agPidx | 0x08 => some agCadr | 0x09 => some agLcl | 0x0A => some agCoord
  | _ => none

end Sys2Proof.Machine
end

