-- ==== Sys2Proof/Machine/Alu.lean ====
section
/-! DEFINITION. The integer units `ia` and `ib` (spec/04_scalar_control_ops.md R102 to R107): one result, of latency 1, from the
latches `a`, `b` and `t`; no operation traps. -/

set_option autoImplicit false
set_option Elab.async false

namespace Sys2Proof.Machine

/-! ## The results -/

/-- A truth value as 1 or 0. -/
def flag (b : Bool) : Word := if b then 1 else 0

/-- Bits [31:0] of a register. -/
def low32 (w : Word) : HWord := w.setWidth 32

/-- Number of set bits. -/
def popCount (t : Word) : Nat := ((List.range 64).filter fun i => bit t i).length

/-- Number of zero bits above the highest set bit (R105). -/
def leadingZeros (t : Word) : Nat := if t == 0 then 64 else 63 - Nat.log2 t.toNat

/-- Number of zero bits below the lowest set bit (R105). -/
def trailingZeros (t : Word) : Nat := ((List.range 64).find? fun i => bit t i).getD 64

/-- Length of the field that a control word names, clipped to the word (R106). -/
def fieldLen (t : Word) : Nat := min (bits t 14 8) (64 - bits t 5 0)

/-- `ext` and `extu` (R106). -/
def extField (a t : Word) (signed : Bool) : Word :=
  let p := bits t 5 0
  let l := fieldLen t
  if l == 0 then 0 else if signed then sext (a.toNat / 2 ^ p) l else zext (a.toNat / 2 ^ p) l

/-- `ins` (R106). -/
def insField (a b t : Word) : Word :=
  let p := bits t 5 0
  let l := fieldLen t
  if l == 0 then a else setBits a (p + l - 1) p b.toNat

/-! ## The operations, on either unit `u`, from its latches -/

/-- An integer operation: `.q` receives the result in the next cycle (R20, R102). -/
def alu (u : FU) (f : Word → Word → Word → Word) (s : State) : Res :=
  let l := s.lat u
  .ok (s.complete u (f l.a l.b l.t) 0)

/-- `add` (R103): a + t, wrapping modulo 2^64. -/
def aluAdd (a _ t : Word) : Word := a + t

/-- `sub` (R103): a − t, wrapping. -/
def aluSub (a _ t : Word) : Word := a - t

/-- `and` (R103): bitwise a and t. -/
def aluAnd (a _ t : Word) : Word := a &&& t

/-- `or` (R103): bitwise a or t. -/
def aluOr (a _ t : Word) : Word := a ||| t

/-- `xor` (R103): bitwise a xor t. -/
def aluXor (a _ t : Word) : Word := a ^^^ t

/-- `andn` (R103): a and not t. -/
def aluAndn (a _ t : Word) : Word := a &&& ~~~t

/-- `sll` (R103): a shifted left by BITS(t, 5, 0). -/
def aluSll (a _ t : Word) : Word := a <<< bits t 5 0

/-- `srl` (R103): a shifted right by BITS(t, 5, 0), zeros in. -/
def aluSrl (a _ t : Word) : Word := a >>> bits t 5 0

/-- `sra` (R103): a shifted right by BITS(t, 5, 0), copies of bit 63 in. -/
def aluSra (a _ t : Word) : Word := a.sshiftRight (bits t 5 0)

/-- `rol` (R103): a rotated left by BITS(t, 5, 0). -/
def aluRol (a _ t : Word) : Word := a.rotateLeft (bits t 5 0)

/-- `ror` (R103): a rotated right by BITS(t, 5, 0). -/
def aluRor (a _ t : Word) : Word := a.rotateRight (bits t 5 0)

/-- `min` (R103): the signed smaller of a and t. -/
def aluMin (a _ t : Word) : Word := if a.slt t then a else t

/-- `max` (R103): the signed larger of a and t. -/
def aluMax (a _ t : Word) : Word := if a.slt t then t else a

/-- `minu` (R103): the unsigned smaller of a and t. -/
def aluMinu (a _ t : Word) : Word := if a.ult t then a else t

/-- `maxu` (R103): the unsigned larger of a and t. -/
def aluMaxu (a _ t : Word) : Word := if a.ult t then t else a

/-- `ceq` (R103): 1 if a equals t, else 0. -/
def aluCeq (a _ t : Word) : Word := flag (a == t)

/-- `cne` (R103): 1 if a differs from t, else 0. -/
def aluCne (a _ t : Word) : Word := flag (a != t)

/-- `clt` (R103): 1 if a < t signed, else 0. -/
def aluClt (a _ t : Word) : Word := flag (a.slt t)

/-- `cltu` (R103): 1 if a < t unsigned, else 0. -/
def aluCltu (a _ t : Word) : Word := flag (a.ult t)

/-- `cge` (R103): 1 if a ≥ t signed, else 0. -/
def aluCge (a _ t : Word) : Word := flag (!a.slt t)

/-- `cgeu` (R103): 1 if a ≥ t unsigned, else 0. -/
def aluCgeu (a _ t : Word) : Word := flag (!a.ult t)

/-- `sel` (R104): a if t is nonzero, otherwise b. -/
def aluSel (a b t : Word) : Word := if t != 0 then a else b

/-- `popc` (R105): the number of set bits of t. -/
def aluPopc (_ _ t : Word) : Word := w64 (popCount t)

/-- `clz` (R105): the number of zero bits above the highest set bit of t, 64 for 0. -/
def aluClz (_ _ t : Word) : Word := w64 (leadingZeros t)

/-- `ctz` (R105): the number of zero bits below the lowest set bit of t, 64 for 0. -/
def aluCtz (_ _ t : Word) : Word := w64 (trailingZeros t)

/-- `ext` (R106): the field of a that t names, sign-extended. -/
def aluExt (a _ t : Word) : Word := extField a t true

/-- `extu` (R106): the field of a that t names, zero-extended. -/
def aluExtu (a _ t : Word) : Word := extField a t false

/-- `ins` (R106): a with the field that t names replaced by the low bits of b. -/
def aluIns (a b t : Word) : Word := insField a b t

/-- `sxb` (R105): SEXT(t, 8). -/
def aluSxb (_ _ t : Word) : Word := sext t.toNat 8

/-- `sxh` (R105): SEXT(t, 16). -/
def aluSxh (_ _ t : Word) : Word := sext t.toNat 16

/-- `sxw` (R105): SEXT(t, 32). -/
def aluSxw (_ _ t : Word) : Word := sext t.toNat 32

/-- `zxb` (R105): ZEXT(t, 8). -/
def aluZxb (_ _ t : Word) : Word := zext t.toNat 8

/-- `zxh` (R105): ZEXT(t, 16). -/
def aluZxh (_ _ t : Word) : Word := zext t.toNat 16

/-- `zxw` (R105): ZEXT(t, 32). -/
def aluZxw (_ _ t : Word) : Word := zext t.toNat 32

/-- `addw` (R107): SEXT(a + t, 32). -/
def aluAddw (a _ t : Word) : Word := sext (a + t).toNat 32

/-- `subw` (R107): SEXT(a − t, 32). -/
def aluSubw (a _ t : Word) : Word := sext (a - t).toNat 32

/-- `sllw` (R107): the low word of a shifted left by BITS(t, 4, 0), sign-extended. -/
def aluSllw (a _ t : Word) : Word := sext (low32 a <<< bits t 4 0).toNat 32

/-- `srlw` (R107): the low word of a shifted right by BITS(t, 4, 0), zeros in, then sign-extended. -/
def aluSrlw (a _ t : Word) : Word := sext (low32 a >>> bits t 4 0).toNat 32

/-- `sraw` (R107): the low word of a shifted right by BITS(t, 4, 0), copies of bit 31 in, sign-extended. -/
def aluSraw (a _ t : Word) : Word := sext ((low32 a).sshiftRight (bits t 4 0)).toNat 32

/-- The operation of an opcode of `ia` and `ib` (R102). -/
def aluOp (opc : Nat) : Option (Word → Word → Word → Word) :=
  match opc with
  | 0x01 => some aluAdd
  | 0x02 => some aluSub
  | 0x03 => some aluAnd
  | 0x04 => some aluOr
  | 0x05 => some aluXor
  | 0x06 => some aluAndn
  | 0x07 => some aluSll
  | 0x08 => some aluSrl
  | 0x09 => some aluSra
  | 0x0A => some aluRol
  | 0x0B => some aluRor
  | 0x0C => some aluMin
  | 0x0D => some aluMax
  | 0x0E => some aluMinu
  | 0x0F => some aluMaxu
  | 0x10 => some aluCeq
  | 0x11 => some aluCne
  | 0x12 => some aluClt
  | 0x13 => some aluCltu
  | 0x14 => some aluCge
  | 0x15 => some aluCgeu
  | 0x16 => some aluSel
  | 0x17 => some aluPopc
  | 0x18 => some aluClz
  | 0x19 => some aluCtz
  | 0x1A => some aluExt
  | 0x1B => some aluExtu
  | 0x1C => some aluIns
  | 0x20 => some aluSxb
  | 0x21 => some aluSxh
  | 0x22 => some aluSxw
  | 0x23 => some aluZxb
  | 0x24 => some aluZxh
  | 0x25 => some aluZxw
  | 0x28 => some aluAddw
  | 0x29 => some aluSubw
  | 0x2A => some aluSllw
  | 0x2B => some aluSrlw
  | 0x2C => some aluSraw
  | _ => none

/-! ## The instructions -/

/-- IA_ADD (R103): `ia.q` := a + t, wrapping modulo 2^64. -/
def execIaAdd (h : Hdr) (s : State) : Out := execTrigger .ia 0x01 h (alu .ia aluAdd) s

/-- IA_SUB (R103): `ia.q` := a − t, wrapping. -/
def execIaSub (h : Hdr) (s : State) : Out := execTrigger .ia 0x02 h (alu .ia aluSub) s

/-- IA_AND (R103): `ia.q` := bitwise a and t. -/
def execIaAnd (h : Hdr) (s : State) : Out := execTrigger .ia 0x03 h (alu .ia aluAnd) s

/-- IA_OR (R103): `ia.q` := bitwise a or t. -/
def execIaOr (h : Hdr) (s : State) : Out := execTrigger .ia 0x04 h (alu .ia aluOr) s

/-- IA_XOR (R103): `ia.q` := bitwise a xor t. -/
def execIaXor (h : Hdr) (s : State) : Out := execTrigger .ia 0x05 h (alu .ia aluXor) s

/-- IA_ANDN (R103): `ia.q` := a and not t. -/
def execIaAndn (h : Hdr) (s : State) : Out := execTrigger .ia 0x06 h (alu .ia aluAndn) s

/-- IA_SLL (R103): `ia.q` := a shifted left by BITS(t, 5, 0). -/
def execIaSll (h : Hdr) (s : State) : Out := execTrigger .ia 0x07 h (alu .ia aluSll) s

/-- IA_SRL (R103): `ia.q` := a shifted right by BITS(t, 5, 0), zeros in. -/
def execIaSrl (h : Hdr) (s : State) : Out := execTrigger .ia 0x08 h (alu .ia aluSrl) s

/-- IA_SRA (R103): `ia.q` := a shifted right by BITS(t, 5, 0), copies of bit 63 in. -/
def execIaSra (h : Hdr) (s : State) : Out := execTrigger .ia 0x09 h (alu .ia aluSra) s

/-- IA_ROL (R103): `ia.q` := a rotated left by BITS(t, 5, 0). -/
def execIaRol (h : Hdr) (s : State) : Out := execTrigger .ia 0x0A h (alu .ia aluRol) s

/-- IA_ROR (R103): `ia.q` := a rotated right by BITS(t, 5, 0). -/
def execIaRor (h : Hdr) (s : State) : Out := execTrigger .ia 0x0B h (alu .ia aluRor) s

/-- IA_MIN (R103): `ia.q` := the signed smaller of a and t. -/
def execIaMin (h : Hdr) (s : State) : Out := execTrigger .ia 0x0C h (alu .ia aluMin) s

/-- IA_MAX (R103): `ia.q` := the signed larger of a and t. -/
def execIaMax (h : Hdr) (s : State) : Out := execTrigger .ia 0x0D h (alu .ia aluMax) s

/-- IA_MINU (R103): `ia.q` := the unsigned smaller of a and t. -/
def execIaMinu (h : Hdr) (s : State) : Out := execTrigger .ia 0x0E h (alu .ia aluMinu) s

/-- IA_MAXU (R103): `ia.q` := the unsigned larger of a and t. -/
def execIaMaxu (h : Hdr) (s : State) : Out := execTrigger .ia 0x0F h (alu .ia aluMaxu) s

/-- IA_CEQ (R103): `ia.q` := 1 if a equals t, else 0. -/
def execIaCeq (h : Hdr) (s : State) : Out := execTrigger .ia 0x10 h (alu .ia aluCeq) s

/-- IA_CNE (R103): `ia.q` := 1 if a differs from t, else 0. -/
def execIaCne (h : Hdr) (s : State) : Out := execTrigger .ia 0x11 h (alu .ia aluCne) s

/-- IA_CLT (R103): `ia.q` := 1 if a < t signed, else 0. -/
def execIaClt (h : Hdr) (s : State) : Out := execTrigger .ia 0x12 h (alu .ia aluClt) s

/-- IA_CLTU (R103): `ia.q` := 1 if a < t unsigned, else 0. -/
def execIaCltu (h : Hdr) (s : State) : Out := execTrigger .ia 0x13 h (alu .ia aluCltu) s

/-- IA_CGE (R103): `ia.q` := 1 if a ≥ t signed, else 0. -/
def execIaCge (h : Hdr) (s : State) : Out := execTrigger .ia 0x14 h (alu .ia aluCge) s

/-- IA_CGEU (R103): `ia.q` := 1 if a ≥ t unsigned, else 0. -/
def execIaCgeu (h : Hdr) (s : State) : Out := execTrigger .ia 0x15 h (alu .ia aluCgeu) s

/-- IA_SEL (R104): `ia.q` := a if t is nonzero, otherwise b. -/
def execIaSel (h : Hdr) (s : State) : Out := execTrigger .ia 0x16 h (alu .ia aluSel) s

/-- IA_POPC (R105): `ia.q` := the number of set bits of t. -/
def execIaPopc (h : Hdr) (s : State) : Out := execTrigger .ia 0x17 h (alu .ia aluPopc) s

/-- IA_CLZ (R105): `ia.q` := the number of zero bits above the highest set bit of t, 64 for 0. -/
def execIaClz (h : Hdr) (s : State) : Out := execTrigger .ia 0x18 h (alu .ia aluClz) s

/-- IA_CTZ (R105): `ia.q` := the number of zero bits below the lowest set bit of t, 64 for 0. -/
def execIaCtz (h : Hdr) (s : State) : Out := execTrigger .ia 0x19 h (alu .ia aluCtz) s

/-- IA_EXT (R106): `ia.q` := the field of a that t names, sign-extended. -/
def execIaExt (h : Hdr) (s : State) : Out := execTrigger .ia 0x1A h (alu .ia aluExt) s

/-- IA_EXTU (R106): `ia.q` := the field of a that t names, zero-extended. -/
def execIaExtu (h : Hdr) (s : State) : Out := execTrigger .ia 0x1B h (alu .ia aluExtu) s

/-- IA_INS (R106): `ia.q` := a with the field that t names replaced by the low bits of b. -/
def execIaIns (h : Hdr) (s : State) : Out := execTrigger .ia 0x1C h (alu .ia aluIns) s

/-- IA_SXB (R105): `ia.q` := SEXT(t, 8). -/
def execIaSxb (h : Hdr) (s : State) : Out := execTrigger .ia 0x20 h (alu .ia aluSxb) s

/-- IA_SXH (R105): `ia.q` := SEXT(t, 16). -/
def execIaSxh (h : Hdr) (s : State) : Out := execTrigger .ia 0x21 h (alu .ia aluSxh) s

/-- IA_SXW (R105): `ia.q` := SEXT(t, 32). -/
def execIaSxw (h : Hdr) (s : State) : Out := execTrigger .ia 0x22 h (alu .ia aluSxw) s

/-- IA_ZXB (R105): `ia.q` := ZEXT(t, 8). -/
def execIaZxb (h : Hdr) (s : State) : Out := execTrigger .ia 0x23 h (alu .ia aluZxb) s

/-- IA_ZXH (R105): `ia.q` := ZEXT(t, 16). -/
def execIaZxh (h : Hdr) (s : State) : Out := execTrigger .ia 0x24 h (alu .ia aluZxh) s

/-- IA_ZXW (R105): `ia.q` := ZEXT(t, 32). -/
def execIaZxw (h : Hdr) (s : State) : Out := execTrigger .ia 0x25 h (alu .ia aluZxw) s

/-- IA_ADDW (R107): `ia.q` := SEXT(a + t, 32). -/
def execIaAddw (h : Hdr) (s : State) : Out := execTrigger .ia 0x28 h (alu .ia aluAddw) s

/-- IA_SUBW (R107): `ia.q` := SEXT(a − t, 32). -/
def execIaSubw (h : Hdr) (s : State) : Out := execTrigger .ia 0x29 h (alu .ia aluSubw) s

/-- IA_SLLW (R107): `ia.q` := the low word of a shifted left by BITS(t, 4, 0), sign-extended. -/
def execIaSllw (h : Hdr) (s : State) : Out := execTrigger .ia 0x2A h (alu .ia aluSllw) s

/-- IA_SRLW (R107): `ia.q` := the low word of a shifted right by BITS(t, 4, 0), zeros in, then sign-extended. -/
def execIaSrlw (h : Hdr) (s : State) : Out := execTrigger .ia 0x2B h (alu .ia aluSrlw) s

/-- IA_SRAW (R107): `ia.q` := the low word of a shifted right by BITS(t, 4, 0), copies of bit 31 in, sign-extended. -/
def execIaSraw (h : Hdr) (s : State) : Out := execTrigger .ia 0x2C h (alu .ia aluSraw) s

/-- IB_ADD (R103): `ib.q` := a + t, wrapping modulo 2^64. -/
def execIbAdd (h : Hdr) (s : State) : Out := execTrigger .ib 0x01 h (alu .ib aluAdd) s

/-- IB_SUB (R103): `ib.q` := a − t, wrapping. -/
def execIbSub (h : Hdr) (s : State) : Out := execTrigger .ib 0x02 h (alu .ib aluSub) s

/-- IB_AND (R103): `ib.q` := bitwise a and t. -/
def execIbAnd (h : Hdr) (s : State) : Out := execTrigger .ib 0x03 h (alu .ib aluAnd) s

/-- IB_OR (R103): `ib.q` := bitwise a or t. -/
def execIbOr (h : Hdr) (s : State) : Out := execTrigger .ib 0x04 h (alu .ib aluOr) s

/-- IB_XOR (R103): `ib.q` := bitwise a xor t. -/
def execIbXor (h : Hdr) (s : State) : Out := execTrigger .ib 0x05 h (alu .ib aluXor) s

/-- IB_ANDN (R103): `ib.q` := a and not t. -/
def execIbAndn (h : Hdr) (s : State) : Out := execTrigger .ib 0x06 h (alu .ib aluAndn) s

/-- IB_SLL (R103): `ib.q` := a shifted left by BITS(t, 5, 0). -/
def execIbSll (h : Hdr) (s : State) : Out := execTrigger .ib 0x07 h (alu .ib aluSll) s

/-- IB_SRL (R103): `ib.q` := a shifted right by BITS(t, 5, 0), zeros in. -/
def execIbSrl (h : Hdr) (s : State) : Out := execTrigger .ib 0x08 h (alu .ib aluSrl) s

/-- IB_SRA (R103): `ib.q` := a shifted right by BITS(t, 5, 0), copies of bit 63 in. -/
def execIbSra (h : Hdr) (s : State) : Out := execTrigger .ib 0x09 h (alu .ib aluSra) s

/-- IB_ROL (R103): `ib.q` := a rotated left by BITS(t, 5, 0). -/
def execIbRol (h : Hdr) (s : State) : Out := execTrigger .ib 0x0A h (alu .ib aluRol) s

/-- IB_ROR (R103): `ib.q` := a rotated right by BITS(t, 5, 0). -/
def execIbRor (h : Hdr) (s : State) : Out := execTrigger .ib 0x0B h (alu .ib aluRor) s

/-- IB_MIN (R103): `ib.q` := the signed smaller of a and t. -/
def execIbMin (h : Hdr) (s : State) : Out := execTrigger .ib 0x0C h (alu .ib aluMin) s

/-- IB_MAX (R103): `ib.q` := the signed larger of a and t. -/
def execIbMax (h : Hdr) (s : State) : Out := execTrigger .ib 0x0D h (alu .ib aluMax) s

/-- IB_MINU (R103): `ib.q` := the unsigned smaller of a and t. -/
def execIbMinu (h : Hdr) (s : State) : Out := execTrigger .ib 0x0E h (alu .ib aluMinu) s

/-- IB_MAXU (R103): `ib.q` := the unsigned larger of a and t. -/
def execIbMaxu (h : Hdr) (s : State) : Out := execTrigger .ib 0x0F h (alu .ib aluMaxu) s

/-- IB_CEQ (R103): `ib.q` := 1 if a equals t, else 0. -/
def execIbCeq (h : Hdr) (s : State) : Out := execTrigger .ib 0x10 h (alu .ib aluCeq) s

/-- IB_CNE (R103): `ib.q` := 1 if a differs from t, else 0. -/
def execIbCne (h : Hdr) (s : State) : Out := execTrigger .ib 0x11 h (alu .ib aluCne) s

/-- IB_CLT (R103): `ib.q` := 1 if a < t signed, else 0. -/
def execIbClt (h : Hdr) (s : State) : Out := execTrigger .ib 0x12 h (alu .ib aluClt) s

/-- IB_CLTU (R103): `ib.q` := 1 if a < t unsigned, else 0. -/
def execIbCltu (h : Hdr) (s : State) : Out := execTrigger .ib 0x13 h (alu .ib aluCltu) s

/-- IB_CGE (R103): `ib.q` := 1 if a ≥ t signed, else 0. -/
def execIbCge (h : Hdr) (s : State) : Out := execTrigger .ib 0x14 h (alu .ib aluCge) s

/-- IB_CGEU (R103): `ib.q` := 1 if a ≥ t unsigned, else 0. -/
def execIbCgeu (h : Hdr) (s : State) : Out := execTrigger .ib 0x15 h (alu .ib aluCgeu) s

/-- IB_SEL (R104): `ib.q` := a if t is nonzero, otherwise b. -/
def execIbSel (h : Hdr) (s : State) : Out := execTrigger .ib 0x16 h (alu .ib aluSel) s

/-- IB_POPC (R105): `ib.q` := the number of set bits of t. -/
def execIbPopc (h : Hdr) (s : State) : Out := execTrigger .ib 0x17 h (alu .ib aluPopc) s

/-- IB_CLZ (R105): `ib.q` := the number of zero bits above the highest set bit of t, 64 for 0. -/
def execIbClz (h : Hdr) (s : State) : Out := execTrigger .ib 0x18 h (alu .ib aluClz) s

/-- IB_CTZ (R105): `ib.q` := the number of zero bits below the lowest set bit of t, 64 for 0. -/
def execIbCtz (h : Hdr) (s : State) : Out := execTrigger .ib 0x19 h (alu .ib aluCtz) s

/-- IB_EXT (R106): `ib.q` := the field of a that t names, sign-extended. -/
def execIbExt (h : Hdr) (s : State) : Out := execTrigger .ib 0x1A h (alu .ib aluExt) s

/-- IB_EXTU (R106): `ib.q` := the field of a that t names, zero-extended. -/
def execIbExtu (h : Hdr) (s : State) : Out := execTrigger .ib 0x1B h (alu .ib aluExtu) s

/-- IB_INS (R106): `ib.q` := a with the field that t names replaced by the low bits of b. -/
def execIbIns (h : Hdr) (s : State) : Out := execTrigger .ib 0x1C h (alu .ib aluIns) s

/-- IB_SXB (R105): `ib.q` := SEXT(t, 8). -/
def execIbSxb (h : Hdr) (s : State) : Out := execTrigger .ib 0x20 h (alu .ib aluSxb) s

/-- IB_SXH (R105): `ib.q` := SEXT(t, 16). -/
def execIbSxh (h : Hdr) (s : State) : Out := execTrigger .ib 0x21 h (alu .ib aluSxh) s

/-- IB_SXW (R105): `ib.q` := SEXT(t, 32). -/
def execIbSxw (h : Hdr) (s : State) : Out := execTrigger .ib 0x22 h (alu .ib aluSxw) s

/-- IB_ZXB (R105): `ib.q` := ZEXT(t, 8). -/
def execIbZxb (h : Hdr) (s : State) : Out := execTrigger .ib 0x23 h (alu .ib aluZxb) s

/-- IB_ZXH (R105): `ib.q` := ZEXT(t, 16). -/
def execIbZxh (h : Hdr) (s : State) : Out := execTrigger .ib 0x24 h (alu .ib aluZxh) s

/-- IB_ZXW (R105): `ib.q` := ZEXT(t, 32). -/
def execIbZxw (h : Hdr) (s : State) : Out := execTrigger .ib 0x25 h (alu .ib aluZxw) s

/-- IB_ADDW (R107): `ib.q` := SEXT(a + t, 32). -/
def execIbAddw (h : Hdr) (s : State) : Out := execTrigger .ib 0x28 h (alu .ib aluAddw) s

/-- IB_SUBW (R107): `ib.q` := SEXT(a − t, 32). -/
def execIbSubw (h : Hdr) (s : State) : Out := execTrigger .ib 0x29 h (alu .ib aluSubw) s

/-- IB_SLLW (R107): `ib.q` := the low word of a shifted left by BITS(t, 4, 0), sign-extended. -/
def execIbSllw (h : Hdr) (s : State) : Out := execTrigger .ib 0x2A h (alu .ib aluSllw) s

/-- IB_SRLW (R107): `ib.q` := the low word of a shifted right by BITS(t, 4, 0), zeros in, then sign-extended. -/
def execIbSrlw (h : Hdr) (s : State) : Out := execTrigger .ib 0x2B h (alu .ib aluSrlw) s

/-- IB_SRAW (R107): `ib.q` := the low word of a shifted right by BITS(t, 4, 0), copies of bit 31 in, sign-extended. -/
def execIbSraw (h : Hdr) (s : State) : Out := execTrigger .ib 0x2C h (alu .ib aluSraw) s

end Sys2Proof.Machine
end

