-- ==== Sys2Proof/Machine/Fetch.lean ====
section
/-! DEFINITION. Instruction fetch (spec/12_memory.md R314 to R316; spec/03_encoding.md R86): the words a slot fetches, and the
lines its caches hold. -/

set_option autoImplicit false
set_option Elab.async false

namespace Sys2Proof.Machine

/-- The line of a list of cached lines for an address space and a line address (R315). -/
def findLine (ls : List CodeLine) (asid va : Nat) : Option CodeLine := ls.find? fun l => l.asid == asid && l.va == va

/-- Puts a line into a cache of `n` lines in place of an older one of the same address; the line filled longest ago drops out (log 23). -/
def putLine (n : Nat) (ls : List CodeLine) (l : CodeLine) : List CodeLine :=
  (l :: ls.filter fun k => !(k.asid == l.asid && k.va == l.va)).take n

/-- Key of a cluster's code cache: physical die and cluster. -/
def clusterKey (id : CoreId) : Nat := id.die * 4 + clusterOf id.idx

/-- The cluster cache's line, which only compute cores have (R314). -/
def State.clusterLine (s : State) (va : Nat) : Option CodeLine :=
  if s.coreId.kind == .compute then findLine (look [] s.ccache (clusterKey s.coreId)) s.asid va else none

/-- The translation of a fetch by the slot in focus (R314, R458): X, and U at user level. -/
def State.fetchHome (s : State) (va : Nat) : Except XlatErr Home :=
  s.translate (s.core.tlb ++ s.dieTlb s.coreId.die) s.asid s.vf va .fetch (s.sl.priv == 0)

/-- The sixteen words of a line as memory holds them, read as one access (R316). -/
def State.lineWords (s : State) (h : Home) : List HWord := wordsOfBytes (s.readHome h 64)

/-- FETCH_BEYOND stops a fetch of a word by a slot at user level (R44, R314). -/
def State.beyond (s : State) (va : Nat) : Bool := s.sl.priv == 0 && decide (bits s.sl.csr.codelim 51 0 ≤ va)

/-- What a fetch of the word at an address comes to: the word, a miss of both caches, or a trap code (R314). A core that holds
no context has no address space: it can only issue what its cache holds (log 9). -/
inductive FetchRes where
  | word (w : HWord)
  | miss
  | trap (code : Nat)
  deriving DecidableEq, Repr

/-- Fetches one word for the slot in focus (R314, R315). -/
def State.fetchWord (s : State) (va : Nat) : FetchRes :=
  if s.beyond va then .trap 0x04
  else
    let ok : Bool := match s.record?, s.fetchHome va with
      | none, _ => true
      | some _, .ok _ => decide (va < 2 ^ 52)
      | some _, .error _ => false
    if !ok then .trap 0x05
    else if s.core.badLines.contains (s.asid, va / 64 * 64) then .trap 0x05
    else match findLine s.core.icache s.asid (va / 64 * 64) with
      | some l => .word (l.words.getD (va / 4 % 16) 0)
      | none => match s.record? with
        | none => .trap 0x05
        | some _ => .miss

/-- A line comes from memory into the caches of the core in focus (R314 to R316): 256 lines of the core, 16,384 of the cluster. It takes the
place of one that held an error. -/
def State.loadLine (s : State) (va : Nat) : State :=
  match s.fetchHome va with
  | .error _ => s
  | .ok h =>
    let l : CodeLine := ⟨s.asid, va, s.lineWords h⟩
    let s1 := s.onCore fun c => { c with icache := putLine 256 c.icache l, badLines := c.badLines.filter fun b => b != (s.asid, va) }
    if s.coreId.kind == .compute then
      { s1 with ccache := put s1.ccache (clusterKey s.coreId) (putLine 16384 (look [] s1.ccache (clusterKey s.coreId)) l) }
    else s1

/-- A line fill of the slot in focus (R315, R316): from the cluster cache, else from memory. -/
def State.fillLine (s : State) (va : Nat) : State :=
  match s.clusterLine va with
  | some l => s.onCore fun c => { c with icache := putLine 256 c.icache l }
  | none => s.loadLine va

/-- A word of code as the fetch would see it, filled if need be; none where the fetch would trap. -/
def State.peekWord (s : State) (va : Nat) : Option HWord :=
  match s.fetchWord va with
  | .word w => some w
  | .trap _ => none
  | .miss => match (s.fillLine (va / 64 * 64)).fetchWord va with
    | .word w => some w
    | _ => none

/-- Lines of the address space of code: no run of line pads is longer. -/
def allLines : Nat := 2 ^ 46

/-- The address of the bundle at or after an address, line pads skipped (R86), and its words to the line's end. -/
def State.bundleAt (s : State) : Nat → Nat → Option (Nat × List HWord)
  | 0, _ => none
  | fuel + 1, va =>
    match s.peekWord va with
    | none => none
    | some w =>
      if w == padWord then State.bundleAt s fuel ((va / 64 + 1) * 64 % 2 ^ 52)
      else some (va, (List.range (16 - va / 4 % 16)).map fun i => (s.peekWord (va + 4 * i)).getD 0)

/-- The addresses of `n` bundles in code order from an address on, as far as they can be found (R127). -/
def State.bundleAddrs (s : State) : Nat → Nat → List Nat
  | 0, _ => []
  | n + 1, va =>
    match s.bundleAt allLines va with
    | none => []
    | some (a, ws) => a :: State.bundleAddrs s n (a + 4 * (scanBundle ws).read)

/-- The bundle after the one at an address, in code order; a bundle that cannot be found has no length but its first word's. At a line pad
the bundle behind the pads stands for the one at the address (log 105). -/
def State.bundleAfter (s : State) (va : Nat) : Nat :=
  match s.bundleAt allLines va with
  | some (a, ws) => a + 4 * (scanBundle ws).read
  | none => va + 4

end Sys2Proof.Machine
end

