-- ==== Sys2Proof/Machine/Control.lean ====
section
/-! DEFINITION. The control unit `cf` (spec/04_scalar_control_ops.md R121 to R130), loop levels (spec/01 R30 to R32) and the
repetition buffer (R33, R34). -/

set_option autoImplicit false
set_option Elab.async false

namespace Sys2Proof.Machine

/-! ## Branches (R32, R34, R123) -/

/-- A taken branch to `target` leaves the loop levels whose body does not hold the target (R32) and ends repetition (R34). -/
def Slot.branchLoops (t : Slot) (target : Word) : Slot :=
  let inside := fun b e : Word => b.ule target && target.ule e
  let la1 := t.la1 && inside t.csr.lb1 t.csr.le1
  let la0 := t.la0 && inside t.csr.lb0 t.csr.le0 && (!t.la1 || la1)
  (t.setLA la1 la0).setAct false

/-- A taken branch, jump or call (R123): MISALIGN where the target is no multiple of 4; else the next bundle issues from the
target after a bubble of two core cycles. `q` is what `cf.q` receives. -/
def State.branch (s : State) (target q : Word) : Res :=
  if bits target 1 0 != 0 then .trap trapMisalign target
  else .ok (((((s.complete .cf q 0).onSl fun t => { t.branchLoops target with npc := target, flow := .branch, bubble := 2 }).count
    12).trace 2 target))

/-- `br` (R123). -/
def cfBr (s : State) : Res := s.branch (s.sl.pc + (s.lat .cf).t) 0

/-- `jmp` (R123). -/
def cfJmp (s : State) : Res := s.branch (s.lat .cf).t 0

/-- `call` (R123): `cf.q` receives NEXT. -/
def cfCall (s : State) : Res := s.branch (s.lat .cf).t s.sl.npc

/-! ## Loop levels (R30, R31, R124, R125) -/

/-- The level-1 end check of R31 after the bundle at `a`; where it does not loop back, execution goes on at `after`. -/
def Slot.endCheck1 (t : Slot) (a after : Word) : Slot × Word :=
  if t.la1 && t.csr.le1 == a then
    let n := w64 (bits (t.csr.lc1 - 1) 31 0)
    let t1 := t.onCsr fun c => { c with lc1 := n }
    if n != 0 then (t1, t1.csr.lb1) else (t1.setLA false t1.la0, after)
  else (t, after)

/-- The end checks of R31 after the bundle at `a`: level 0, then level 1. -/
def Slot.endChecks (t : Slot) (a after : Word) : Slot × Word :=
  if t.la0 && t.csr.le0 == a then
    let n := w64 (bits (t.csr.lc0 - 1) 31 0)
    let t1 := t.onCsr fun c => { c with lc0 := n }
    if n != 0 then (t1, t1.csr.lb0) else (t1.setLA t1.la1 false).endCheck1 a after
  else t.endCheck1 a after

/-- `loop0` and `loop1` (R124, R125). E is taken modulo 2^64 (DESIGN CHOICE, log 117). -/
def cfLoop (level1 : Bool) (s : State) : Res :=
  let t := s.sl
  let l := s.lat .cf
  let next := t.npc
  let e := t.pc + l.t
  if t.repActive then .trap trapIllegalOp l.t
  else if bits e 1 0 != 0 then .trap trapMisalign e
  else if e.ult next then .trap trapIllegalOp l.t
  else if 0xFFFFFFFF < l.a.toNat then .trap trapIllegalOp l.a
  else if !level1 && t.la1 && (next.ult t.csr.lb1 || t.csr.le1.ult e) then .trap trapIllegalOp l.t
  else
    let s1 := (s.complete .cf 0 0).onSl fun t =>
      let t1 := t.onCsr fun c => if level1 then { c with lb1 := bundleAddr next, le1 := bundleAddr e, lc1 := l.a }
        else { c with lb0 := bundleAddr next, le0 := bundleAddr e, lc0 := l.a }
      let on := l.a != 0
      let t2 := if level1 then t1.setLA on false else t1.setLA t1.la1 on
      { t2 with flow := .loopSet }
    if l.a != 0 then .ok s1
    else
      let after := w64 (s.bundleAfter e.toNat)
      .ok (s1.onSl fun t =>
        let (t1, to_) := if level1 then (t, after) else t.endCheck1 e after
        { t1 with npc := to_, bubble := 2 })

/-! ## Repetition (R33, R34, R127, R128) -/

/-- `rep` (R127). -/
def cfRep (s : State) : Res :=
  let t := s.sl
  let l := s.lat .cf
  let base := bits l.a 4 0
  let size := bits l.a 13 8
  let body := s.bundleAddrs (bits l.t 3 0 + 1) t.npc.toNat
  if t.repActive then .trap trapIllegalOp l.t
  else if bits l.a 63 19 != 0 || bits l.a 15 14 != 0 || bits l.a 7 5 != 0 then .trap trapIllegalOp l.a
  else if bits l.t 63 28 != 0 || bits l.t 15 4 != 0 then .trap trapIllegalOp l.t
  else if size != 0 && (base == 0 || 32 < base + size) then .trap trapIllegalOp l.a
  else if (t.la0 && body.contains t.csr.le0.toNat) || (t.la1 && body.contains t.csr.le1.toNat) then .trap trapIllegalOp l.t
  else .ok ((s.complete .cf 0 0).onSl fun t =>
    { t.onCsr (fun c => { c with
        rpb := bundleAddr t.npc
        rpc := w64 (2 ^ 63 + base * 2 ^ 58 + size * 2 ^ 52 + bits l.a 18 16 * 2 ^ 49 + bits l.t 3 0 * 2 ^ 44 +
          bits l.t 27 16 * 2 ^ 24) }) with flow := .loopSet, rep := [] })

/-- `brk` (R130, R484): the bundle completes and BREAK follows, unless the debug module catches it. -/
def cfBrk (s : State) : Res :=
  let ctl := s.reg (.dctl s.coreId)
  if bit ctl 15 && bit ctl 14 then .halt
  else .ok ((s.complete .cf 0 0).onSl fun t => { t with after := some (0x0E, (t.lat .cf).t) })

/-- The operation of an opcode of `cf` (R121). -/
def cfOp (opc : Nat) : Option (State → Res) :=
  match opc with
  | 0x01 => some cfBr | 0x02 => some cfJmp | 0x03 => some cfCall | 0x08 => some (cfLoop false) | 0x09 => some (cfLoop true)
  | 0x0A => some cfRep | 0x0F => some cfBrk
  | _ => none

/-! ## The instructions -/

/-- CF_BR (R123): a branch by an offset. -/
def execCfBr (h : Hdr) (s : State) : Out := execTrigger .cf 0x01 h cfBr s

/-- CF_JMP (R123): a jump to an address. -/
def execCfJmp (h : Hdr) (s : State) : Out := execTrigger .cf 0x02 h cfJmp s

/-- CF_CALL (R123): a jump that leaves NEXT in `cf.q`. -/
def execCfCall (h : Hdr) (s : State) : Out := execTrigger .cf 0x03 h cfCall s

/-- CF_LOOP0 (R124): sets loop level 0. -/
def execCfLoop0 (h : Hdr) (s : State) : Out := execTrigger .cf 0x08 h (cfLoop false) s

/-- CF_LOOP1 (R124): sets loop level 1. -/
def execCfLoop1 (h : Hdr) (s : State) : Out := execTrigger .cf 0x09 h (cfLoop true) s

/-- CF_REP (R127): starts the repetition buffer. -/
def execCfRep (h : Hdr) (s : State) : Out := execTrigger .cf 0x0A h cfRep s

/-- CF_BRK (R130): a software breakpoint. -/
def execCfBrk (h : Hdr) (s : State) : Out := execTrigger .cf 0x0F h cfBrk s

/-! ## The ends of bundles as events -/

/-- LOOP_END_CHECK (R31): after the completed bundle at the slot's pc, its count is decremented and execution loops back, or the level
ends. A bundle that branched, set a loop or trapped makes none, and none makes two. -/
def execLoopEndCheck (s : State) : Out :=
  if s.sl.flow == .seq && !s.sl.repActive then
    .next (s.onSl fun t => let (t1, next) := t.endChecks t.pc t.npc; { t1 with npc := next, flow := .loopSet })
  else .next s

/-- REPETITION_END (R128): after a body bundle, POS and PASS move on; after the last bundle of the last pass repetition ends. -/
def execRepetitionEnd (s : State) : Out :=
  if s.sl.repActive && s.sl.flow == .seq then .next (s.repetitionEnd.onSl fun t => { t with flow := .loopSet }) else .next s

end Sys2Proof.Machine
end

