-- ==== Sys2Proof/Machine/Berths.lean ====
section
/-! DEFINITION. Berths (spec/07_engine_ops.md R205; spec/05_scratchpad_ops.md R151 to R153; spec/12_memory.md R311): their indices,
their descriptors in memory, the ends they name, and the waits that an index update releases. -/

set_option autoImplicit false
set_option Elab.async false

namespace Sys2Proof.Machine

/-- Slots filled: (PI − CI) mod 2^32 (R152). -/
def Berth.filled (b : Berth) : Nat := (b.pi + 2 ^ 32 - b.ci) % 2 ^ 32

/-- Slots free: N − filled (R152). -/
def Berth.space (b : Berth) : Nat := b.n - b.filled

/-- Offset of the slot of an index (R152). -/
def Berth.slotOff (b : Berth) (i : Nat) : Nat := b.base + i % b.n * b.slotb

/-- The 32 bytes of a declared descriptor (R205). -/
def Berth.bytes (b : Berth) : List Byte :=
  leBytes 4 b.base ++ leBytes 4 b.slotb ++ leBytes 4 b.n ++ leBytes 4 b.pi ++ leBytes 4 b.ci ++ leBytes 4 b.prod ++
    leBytes 4 b.cons ++ leBytes 4 b.flags

/-- A descriptor read from memory (R205). -/
def berthOf (bs : List Byte) : Berth :=
  let f := fun i => leNat ((bs.drop (4 * i)).take 4)
  ⟨f 0, f 1, f 2, f 3, f 4, f 5, f 6, f 7⟩

/-- Whether a descriptor obeys the limits of R205. -/
def Berth.ok (b : Berth) : Bool :=
  let cls := fun p => p / 2 ^ 16 % 16
  b.base % 32 == 0 && b.slotb % 32 == 0 && decide (32 ≤ b.slotb) && decide (1 ≤ b.n) &&
    decide (b.base + b.n * b.slotb ≤ 0x2C000) && decide (b.filled ≤ b.n) &&
    decide (b.prod < 2 ^ 24) && [0, 1, 2, 7, 12].contains (cls b.prod) &&
    decide (b.cons < 2 ^ 24) && [0, 1, 2].contains (cls b.cons) && decide (b.flags < 2)

/-- Offset of the descriptor of a berth (R309). -/
def descriptorOff (b : Nat) : Nat := 0x2C800 + 32 * b

/-- A declared berth of a core. -/
def State.berthAt (s : State) (c : CoreId) (b : Nat) : Option Berth := (s.coreAt c).berths[(Fin.ofNat 16 b)]

/-- A thread party is a slot of the core in focus, slot bits aside (R152). -/
def State.isMyCore (s : State) (party : Nat) : Bool := party / 4 == s.party / 4

/-- The core that a berth handle names: the core in focus, or the one with index CORE (R151). -/
def State.handleCore (s : State) (t : Word) : CoreId := if bit t 8 then s.clusterCore (bits t 23 16) else s.coreId

/-- The wait on a berth that an index update satisfies is handed PI × 2^32 + CI (R152). -/
def State.wakeBerth (s : State) (c : CoreId) (b : Nat) (d : Berth) : State :=
  s.mapSlots fun id _ t =>
    match t.wait with
    | none => t
    | some x =>
      if x.unit == FU.ls && x.opc == 0x40 then
        let l := t.lat .ls
        let here := (if bit l.t 8 then { id with idx := coreOfIndex (clusterOf id.idx) (bits l.t 23 16) } else id) == c
        let enough := if bit l.a 16 then decide (bits l.a 15 0 ≤ d.space) else decide (bits l.a 15 0 ≤ d.filled)
        if here && bits l.t 3 0 == b && enough then t.hand (w64 (d.pi * 2 ^ 32 + d.ci)) else t
      else t

/-- Sets a berth's indices: the descriptor in memory shows them (R311), and the waits they satisfy are released (R152). Each index is four bytes,
half of a doubleword, so the tags stay (R147). -/
def State.setBerth (s : State) (c : CoreId) (b : Nat) (d : Berth) : State :=
  ((s.onCoreAt c fun m => { m with berths := m.berths.set (Fin.ofNat 16 b) (some d),
                                   mem := m.mem.write (descriptorOff b) d.bytes })).wakeBerth c b d

/-- PI moves on by `n` (R152). -/
def State.advancePi (s : State) (c : CoreId) (b n : Nat) : State :=
  match s.berthAt c b with
  | some d => s.setBerth c b { d with pi := (d.pi + n) % 2 ^ 32 }
  | none => s

/-- CI moves on by `n` (R152). -/
def State.advanceCi (s : State) (c : CoreId) (b n : Nat) : State :=
  match s.berthAt c b with
  | some d => s.setBerth c b { d with ci := (d.ci + n) % 2 ^ 32 }
  | none => s

/-- The wait object of a berth: CORE × 2^8 + BERTH (R152). -/
def State.berthObject (s : State) (c : CoreId) (b : Nat) : Nat := (s.coreAt c).cidx * 2 ^ 8 + b

/-! ## Pushes and pulls on their way (R198, R319) -/

/-- Finishes a push: its bytes are written, the berth's PI moves on and the counter is incremented. A write into a berth waits for a
range lock that it would meet (R319). -/
def State.finishPush (s : State) (p : Copy) : State :=
  if p.berth.isSome && ((s.coreAt p.dst).conflict p.off p.bytes.length true).isSome then s
  else
    let s1 : State := { s with pushes := s.pushes.erase p }
    let s2 := s1.writeCore p.dst p.off p.bytes
    let s3 := match p.berth with
      | some (c, b) => s2.advancePi c b 1
      | none => s2
    match p.ctr with
    | some n => s3.addCtr p.src.die n 1
    | none => s3

/-- Finishes a pull: its bytes are written to staging memory, the berth's CI moves on and the counter is incremented. -/
def State.finishPull (s : State) (p : Copy) : State :=
  let s1 : State := { s with pulls := s.pulls.erase p }
  let s2 := s1.writeCore p.dst p.off p.bytes
  let s3 := match p.berth with
    | some (c, b) => s2.advanceCi c b 1
    | none => s2
  match p.ctr with
  | some n => s3.addCtr p.src.die n 1
  | none => s3

/-- The copy is one of the slot in focus. -/
def State.isMine (s : State) (p : Copy) : Bool := p.src == s.coreId && p.slot == s.core.cur.val

/-- Finishes the pushes of the slot in focus. -/
def State.flushPushes (s : State) : State := (s.pushes.filter s.isMine).foldl State.finishPush s

/-- Finishes the pulls of the slot in focus. -/
def State.flushPulls (s : State) : State := (s.pulls.filter s.isMine).foldl State.finishPull s

/-- Goes on once every buffered store, push and pull of the slot in focus has been performed (R146, R197, R198); stalls while a push
is held. -/
def State.ordered (s : State) (k : State → Res) : Res :=
  let s1 := s.flushPulls.flushPushes
  if s1.pushes.any s.isMine then .stall else k s1.drain.seeAll

end Sys2Proof.Machine
end

