-- ==== Sys2Proof/Machine/MatrixMath.lean ====
section
/-! DEFINITION. Matrix arithmetic (spec/02_numbers.md R71 to R75): chunks of products into F32 accumulators, LUT groups and the
semirings. An accumulator element is the number its 32 bits stand for. -/

set_option autoImplicit false
set_option Elab.async false

namespace Sys2Proof.Machine

/-- Chunk length for the narrower of two operand formats (R71). -/
def chunkLen (fa fb : Nat) : Nat :=
  let w := min (formatBits fa) (formatBits fb)
  if w ≤ 4 then 64 else if w == 8 then 32 else if w == 16 then 16 else 8

/-- The exact value of an element code of a format (R48 to R52). -/
def elementValue (f x : Nat) : FVal :=
  match ffmtOf f with
  | some g => decF g x
  | none => intVal (intValue f x)

/-- Cuts a list into pieces of `n`. -/
def chunksOf {α : Type} (n : Nat) : Nat → List α → List (List α)
  | 0, _ => []
  | fuel + 1, l => if l.isEmpty then [] else l.take n :: chunksOf n fuel (l.drop n)

/-- Adds an F32 value to an accumulator element by `rne` (R73). -/
def accAdd (acc : Lane) (s : Lane) : Lane :=
  let (v, g) := fadd .f32 .rne 0 acc.1 s.1
  (v, acc.2 ||| s.2 ||| g)

/-- The infinities among products: whether +∞ and −∞ stand there. -/
def infinities (ps : List Prod) : Bool × Bool :=
  (ps.any fun p => p == .inf false, ps.any fun p => p == .inf true)

/-- The flags of the NaN products. -/
def nanFlags (ps : List Prod) : Nat :=
  ps.foldl (fun acc p => match p with
    | .nan g => acc ||| g
    | _ => acc) 0

/-- The exact sum of the finite products, n × 2^e. -/
def finiteSum (ps : List Prod) : Int × Int :=
  ps.foldl (fun acc p => match p with
    | .fin n m e => exactSum acc.1 acc.2 (signed n m) e
    | _ => acc) (0, 0)

/-- The sum of a chunk's products, rounded once to F32 (R73). -/
def chunkSum (ps : List Prod) : Lane :=
  let (pos, neg) := infinities ps
  if (ps.any fun p => match p with | .nan _ => true | _ => false) || (pos && neg) then
    (FFmt.f32.nan, nanFlags ps ||| if pos && neg then fNV else 0)
  else if pos || neg then (FFmt.f32.sign neg + FFmt.f32.infBits, 0)
  else
    let (n, e) := finiteSum ps
    roundFin .f32 .rne false 0 (n < 0) n.natAbs e

/-- MMAC over a run of elements that starts at a chunk boundary (R73). -/
def mmac (len : Nat) (acc : Nat) (a w : List FVal) : Lane :=
  (chunksOf len (a.length + 1) (a.zip w)).foldl (fun r ch => accAdd r (chunkSum (ch.map fun p => mulV p.1 p.2))) (acc, 0)

/-- MMAC over one CQ4 block: the chunk sum times the superscale and 2^−18 (R73). -/
def mmacCq4 (acc : Nat) (a : List FVal) (codes : List Nat) (scale sup : Nat) : Lane :=
  let s := chunkSum ((a.zip codes).map fun p => mulV p.1 (intVal (cq4Code p.2 * scale)))
  let t := scaleF32 (decF .f32 s.1) (-18) sup
  accAdd (acc, 0) (t.1, s.2 ||| t.2)

/-- The table of a run of four activations (R74): entry n adds the activation of n's highest bit to the entry below it. -/
def lutTable (a : List Nat) : List Lane :=
  (List.range 15).foldl (fun t i =>
    let n := i + 1
    let h := Nat.log2 n
    t ++ [accAdd (t.getD (n - 2 ^ h) (0, 0)) (a.getD h 0, 0)]) [(0, 0)]

/-- ±2^k × x + ±2^j × y of two F32 values, rounded once. -/
def scaledSum (kx : Int) (x : Nat) (negx : Bool) (ky : Int) (y : Nat) (negy : Bool) : Lane :=
  addProd .f32 .rne 0 0 (mulV (decF .f32 x) (.fin negx 1 kx)) (mulV (decF .f32 y) (.fin negy 1 ky))

/-- The contribution of one group of four weights (R74): BIT1 (format 14) or INT2 (format 15). Every rounding of the table sets flags, as
the contribution's own does. -/
def lutGroup (fb : Nat) (a : List Nat) (w : List Nat) : Lane :=
  let t := lutTable a
  let nib := fun (f : Nat → Nat) => (w.zip (List.range 4)).foldl (fun acc p => acc + f p.1 * 2 ^ p.2) 0
  let val := fun (i : Nat) => (t.getD i (0, 0)).1
  let r := if fb == 14 then scaledSum 1 (val (nib id)) false 0 (val 15) true
    else scaledSum 0 (val (nib fun c => c % 2)) false 1 (val (nib fun c => c / 2 % 2)) true
  (r.1, joinFlags (t.map (·.2)) ||| r.2)

/-- An activation converted exactly to F32 (R74, R75). -/
def toF32 (f x : Nat) : Lane := if f == 8 then (x, 0) else convert f 8 .rne false 0 x

/-- LUT mode over a run of up to 64 elements, one chunk (R74). -/
def lutChunk (fa fb : Nat) (acc : Nat) (a w : List Nat) : Lane :=
  let xs := a.map (toF32 fa)
  let groups := (chunksOf 4 17 (xs.map (·.1))).zip (chunksOf 4 17 w)
  let s := groups.foldl (fun r g => accAdd r (lutGroup fb g.1 g.2)) (0, joinFlags (xs.map (·.2)))
  accAdd (acc, 0) s

/-- Minimum or maximum that propagates NaN (R75). -/
def semiPick (max? : Bool) (a b : Nat) : Lane :=
  let x := decF .f32 a
  let y := decF .f32 b
  if x.isNan || y.isNan then (FFmt.f32.nan, x.snan ||| y.snan) else fminmax .f32 max? a b

/-- ⊗ of a semiring: 0 min-plus, 1 max-plus, 2 max-times, 3 or-and (R75). -/
def semiTerm (sop a w : Nat) : Lane :=
  match sop with
  | 0 | 1 => fadd .f32 .rne 0 a w
  | 2 => fmul .f32 .rne 0 a w
  | _ => (if a == 1 && w == 1 then 0x3F800000 else 0, 0)

/-- ⊕ of a semiring. -/
def semiJoin (sop a b : Nat) : Lane :=
  match sop with
  | 0 => semiPick false a b
  | 1 | 2 => semiPick true a b
  | _ => (if a != 0 || b != 0 then 0x3F800000 else 0, 0)

/-- The ⊕ identity (R191). -/
def semiIdentity (sop : Nat) : Nat :=
  match sop with
  | 0 => 0x7F800000
  | 1 | 2 => 0xFF800000
  | _ => 0

/-- ⊕ of two results with their flags. -/
def semiAdd (sop : Nat) (x y : Lane) : Lane :=
  let r := semiJoin sop x.1 y.1
  (r.1, x.2 ||| y.2 ||| r.2)

/-- An operand of a semiring command: F32 or BF16 as F32, BIT1 as its bit. -/
def semiValue (f x : Nat) : Lane := if f == 14 then (x, 0) else toF32 f x

/-- A semiring over a run of elements that starts at a chunk boundary (R75). -/
def semiRun (sop fa fb acc : Nat) (a w : List Nat) : Lane :=
  (chunksOf (chunkLen fa fb) (a.length + 1) (a.zip w)).foldl (fun r ch =>
    match ch.map fun p =>
      let x := semiValue fa p.1
      let y := semiValue fb p.2
      let z := semiTerm sop x.1 y.1
      (z.1, x.2 ||| y.2 ||| z.2) with
    | [] => r
    | t :: ts => semiAdd sop r (ts.foldl (semiAdd sop) t)) (acc, 0)

end Sys2Proof.Machine
end

