-- ==== Sys2Proof/Machine/Matrix.lean ====
section
/-! DEFINITION. The matrix port `mx` (spec/07_engine_ops.md R182 to R193; spec/03 R90, R91): the checks at the trigger, acceptance
into the core's command queue, and range locks. -/

set_option autoImplicit false
set_option Elab.async false

namespace Sys2Proof.Machine

/-! ## Fields of a command (R184, R185) -/

/-- M, the rows. -/
def MCmd.rows (m : MCmd) : Nat := bits m.c 47 40 + 1
/-- N, the columns. -/
def MCmd.cols (m : MCmd) : Nat := bits m.c 37 32 + 1
/-- K. -/
def MCmd.inner (m : MCmd) : Nat := bits m.c 63 48
/-- SBASE. -/
def MCmd.sbase (m : MCmd) : Nat := bits m.c 31 16
/-- SOP. -/
def MCmd.sop (m : MCmd) : Nat := bits m.c 13 12
/-- ACC. -/
def MCmd.accSlot (m : MCmd) : Nat := bits m.c 11 8
/-- ZA. -/
def MCmd.za (m : MCmd) : Bool := bit m.c 5
/-- CLR. -/
def MCmd.clr (m : MCmd) : Bool := bit m.c 4
/-- CE. -/
def MCmd.ce (m : MCmd) : Bool := bit m.t 24
/-- CTR. -/
def MCmd.ctr (m : MCmd) : Nat := bits m.t 11 0
/-- Format of P. -/
def MCmd.fmtP (m : MCmd) : Nat := bits m.p 63 59
/-- Format of Q. -/
def MCmd.fmtQ (m : MCmd) : Nat := bits m.q 63 59

/-- ⌈n × width / 8⌉ (R185). -/
def rowBytes (n f : Nat) : Nat := (n * formatBits f + 7) / 8

/-- Bytes of a scale image (R190). -/
def scaleImage (n k : Nat) : Nat := 4 * ((n * k + 255) / 256) + 4 * n

/-- How a class uses an operand word: not at all, as an operand, as raw data, or, in `mbar`, as a mask. -/
inductive MUse where
  | no | operand | raw | mask
  deriving DecidableEq, Repr

/-- How P and Q are used by a class (R185). -/
def mxUse (cls : Nat) : MUse × MUse :=
  match cls with
  | 1 | 2 | 3 => (.operand, .operand)
  | 4 => (.no, .no)
  | 5 | 6 | 9 => (.operand, .no)
  | 7 => (.operand, .raw)
  | _ => (.mask, .no)

/-- The bits of `.c` that a class may set (R185). -/
def mxMaskC (cls fmtQ : Nat) : Word :=
  let dims := 0xFF * 2 ^ 40 + 0x3F * 2 ^ 32
  let acc := 0xF * 2 ^ 8
  w64 (match cls with
    | 1 => 0xFFFF * 2 ^ 48 + dims + acc + 2 ^ 5 + if fmtQ == 13 then 0xFFFF * 2 ^ 16 else 0
    | 2 => 0xFFFF * 2 ^ 48 + dims + acc + 2 ^ 5
    | 3 => 0xFFFF * 2 ^ 48 + dims + acc + 2 ^ 5 + 3 * 2 ^ 12
    | 4 | 5 => dims + acc
    | 6 => dims + acc + 2 ^ 4 + 2 ^ 3 + 7
    | 7 => 0xFFFF * 2 ^ 48 + 0x3F * 2 ^ 32 + 0xFFFF * 2 ^ 16
    | 9 => 2 ^ 4
    | _ => 0)

/-- The bits of `.t` that a class may set (R185). -/
def mxMaskT (cls : Nat) : Word :=
  let done := 2 ^ 24 + 0xFFF
  w64 (match cls with
    | 1 | 2 | 3 => 0xFFFFFFFF * 2 ^ 32 + 2 ^ 27 + 2 ^ 26 + done
    | 5 | 6 => 2 ^ 26 + done
    | _ => done)

/-- An unused field of an operand word is set (R186, item 1). -/
def useBad (u : MUse) (w : Word) : Bool :=
  match u with
  | .no => w != 0
  | .operand => bits w 55 48 != 0
  | .raw => false
  | .mask => bits w 63 8 != 0

/-- Formats of P by class (R185). -/
def mxFmtP (cls sop : Nat) : List Nat :=
  match cls with
  | 1 => [1, 2, 11, 12, 9, 10, 6, 7, 8]
  | 2 => [1, 2, 9, 10, 6, 7, 8]
  | 3 => if sop == 3 then [14] else [8, 7]
  | 5 => [8]
  | 6 => [8, 7, 6, 9, 10, 1, 4]
  | _ => [0]

/-- Formats of Q by class. -/
def mxFmtQ (cls sop : Nat) : List Nat :=
  match cls with
  | 1 => [1, 2, 11, 12, 9, 10, 6, 7, 8, 13]
  | 2 => [14, 15]
  | _ => if sop == 3 then [14] else [8, 7]

/-- A TAG that its class does not allow (R186, item 2). -/
def tagWrong (w : Word) (fs : List Nat) : Bool :=
  !fs.contains (bits w 63 59) || bits w 58 56 != (if bits w 63 59 == 13 then 3 else 0)

/-- The two operands as (is Q, word, count, row bytes, is a source, is a berth) (R185, R189). -/
def MCmd.operands (m : MCmd) : List (Bool × Word × Nat × Nat × Bool × Bool) :=
  match m.cls with
  | 1 | 2 | 3 => [(false, m.p, m.rows, rowBytes m.inner m.fmtP, true, bit m.t 26),
                  (true, m.q, m.cols, rowBytes m.inner m.fmtQ, true, bit m.t 27)]
  | 5 => [(false, m.p, m.rows, rowBytes m.cols 8, true, bit m.t 26)]
  | 6 => [(false, m.p, m.rows, rowBytes m.cols m.fmtP, false, bit m.t 26)]
  | 7 => [(false, m.p, 1, 32, true, false)]
  | 9 => [(false, m.p, 1, 32, false, false)]
  | _ => []

/-- The length of an operand's hull (R189). -/
def hullLen (w : Word) (count rb : Nat) : Nat := (count - 1) * bits w 47 32 + rb

/-- The accumulator slots of a core's queue hold a slot (R188). -/
def MatQ.owns (q : MatQ) (slot : Nat) : Bool := decide (q.accFirst ≤ slot) && decide (slot < q.accFirst + q.accCount)

/-! ## The scale layout record (R70, R186, R190) -/

/-- The first bytes of the block scales and superscales that an `mscale` reads, and the lengths of the two arrays' hulls. -/
def MCmd.scaleSpan (m : MCmd) : (Nat × Nat) × (Nat × Nat) :=
  let d := fun i => m.layout.getD i 0
  let rl := (d 2).toNat
  let g := (rl + 16383) / 16384
  let row0 := bits m.q 63 32
  let e0 := bits m.q 31 0
  let n := m.cols
  let b0 := row0 * (rl / 64) + e0 / 64
  let b1 := (row0 + n - 1) * (rl / 64) + (e0 + m.inner - 1) / 64
  let s0 := 4 * (row0 * g + e0 / 16384)
  let s1 := 4 * ((row0 + n - 1) * g + e0 / 16384) + 4
  ((bits (d 0) 55 0 + b0, b1 + 1 - b0), (bits (d 1) 55 0 + s0, s1 - s0))

/-- The record breaks R70, or does not hold the rows and elements asked for (R186, item 6). -/
def MCmd.layoutBad (m : MCmd) : Bool :=
  let d := fun i => m.layout.getD i 0
  let rl := (d 2).toNat
  let rows := bits (d 3) 31 0
  let row0 := bits m.q 63 32
  let e0 := bits m.q 31 0
  bits (d 0) 63 56 != 0x10 || bits (d 1) 63 56 != 0x40 || rl == 0 || rl % 64 != 0 || rows == 0 || bits (d 3) 63 32 != 0 ||
    e0 % 64 != 0 || m.inner % 64 != 0 || decide (16384 < e0 % 16384 + m.inner) || decide (rl < e0 + m.inner) ||
    decide (rows < row0 + m.cols)

/-! ## Ranges (R189) -/

/-- The ranges that a command locks: core, first and last byte, write, and the address named. An `mscale` locks the two scale arrays; its
record is read at the trigger alone (R186, R190). -/
def MCmd.ranges (id : CoreId) (m : MCmd) : List (CoreId × Nat × Nat × Bool × Nat) :=
  let one := fun (adr len : Nat) (write : Bool) =>
    let (c, off) := placeOf id (w64 adr)
    (c, off, off + len - 1, write, adr)
  if m.cls == 7 then
    let (b, s) := m.scaleSpan
    [one b.1 b.2 false, one s.1 s.2 false]
  else
    (m.operands.filter fun o => !o.2.2.2.2.2).map fun o => one (bits o.2.1 31 0) (hullLen o.2.1 o.2.2.1 o.2.2.2.1) (!o.2.2.2.2.1)

/-- The checks of R135, but the range lock's, on a range of `n` bytes; `align` is 32 for operands and 1 for scale arrays. -/
def State.rangeFault (s : State) (adr n align : Nat) (writes : Bool) : Option Nat :=
  match s.spaTarget (w64 adr) with
  | .error e => some e
  | .ok (c, off) =>
    if c.kind.limit < off + n then some trapAccess
    else if 0x2D000 < off + n && s.sl.priv == 0 then some trapPriv
    else if off % align != 0 then some trapMisalign
    else if writes && (s.coreAt c).meetsDescriptor off n then some trapAccess
    else none

/-- The core and number of a berth handle of an operand (R151). -/
def State.operandBerth (s : State) (w : Word) : CoreId × Nat := (s.handleCore (w64 (bits w 31 0)), bits w 3 0)

/-- The checks of R151 on a berth operand whose required end is the core's own queue (R186, item 4). -/
def State.berthFault (s : State) (w : Word) (count rb : Nat) (source : Bool) : Option Nat :=
  let t := w64 (bits w 31 0)
  let (c, b) := s.operandBerth w
  if bits t 63 24 != 0 || bits t 15 9 != 0 || bits t 7 4 != 0 then some trapIllegalOp
  else if bit t 8 && !s.clusterInSpan (bits t 23 16) then some trapAccess
  else match s.berthAt c b with
    | none => some trapIllegalOp
    | some d =>
      if (if source then d.cons else d.prod) != queueParty s.core then some trapIllegalOp
      else if d.slotb < hullLen w count rb then some trapIllegalOp
      else none

/-- The first failing item 4 check, with its part. -/
def State.berthFaults (s : State) (m : MCmd) : Option (Nat × Word) :=
  (m.operands.filter fun o => o.2.2.2.2.2).findSome? fun (_, w, count, rb, src, _) =>
    (s.berthFault w count rb src).map fun e => (e, w)

/-- The first failing item 5 check; its `tval` is ADR for each of them. -/
def State.rangeFaults (s : State) (m : MCmd) : Option (Nat × Word) :=
  (m.operands.filter fun o => !o.2.2.2.2.2).findSome? fun (_, w, count, rb, src, _) =>
    match s.rangeFault (bits w 31 0) (hullLen w count rb) 32 (!src) with
    | some e => some (e, w64 (bits w 31 0))
    | none =>
      if bits w 47 32 % 32 != 0 || (count != 1 && decide (bits w 47 32 < rb)) then some (trapIllegalOp, w64 (bits w 31 0)) else none

/-- The scale arrays of an `mscale` (R190): each as a range that is read. R186 does not say when they are checked: after item 6, with the address of
the array's first byte as tval (DESIGN CHOICE, log 124). -/
def State.scaleFaults (s : State) (m : MCmd) : Option (Nat × Word) :=
  let (b, c) := m.scaleSpan
  match s.rangeFault b.1 b.2 1 false with
  | some e => some (e, w64 b.1)
  | none => (s.rangeFault c.1 c.2 1 false).map fun e => (e, w64 c.1)

/-- The record of an `mscale`, read as a 32-byte load of the slot (R186, item 6). -/
def State.scaleRecord (s : State) (m : MCmd) : List Word :=
  let (c, off) := placeOf s.coreId (w64 (bits m.p 31 0))
  let bs := s.loadHome (.core c off) 32
  (List.range 4).map fun i => w64 (leNat ((bs.drop (8 * i)).take 8))

/-! ## The checks (R186) -/

/-- Items 1 to 3. -/
def State.mxEarly (s : State) (m : MCmd) : Option (Nat × Word) :=
  let (up, uq) := mxUse m.cls
  let q := s.core.mq
  let scaled := m.cls == 7 || (m.cls == 1 && m.fmtQ == 13)
  let hasK := m.cls ≤ 3 || m.cls == 7
  if useBad up m.p then some (trapIllegalOp, m.p)
  else if useBad uq m.q then some (trapIllegalOp, m.q)
  else if m.c &&& ~~~mxMaskC m.cls m.fmtQ != 0 || (hasK && m.inner == 0) || (m.cls == 6 && 4 ≤ bits m.c 2 0) then
    some (trapIllegalOp, m.c)
  else if m.t &&& ~~~mxMaskT m.cls != 0 then some (trapIllegalOp, m.t)
  else if up == .operand && tagWrong m.p (mxFmtP m.cls m.sop) then some (trapFormat, m.p)
  else if uq == .operand && tagWrong m.q (mxFmtQ m.cls m.sop) then some (trapFormat, m.q)
  else if m.cls == 1 && m.fmtQ == 13 && (m.inner % 64 != 0 || 16384 < m.inner) then some (trapFormat, m.c)
  else if m.cls ≤ 6 && !q.owns m.accSlot then some (trapAccess, m.c)
  else if scaled && (m.sbase < 4096 * q.accFirst || 4096 * (q.accFirst + q.accCount) < m.sbase + scaleImage m.cols m.inner) then
    some (trapAccess, m.c)
  else if m.ce && !(match s.record? with | some r => s.granted r m.ctr | none => false) then some (trapAccess, m.t)
  else none

/-- Every check of R186, in its order. The record of an `mscale` has been read into the command. Items 6 and 7 state no tval: it is P
(DESIGN CHOICE, log 124). -/
def State.mxFault (s : State) (m : MCmd) : Option (Nat × Word) :=
  s.mxEarly m <|> s.berthFaults m <|> s.rangeFaults m <|>
    (if m.cls == 7 then (if m.layoutBad then some (trapFormat, m.p) else s.scaleFaults m) else none) <|>
    (if m.cls == 8 && bits m.p 7 0 == 0 then some (trapIllegalOp, m.p) else none)

/-! ## Acceptance (R91, R187) -/

/-- Enters a lock at the end of its scratchpad's table (R325). -/
def State.enterLock (s : State) (party seq : Nat) (r : CoreId × Nat × Nat × Bool × Nat) : State :=
  s.onCoreAt r.1 fun c => { c with ranges := c.ranges ++ [⟨r.2.1, r.2.2.1, r.2.2.2.1, party, seq⟩] }

/-- The first range that would not fit in its scratchpad's table of 64 entries (R187, R325). Where one free entry meets two ranges of the command,
the first of the two is the one that lacks room (DESIGN CHOICE, log 124). -/
def State.noRoom (s : State) (rs : List (CoreId × Nat × Nat × Bool × Nat)) : Option (CoreId × Nat × Nat × Bool × Nat) :=
  rs.find? fun r => decide (64 < (s.coreAt r.1).ranges.length + (rs.filter fun q => q.1 == r.1).length)

/-- The commands not yet completed in the queues of the octet that MASK names, as in-octet core and sequence number (R191). -/
def State.outstanding (s : State) (mask : Nat) : List (Nat × Nat) :=
  ((octetCores s.coreId.die (octetOf s.coreId.idx)).zip (List.range 8)).flatMap fun p =>
    if mask / 2 ^ p.2 % 2 == 1 then (s.coreAt p.1).mq.cmds.map fun m => (p.2, m.seq) else []

/-- The next sequence number (R187). -/
def nextSeq (n : Nat) : Nat := (n + 1) % 2 ^ 32

/-- Takes a command into the queue of the core in focus (R187): the slot's stores are performed (R192), its ranges enter the lock
tables, and the slot's trigger completes. -/
def State.acceptMatrix (s : State) (m : MCmd) : State :=
  let s1 := s.drain
  let q := s1.core.mq
  let m' : MCmd := { m with seq := q.next, before := if m.cls == 8 then s1.outstanding (bits m.p 7 0) else [] }
  let s2 := (m'.ranges s1.coreId).foldl (fun s r => s.enterLock (queueParty s1.core) q.next r) s1
  let s3 := s2.onCore fun c => { c with mq := { c.mq with cmds := c.mq.cmds ++ [m'], next := nextSeq q.next,
                                                          waiting := c.mq.waiting.filter fun w => w.1 != c.cur.val } }
  (s3.complete .mx (w64 q.next) 0).count 9

/-- Puts the slot in focus among those that wait for acceptance. -/
def State.waitMatrix (s : State) (m : MCmd) : State :=
  if s.core.mq.waiting.any (fun w => w.1 == s.core.cur.val) then s
  else s.onCore fun c => { c with mq := { c.mq with waiting := c.mq.waiting ++ [(c.cur.val, m.layout)] } }

/-- A checked command is accepted, or its trigger waits (R91, R187): behind the slots that came before it, for a place, or for room
in a lock table. A trigger that a place would take, but for an earlier slot's trigger that waits for room, waits with kind 11 (DESIGN
CHOICE, log 106). -/
def State.offerMatrix (s : State) (m : MCmd) : Res :=
  let q := s.core.mq
  let ahead := (q.waiting.head?.map (·.1)).any fun n => n != s.core.cur.val
  if ahead || 4 ≤ q.cmds.length then (s.waitMatrix m).block .mx m.cls 11 0 (queueParty s.core) 0
  else match s.noRoom (m.ranges s.coreId) with
    | some r =>
      let owner := ((s.coreAt r.1).ranges.head?.map (·.queue)).getD (queueParty s.core)
      (s.waitMatrix m).block .mx m.cls 8 0 owner (bits (w64 r.2.2.2.2) 25 18 * 2 ^ 8)
    | none => .ok (s.acceptMatrix m)

/-- A trigger of `mx` of a class (R90, R186, R187). -/
def mxCommand (cls : Nat) (s : State) : Res :=
  let l := s.lat .mx
  let m0 : MCmd := ⟨cls, l.a, l.b, l.c, l.t, 0, [], [], [], 0, none, false, 0⟩
  if s.resuming then
    let kept := ((s.core.mq.waiting.find? fun w => w.1 == s.core.cur.val).map (·.2)).getD []
    s.offerMatrix { m0 with layout := kept }
  else
    match s.mxEarly m0 <|> s.berthFaults m0 <|> s.rangeFaults m0 with
    | some (e, tval) => .trap e tval
    | none =>
      let m : MCmd := if cls == 7 then { m0 with layout := s.scaleRecord m0 } else m0
      match s.mxFault m with
      | some (e, tval) => .trap e tval
      | none => s.offerMatrix m

/-- The operation of an opcode of `mx` (R183). -/
def mxOp (opc : Nat) : Option (State → Res) := if 1 ≤ opc && opc ≤ 9 then some (mxCommand opc) else none

/-! ## The instructions -/

/-- MX_MMAC (R191): queues a multiply-accumulate. -/
def execMxMmac (h : Hdr) (s : State) : Out := execTrigger .mx 0x01 h (mxCommand 0x01) s

/-- MX_MLUT (R191): queues a multiply-accumulate with table weights. -/
def execMxMlut (h : Hdr) (s : State) : Out := execTrigger .mx 0x02 h (mxCommand 0x02) s

/-- MX_MSEMI (R191): queues a semiring update. -/
def execMxMsemi (h : Hdr) (s : State) : Out := execTrigger .mx 0x03 h (mxCommand 0x03) s

/-- MX_MZERO (R191): queues a clear of an accumulator region. -/
def execMxMzero (h : Hdr) (s : State) : Out := execTrigger .mx 0x04 h (mxCommand 0x04) s

/-- MX_MLOAD (R191): queues a load of an accumulator region. -/
def execMxMload (h : Hdr) (s : State) : Out := execTrigger .mx 0x05 h (mxCommand 0x05) s

/-- MX_MDRAIN (R191): queues a converting store of an accumulator region. -/
def execMxMdrain (h : Hdr) (s : State) : Out := execTrigger .mx 0x06 h (mxCommand 0x06) s

/-- MX_MSCALE (R191): queues a copy of CQ4 scales into scale memory. -/
def execMxMscale (h : Hdr) (s : State) : Out := execTrigger .mx 0x07 h (mxCommand 0x07) s

/-- MX_MBAR (R191): queues a barrier over queues of the octet. -/
def execMxMbar (h : Hdr) (s : State) : Out := execTrigger .mx 0x08 h (mxCommand 0x08) s

/-- MX_MSTAT (R193): queues a store of the status record. -/
def execMxMstat (h : Hdr) (s : State) : Out := execTrigger .mx 0x09 h (mxCommand 0x09) s

end Sys2Proof.Machine
end

