-- ==== Sys2Proof/Machine/Multiply.lean ====
section
/-! DEFINITION. The multiplier and divider `mu` (spec/04_scalar_control_ops.md R116 to R120; spec/02_numbers.md R49). -/

set_option autoImplicit false
set_option Elab.async false

namespace Sys2Proof.Machine

/-! ## Products (R117) -/

/-- Bits [63:0] of a product. -/
def mulLow (a t : Word) : Word := a * t

/-- Bits [127:64] of an exact product. -/
def highHalf (p : Int) : Word := BitVec.ofInt 64 (p / 2 ^ 64)

/-- `mulh`: both signed. -/
def mulHigh (a t : Word) : Word := highHalf (a.toInt * t.toInt)

/-- `mulhu`: both unsigned. -/
def mulHighU (a t : Word) : Word := highHalf (a.toNat * t.toNat : Nat)

/-- `mulhsu`: `a` signed, `t` unsigned. -/
def mulHighSU (a t : Word) : Word := highHalf (a.toInt * (t.toNat : Nat))

/-- `mulw`. -/
def mulWord (a t : Word) : Word := sext (bits a 31 0 * bits t 31 0) 32

/-- A multiply form: latency 3 (R117). -/
def multiply (opc : Nat) (f : Word → Word → Word) (s : State) : Res :=
  let l := s.lat .mu
  .ok (s.launch .mu opc 3 3 (f l.a l.t) 0)

/-! ## Quotients and remainders (R49, R118) -/

/-- The low `n` bits as a signed number. -/
def signedPart (w : Word) (n : Nat) : Int := (sext w.toNat n).toInt

/-- Signed quotient in `n` bits, sign-extended (R49). -/
def quotient (n : Nat) (a t : Word) : Word :=
  let x := signedPart a n
  let y := signedPart t n
  if y == 0 then -1 else sext (BitVec.ofInt 64 (x.tdiv y)).toNat n

/-- Signed remainder in `n` bits, sign-extended (R49). -/
def remainder (n : Nat) (a t : Word) : Word :=
  let x := signedPart a n
  let y := signedPart t n
  if y == 0 then sext a.toNat n else sext (BitVec.ofInt 64 (x.tmod y)).toNat n

/-- Unsigned quotient (R49). -/
def quotientU (a t : Word) : Word := if t == 0 then BitVec.allOnes 64 else w64 (a.toNat / t.toNat)

/-- Unsigned remainder (R49). -/
def remainderU (a t : Word) : Word := if t == 0 then a else w64 (a.toNat % t.toNat)

/-- Number of significant bits of a magnitude. -/
def significant (m : Nat) : Nat := if m == 0 then 0 else Nat.log2 m + 1

/-- Latency of a divide form (R119). -/
def divideLatency (n : Nat) (signed : Bool) (a t : Word) : Nat :=
  let x : Int := if signed then signedPart a n else (bits a (n - 1) 0 : Nat)
  let y : Int := if signed then signedPart t n else (bits t (n - 1) 0 : Nat)
  if y == 0 || x == 0 || (signed && x == -(2 ^ (n - 1)) && y == -1) then 2 else 2 + significant x.natAbs

/-- A divide form (R118, R119). -/
def divide (opc n : Nat) (signed : Bool) (f : Word → Word → Word) (s : State) : Res :=
  let l := s.lat .mu
  let d := divideLatency n signed l.a l.t
  .ok (s.launch .mu opc d d (f l.a l.t) 0)

/-- The operation of an opcode of `mu` (R116). -/
def muOp (opc : Nat) : Option (State → Res) :=
  match opc with
  | 0x01 => some (multiply 0x01 mulLow)
  | 0x02 => some (multiply 0x02 mulHigh)
  | 0x03 => some (multiply 0x03 mulHighU)
  | 0x04 => some (multiply 0x04 mulHighSU)
  | 0x05 => some (multiply 0x05 mulWord)
  | 0x08 => some (divide 0x08 64 true (quotient 64))
  | 0x09 => some (divide 0x09 64 false quotientU)
  | 0x0A => some (divide 0x0A 64 true (remainder 64))
  | 0x0B => some (divide 0x0B 64 false remainderU)
  | 0x0C => some (divide 0x0C 32 true (quotient 32))
  | 0x0D => some (divide 0x0D 32 true (remainder 32))
  | _ => none

/-! ## The instructions -/

/-- MU_MUL (R117): bits [63:0] of a × t. -/
def execMuMul (h : Hdr) (s : State) : Out := execTrigger .mu 0x01 h (multiply 0x01 mulLow) s

/-- MU_MULH (R117): bits [127:64] of a × t, both signed. -/
def execMuMulh (h : Hdr) (s : State) : Out := execTrigger .mu 0x02 h (multiply 0x02 mulHigh) s

/-- MU_MULHU (R117): bits [127:64] of a × t, both unsigned. -/
def execMuMulhu (h : Hdr) (s : State) : Out := execTrigger .mu 0x03 h (multiply 0x03 mulHighU) s

/-- MU_MULHSU (R117): bits [127:64] of a × t, a signed and t unsigned. -/
def execMuMulhsu (h : Hdr) (s : State) : Out := execTrigger .mu 0x04 h (multiply 0x04 mulHighSU) s

/-- MU_MULW (R117): the 32-bit product, sign-extended. -/
def execMuMulw (h : Hdr) (s : State) : Out := execTrigger .mu 0x05 h (multiply 0x05 mulWord) s

/-- MU_DIV (R118): signed quotient. -/
def execMuDiv (h : Hdr) (s : State) : Out := execTrigger .mu 0x08 h (divide 0x08 64 true (quotient 64)) s

/-- MU_DIVU (R118): unsigned quotient. -/
def execMuDivu (h : Hdr) (s : State) : Out := execTrigger .mu 0x09 h (divide 0x09 64 false quotientU) s

/-- MU_REM (R118): signed remainder. -/
def execMuRem (h : Hdr) (s : State) : Out := execTrigger .mu 0x0A h (divide 0x0A 64 true (remainder 64)) s

/-- MU_REMU (R118): unsigned remainder. -/
def execMuRemu (h : Hdr) (s : State) : Out := execTrigger .mu 0x0B h (divide 0x0B 64 false remainderU) s

/-- MU_DIVW (R118): signed 32-bit quotient. -/
def execMuDivw (h : Hdr) (s : State) : Out := execTrigger .mu 0x0C h (divide 0x0C 32 true (quotient 32)) s

/-- MU_REMW (R118): signed 32-bit remainder. -/
def execMuRemw (h : Hdr) (s : State) : Out := execTrigger .mu 0x0D h (divide 0x0D 32 true (remainder 32)) s

end Sys2Proof.Machine
end

