-- ==== Sys2Proof/Machine/HostPort.lean ====
section
/-! DEFINITION. Host ports and what they share: links, virtual function numbers, hardware semaphores and MSI-X messages
(spec/17_host_interface.md R401, R407 to R411). -/

set_option autoImplicit false
set_option Elab.async false

namespace Sys2Proof.Machine

/-! ## Ports -/

/-- A port right after reset: its link down, nothing enabled, nothing at its ordering point. -/
def HostPort.reset : HostPort := ⟨false, false, 0, [], 0, 0, [], none, []⟩

/-- A host port. -/
def State.port (s : State) (p : Nat) : HostPort := look HostPort.reset s.ports p

/-- Changes a host port. -/
def State.onPort (s : State) (p : Nat) (f : HostPort → HostPort) : State := { s with ports := put s.ports p (f (s.port p)) }

/-- The first virtual function number of a port's (R401). -/
def State.firstVf (s : State) (p : Nat) : Nat := if p == 0 then 1 else (s.port 0).numVfs + 1

/-- An error is logged in a port's AER status, by its bit there (R400, R401, R416; log 111). -/
def State.logAer (s : State) (p b : Nat) : State := s.setField (.aer p) b b 1

/-- An unsupported request, in the AER status (log 111). -/
def aerUnsupported : Nat := 20

/-- TotalVFs of each port's capability, and the virtual function numbers of the device (R401). -/
def totalVfs : Nat := 63

/-- VF_ENABLE (R401): the port's functions are enabled, unless the two ports' totals would exceed 63: then VF Enable stays 0, and the port logs an
unsupported request. -/
def execVfEnable (port numVfs : Nat) (s : State) : Out :=
  if 2 ≤ port then .next s
  else if totalVfs < numVfs + (s.port (1 - port)).numVfs then
    .next ((s.onPort port fun p => { p with numVfs := 0 }).logAer port aerUnsupported)
  else .next (s.onPort port fun p => { p with numVfs := numVfs })

/-! ## Hardware semaphores (R408, R409) -/

/-- The source code of a writer (R408). -/
def sourceCode : RegSource → Nat
  | .port p | .config p _ => p % 2
  | .harbour => 2
  | .leader => 3

/-- The semaphore is held. -/
def semHeld (w : Word) : Bool := bit w 63

/-- A source holds a semaphore (R405, R406, R409). -/
def State.holds (s : State) (src : RegSource) (n : Nat) : Bool :=
  semHeld (s.reg (.hsem n)) && bits (s.reg (.hsem n)) 57 56 == sourceCode src

/-- HSEM_ACQUIRE (R408): a free semaphore takes the writer's source and tag; a held one, and a tag of zero, change nothing. -/
def execHsemAcquire (src : RegSource) (n : Nat) (tag : HWord) (s : State) : Out :=
  if 64 ≤ n || tag == 0 || semHeld (s.reg (.hsem n)) then .next s
  else .next (s.setReg (.hsem n) (w64 (2 ^ 63 + sourceCode src * 2 ^ 56 + tag.toNat)))

/-- HSEM_RELEASE (R408): a semaphore becomes free where its holder's source and tag are the writer's. -/
def execHsemRelease (src : RegSource) (n : Nat) (tag : HWord) (s : State) : Out :=
  if 64 ≤ n || tag == 0 || !s.holds src n || bits (s.reg (.hsem n)) 31 0 != tag.toNat then .next s
  else .next (s.setReg (.hsem n) 0)

/-- A guarded operation of a source that does not hold its semaphore: it is ignored, and GUARD is set (R406). -/
def State.guard (s : State) : State := s.setField .hsemst 1 1 1

/-- The semaphores that a port holds. -/
def State.heldBy (s : State) (p : Nat) : List Nat := (List.range 64).filter fun n => s.holds (.port p) n

/-- A port's semaphores are released, which sets LOST and raises source 129 (R409). -/
def State.loseSems (s : State) (p : Nat) : State :=
  if (s.heldBy p).isEmpty then s
  else (((s.heldBy p).foldl (fun s n => s.setReg (.hsem n) 0) s).setField .hsemst 0 0 1).raiseIrq 129

/-- PORT_LINK_DOWN (R409): the port's link goes down, or its physical function takes FLR; the port's semaphores are released. Writes
that have reached the ordering point stay there to be performed, and reads are discarded (R415). FLR turns MSI-X off (log 111). -/
def execPortLinkDown (port : Nat) (flr : Bool) (s : State) : Out :=
  if 2 ≤ port then .next s
  else if flr then .next ((s.setReg (.msixCtl port) 0).loseSems port)
  else .next ((s.onPort port fun p => { p with up := false, reads := [] }).loseSems port)

/-- HOST_LINK_UP (R402, R409, R411): a port that was down trains and is up again, in the mode of its strap, or in the other where a holder of
semaphore 2 reconfigures it; without one the reconfiguration is ignored and GUARD set. -/
def execHostLinkUp (port : Nat) (cxl : Bool) (s : State) : Out :=
  if 2 ≤ port || (s.port port).up then .next s
  else if cxl == Config.cxlStrap port || semHeld (s.reg (.hsem 2)) then .next (s.onPort port fun p => { p with up := true, cxl := cxl })
  else .next s.guard

/-! ## MSI-X (R410, R411) -/

/-- STATE of a function's reset (R453). -/
def State.vfState (s : State) (v : Nat) : Nat := bits (s.reg (.vfctl v)) 63 62

/-- A source belongs to a function, by the queue or DMA engine that it serves (R410, R463). -/
def State.sourceOf (s : State) (src v : Nat) : Bool :=
  if src < 128 then bits (s.reg (.drcfg (8 + src / 64) (src % 64))) 61 56 == v
  else 264 ≤ src && s.queues.any fun q => descSource (s.queueDesc q.1) == src && leNat (((s.queueDesc q.1).drop 11).take 1) == v

/-- The function that a source belongs to is being reset (R465). -/
def State.sourceQuiet (s : State) (src : Nat) : Bool := (List.range 64).any fun v => s.vfState v != 0 && s.sourceOf src v

/-- A vector of a port is unmasked (R410): MSI-X is enabled, and neither the function nor the vector is masked. -/
def State.vectorOpen (s : State) (p vec : Nat) : Bool :=
  bit (s.reg (.msixCtl p)) 15 && !bit (s.reg (.msixCtl p)) 14 && !bit (s.reg (.msixMask p vec)) 0

/-- The ports that an event of a source is held for (R411, R447). -/
def State.irqPorts (s : State) (n : Nat) : List Nat :=
  match (s.portIrqs.filter fun e => e.1 == n).map (·.2) with
  | [] => [irqPort s (s.reg (.irqsrc n))]
  | ps => ps

/-- A vector of a port is pending (R410): an enabled source, of no function in reset (R465), holds an event for it. -/
def State.vectorPending (s : State) (p vec : Nat) : Bool := (List.range 1024).any fun n =>
  let w := s.reg (.irqsrc n)
  bit w 60 && bit w 63 && (s.irqPorts n).contains p && bits w 42 32 == vec && !s.sourceQuiet n

/-- MSIX_MESSAGE (R411): a source that is pending and enabled sends its message to its vector, where the vector is unmasked and the
chosen port's link is up; sources of a function in reset send none (R465). -/
def execMsixMessage (source : Nat) (s : State) : Out :=
  let w := s.reg (.irqsrc source)
  let vec := bits w 42 32
  if bit w 60 && bit w 63 && !s.sourceQuiet source then
    match (s.irqPorts source).find? fun p => (s.port p).up && s.vectorOpen p vec with
    | none => .next s
    | some p =>
      let left := s.portIrqs.filter fun e => !(e.1 == source && e.2 == p)
      let s1 : State := { s with msix := (p, vec) :: s.msix, portIrqs := left }
      .next (if left.any fun e => e.1 == source then s1 else s1.setField (.irqsrc source) 60 60 0)
  else .next s

end Sys2Proof.Machine
end

