-- ==== Sys2Proof/Machine/Hamper.lean ====
section
/-! DEFINITION. Keyed stages: the stage descriptors, the routing and the life of an entry in the Hamper, spill and drain
(spec/15_keyed_stages.md R356 to R374). -/

set_option autoImplicit false
set_option Elab.async false

namespace Sys2Proof.Machine

/-! ## Stage descriptors (R356) -/

/-- A field of a descriptor: `n` bytes from byte `i`. -/
def stField (d : List Byte) (i n : Nat) : Nat := leNat ((d.drop i).take n)
/-- ENTRY. -/
def stEntry (d : List Byte) : Nat := stField d 0 8 % 2 ^ 52
/-- CARRY. -/
def stCarry (d : List Byte) : Nat := stField d 8 8 % 2 ^ 52
/-- SPILL. -/
def stSpill (d : List Byte) : Nat := stField d 16 8 % 2 ^ 52
/-- TIMEOUT, in µs. -/
def stTimeout (d : List Byte) : Nat := stField d 24 4
/-- CREDITS. -/
def stCredits (d : List Byte) : Nat := stField d 28 2
/-- ROLE. -/
def stRole (d : List Byte) : Nat := stField d 30 2 % 4096
/-- SSET. -/
def stSset (d : List Byte) : Nat := stField d 32 2 % 4096
/-- SPW. -/
def stSpw (d : List Byte) : Nat := stField d 34 1
/-- The logical clusters, 4 × die + cluster, in ordinal order. -/
def stClusters (d : List Byte) : List Nat := (List.range 32).filter fun i => bit (w64 (stField d 36 4)) i

/-- The Hamper of a logical cluster of a job. -/
def Job.hamperOf (j : Job) (p : Nat) : Nat := j.physDie (p / 4) * 4 + j.clusters.getD p (p % 4)

/-- The Hamper of the cluster of a compute core. -/
def hamperKey (id : CoreId) : Nat := id.die * 4 + clusterOf id.idx

/-! ## Hashing (R359) -/

/-- `h` of R359. -/
def hashKey (key : Word) : Word := key * 0x9E3779B97F4A7C15
/-- The set of a key. -/
def keySet (key : Word) : Nat := bits (hashKey key) 63 53
/-- The spill filter index of a key. -/
def keyFilter (key : Word) : Nat := bits (hashKey key) 47 44
/-- The logical cluster that a key of a stage goes to. -/
def keyCluster (d : List Byte) (key : Word) : Nat :=
  let cs := stClusters d
  cs.getD (bits (hashKey key) 52 48 % cs.length) 0

/-! ## The Hamper's parts -/

/-- A Hamper with nothing in it. -/
def Hamper.empty : Hamper := ⟨none, [], [], [], [], [], [], [], [], [], []⟩

/-- The Hamper of a physical cluster. -/
def State.hamper (s : State) (hk : Nat) : Hamper := look Hamper.empty s.hampers hk

/-- Changes a Hamper. -/
def State.onHamper (s : State) (hk : Nat) (f : Hamper → Hamper) : State := { s with hampers := put s.hampers hk (f (s.hamper hk)) }

/-- The way and entry of a resident key. -/
def Hamper.find (h : Hamper) (stage : Nat) (key : Word) : Option (Nat × HEntry) :=
  h.ways.find? fun w => w.2.stage == stage && w.2.key == key

/-- The lowest free way of a set. -/
def Hamper.freeWay (h : Hamper) (set : Nat) : Option Nat :=
  (List.range 8).find? fun w => (look? h.ways (8 * set + w)).isNone

/-- The hold at the front of a set (R364). -/
def Hamper.hold (h : Hamper) (set : Nat) : Option HHold := (h.holds.find? fun p => p.1 == set).map (·.2)

/-- The entry in a way is being written to its bucket, or is about to be. -/
def Hamper.isVictim (h : Hamper) (way : Nat) : Bool := h.holds.contains (way / 8, .victim (way % 8))

/-- Takes away the hold at the front of a set. -/
def Hamper.dropHold (h : Hamper) (set : Nat) : Hamper :=
  { h with holds := match h.holds.findIdx? fun p => p.1 == set with
      | some i => h.holds.eraseIdx i
      | none => h.holds }

/-- Changes the place of record `i`. -/
def Hamper.move (h : Hamper) (i : Nat) (p : KPlace) : Hamper := { h with recs := modifyAt (fun r => (r.1, p)) h.recs i }

/-- The first record at a place that satisfies a test. -/
def Hamper.firstAt (h : Hamper) (p : KPlace) (f : KRec → Bool) : Option Nat := h.recs.findIdx? fun r => r.2 == p && f r.1

/-- Records of a key that wait behind it: FIFO (R363). -/
def Hamper.fifo (h : Hamper) (e : HEntry) : Nat :=
  (h.recs.filter fun r => r.2 == .behind && r.1.stage == e.stage && r.1.key == e.key).length

/-- An activation of the entry in a way is queued: with a record, or a retirement resumption (R365). -/
def Hamper.enqueue (h : Hamper) (way : Nat) (e : HEntry) (retire : Bool) : Hamper :=
  { h with ways := put h.ways way { e with st := if retire then .retiring else .queued, core := none }, kept := h.kept ++ [(way, retire)] }

/-- A free way. -/
def Hamper.freeEntry (h : Hamper) (way : Nat) : Hamper := { h with ways := del h.ways way }

/-! ## Carry images and buckets (R356, R362, R369) -/

/-- CARRY and LOCAL of the carry image of a stage. -/
def State.carryImage (s : State) (r : Nat) (d : List Byte) : List Word × List Byte :=
  let bs := if stCarry d == 0 then List.replicate 224 0 else (s.readRec r (stCarry d) 224).getD (List.replicate 224 0)
  ((List.range 8).map fun i => w64 (leNat ((bs.drop (8 * i)).take 8)), bs.drop 64)

/-- The carry image of a stage can no longer be translated (R508). -/
def State.carryLost (s : State) (r : Nat) (d : List Byte) : Bool := stCarry d != 0 && (s.readRec r (stCarry d) 224).isNone

/-- A template instance of a key (R365). -/
def State.template (s : State) (r : Nat) (d : List Byte) (stage : Nat) (key : Word) : HEntry :=
  let (c, l) := s.carryImage r d
  ⟨stage, key, w64 (stEntry d), .queued, c, l, 0, none⟩

/-- ST of R363. -/
def HState.code : HState → Nat
  | .idle => 1
  | .running => 2
  | .queued => 3
  | .retiring => 5

/-- The 256 bytes of an entry (R362). -/
def HEntry.bytes (e : HEntry) (fifo st : Nat) : List Byte :=
  leBytes 8 e.key.toNat ++ leBytes 8 e.rpc.toNat ++ leBytes 8 (fifo * 2 ^ 16 + e.stage * 2 ^ 8 + st) ++
    e.carry.flatMap (fun w => leBytes 8 w.toNat) ++ e.loc ++ leBytes 8 e.tidle

/-- An entry read from its 256 bytes. -/
def entryOf (bs : List Byte) (st : HState) : HEntry :=
  let f := fun i => w64 (stField bs i 8)
  ⟨bits (f 16) 13 8, f 0, f 8, st, (List.range 8).map fun i => f (24 + 8 * i), (bs.drop 88).take 160, stField bs 248 8, none⟩

/-- The virtual address of a bucket (R369); `k` is the cluster's ordinal. -/
def bucketAddr (d : List Byte) (k set : Nat) : Nat := stSpill d + (k * 2048 + set) * stSpw d * 256

/-- The ordinal of a Hamper among the clusters of a stage. -/
def State.ordinal (s : State) (r hk : Nat) (d : List Byte) : Nat :=
  ((stClusters d).findIdx? fun p => (s.job r).hamperOf p == hk).getD 0

/-- The runs of a bucket, through the die's MMU; the Hamper needs U (R458). -/
def State.bucketRuns (s : State) (r hk : Nat) (d : List Byte) (set : Nat) (a : Access) : Option (List (Home × Nat)) :=
  match s.runs (s.dieTlb (hk / 4)) (s.recAsid r) (s.recVf r) a true (bucketAddr d (s.ordinal r hk d) set) (256 * stSpw d) with
  | .ok rs => some rs
  | .error _ => none

/-- The bytes of a bucket. -/
def State.bucket (s : State) (r hk : Nat) (d : List Byte) (set : Nat) : Option (List Byte) :=
  (s.bucketRuns r hk d set .read).map s.readRuns

/-- Entry `i` of a bucket is free: its STATE doubleword is zero (R369). -/
def slotFree (bs : List Byte) (i : Nat) : Bool := stField bs (256 * i + 16) 8 == 0

/-- The first free entry of a bucket. -/
def bucketFree (bs : List Byte) (spw : Nat) : Option Nat := (List.range spw).find? (slotFree bs)

/-- The entry of a bucket that holds a key. -/
def bucketFind (bs : List Byte) (spw : Nat) (key : Word) : Option Nat :=
  (List.range spw).find? fun i => !slotFree bs i && w64 (stField bs (256 * i) 8) == key

/-- Writes one entry of a bucket; none where the bucket cannot be translated. -/
def State.writeBucket (s : State) (r hk : Nat) (d : List Byte) (set i : Nat) (bs : List Byte) : Option State :=
  match s.bucketRuns r hk d set .write, s.bucket r hk d set with
  | some rs, some old => some (s.writeRuns rs (old.take (256 * i) ++ bs ++ old.drop (256 * i + 256)))
  | _, _ => none

/-- A spill access, or a later reading of the record's tables, that cannot be translated makes the job failed, as a host kill does (R369, R508). -/
def State.spillFailed (s : State) (r : Nat) : State := s.killJob r 0x18 true

/-! ## Arrival (R364 to R366) -/

/-- The idle way that makes room in a set: of the least TIDLE, its stage having a free entry in its bucket (R366). -/
def State.victim (s : State) (r hk set : Nat) : Option Nat :=
  let h := s.hamper hk
  ((List.range 8).foldl (fun (best : Option (Nat × Nat)) w => match look? h.ways (8 * set + w) with
    | none => best
    | some e =>
      let room := match s.stage r e.stage with
        | some d => match s.bucket r hk d set with
          | some bs => (bucketFree bs (stSpw d)).isSome
          | none => false
        | none => false
      if e.st != .idle || !room then best
      else match best with
        | some b => if b.2 ≤ e.tidle then some b else some (w, e.tidle)
        | none => some (w, e.tidle)) none).map (·.1)

/-- The bucket of an idle entry of a set, which the search for a victim reads, cannot be translated (R369). -/
def State.victimLost (s : State) (r hk set : Nat) : Bool :=
  (List.range 8).any fun w => match look? (s.hamper hk).ways (8 * set + w) with
    | none => false
    | some e => e.st == .idle && match s.stage r e.stage with
      | some d => (s.bucket r hk d set).isNone
      | none => false

/-- What becomes of a record that is handled (R365, R366): the state, and its place. -/
def State.place (s : State) (r hk : Nat) (d : List Byte) (k : KRec) : State × KPlace :=
  let h := s.hamper hk
  let set := keySet k.key
  match h.find k.stage k.key with
  | some (w, e) =>
    if e.st == .idle then (s.onHamper hk fun h => h.enqueue w e false, .active) else (s, .behind)
  | none =>
    if look 0 h.filters set / 2 ^ keyFilter k.key % 2 == 1 then
      (s.onHamper hk fun h => { h with holds := h.holds ++ [(set, .fetch k.stage k.key false)] }, .heldSet)
    else match h.freeWay set, s.victim r hk set with
      | some w, _ =>
        if s.carryLost r d then (s.spillFailed r, .overflow)
        else (s.onHamper hk fun h => h.enqueue (8 * set + w) (s.template r d k.stage k.key) false, .active)
      | none, v =>
        if s.victimLost r hk set then (s.spillFailed r, .overflow)
        else match v with
          | some w => (s.onHamper hk fun h => { h with holds := h.holds ++ [(set, .victim w)] }, .heldSet)
          | none => (s, .overflow)

/-- A set has records in the overflow queue. -/
def Hamper.overflows (h : Hamper) (set : Nat) : Bool := (h.firstAt .overflow fun k => keySet k.key == set).isSome

/-- The first spilled key of a set that a drain has named and that found no way: where it stands among them, its stage and its key, and how many
overflow records of the set stood before it (R365). -/
def State.lateDrain (s : State) (r hk set : Nat) : Option (Nat × Nat × Word × Nat) :=
  let j := s.job r
  let at_ := fun (d : Nat × Nat × Word × Nat) => j.hamperOf d.1 == hk && keySet d.2.2.1 == set
  (j.late.findIdx? at_).bind fun i => (j.late[i]?).map fun d => (i, d.2)

/-- The place that a record finds on arrival (R364). A drained key that waits for a way stands in the overflow queue like a record. -/
def State.placeNew (s : State) (r hk : Nat) (d : List Byte) (k : KRec) : State × KPlace :=
  let h := s.hamper hk
  let set := keySet k.key
  if (h.hold set).isSome then (s, .heldSet)
  else if (h.overflows set || (s.lateDrain r hk set).isSome) && (h.find k.stage k.key).isNone then (s, .overflow)
  else s.place r hk d k

/-- The records that a held set kept are handled in order, until the set is held again (R364). -/
def State.releaseHeld (s : State) (r hk set : Nat) : Nat → State
  | 0 => s
  | fuel + 1 =>
    let h := s.hamper hk
    if (h.hold set).isSome then s
    else match h.firstAt .heldSet fun k => keySet k.key == set with
      | none => s
      | some i => match h.recs[i]? with
        | none => s
        | some (k, _) => match s.stage r k.stage with
          | none => s
          | some d =>
            let (s1, p) := s.placeNew r hk d k
            State.releaseHeld (s1.onHamper hk fun h => h.move i p) r hk set fuel

/-- Handles everything that a set kept. -/
def State.releaseSet (s : State) (r hk set : Nat) : State := s.releaseHeld r hk set ((s.hamper hk).recs.length + 1)

/-- A record that has obtained a way draws the other records of its key out of the overflow queue (R373). -/
def Hamper.gather (h : Hamper) (k : KRec) : Hamper :=
  { h with recs := h.recs.map fun r =>
      if r.2 == .overflow && r.1.stage == k.stage && r.1.key == k.key then (r.1, .behind) else r }

/-- A way can be had in a set: a free one, or a victim's (R366). -/
def State.wayToBe (s : State) (r hk set : Nat) : Bool := ((s.hamper hk).freeWay set).isSome || (s.victim r hk set).isSome

/-- A record of a set has left the overflow queue: the drained keys of the set stand one place nearer. -/
def State.lateNearer (s : State) (r hk set : Nat) : State :=
  s.onJob r fun j =>
    let nearer := fun (d : Nat × Nat × Word × Nat) =>
      if j.hamperOf d.1 == hk && keySet d.2.2.1 == set then (d.1, d.2.1, d.2.2.1, d.2.2.2 - 1) else d
    { j with late := j.late.map nearer }

/-- The first overflow record of a set is handled again (R366). -/
def State.serveRecord (s : State) (r hk set i : Nat) : State :=
  match (s.hamper hk).recs[i]? with
  | none => s
  | some (k, _) => match s.stage r k.stage with
    | none => s
    | some d =>
      let (s1, p) := s.place r hk d k
      if p == .overflow then s1
      else (s1.lateNearer r hk set).onHamper hk fun h => if p == .heldSet then h.move i p else (h.move i p).gather k

/-- The first of the overflow queue of a set is handled again (R366): a record; or a spilled key that a drain named and that found no way, whose
bucket is then fetched, and which comes before the records of its own key (R365). -/
def State.serveOverflow (s : State) (r hk set : Nat) : State :=
  let h := s.hamper hk
  let first := h.firstAt .overflow fun k => keySet k.key == set
  let ofKey := fun (g : Nat) (key : Word) => (first.bind fun i => h.recs[i]?).any fun k => k.1.stage == g && k.1.key == key
  if (h.hold set).isSome then s
  else match s.lateDrain r hk set, first with
    | some (i, g, key, ahead), _ =>
      if first.isNone || ahead == 0 || ofKey g key then
        if s.wayToBe r hk set then
          (s.onJob r fun j => { j with late := j.late.eraseIdx i }).onHamper hk fun h => { h with holds := h.holds ++ [(set, .fetch g key true)] }
        else if s.victimLost r hk set then s.spillFailed r else s
      else s.serveRecord r hk set (first.getD 0)
    | none, some i => s.serveRecord r hk set i
    | none, none => s

/-! ## Credits (R360, R361) -/

/-- The party of a stage in a logical cluster. -/
def stageParty (stage p : Nat) : Nat := p / 4 * 2 ^ 20 + 4 * 2 ^ 16 + stage * 4 + p % 4

/-- The wait reason of a stage party follows its first waiter (R361): it changed from `old`. -/
def State.noteStage (s : State) (r hk stage : Nat) (old : Option (CoreId × Nat)) : State :=
  let h := s.hamper hk
  let now := (h.requests.find? fun q => q.1 == stage).map (·.2)
  let w := look 0 h.wrr stage
  if now == old then s
  else match now with
    | none => s.onHamper hk fun h => { h with wrr := put h.wrr stage (setBits w 63 63 0) }
    | some _ =>
      let set := match s.stage r stage with
        | some d => stSset d + s.ordinal r hk d
        | none => 0
      s.onHamper hk fun h => { h with wrr := put h.wrr stage (wrrWord w 10 1 set stage), since := put h.since stage s.time }

/-- The first waiter of a pool. -/
def Hamper.waiter (h : Hamper) (stage : Nat) : Option (CoreId × Nat) := (h.requests.find? fun q => q.1 == stage).map (·.2)

/-- The emit of a slot obtains a credit: the record is on its way, and the trigger completes (R218). -/
def State.grantEmit (s : State) (hk : Nat) (k : KRec) (id : CoreId) (slot : Nat) : State :=
  let s1 := s.onHamper hk fun h =>
    { h with credits := put h.credits k.stage (look 0 h.credits k.stage - 1),
             requests := h.requests.filter fun q => !(q.1 == k.stage && q.2 == (id, slot)) }
  let lat := 2 + k.payload.length / 32
  let s2 : State := { s1 with emits := s1.emits ++ [⟨id, slot, hk / 4, hk % 4, k⟩] }
  s2.onCoreAt id fun c => c.onSlot slot fun t => t.unblock.onLat .ks fun l => { l with fly := some ⟨3, 0, lat, lat, 0, 0⟩ }

/-- The record that the blocked emit of a slot waits to send. -/
def State.emitOf (s : State) (id : CoreId) (slot : Nat) : Option KRec :=
  let c := s.coreAt id
  let t := c.slot slot
  match t.wait with
  | none => none
  | some w =>
    let l := t.lat .ks
    let stage := bits l.t 5 0
    some ⟨stage, l.a, w64 (stage * 2 ^ 48 + w.held.length * 2 ^ 40 + partyOf id c slot), w.held⟩

/-- The first waiter of a pool with a free credit is granted it (R360). -/
def State.grantCredit (s : State) (r hk stage : Nat) : State :=
  let h := s.hamper hk
  match h.waiter stage with
  | none => s
  | some (id, slot) =>
    if look 0 h.credits stage == 0 || s.still (s.coreAt id) then s
    else match s.emitOf id slot with
      | none => s
      | some k => (s.grantEmit hk k id slot).noteStage r hk stage (some (id, slot))

/-! ## Retirement and the end of an activation (R219, R220, R365, R371) -/

/-- An idle entry that is no victim becomes retiring. -/
def Hamper.retire (h : Hamper) (way : Nat) : Hamper := match look? h.ways way with
  | some e => if e.st == .idle && !h.isVictim way then h.enqueue way e true else h
  | none => h

/-- The oldest record behind a key becomes the record of its next activation. -/
def Hamper.nextRecord (h : Hamper) (stage : Nat) (key : Word) : Hamper :=
  match h.firstAt .behind fun k => k.stage == stage && k.key == key with
  | some i => h.move i .active
  | none => h

/-- A key is left, freed or as a new template instance where records wait (R365). -/
def State.leaveFree (s : State) (r hk way : Nat) : State :=
  match look? (s.hamper hk).ways way with
  | none => s
  | some e =>
    if (s.hamper hk).fifo e == 0 then s.onHamper hk fun h => h.freeEntry way
    else match s.stage r e.stage with
      | none => s
      | some d =>
        if s.carryLost r d then s.spillFailed r
        else s.onHamper hk fun h => (h.enqueue way (s.template r d e.stage e.key) false).nextRecord e.stage e.key

/-- A key is left by `ks.yield` with what it carries (R219, R365). -/
def State.leaveIdle (s : State) (hk way : Nat) (carry : List Word) (loc : List Byte) (rpc : Word) : State :=
  match look? (s.hamper hk).ways way with
  | none => s
  | some e =>
    let e1 := { e with carry := carry, loc := loc, rpc := rpc, core := none }
    if (s.hamper hk).fifo e == 0 then
      s.onHamper hk fun h => { h with ways := put h.ways way { e1 with st := .idle, tidle := s.time } }
    else s.onHamper hk fun h => (h.enqueue way e1 false).nextRecord e.stage e.key

/-! ## Drains (R220) -/

/-- The bucket of a set may hold a key: the key's filter bit is set there (R369, R370). -/
def Hamper.mayHold (h : Hamper) (set : Nat) (key : Word) : Bool := keySet key == set && look 0 h.filters set / 2 ^ keyFilter key % 2 == 1

/-- The keys of a stage that a Hamper has spilled, each with its set: those of its buckets whose filter bit is set (R370). -/
def State.spilledKeys (s : State) (r hk : Nat) (d : List Byte) : List (Nat × Word) :=
  let h := s.hamper hk
  (h.scount.filter fun n => n.2 != 0).flatMap fun n =>
    match s.bucket r hk d n.1 with
    | none => []
    | some bs => (((List.range (stSpw d)).filter fun i => !slotFree bs i).map fun i => (n.1, w64 (stField bs (256 * i) 8))).filter
        fun k => h.mayHold n.1 k.2

/-- A bucket that may hold a spilled key of a stage cannot be translated (R369). -/
def State.spillLost (s : State) (r stage : Nat) : Bool := match s.stage r stage with
  | none => false
  | some d => (stClusters d).any fun p =>
      let hk := (s.job r).hamperOf p
      (s.hamper hk).scount.any fun n => n.2 != 0 && (s.bucket r hk d n.1).isNone

/-- A stage holds no key in any of its clusters. -/
def State.stageEmpty (s : State) (r stage : Nat) : Bool := match s.stage r stage with
  | none => true
  | some d => (stClusters d).all fun p =>
      let hk := (s.job r).hamperOf p
      ((s.hamper hk).ways.all fun w => w.2.stage != stage) && (s.spilledKeys r hk d).isEmpty

/-- Every drain whose stage holds no key counts (R220). -/
def State.checkDrains (s : State) (r : Nat) : State :=
  let (done, left) := (s.job r).drains.partition fun d => s.stageEmpty r d.stage
  if (s.job r).drains.any fun d => s.spillLost r d.stage then s.spillFailed r
  else done.foldl (fun s d => s.addCtr d.die d.ctr 1) (s.onJob r fun j => { j with drains := left })

/-- Retires every idle and spilled key of a stage in one Hamper. A key that is being spilled is spilled first. -/
def State.drainStage (s : State) (r hk stage : Nat) (d : List Byte) : State :=
  let mine := (s.hamper hk).ways.filter fun w => w.2.stage == stage
  let going := (mine.filter fun w => (s.hamper hk).isVictim w.1).map fun w => (w.1 / 8, w.2.key)
  let s1 := s.onHamper hk fun h => mine.foldl (fun h w => h.retire w.1) h
  s1.onHamper hk fun h => { h with holds := h.holds ++ (going ++ s.spilledKeys r hk d).map fun p => (p.1, .fetch stage p.2 true) }

/-! ## The events -/

/-- The Hamper of the cluster of the core in focus, where it serves a job: its key and the record. -/
def State.myHamper (s : State) : Option (Nat × Nat) :=
  let hk := hamperKey s.coreId
  (s.hamper hk).record.map fun r => (hk, r)

/-- CREDIT_GRANT (R360). -/
def execCreditGrant (stage : Nat) (s : State) : Out := match s.myHamper with
  | some (hk, r) => .next (s.grantCredit r hk stage)
  | none => .next s

/-- Records of one slot to one key (R218). -/
def Emit.sameWay (a b : Emit) : Bool := a.src == b.src && a.slot == b.slot && a.krec.stage == b.krec.stage && a.krec.key == b.krec.key

/-- HAMPER_ARRIVAL (R364): record `k` on its way arrives at its Hamper, behind earlier ones of its slot and key. -/
def execHamperArrival (k : Nat) (s : State) : Out :=
  match s.emits[k]? with
  | none => .next s
  | some e =>
    if (s.emits.take k).any e.sameWay then .next s
    else
      let hk := e.die * 4 + e.cluster
      let s1 : State := { s with emits := s.emits.eraseIdx k }
      match (s.hamper hk).record with
      | none => .next s1
      | some r => match s.stage r e.krec.stage with
        | none => .next s1
        | some d =>
          let (s2, p) := s1.placeNew r hk d e.krec
          .next (s2.onHamper hk fun h => { h with recs := h.recs ++ [(e.krec, p)] })

/-- SPILL_VICTIM_WRITE (R366, R369): the victim that holds a set is written to its bucket and its way is free. -/
def spillVictim (r hk set : Nat) (s : State) : State :=
  let h := s.hamper hk
  match h.hold set with
  | some (.victim w) => match (look? h.ways (8 * set + w)).filter fun e => e.st == .idle with
    | none => (s.onHamper hk fun h => h.dropHold set).releaseSet r hk set
    | some e => match s.stage r e.stage with
      | none => s
      | some d => match s.bucket r hk d set with
        | none => s.spillFailed r
        | some bs => match bucketFree bs (stSpw d) with
          | none => (s.onHamper hk fun h => h.dropHold set).releaseSet r hk set
          | some i => match s.writeBucket r hk d set i (e.bytes 0 4) with
            | none => s.spillFailed r
            | some s1 =>
              (s1.onHamper hk fun h =>
                let h1 := (h.dropHold set).freeEntry (8 * set + w)
                let f := look 0 h.filters set
                let b := 2 ^ keyFilter e.key
                { h1 with filters := put h1.filters set (if f / b % 2 == 1 then f else f + b),
                          scount := put h1.scount set (look 0 h1.scount set + 1) }).releaseSet r hk set
  | _ => s

/-- A refill takes a key's entry out of its bucket (R369). -/
def State.refill (s : State) (r hk : Nat) (d : List Byte) (set i way : Nat) (bs : List Byte) (drain : Bool) : State :=
  let e := entryOf ((bs.drop (256 * i)).take 256) .idle
  match s.writeBucket r hk d set i (List.replicate 256 0) with
  | none => s.spillFailed r
  | some s1 => s1.onHamper hk fun h =>
      let h1 := (h.dropHold set).enqueue (8 * set + way) e drain
      let n := look 0 h1.scount set - 1
      { h1 with scount := put h1.scount set n, filters := if n == 0 then put h1.filters set 0 else h1.filters }

/-- A set is held for a victim's write before the fetch that holds it. -/
def Hamper.holdVictim (h : Hamper) (set w : Nat) : Hamper := { h with holds := (set, .victim w) :: h.holds }

/-- The record that a fetch was made for. -/
def Hamper.fetchedFor (h : Hamper) (stage : Nat) (key : Word) : Option Nat :=
  h.firstAt .heldSet fun k => k.stage == stage && k.key == key

/-- The record that a fetch was made for becomes its key's active one. -/
def Hamper.fetched (h : Hamper) (stage : Nat) (key : Word) : Hamper :=
  match h.fetchedFor stage key with
  | some n => (h.move n .active).gather ⟨stage, key, 0, []⟩
  | none => h

/-- The hold of a set whose fetch can obtain no way goes: the record it was made for joins the overflow queue, and the key of a drain waits
among those that found no way (R365, R366). -/
def State.fetchNoWay (s : State) (r hk set stage : Nat) (key : Word) (drain : Bool) : State :=
  let s1 := s.onHamper hk fun h => h.dropHold set
  if drain then
    let ahead := ((s1.hamper hk).recs.filter fun k => k.2 == .overflow && keySet k.1.key == set).length
    s1.onJob r fun j => { j with late := j.late ++ (((List.range 32).filter fun p => j.hamperOf p == hk).take 1).map fun p => (p, stage, key, ahead) }
  else match (s1.hamper hk).fetchedFor stage key with
    | some n => s1.onHamper hk fun h => h.move n .overflow
    | none => s1

/-- The fetched bucket does not hold the key: it is absent, and a record for it needs a way of its own (R365, R369). -/
def State.fetchMiss (s : State) (r hk set stage : Nat) (key : Word) (drain : Bool) (d : List Byte) : State :=
  if drain then s.onHamper hk fun h => h.dropHold set
  else match (s.hamper hk).freeWay set, s.victim r hk set with
    | some w, _ =>
      if s.carryLost r d then s.spillFailed r
      else s.onHamper hk fun h => ((h.dropHold set).enqueue (8 * set + w) (s.template r d stage key) false).fetched stage key
    | none, some w => s.onHamper hk fun h => h.holdVictim set w
    | none, none => s.fetchNoWay r hk set stage key false

/-- The fetched bucket holds the key as its entry `i`: it is refilled once a way is had (R365, R366). The records of a key that a drain refills
come out of the overflow queue too (R373). -/
def State.fetchHit (s : State) (r hk set stage : Nat) (key : Word) (drain : Bool) (d : List Byte) (i : Nat) (bs : List Byte) : State :=
  match (s.hamper hk).freeWay set, s.victim r hk set with
  | some w, _ => (s.refill r hk d set i w bs drain).onHamper hk fun h => if drain then h.gather ⟨stage, key, 0, []⟩ else h.fetched stage key
  | none, some w => s.onHamper hk fun h => h.holdVictim set w
  | none, none => s.fetchNoWay r hk set stage key drain

/-- BUCKET_FETCH (R365, R369): the bucket is searched for the key; the key is refilled, or is absent. A key that has come back to the set
before a drain's fetch is retired where it stands. -/
def bucketFetch (r hk set : Nat) (s : State) : State :=
  let h := s.hamper hk
  match h.hold set with
  | some (.fetch stage key drain) => match s.stage r stage with
    | none => s
    | some d => match h.find stage key with
      | some (w, _) => ((s.onHamper hk fun h =>
          if drain then (h.dropHold set).retire w else h.dropHold set).releaseSet r hk set)
      | none => match s.bucket r hk d set with
        | none => s.spillFailed r
        | some bs =>
          if (h.freeWay set).isNone && s.victimLost r hk set then s.spillFailed r
          else
            let found := if !drain || h.mayHold set key then bucketFind bs (stSpw d) key else none
            let s1 := match found with
              | some i => s.fetchHit r hk set stage key drain d i bs
              | none => s.fetchMiss r hk set stage key drain d
            ((s1.releaseSet r hk set).checkDrains r).checkJob r
  | _ => s

/-- SPILL_VICTIM_WRITE (R366). -/
def execSpillVictimWrite (set : Nat) (s : State) : Out := match s.myHamper with
  | some (hk, r) => .next (spillVictim r hk set s)
  | none => .next s

/-- BUCKET_FETCH (R369). -/
def execBucketFetch (set : Nat) (s : State) : Out := match s.myHamper with
  | some (hk, r) => .next (bucketFetch r hk set s)
  | none => .next s

/-- OVERFLOW_SERVE (R366). -/
def execOverflowServe (set : Nat) (s : State) : Out := match s.myHamper with
  | some (hk, r) => .next (s.serveOverflow r hk set)
  | none => .next s

/-- The stage core of a cluster whose activation queue holds the fewest entries and has room, ties to the lowest core index (R367). -/
def State.stageCore (s : State) (r hk role : Nat) : Option CoreId :=
  let cores := (s.jobCores r).filter fun p => p.1.kind == .compute && hamperKey p.1 == hk &&
    (match p.2.ctx with
      | some x => x.role == role && !x.dead && !x.preempting
      | none => false) && decide (p.2.actq.length < 16)
  (cores.foldl (fun (best : Option (CoreId × Core)) p => match best with
    | none => some p
    | some b =>
      if p.2.actq.length < b.2.actq.length || (p.2.actq.length == b.2.actq.length && p.2.cidx < b.2.cidx) then some p else some b)
    none).map (·.1)

/-- The stage core that can take a kept activation now (R367): the entry whose activation it is, and the core. -/
def State.takerOf (s : State) (r hk : Nat) (k : Nat × Bool) : Option (HEntry × CoreId) :=
  (look? (s.hamper hk).ways k.1).bind fun e => (s.stage r e.stage).bind fun d => (s.stageCore r hk (stRole d)).map fun id => (e, id)

/-- ACTIVATION_HANDOFF (R367): the first kept activation for which a stage core has room enters its activation queue. -/
def handOff (r hk : Nat) (s : State) : State :=
  let kept := (s.hamper hk).kept
  match kept.findIdx? fun k => (s.takerOf r hk k).isSome with
  | none => s
  | some i => match (kept[i]?).bind fun k => (s.takerOf r hk k).map fun t => (k, t) with
    | none => s
    | some ((w, retire), e, id) =>
      let a : Activation := ⟨3, e.rpc, 0, 0, 0, none, some ⟨e.stage, e.key, w / 8, w % 8, retire⟩⟩
      (s.onHamper hk fun h => { h with kept := kept.eraseIdx i, ways := put h.ways w { e with core := some id } }).onCoreAt id fun c =>
        { c with actq := c.actq ++ [a] }

/-- Kept activations enter queues while there is room (R367, R375). -/
def State.handOffAll (s : State) (r hk : Nat) : Nat → State
  | 0 => s
  | fuel + 1 => (handOff r hk s).handOffAll r hk fuel

/-- ACTIVATION_HANDOFF (R367). -/
def execActivationHandoff (s : State) : Out := match s.myHamper with
  | some (hk, r) => .next (handOff r hk s)
  | none => .next s

/-- IDLE_TIMEOUT (R371): an entry that has been idle for its stage's timeout becomes retiring. -/
def execIdleTimeout (set way : Nat) (s : State) : Out :=
  match s.myHamper with
  | none => .next s
  | some (hk, r) => match look? (s.hamper hk).ways (8 * set + way) with
    | none => .next s
    | some e => match s.stage r e.stage with
      | none => .next s
      | some d =>
        if stTimeout d == 0xFFFFFFFF || s.time < e.tidle + 100 * stTimeout d then .next s
        else .next (s.onHamper hk fun h => h.retire (8 * set + way))

end Sys2Proof.Machine
end

