-- ==== Sys2Proof/Machine/Complete.lean ====
section
/-! DEFINITION. When a launch record is complete (spec/11_execution_model.md R279 to R287, R302, R312; spec/08 R208; spec/07 R205;
spec/15 R356; spec/16 R379; spec/18 R425; spec/19 R468). -/

set_option autoImplicit false
set_option Elab.async false

namespace Sys2Proof.Machine

/-! ## Doublewords of the record (R279 to R284, R302) -/

/-- NLEV. -/
def State.nlev (s : State) (r : Nat) : Nat := bits (s.dw r 0) 11 8

/-- The domain code of level `i` (R279). -/
def State.level (s : State) (r i : Nat) : Nat := bits (s.dw r 2) (8 * i + 3) (8 * i)

/-- The scope bound to a domain code (R279). -/
def domainScope (code : Nat) : Nat :=
  match code with
  | 7 => 4
  | 6 => 3
  | 5 => 2
  | 4 | 3 | 2 => 1
  | _ => 0

/-- The levels are well formed and cover the span (R279, R280, R282). -/
def State.levelsOk (s : State) (r : Nat) : Bool :=
  let n := s.nlev r
  decide (1 ≤ n) && decide (n ≤ 8) &&
    (List.range 8).all (fun i =>
      if i < n then s.level r i ≤ 7 && bits (s.dw r 2) (8 * i + 7) (8 * i + 4) == 0 && (i == 0 || s.level r i < s.level r (i - 1))
      else bits (s.dw r 2) (8 * i + 7) (8 * i) == 0) &&
    (s.spanDevs r == 1 || (List.range n).any fun i => s.level r i == 7) &&
    (s.spanDies r == 1 || (List.range n).any fun i => decide (6 ≤ s.level r i))

/-- A grid doubleword (R302). -/
def gridOk (w : Word) : Bool :=
  let d := bits w 61 60
  let e := fun i => bits w (20 * i + 19) (20 * i)
  if d == 0 then w == 0
  else !bit w 63 && (List.range 3).all (fun i => (e i != 0) == decide (i < d)) && (d != 3 || decide (e 1 * e 2 ≤ 2 ^ 32 - 1))

/-- The record's own doublewords (R282 to R285). -/
def State.recordOk (s : State) (r : Nat) : Bool :=
  let d := s.dw r
  bits (d 0) 7 0 == 1 && bits (d 0) 63 59 == 0 && bits (d 0) 55 54 == 0 && bits (d 0) 31 21 == 0 && bits (d 0) 15 12 == 0 &&
    bits (d 1) 31 13 == 0 && bits (d 1) 33 32 == 0 && s.levelsOk r &&
    s.domainOk r && bits (d 3) 15 11 == 0 && bits (d 3) 23 21 == 0 && bits (d 3) 63 29 == 0 &&
    bits (d 4) 5 0 == 0 && bits (d 4) 63 52 != 0 &&
    bits (d 5) 63 59 == 0 && decide (bits (d 5) 58 52 ≤ 64) && bits (d 7) 63 60 == 0 &&
    bits (d 8) 15 12 == 0 && bits (d 8) 31 29 == 0 && bits (d 8) 63 33 == 0 && decide (bits (d 8) 28 16 ≤ 4096) &&
    decide (bits (d 8) 11 0 + bits (d 8) 28 16 ≤ 4096) &&
    bits (d 9) 14 12 == 0 && bits (d 9) 63 16 == 0 && (!bit (d 9) 15 || s.granted r (bits (d 9) 11 0)) &&
    bits (d 10) 5 0 == 0 && bits (d 10) 63 52 != 0 && bits (d 11) 63 52 == 0 && bits (d 11) 15 0 == 0 &&
    d 21 == 0 && d 22 == 0 && d 23 == 0 && (List.range 8).all fun i => gridOk (d (13 + i))

/-! ## Roles (R287) -/

/-- The 64 bytes of a role entry. -/
def State.roleEntry (s : State) (r i : Nat) : Option (List Byte) := s.readRec r (bits (s.dw r 4) 51 0 + 64 * i) 64

/-- A doubleword of a role entry. -/
def roleDw (e : List Byte) (i : Nat) : Word := w64 (stField e (8 * i) 8)

/-- The core kind of a role. -/
def roleKind (e : List Byte) : Nat := bits (roleDw e 2) 1 0

/-- The place of a compute role covers a row and column; FIRST and count of another role cover an index. -/
def roleCovers (e : List Byte) (row col : Nat) : Bool :=
  let p := roleDw e 2
  decide (bits p 12 8 ≤ row) && decide (row ≤ bits p 12 8 + bits p 28 24) && decide (bits p 20 16 ≤ col) &&
    decide (col ≤ bits p 20 16 + bits p 36 32)

/-- The indices that a quay or harbour role covers. -/
def roleIndices (e : List Byte) : List Nat := (List.range (bits (roleDw e 2) 55 48 + 1)).map fun i => bits (roleDw e 2) 47 40 + i

/-- PLACE lies inside the span, or inside the indices of its kind. -/
def State.placeOk (s : State) (r : Nat) (e : List Byte) : Bool :=
  let p := roleDw e 2
  match bits p 1 0 with
  | 0 =>
    bits p 7 2 == 0 && bits p 15 13 == 0 && bits p 23 21 == 0 && bits p 31 29 == 0 && bits p 63 37 == 0 &&
      decide (bits p 12 8 + bits p 28 24 < s.spanRows r) && decide (bits p 20 16 + bits p 36 32 < s.spanCols r)
  | 1 => bits p 39 2 == 0 && bits p 63 56 == 0 && decide (bits p 47 40 + bits p 55 48 < 64)
  | 2 => bits p 39 2 == 0 && bits p 63 56 == 0 && decide (bits p 47 40 + bits p 55 48 < 16)
  | _ => false

/-- First slot and count of accumulator slots of the core `c` of an octet under a role (R188, R287). -/
def roleAcc (e : List Byte) (c : Nat) : Nat × Nat :=
  if roleDw e 6 == 0 then (2 * c, 2)
  else (bits (roleDw e 6) (8 * c + 7) (8 * c + 4), bits (roleDw e 6) (8 * c + 3) (8 * c))

/-- ACC keeps every core's slots at 15 or below. -/
def accOk (e : List Byte) : Bool := (List.range 8).all fun c => decide ((roleAcc e c).1 + (roleAcc e c).2 ≤ 16)

/-- Most 4 KiB units of a scratch image, by role kind. -/
def sLenMax : Nat → Nat
  | 0 => 44
  | 1 => 128
  | _ => 256

/-- Bytes and tags of a quay or harbour scratch image in 0x2_CA00 to 0x2_FFFF are zero. -/
def State.imageHole (s : State) (r : Nat) (e : List Byte) : Bool :=
  let a := bits (roleDw e 7) 51 12 * 4096
  let n := bits (roleDw e 7) 63 52 * 4096
  if roleKind e == 0 || n ≤ 0x2CA00 then true
  else
    let m := min n 0x30000 - 0x2CA00
    match s.readRec r (a + 0x2CA00) m, s.readRec r (a + n + 0x2CA00 / 64) (m / 64) with
    | some bs, some ts => bs.all (fun b => b == 0) && ts.all fun b => b == 0
    | _, _ => false

/-- SCR (R287). -/
def State.scratchOk (s : State) (r : Nat) (e : List Byte) : Bool :=
  let w := roleDw e 7
  bits w 11 0 == 0 && decide (bits w 63 52 ≤ sLenMax (roleKind e)) && (bits w 51 12 != 0 || bits w 63 52 == 0) && s.imageHole r e

/-! ## Channel and berth descriptors (R205, R208, R312) -/

/-- Ranges [lo, hi) of bytes meet. -/
def meets (a b : Nat × Nat) : Bool := decide (a.1 < b.2) && decide (b.1 < a.2)

/-- The range of a declared channel's queue. -/
def chanRange (d : List Byte) : Nat × Nat := (stField d 0 4, stField d 0 4 + 256 * stField d 4 2)

/-- The core memory ends here for channel queues of a core kind. -/
def chanLimit : Nat → Nat
  | 0 => 0x2C000
  | 1 => 0x70000
  | _ => 0x100000

/-- The party that frees the entries of a channel of a role on the first `dies` dies (R208, R377): a thread slot of a core that the role covers, or
that core's stream engine. -/
def ownerOk (dies : Nat) (e : List Byte) (eng : Bool) (p : Nat) : Bool :=
  let i := p % 2 ^ 16
  decide (p < 2 ^ 24) && match roleKind e, eng with
    | 0, false => p / 2 ^ 16 % 16 == 0 && decide (i < 2 ^ 12) && decide (p / 2 ^ 20 < dies) && roleCovers e (i / 2 ^ 7) (i / 4 % 32)
    | 1, false => p / 2 ^ 16 % 16 == 1 && decide (p / 2 ^ 20 < dies) && (roleIndices e).contains (i / 4)
    | 2, false => p / 2 ^ 16 % 16 == 8 && [8, 9].contains (p / 2 ^ 20) && (roleIndices e).contains (i / 4)
    | 1, true => p / 2 ^ 16 % 16 == 12 && decide (p / 2 ^ 20 < dies) && (roleIndices e).contains i
    | _, _ => false

/-- A channel descriptor of a role of a record with `sets` sets and dies (R208); one that is not declared has no limits. -/
def chanOk (sets dies : Nat) (e d : List Byte) : Bool :=
  let kind := roleKind e
  let f := stField d 6 1
  if f % 2 == 0 then true
  else
    stField d 0 4 % 256 == 0 && decide (1 ≤ stField d 4 2) && decide (stField d 4 2 ≤ 64) &&
      decide ((chanRange d).2 ≤ chanLimit kind) && (kind != 1 || !meets (chanRange d) (0x2CA00, 0x30000)) &&
      f / 4 == 0 && (f / 2 == 0 || kind == 1) && [0, 1, 3].contains (stField d 7 1) &&
      stField d 11 1 == 0 && (stField d 7 1 != 3 || stField d 8 3 == 0) && (stField d 7 1 != 1 || decide (stField d 8 3 < sets)) &&
      ownerOk dies e (f / 2 == 1) (stField d 12 4) && (d.drop 16).all fun b => b == 0

/-- The channel descriptors of a role. -/
def State.roleChans (s : State) (r : Nat) (e : List Byte) : Option (List (List Byte)) :=
  (s.readRec r (bits (roleDw e 3) 51 0) 512).map fun bs => (List.range 16).map fun i => (bs.drop (32 * i)).take 32

/-- The berth descriptors of a role, none where BERTH is 0. -/
def State.roleBerths (s : State) (r : Nat) (e : List Byte) : Option (List Berth) :=
  if roleDw e 4 == 0 then some []
  else (s.readRec r (bits (roleDw e 4) 51 0) 512).map fun bs => (List.range 16).map fun i => berthOf ((bs.drop (32 * i)).take 32)

/-- No two ranges of a list meet. -/
def apart : List (Nat × Nat) → Bool
  | [] => true
  | a :: l => l.all (fun b => !meets a b) && apart l

/-- Descriptors of a role meet R208 and R205 and lie apart (R312); channel 15 is declared. -/
def State.descriptorsOk (s : State) (r : Nat) (e : List Byte) : Bool :=
  match s.roleChans r e, s.roleBerths r e with
  | some cs, some bs =>
    let on := fun (d : List Byte) => stField d 6 1 % 2 == 1
    let used := bs.filter fun b => b.flags % 2 == 1
    cs.all (chanOk (bits (s.dw r 6) 63 52) (s.spanDies r) e) && (match cs[15]? with | some d => on d | none => false) &&
      used.all (fun b => b.ok) &&
      apart (((cs.filter on).map chanRange) ++ used.map fun b => (b.base, b.base + b.n * b.slotb))
  | _, _ => false

/-! ## The resident handler table (R425) -/

/-- The handler table entry of a function: 64 bytes. -/
def State.handlerEntry (s : State) (vf : Nat) : List Byte := s.dm.bytes (bits (s.reg .ferh) 51 12 * 4096 + 64 * vf) 64

/-- A handler field of the entry names a handler, and the entry keeps its limits. -/
def State.handlerOk (s : State) (vf kind : Nat) : Bool :=
  let e := s.handlerEntry vf
  let h := fun i => w64 (stField e (8 * i) 8)
  bit (h kind) 0 && (List.range 3).all (fun i => !bit (h i) 1 && bits (h i) 63 52 == 0) &&
    (List.range 3).all (fun i => bits (h (3 + i)) 63 52 == 0 && bits (h (3 + i)) 11 0 == 0) && h 6 == 0 && h 7 == 0

/-- A role entry meets its limits. -/
def State.roleOk (s : State) (r : Nat) (e : List Byte) : Bool :=
  s.placeOk r e && bits (roleDw e 1) 63 52 == 0 && bits (roleDw e 1) 5 0 == 0 && (roleKind e != 0 || accOk e) && s.scratchOk r e &&
    s.descriptorsOk r e && s.handlerOk (s.recVf r) (roleKind e)

/-- Compute roles of a record by number. -/
def State.roles (s : State) (r : Nat) : Option (List (List Byte)) :=
  (s.readRec r (bits (s.dw r 4) 51 0) (64 * bits (s.dw r 4) 63 52)).map fun bs =>
    (List.range (bits (s.dw r 4) 63 52)).map fun i => (bs.drop (64 * i)).take 64

/-- The compute roles that cover a place. -/
def coverers (es : List (List Byte)) (row col : Nat) : List (List Byte) := es.filter fun e => roleKind e == 0 && roleCovers e row col

/-- No core is covered twice, and cores of an octet own different accumulator slots (R285, R287). -/
def State.rolesApart (s : State) (r : Nat) (es : List (List Byte)) : Bool :=
  let rows := s.spanRows r
  let cols := s.spanCols r
  let once := (List.range (rows * cols)).all fun i => decide ((coverers es (i / cols) (i % cols)).length ≤ 1)
  let own := fun (kind : Nat) => ((es.filter fun e => roleKind e == kind).flatMap roleIndices)
  let nodup := fun (l : List Nat) => (l.foldl insertNat []).length == l.length
  let slots := fun (m k : Nat) => (List.range 8).flatMap fun c =>
    match coverers es (2 * m + c / 4) (4 * k + c % 4) with
    | e :: _ => (List.range (roleAcc e c).2).map fun i => (roleAcc e c).1 + i
    | [] => []
  once && nodup (own 1) && nodup (own 2) &&
    (List.range ((rows + 1) / 2 * ((cols + 3) / 4))).all fun i => nodup (slots (i / ((cols + 3) / 4)) (i % ((cols + 3) / 4)))

/-! ## Party sets and barrier groups (R379) -/

/-- The 16 bytes of a set entry. -/
def State.setEntry (s : State) (r i : Nat) : Option (List Byte) := s.readRec r (bits (s.dw r 6) 51 0 + 16 * i) 16

/-- The member array of a set: party IDs, or none where the set breaks its limits. -/
def State.setMembers (s : State) (r i : Nat) : Option (List Nat) :=
  match s.setEntry r i with
  | none => none
  | some e =>
    let m := w64 (stField e 0 8)
    let n := stField e 8 2
    if bits m 63 52 != 0 || bits m 1 0 != 0 || n == 0 || stField e 10 6 != 0 then none
    else match s.readRec r (bits m 51 0) (4 * n) with
      | none => none
      | some bs =>
        let ms := (List.range n).map fun k => stField bs (4 * k) 4
        if ms.all (fun p => decide (p < 2 ^ 24)) && (ms.zip (ms.drop 1)).all (fun p => decide (p.1 < p.2)) then some ms else none

/-- Every set of a record. -/
def State.allSets (s : State) (r : Nat) : Option (List (List Nat)) :=
  let ms := (List.range (bits (s.dw r 6) 63 52)).map fun i => s.setMembers r i
  if ms.all (·.isSome) then some (ms.map fun m => m.getD []) else none

/-- Every barrier group of a record: its set and scope; none where one breaks its limits. -/
def State.allBars (s : State) (r : Nat) : Option (List (Nat × Nat)) :=
  let n := bits (s.dw r 7) 59 52
  match s.readRec r (bits (s.dw r 7) 51 0) (8 * n) with
  | none => none
  | some bs =>
    let gs := (List.range n).map fun i => w64 (stField bs (8 * i) 8)
    let scopes := (List.range (s.nlev r)).map fun i => domainScope (s.level r i)
    if gs.all (fun g => bits g 63 15 == 0 && decide (bits g 11 0 < bits (s.dw r 6) 63 52) && scopes.contains (bits g 14 12)) then
      some (gs.map fun g => (bits g 11 0, bits g 14 12))
    else none

/-! ## Stages (R356, R468) -/

/-- A page of a spill area is confidential (R468). -/
def State.confPage (s : State) (r va : Nat) : Bool := match s.walk (s.recAsid r) (s.recVf r) va with
  | .ok t => bit t.pte 11
  | .error _ => false

/-- Every page of a range is confidential (R468). -/
def State.confAll (s : State) (r va n : Nat) : Bool :=
  (List.range ((va + n + 2 ^ 16 - 1) / 2 ^ 16 - va / 2 ^ 16)).all fun i => s.confPage r (va / 2 ^ 16 * 2 ^ 16 + 2 ^ 16 * i)

/-- A logical cluster of CLMASK holds a core of a role, within the span. -/
def State.clusterHolds (s : State) (r : Nat) (e : List Byte) (p : Nat) : Bool :=
  decide (p / 4 < s.spanDies r) && (List.range 256).any fun i =>
    roleCovers e (p % 4 / 2 * 16 + i / 16) (p % 2 * 16 + i % 16)

/-- The code limit of a role's image: `codelim` of its context image. -/
def State.roleLimit (s : State) (r : Nat) (e : List Byte) : Nat := s.recNat r (bits (roleDw e 1) 51 0 + 8 * 240) 8 % 2 ^ 52

/-- A stage descriptor (R356). -/
def State.stageOk (s : State) (r : Nat) (es : List (List Byte)) (d : List Byte) : Bool :=
  let c := stClusters d
  match es[stRole d]? with
  | none => false
  | some e =>
    roleKind e == 0 && stField d 0 8 < 2 ^ 52 && stEntry d % 4 == 0 && decide (stEntry d < s.roleLimit r e) &&
      stField d 8 8 < 2 ^ 52 && stCarry d % 32 == 0 && stField d 16 8 < 2 ^ 52 && stSpill d % 64 == 0 && stTimeout d != 0 &&
      decide (1 ≤ stCredits d) && decide (stCredits d ≤ 1024) && stField d 30 2 < 4096 && stField d 32 2 < 4096 &&
      decide (1 ≤ stSpw d) && decide (stSpw d ≤ 64) && stField d 35 1 == 1 && !c.isEmpty && (d.drop 40).all (fun b => b == 0) &&
      c.all (s.clusterHolds r e) && decide (stSset d + c.length ≤ bits (s.dw r 6) 63 52) &&
      (!s.recConf r || s.confAll r (stSpill d) (c.length * 2048 * stSpw d * 256))

/-- The stages meet R356, their table can be read, and the credits of a cluster sum to at most 1,024. -/
def State.stagesOk (s : State) (r : Nat) (es : List (List Byte)) : Bool :=
  let ds := s.stages r
  (s.readRec r (bits (s.dw r 5) 51 0) (64 * bits (s.dw r 5) 58 52)).isSome && ds.all (fun d => s.stageOk r es d.2) &&
    (List.range 32).all fun p =>
      decide (((ds.filter fun d => (stClusters d.2).contains p).map fun d => stCredits d.2).foldl (· + ·) 0 ≤ 1024)

/-- A record is complete (R285). -/
def State.complete? (s : State) (r : Nat) : Bool :=
  s.reg .fepool != 0 && s.reg .feqt != 0 && s.reg .ferh != 0 && s.recordOk r &&
    match s.roles r with
    | none => false
    | some es =>
      es.all (s.roleOk r) && s.rolesApart r es && (s.allSets r).isSome && (s.allBars r).isSome && s.stagesOk r es &&
        (s.recRuns r (s.faultBase r) (bits (s.dw r 10) 63 52 * 4096)).isSome

end Sys2Proof.Machine
end

