-- ==== Sys2Proof/Machine/Keyed.lean ====
section
/-! DEFINITION. The keyed-stage unit `ks` (spec/08_system_ops.md R217 to R220; spec/15_keyed_stages.md). -/

set_option autoImplicit false
set_option Elab.async false

namespace Sys2Proof.Machine

/-- Goes on with the descriptor of a stage that the issuing job declares, or traps. -/
def State.withStage (s : State) (g : Nat) (tval : Word) (k : Nat → List Byte → Res) : Res :=
  match s.record? with
  | none => .trap trapIllegalOp tval
  | some r => match s.stage r g with
    | some d => k r d
    | none => if s.stageLost r g then .ok ((s.complete .ks 0 0).spillFailed r) else .trap trapIllegalOp tval

/-- `emit` with its payload: the credit request, or the record on its way. -/
def State.emitOn (s0 : State) (r : Nat) (d : List Byte) (pay : List Byte) : Res :=
  s0.ordered fun s =>
    let l := s.lat .ks
    let g := bits l.t 5 0
    let p := keyCluster d l.a
    let hk := (s.job r).hamperOf p
    let me := (s.coreId, s.core.cur.val)
    let h := s.hamper hk
    let k : KRec := ⟨g, l.a, w64 (g * 2 ^ 48 + pay.length * 2 ^ 40 + s.party), pay⟩
    if look 0 h.credits g != 0 && (h.waiter g == none || h.waiter g == some me) then
      .ok ((s.grantEmit hk k s.coreId s.core.cur).noteStage r hk g (h.waiter g))
    else
      let s1 := if h.requests.contains (g, me) then s
        else (s.onHamper hk fun h => { h with requests := h.requests ++ [(g, me)] }).noteStage r hk g (h.waiter g)
      (s1.block .ks 3 10 0 (stageParty g p) g).holding pay

/-- `emit` (R218). -/
def ksEmit (s : State) : Res :=
  let l := s.lat .ks
  let n := bits l.b 39 32
  s.check (bits l.b 63 40 != 0 || n % 8 != 0 || 248 < n) trapIllegalOp l.b <| s.check (bits l.t 63 6 != 0) trapIllegalOp l.t <|
    s.withStage (bits l.t 5 0) l.t fun r d =>
      if s.resuming then s.emitOn r d s.held
      else if n == 0 then s.emitOn r d []
      else
        let a := w64 (bits l.b 31 0)
        match s.spaTarget a with
        | .error e => .trap e l.b
        | .ok (c, off) => match s.spaOffset c off n 8 false with
          | some e => .trap e l.b
          | none => s.emitOn r d (s.loadHome (.core c off) n)

/-- The slot's key window: 160 bytes of it (R219, R310). -/
def State.keyWindow (s : State) : List Byte := s.loadHome (.core s.coreId (0x2C000 + 0x200 * s.core.cur.val)) 160

/-- What follows when a stage may have lost a key: drains that count (R220). -/
def State.leftKey (s : State) : State := match s.record? with
  | some r => s.checkDrains r
  | none => s

/-- The slot is no coroutine (R219). -/
def State.noCoroutine (s : State) : Bool := s.sl.kind != 3

/-- `yield` (R219, R372). On a retirement resumption the entry is freed and STAGE_RETIRE_YIELD follows the bundle. -/
def ksYield (s : State) : Res :=
  let t := (s.lat .ks).t
  if s.noCoroutine then .trap trapIllegalOp t
  else s.ordered fun s => match s.sl.key with
    | none => .ok (s.endSlot 0)
    | some k =>
      let r := s.record?.getD 0
      let hk := hamperKey s.coreId
      let w := 8 * k.set + k.way
      if k.retire then
        let s1 := (s.releaseLock s.coreId s.core.cur).leaveFree r hk w
        .ok ((s1.complete .ks 0 0).onSl fun t => { t with after := some (0x13, k.key), key := none }).leftKey
      else
        let s1 := s.settleVector s.core.cur settleBound
        let carry := (List.range 8).map fun i => s1.sl.x[(Fin.ofNat 32 (24 + i))]
        .ok ((s1.leaveIdle hk w carry s1.keyWindow s1.sl.next).endSlot 0)

/-- `end` (R219). -/
def ksEnd (s : State) : Res :=
  let t := (s.lat .ks).t
  if s.noCoroutine then .trap trapIllegalOp t
  else s.ordered fun s => match s.sl.key with
    | none => .ok (s.endSlot 0)
    | some k => .ok (((s.leaveFree (s.record?.getD 0) (hamperKey s.coreId) (8 * k.set + k.way)).endSlot 0).leftKey)

/-- `drain` (R220). The increment that CE asks for is the Hamper's release, at the end of the draining, and the slot's own buffered stores are not
performed first (DESIGN CHOICE, log 124). -/
def ksDrain (s : State) : Res :=
  let l := s.lat .ks
  let g := bits l.t 5 0
  let ce := bit l.a 15
  if s.sl.kind == 3 then .trap trapIllegalOp l.t
  else if bits l.a 63 16 != 0 || bits l.a 14 12 != 0 then .trap trapIllegalOp l.a
  else if bits l.t 63 6 != 0 then .trap trapIllegalOp l.t
  else s.withStage g l.t fun r d =>
    if ce && !s.granted r (bits l.a 11 0) then .trap trapAccess l.a
    else
      let s1 := (stClusters d).foldl (fun s p => s.drainStage r ((s.job r).hamperOf p) g d) (s.complete .ks 0 0)
      let s2 := if ce then s1.onJob r fun j => { j with drains := j.drains ++ [⟨g, s.coreId.die, bits l.a 11 0⟩] } else s1
      .ok (if s.spillLost r g then s2.spillFailed r else s2.checkDrains r)

/-- The counts of a stage in a Hamper (R220): OVF, QUEUED, RUNNING and IDLE. -/
def Hamper.counts (h : Hamper) (g : Nat) : Word :=
  let ways := h.ways.filter fun w => w.2.stage == g
  let n := fun (p : HState → Bool) => (ways.filter fun w => p w.2.st).length % 2 ^ 16
  let recs := fun (p : KPlace → Bool) => (h.recs.filter fun r => r.1.stage == g && p r.2).length % 2 ^ 16
  w64 (recs (fun p => p == .overflow) * 2 ^ 48 + recs (fun p => p == .active || p == .behind) * 2 ^ 32 +
    n (fun st => st == .running || st == .retiring) * 2 ^ 16 + n (fun st => st == .idle))

/-- `stat` (R220). Bits of `t` above the stage, of which R220 says nothing, must be zero (DESIGN CHOICE, log 124). -/
def ksStat (s : State) : Res :=
  let t := (s.lat .ks).t
  s.check (bits t 63 6 != 0) trapIllegalOp t (.ok (s.complete .ks ((s.hamper (hamperKey s.coreId)).counts (bits t 5 0)) 0))

/-- The operation of an opcode of `ks` (R217). -/
def ksOp (opc : Nat) : Option (State → Res) :=
  match opc with
  | 0x01 => some ksYield
  | 0x02 => some ksEnd
  | 0x03 => some ksEmit
  | 0x04 => some ksDrain
  | 0x05 => some ksStat
  | _ => none

/-- KS_YIELD (R219): saves the coroutine's carry and key window into its Hamper entry and ends the activation. -/
def execKsYield (h : Hdr) (s : State) : Out := execTrigger .ks 0x01 h ksYield s

/-- KS_END (R219): frees the key's entry and ends the coroutine activation. -/
def execKsEnd (h : Hdr) (s : State) : Out := execTrigger .ks 0x02 h ksEnd s

/-- KS_EMIT (R218): requests a stage credit and routes a keyed record to its target cluster's Hamper. -/
def execKsEmit (h : Hdr) (s : State) : Out := execTrigger .ks 0x03 h ksEmit s

/-- KS_DRAIN (R220): retires every idle and spilled key of a stage, optionally counting when the stage is empty. -/
def execKsDrain (h : Hdr) (s : State) : Out := execTrigger .ks 0x04 h ksDrain s

/-- KS_STAT (R220): returns the counts of a stage's entries in the issuing cluster. -/
def execKsStat (h : Hdr) (s : State) : Out := execTrigger .ks 0x05 h ksStat s

end Sys2Proof.Machine
end

