-- ==== Sys2Proof/Machine/Octet.lean ====
section
/-! DEFINITION. The octet's matrix unit at work (spec/14_matrix_units.md R341 to R355; spec/07_engine_ops.md R190 to R193): waits of
a queue, fetches, steps, and completion. A queue's next command starts when the one before it has completed. -/

set_option autoImplicit false
set_option Elab.async false

namespace Sys2Proof.Machine

/-- Runs a change with another core in focus. -/
def State.within (s : State) (id : CoreId) (f : State → State) : State := (f (s.focus id)).focus s.coreId

/-- The octet of a core (R43). -/
def octetKey (id : CoreId) : Nat := id.die * 128 + octetOf id.idx

/-- The octet's accumulators and scale memory. -/
def State.octet (s : State) (id : CoreId) : Octet := look ⟨[], []⟩ s.octets (octetKey id)

/-- Changes an octet. -/
def State.onOctet (s : State) (id : CoreId) (f : Octet → Octet) : State :=
  { s with octets := put s.octets (octetKey id) (f (s.octet id)) }

/-- An accumulator element (R188). -/
def Octet.elem (o : Octet) (slot m n : Nat) : Nat := (look (0 : HWord) o.acc (slot * 8192 + m * 64 + n)).toNat

/-- Sets an accumulator element; +0 needs no entry. -/
def Octet.setElem (o : Octet) (slot m n v : Nat) : Octet :=
  let k := slot * 8192 + m * 64 + n
  { o with acc := if v == 0 then del o.acc k else put o.acc k (BitVec.ofNat 32 v) }

/-- Changes the elements of rows 0 to `rows` − 1 and columns 0 to `cols` − 1 of a slot; the flags of all of them. -/
def Octet.region (o : Octet) (slot rows cols : Nat) (f : Nat → Nat → Nat → Lane) : Octet × Nat :=
  (List.range (rows * cols)).foldl (fun r i =>
    let m := i / cols
    let n := i % cols
    let (v, g) := f m n (o.elem slot m n)
    (r.1.setElem slot m n v, r.2 ||| g)) (o, 0)

/-! ## Waits of a queue (R192, R343, R353) -/

/-- Whether a lock entry is a range of a command. -/
def MCmd.isMine (party : Nat) (m : MCmd) (l : RangeLock) : Bool := l.queue == party && l.seq == m.seq

/-- An earlier entry that keeps a range of the command from being read or written (R192). -/
def State.lockBefore (s : State) (m : MCmd) (r : CoreId × Nat × Nat × Bool × Nat) : Option RangeLock :=
  let party := queueParty s.core
  let early := (s.coreAt r.1).ranges.takeWhile fun l =>
    !(m.isMine party l && l.start == r.2.1 && l.stop == r.2.2.1 && l.write == r.2.2.2.1)
  early.find? fun l => !m.isMine party l && (l.write || r.2.2.2.1) && decide (l.start ≤ r.2.2.1) && decide (r.2.1 ≤ l.stop)

/-- The wait for a lock, as kind, object and releaser. -/
def State.lockWait (s : State) (m : MCmd) : Option (Nat × Nat × Nat) :=
  (m.ranges s.coreId).findSome? fun r => (s.lockBefore m r).map fun l => (8, bits (w64 r.2.2.2.2) 25 18 * 2 ^ 8, l.queue)

/-- The wait of a command for a lock on the berth slot that it is to write (R319). -/
def State.berthLock (s : State) (m : MCmd) : Option (Nat × Nat × Nat) :=
  (m.operands.filter fun o => o.2.2.2.2.2 && !o.2.2.2.2.1).findSome? fun (_, w, _, _, _, _) =>
    let (c, b) := s.operandBerth w
    (s.berthAt c b).bind fun d =>
      ((s.coreAt c).conflict (d.slotOff d.pi) d.slotb true).map fun l => (8, (s.coreAt c).cidx * 2 ^ 8, l.queue)

/-- The wait for a berth slot to be filled or to be free (R192). -/
def State.berthWait (s : State) (m : MCmd) : Option (Nat × Nat × Nat) :=
  (m.operands.filter fun o => o.2.2.2.2.2).findSome? fun (_, w, _, _, src, _) =>
    let (c, b) := s.operandBerth w
    match s.berthAt c b with
    | none => none
    | some d =>
      if src then (if d.filled == 0 then some (2, s.berthObject c b, d.prod) else none)
      else if d.space == 0 then some (3, s.berthObject c b, d.cons) else none

/-- The commands that an `mbar` still waits for. -/
def State.barLeft (s : State) (m : MCmd) : List (Nat × Nat) :=
  let qs := octetCores s.coreId.die (octetOf s.coreId.idx)
  m.before.filter fun p => (s.coreAt (qs.getD p.1 s.coreId)).mq.cmds.any fun k => k.seq == p.2

/-- The wait of an `mbar`: the queue whose command is oldest by sequence number, ties to the lowest core. -/
def State.barWait (s : State) (m : MCmd) : Option (Nat × Nat × Nat) :=
  let qs := octetCores s.coreId.die (octetOf s.coreId.idx)
  ((s.barLeft m).foldl (fun best p => match best with
    | none => some p
    | some b => if p.2 < b.2 then some p else best) none).map fun (i, _) =>
      (6, bits m.p 7 0, queueParty (s.coreAt (qs.getD i s.coreId)))

/-- A command has begun: a step has run or is fetched. -/
def MCmd.begun (m : MCmd) : Bool := m.kdone != 0 || m.buf.isSome || m.ended

/-- What the head of the queue of the core in focus waits for (R353); one that has begun may still meet a lock on the berth slot that it
fills (R319). -/
def State.matrixWait (s : State) : Option (Nat × Nat × Nat) :=
  match s.core.mq.cmds with
  | [] => none
  | m :: _ => if m.begun then s.berthLock m else s.lockWait m <|> s.berthWait m <|> s.berthLock m <|> s.barWait m

/-- Records the wait of the queue of the core in focus, or its end (R353, R381). Every queue does so at the end of each step. -/
def State.noteMatrix (s : State) : State :=
  if s.core.mq.cmds.isEmpty && !bit s.core.mq.wrr 63 then s else
  s.onCore fun c =>
    match s.matrixWait with
    | none => { c with mq := { c.mq with wrr := setBits c.mq.wrr 63 63 0 } }
    | some (kind, object, releaser) =>
      if sameReason c.mq.wrr kind 0 releaser object then c
      else { c with mq := { c.mq with wrr := wrrWord c.mq.wrr kind 0 releaser object, since := s.time } }

/-! ## Fetching (R346, R348, R354) -/

/-- Changes the head command of the core in focus. -/
def State.onHead (s : State) (f : MCmd → MCmd) : State :=
  s.onCore fun c => { c with mq := { c.mq with cmds := match c.mq.cmds with
    | [] => []
    | m :: ms => f m :: ms } }

/-- Where an operand's first byte is: its range, or the berth slot in turn (R189). -/
def State.operandAt (s : State) (w : Word) (source berth : Bool) : CoreId × Nat :=
  if berth then
    let (c, b) := s.operandBerth w
    match s.berthAt c b with
    | some d => (c, d.slotOff (if source then d.ci else d.pi))
    | none => (c, 0)
  else placeOf s.coreId (w64 (bits w 31 0))

/-- The element codes `k0` to `k0 + n - 1` of each row of an operand (R189). -/
def State.operandCodes (s : State) (w : Word) (fmt count k0 n : Nat) (berth : Bool) : List (List Nat) :=
  let (c, off) := s.operandAt w true berth
  (List.range count).map fun i =>
    fieldsOf (formatBits fmt) n
      (leNat ((s.coreAt c).mem.bytes (off + i * bits w 47 32 + k0 * formatBits fmt / 8) (rowBytes n fmt)))

/-- The scales of a CQ4 step: block scale and superscale of each column (R190, R351). -/
def State.stepScales (s : State) (m : MCmd) (k0 : Nat) : List (Nat × Nat) :=
  let mem := (s.octet s.coreId).scale
  let n := m.cols
  let k := m.inner
  (List.range n).map fun i =>
    ((mem.byte (m.sbase + i * (k / 64) + k0 / 64)).toNat, mem.nat (m.sbase + 4 * ((n * k + 255) / 256) + 4 * i) 4)

/-- The bytes of a scale image, from the arrays that the record names (R190). -/
def State.scaleImageBytes (s : State) (m : MCmd) : List Byte × List Byte :=
  let d := fun i => m.layout.getD i 0
  let rl := (d 2).toNat
  let g := (rl + 16383) / 16384
  let row0 := bits m.q 63 32
  let e0 := bits m.q 31 0
  let (b, s') := m.scaleSpan
  let (bc, bo) := placeOf s.coreId (w64 b.1)
  let (sc, so) := placeOf s.coreId (w64 s'.1)
  let first := row0 * (rl / 64) + e0 / 64
  let sfirst := row0 * g + e0 / 16384
  ((List.range m.cols).flatMap fun n =>
    (s.coreAt bc).mem.bytes (bo + (row0 + n) * (rl / 64) + e0 / 64 - first) (m.inner / 64),
   (List.range m.cols).flatMap fun n => (s.coreAt sc).mem.bytes (so + 4 * ((row0 + n) * g + e0 / 16384 - sfirst)) 4)

/-- A class whose steps read operands. -/
def MCmd.fetches (m : MCmd) : Bool := m.cls ≤ 3 || m.cls == 5 || m.cls == 7

/-- Elements along K of the next step (R342). -/
def MCmd.stepLen (m : MCmd) : Nat := min 64 (m.inner - m.kdone)

/-- The next step is the command's last. -/
def MCmd.lastStep (m : MCmd) : Bool := 3 < m.cls || m.inner ≤ m.kdone + 64

/-- The operands of the next step (R348). -/
def State.fetchStep (s : State) (m : MCmd) : FetchBuf :=
  let k0 := m.kdone
  if m.cls == 5 then ⟨0, s.operandCodes m.p 8 m.rows 0 m.cols (bit m.t 26), [], []⟩
  else if m.cls == 7 then
    let (b, c) := s.scaleImageBytes m
    ⟨0, [b.map (·.toNat)], [c.map (·.toNat)], []⟩
  else
    ⟨k0, s.operandCodes m.p m.fmtP m.rows k0 m.stepLen (bit m.t 26), s.operandCodes m.q m.fmtQ m.cols k0 m.stepLen (bit m.t 27),
      if m.fmtQ == 13 then s.stepScales m k0 else []⟩

/-- Releases locks of a command of the core in focus: its read-locks, or all of them. -/
def State.dropLocks (s : State) (m : MCmd) (all : Bool) : State :=
  let party := queueParty s.core
  s.mapCores fun id c =>
    if id.die == s.coreId.die then { c with ranges := c.ranges.filter fun l => !(m.isMine party l && (all || !l.write)) } else c

/-- The unit moves on the index of every berth that the command has read, or has written (R192). -/
def State.advanceBerths (s : State) (m : MCmd) (source : Bool) : State :=
  (m.operands.filter fun o => o.2.2.2.2.2 && o.2.2.2.2.1 == source).foldl (fun s o =>
    let (c, b) := s.operandBerth o.2.1
    if source then s.advanceCi c b 1 else s.advancePi c b 1) s

/-- MATRIX_FETCH_DONE (R346, R348): the operands of the head's next step stand in the fetch buffer; after the last fetch the
command's read-locks are released and its source berths move on. A fetch that the head's wait holds back does not come about. -/
def matrixFetch (s : State) : State :=
  match s.core.mq.cmds with
  | [] => s
  | m :: _ =>
    if !m.fetches || m.buf.isSome || m.ended || s.matrixWait.isSome then s
    else
      let s1 := s.onHead fun k => { k with buf := some (s.fetchStep m) }
      if m.lastStep then (s1.dropLocks m false).advanceBerths m true else s1

/-! ## Steps (R342 to R344, R349) -/

/-- The head of the core in focus can take its next step (R343). -/
def State.matrixReady (s : State) : Bool :=
  match s.core.mq.cmds with
  | [] => false
  | m :: _ => !m.ended && s.matrixWait.isNone && (!m.fetches || m.buf.isSome)

/-- The new value of an accumulator element in a compute step (R191). -/
def stepElement (m : MCmd) (f : FetchBuf) (i j old : Nat) : Lane :=
  let a := f.a.getD i []
  let b := f.b.getD j []
  let first := m.za && m.kdone == 0
  match m.cls with
  | 1 =>
    let acc := if first then 0 else old
    let av := a.map (elementValue m.fmtP)
    if m.fmtQ == 13 then
      let (sc, sup) := f.scales.getD j (0, 0)
      mmacCq4 acc av b sc sup
    else mmac (chunkLen m.fmtP m.fmtQ) acc av (b.map (elementValue m.fmtQ))
  | 2 => lutChunk m.fmtP m.fmtQ (if first then 0 else old) a b
  | _ => semiRun m.sop m.fmtP m.fmtQ (if first then semiIdentity m.sop else old) a b

/-- The effect of the head's next step on its accumulator region, and its flags. -/
def State.stepEffect (s : State) (m : MCmd) : Octet × Nat :=
  let o := s.octet s.coreId
  match m.cls, m.buf with
  | 4, _ => o.region m.accSlot m.rows m.cols fun _ _ _ => (0, 0)
  | 5, some f => o.region m.accSlot m.rows m.cols fun i j _ => ((f.a.getD i []).getD j 0, 0)
  | 1, some f | 2, some f | 3, some f => o.region m.accSlot m.rows m.cols (stepElement m f)
  | _, _ => (o, 0)

/-- Runs the next step of the head of the core in focus. -/
def State.runStep (s : State) : State :=
  match s.core.mq.cmds with
  | [] => s
  | m :: _ =>
    let (o, g) := s.stepEffect m
    let s1 := s.onOctet s.coreId fun _ => o
    s1.onHead fun k => { k with kdone := if k.cls ≤ 3 then k.kdone + k.stepLen else k.kdone, ended := m.lastStep,
                                buf := if k.cls == 7 then k.buf else none, flags := k.flags ||| g }

/-- Weight of a core's matrix queue, `mqw`.W (R45). -/
def Core.mweight (c : Core) : Int := bits c.mqw 3 0

/-- MATRIX_STEP_START (R344): a decision of the octet's unit. -/
def matrixStep (s : State) : State :=
  let qs := octetCores s.coreId.die (octetOf s.coreId.idx)
  let rdy := qs.filter fun id => (s.focus id).matrixReady
  let s1 := qs.foldl (fun s id => s.onCoreAt id fun c =>
    { c with mq := { c.mq with cur := if rdy.contains id then c.mq.cur + c.mweight else 0 } }) s
  let total := rdy.foldl (fun acc id => acc + (s1.coreAt id).mweight) 0
  let best := rdy.foldl (fun (best : Option CoreId) id => match best with
    | none => some id
    | some b => if (s1.coreAt b).mq.cur < (s1.coreAt id).mq.cur then some id else best) none
  match best with
  | none => s1
  | some w => (s1.onCoreAt w fun c => { c with mq := { c.mq with cur := c.mq.cur - total } }).within w State.runStep

/-! ## Completion (R191 to R193, R350) -/

/-- An accumulator element as a drain writes it (R191). -/
def drainElement (m : MCmd) (x : Nat) : Lane :=
  let mode := (rmodeOf (bits m.c 2 0)).getD .rne
  if m.fmtP == 8 then (x, 0) else convert 8 m.fmtP mode (bit m.c 3) 0 x

/-- The status record of R193. -/
def statusRecord (q : MatQ) : List Byte :=
  leBytes 4 q.last ++ leBytes 4 q.flags ++
    leBytes 2 ((List.range 16).foldl (fun acc i => acc + (q.owns i).toNat * 2 ^ i) 0) ++ leBytes 2 (128 * q.accFirst) ++
    leBytes 2 (128 * (q.accFirst + q.accCount)) ++ List.replicate 18 0

/-- The writes of a command at its completion, with the flags of a drain. -/
def State.matrixWrites (s : State) (m : MCmd) : State × Nat :=
  let o := s.octet s.coreId
  let (c, off) := s.operandAt m.p false (bit m.t 26)
  match m.cls with
  | 6 =>
    let out := (List.range m.rows).map fun i => (List.range m.cols).map fun j => drainElement m (o.elem m.accSlot i j)
    let s1 := (out.zip (List.range m.rows)).foldl (fun s r =>
      s.writeCore c (off + r.2 * bits m.p 47 32)
        (leBytes (rowBytes m.cols m.fmtP) (packFields (formatBits m.fmtP) (r.1.map (·.1))))) s
    let s2 := if m.clr then s1.onOctet s.coreId fun o => (o.region m.accSlot m.rows m.cols fun _ _ _ => (0, 0)).1 else s1
    (s2, joinFlags (out.flatMap fun r => r.map (·.2)))
  | 7 =>
    match m.buf with
    | none => (s, 0)
    | some f =>
      let bs := fun (l : List (List Nat)) => (l.headD []).map (BitVec.ofNat 8)
      (s.onOctet s.coreId fun o =>
        { o with scale := (o.scale.write m.sbase (bs f.a)).write (m.sbase + 4 * ((m.cols * m.inner + 255) / 256)) (bs f.b) }, 0)
  | 9 =>
    let s1 := s.writeCore c off (statusRecord s.core.mq)
    (if m.clr then s1.onCore fun k => { k with mq := { k.mq with flags := 0 } } else s1, 0)
  | _ => (s, 0)

/-- The counters that a command increments at its completion: its own where it asks for that (R192), then those of the `mbar`s that have
completed behind it (R354). -/
def MCmd.counts (m : MCmd) : List Nat := (if m.ce then [m.ctr] else []) ++ m.owed

/-- Counters of the die of the core in focus are incremented. -/
def State.countMatrix (s : State) (ns : List Nat) : State := ns.foldl (fun s n => s.addCtr s.coreId.die n 1) s

/-- The command at the head completes (R350): its writes are visible, its locks go, a berth it wrote moves on, and the queue's flags and
last sequence number are set. The next head's wait is a new one (R353). -/
def State.completeHead (s : State) (m : MCmd) : State :=
  let (s1, g) := s.matrixWrites m
  let s2 := (s1.dropLocks m true).advanceBerths m false
  (s2.onCore fun c => { c with mq := { c.mq with cmds := c.mq.cmds.tail, last := m.seq, flags := c.mq.flags ||| m.flags ||| g,
                                                 wrr := setBits c.mq.wrr 63 63 0 } }).countMatrix m.counts

/-- The first `mbar` of the queue that waits for nothing more: it keeps to no order within its own queue (R191, R192). -/
def State.openBar (s : State) : Option MCmd := s.core.mq.cmds.find? fun m => m.cls == 8 && (s.barLeft m).isEmpty

/-- An `mbar` leaves its queue from behind the commands `ahead`. Its increments come after those of the last of these that has any, so that
the queue's increments keep its order (R354). -/
def passOver (ahead : List MCmd) (ns : List Nat) : List MCmd × List Nat :=
  match (ahead.reverse.find? fun m => !m.counts.isEmpty).map (·.seq) with
  | none => (ahead, ns)
  | some q => (ahead.map fun m => if m.seq == q then { m with owed := m.owed ++ ns } else m, [])

/-- MATRIX_COMMAND_COMPLETE (R192, R350): the head completes once its steps have ended, and no lock keeps it from its berth slot; else an
`mbar` behind it whose commands have completed does. -/
def matrixComplete (s : State) : State :=
  match s.core.mq.cmds with
  | [] => s
  | m :: _ =>
    if m.ended && (s.berthLock m).isNone then s.completeHead m
    else match s.openBar with
      | none => s
      | some b =>
        if b.seq == m.seq then s
        else
          let ahead := s.core.mq.cmds.takeWhile fun k => k.seq != b.seq
          let (ahead, ns) := passOver ahead b.counts
          let behind := (s.core.mq.cmds.dropWhile fun k => k.seq != b.seq).tail
          (s.onCore fun c => { c with mq := { c.mq with cmds := ahead ++ behind, last := b.seq } }).countMatrix ns

/-! ## The events -/

/-- MATRIX_ACCEPT (R187): a trigger that waits for acceptance is taken into the queue, once it can be. -/
def execMatrixAccept (s : State) : Out :=
  match s.sl.run, s.sl.wait with
  | .blocked, some w =>
    if w.unit == FU.mx then
      match mxCommand w.opc.toNat s with
      | .ok s1 => .next s1
      | _ => .next s
    else .next s
  | _, _ => .next s

/-- MATRIX_FETCH_DONE (R346). -/
def execMatrixFetchDone (s : State) : Out := .next (matrixFetch s)

/-- MATRIX_STEP_START (R344). -/
def execMatrixStepStart (s : State) : Out := .next (matrixStep s)

/-- MATRIX_COMMAND_COMPLETE (R350). -/
def execMatrixCommandComplete (s : State) : Out := .next (matrixComplete s)

end Sys2Proof.Machine
end

