-- ==== Sys2Proof/Machine/Launch.lean ====
section
/-! DEFINITION. Arming and placing a job and filling slots (spec/08_system_ops.md R231; spec/11_execution_model.md R285 to R293;
spec/15_keyed_stages.md R368; spec/18 R425; spec/19 R464). -/

set_option autoImplicit false
set_option Elab.async false

namespace Sys2Proof.Machine

/-! ## Arming (R231, R285, R286) -/

/-- The header of a fault area as arming writes it (R509). -/
def faultHeader : List Byte := leBytes 8 64 ++ List.replicate 56 0

/-- A counter of the grant of a record, by its key (R303). -/
def State.grantKey (s : State) (r k : Nat) : Bool := s.granted r (k % 4096)

/-- A complete idle record becomes armed: its party sets and barrier groups are copied (R379), its grids set up (R301), the header of
its fault area written (R509). Where CZ sets the granted counters to zero, their values are kept: they count from here on the dies where the
job is placed (R303). -/
def State.arm (s : State) (r : Nat) : State :=
  let sets := (s.allSets r).getD []
  let bars := (s.allBars r).getD []
  let base := if bit (s.dw r 8) 32 then s.ctrs.filter fun c => s.grantKey r c.1 else []
  let j := { Job.empty with sets := sets, bars := bars, barGen := bars.map fun _ => 0, grids := List.replicate 8 0, armedAt := s.time,
                            ctrBase := base }
  let s1 : State := { (s.setRecState r 1) with armed := s.armed.filter (fun q => q != r) ++ [r], jobs := put s.jobs r j }
  s1.writeRec r (s1.faultBase r) faultHeader

/-- The front end is set up: no packet is taken and no record armed while a base of it is zero (R424). -/
def State.feSet (s : State) : Bool := s.reg .fepool != 0 && s.reg .feqt != 0 && s.reg .ferh != 0

/-- The issuing job owns a record (R231, R284). -/
def State.owns (s : State) (r : Nat) : Bool := bit (s.dw r 1) 12 && s.record? == some (bits (s.dw r 1) 11 0)

/-- `launch` (R231). While the front end is not set up no record can be armed (R424), and it traps as for an incomplete one (DEDUCED, log 115). -/
def syLaunch (s : State) : Res :=
  let t := (s.lat .sy).t
  let r := bits t 11 0
  if bits t 63 12 != 0 then .trap trapIllegalOp t
  else if !s.owns r then .trap trapAccess t
  else if s.recState r != 0 || !s.complete? r || !s.feSet then .trap trapIllegalOp t
  else s.ordered fun s => .ok ((s.arm r).launch .sy 0x0B 20 60 (w64 r) 0)

/-- `lpatch` (R231). -/
def syLpatch (s : State) : Res :=
  let l := s.lat .sy
  let r := bits l.t 11 0
  let i := bits l.t 20 16
  if bits l.t 63 21 != 0 || bits l.t 15 12 != 0 then .trap trapIllegalOp l.t
  else if !s.owns r || !bit (s.dw r 1) (32 + i) then .trap trapAccess l.t
  else if s.recState r != 0 then .trap trapIllegalOp l.t
  else
    let w := (s.dw r i &&& ~~~l.b) ||| (l.a &&& l.b)
    .ok ((s.setDw r i w).launch .sy 0x0C 20 60 w 0)

/-- SY_LAUNCH (R231): arms a complete launch record that the issuing job owns. -/
def execSyLaunch (h : Hdr) (s : State) : Out := execTrigger .sy 0x0B h syLaunch s

/-- SY_LPATCH (R231): patches granted bits of a doubleword of a launch record. -/
def execSyLpatch (h : Hdr) (s : State) : Out := execTrigger .sy 0x0C h syLpatch s

/-! ## Filling a slot (R290, R368) -/

/-- The role context image of a record's role, 256 doublewords; none where it cannot be translated. -/
def State.roleImage (s : State) (r role : Nat) : Option (List Word) :=
  (s.roleEntry r role).bind fun e => (s.readRec r (bits (roleDw e 1) 51 0) 2048).map fun bs =>
    (List.range 256).map fun i => w64 (stField bs (8 * i) 8)

/-- The kind number of the resident handler table for a core (R425). -/
def handlerKind : CoreKind → Nat
  | .compute => 0
  | .quay => 1
  | .harbour => 2
  | .lighthouse => 0

/-- `svec` at a fill (R425). -/
def State.fillVec (s : State) (vf : Nat) (k : CoreKind) : Word :=
  setBits (bundleAddr (w64 (stField (s.handlerEntry vf) (8 * handlerKind k) 8))) 0 0 1

/-- FILL but for the lines of each kind (R290): the slot as the role image gives it, Ready. -/
def Slot.fill (t : Slot) (k : CoreKind) (img : List Word) (kind : Nat) (svec next : Word) : Slot :=
  let t1 := t.loadImage k img
  let t2 : Slot := { t1 with lats := t1.lats.map fun l => { l with valid := false } }
  let t3 : Slot := (t2.setLA false false).setAct false
  let priv := if k == .harbour then 1 else 0
  { t3 with
    csr := { t3.csr with xstat := w64 (k.role * 2 ^ 8 + priv * 2 ^ 4 + kind), estat := 0, iret := 0, wrr := 0, svec := svec }
    run := .ready, pc := next, npc := next, next := next, flow := .entered, after := none, csrw := none, reissue := [], wait := none,
    link := none, rep := [], stall := 0, issued := 0, bubble := 0, yielded := false, pend := Pending.none, key := none, helper := none,
    parked := false, badImage := none }

/-- FILL(T, kind, …) of R290 on a slot of a core that holds a context; `f` completes the lines of the kind. An image that fails its
checks marks the context dead; one that cannot be translated makes the job failed (R508). -/
def State.fillSlot (s : State) (id : CoreId) (n kind : Nat) (next : Word) (f : List Word → Slot → Slot) : State :=
  match (s.coreAt id).ctx with
  | none => s
  | some x => match (if x.dead then some [] else s.roleImage x.record x.role) with
  | none => s.killJob x.record 0x18 true
  | some img =>
    if x.dead then s
    else if imageTag (img.take 255) != dwordAt img 255 || (imageFault id.kind img 1).isSome then
      s.markDead id n 0x15 0 0 0 (w64 (0x4000000 + saveArea n))
    else
      let next := if kind == 0 then bundleAddr (dwordAt img 250) else next
      let svec := s.fillVec (s.recVf x.record) id.kind
      s.onCoreAt id fun c => c.onSlot n fun t => f img (t.fill id.kind img kind svec next)

/-- x21, x22 and x23 of a filled slot. -/
def Slot.args (t : Slot) (a b c : Word) : Slot := ((t.writeX 21 a).writeX 22 b).writeX 23 c

/-- A helper leaves the activation queue for a slot: the join that waits for it names that slot (R228). -/
def State.renameJoin (s : State) (id : CoreId) (h n : Nat) : State :=
  let c := s.coreAt id
  s.onCoreAt id fun k => k.onSlot 0 fun t => match t.wait with
    | some w =>
      if w.unit == FU.sy && w.opc == 8 && bits (t.lat .sy).t 3 0 == h then
        { t with csr := { t.csr with wrr := wrrWord t.csr.wrr 6 0 (partyOf id c n) h }, since := s.time }
      else t
    | none => t

/-- FILL3 (R368): the fill of a coroutine from its entry and its record. A fill that marks the context dead ends there (R290, R374). -/
def State.fillKey (s : State) (id : CoreId) (n : Nat) (k : KeyRun) : State :=
  let hk := hamperKey id
  let h := s.hamper hk
  let way := 8 * k.set + k.way
  match look? h.ways way with
  | none => s
  | some e =>
    let i := if k.retire then none else h.firstAt .active fun q => q.stage == k.stage && q.key == k.key
    let rec_ := i.bind fun i => (h.recs[i]?).map (·.1)
    let win := w64 (0x402C100 + 0x200 * n)
    let s1 := s.fillSlot id n 3 e.rpc fun _ t =>
      let t1 := { t with x := Vector.ofFn fun j : Fin 32 => if j.val < 24 then t.x[j] else e.carry.getD (j.val - 24) 0,
                         key := some k }
      match rec_ with
      | some q => t1.args q.header e.key win
      | none => t1.args 0 e.key 0
    let s2 := s1.writeCore id (0x2C000 + 0x200 * n) (e.loc ++ List.replicate (256 - e.loc.length) 0)
    if ((s1.coreAt id).slot n).key != some k then s1
    else match i, rec_ with
    | some i, some q =>
      let win := leBytes 8 q.key.toNat ++ q.payload
      (s2.writeCore id (0x2C100 + 0x200 * n) (win ++ List.replicate (256 - win.length) 0)).onHamper hk fun h =>
        { (h.returnCredit k.stage) with ways := put h.ways way { e with st := .running, core := some id }, recs := h.recs.eraseIdx i }
    | _, _ => s2.onHamper hk fun h => { h with ways := put h.ways way { e with core := some id } }

/-- The lowest-numbered slot of 1 to 3 that can be filled (R292). -/
def Core.fillable (c : Core) : Option Nat := [1, 2, 3].find? fun n => !(c.slot n).occupied && !(c.slot n).parked

/-- An activation fills a slot (R290, R292). -/
def State.startActivation (s : State) (id : CoreId) (n : Nat) (a : Activation) : State :=
  match a.kind, a.key with
  | 3, some k => s.fillKey id n k
  | kind, _ =>
    let s1 := s.fillSlot id n kind a.entry fun _ t =>
      if kind == 1 then { (t.writeX 21 a.a1).writeX 22 a.a2 with helper := a.helper } else t.args a.a1 a.a2 a.a3
    match a.helper with
    | some h => (s1.onCoreAt id fun c =>
        { c with helpers := c.helpers.set (Fin.ofNat 10 h) { c.helpers[(Fin.ofNat 10 h)] with slot := some n } }).renameJoin id h n
    | none => s1

/-- ACTIVATION_FILL (R290, R292): the lowest Free slot of 1 to 3 is filled from the oldest queued activation. -/
def execActivationFill (s : State) : Out :=
  let ready := match s.core.ctx with
    | some x => !x.dead && !x.preempting
    | none => false
  match ready, s.core.actq, s.core.fillable with
  | true, a :: rest, some n => .next ((s.onCore fun c => { c with actq := rest }).startActivation s.coreId n a)
  | _, _, _ => .next s

/-! ## Where a job goes (R287 to R289) -/

/-- A core that a record needs: its physical core, its role and the role's entry, and its `coord`. -/
structure Seat where
  id : CoreId
  role : Nat
  entry : List Byte
  coord : Word
  deriving DecidableEq, Repr

/-- The seats of a record under a mapping of logical dies and clusters (R287, R288). -/
def State.seats (s : State) (r : Nat) (j : Job) : List Seat :=
  match s.roles r with
  | none => []
  | some es => ((List.range es.length).zip es).flatMap fun (i, e) =>
    let dies := List.range (s.spanDies r)
    match roleKind e with
    | 0 => dies.flatMap fun l => ((List.range (s.spanRows r * s.spanCols r)).filterMap fun k =>
        let row := k / s.spanCols r
        let col := k % s.spanCols r
        if roleCovers e row col then some ⟨j.computeAt l row col, i, e, coordOf .compute l (row * 32 + col)⟩ else none)
    | 1 => dies.flatMap fun l => (roleIndices e).map fun k => ⟨⟨.quay, j.physDie l, k⟩, i, e, coordOf .quay l k⟩
    | _ => [8, 9].flatMap fun l => (roleIndices e).map fun k => ⟨⟨.harbour, l, k⟩, i, e, coordOf .harbour l k⟩

/-- The cluster that excludes itself from mapping when a unit is out of service (R504): 4 × die + cluster. -/
def unitCluster (u : UnitId) : Option Nat :=
  match u.kind with
  | .computeCore | .matrixUnit | .vectorUnit | .hamperBank => some (4 * u.die + clusterOf (u.row * 32 + u.col))
  | .islandRegulator => if u.die < 8 then some (4 * u.die + u.row / 16 % 4) else none
  | .quayCore | .harbourCore | .hbmChannel | .shumbiviaLane | .pcieLane | .lighthouse | .saveArea | .codeLine | .dmaData => none

/-- The die is held in reset: its lighthouse failed step 3 of boot (R496). -/
def State.dieHeld (s : State) (d : Nat) : Bool := bit (s.reg .bootst) (40 + d)

/-- A quay or harbour core is out of service, or the core's die is held in reset. -/
def State.coreOos (s : State) (id : CoreId) : Bool := s.dieHeld id.die || s.oos.any fun u =>
  u.die == id.die && u.row == id.idx && ((u.kind == .quayCore && id.kind == .quay) || (u.kind == .harbourCore && id.kind == .harbour))

/-- A physical cluster can take a cluster of a job: no unit of it is out of service, and, where the job has stages, none of another
running or parked job stands in it (R288, R357). -/
def State.clusterFree (s : State) (r hk : Nat) : Bool :=
  !(s.oos.any fun u => unitCluster u == some hk) &&
    ((s.stages r).isEmpty || match (s.hamper hk).record with
      | some q => q == r || !(s.recState q == 2 || s.recState q == 3)
      | none => true)

/-- A mapping is one that R288 allows. -/
def State.mappingOk (s : State) (r : Nat) (dies clusters : List Nat) : Bool :=
  let n := s.spanDies r
  dies.length == n && dies.all (fun d => decide (d < 8)) && (dies.foldl insertNat []).length == n && clusters.length == 4 * n &&
    (List.range n).all fun l => ((List.range 4).map fun c => clusters.getD (4 * l + c) 4).foldl insertNat [] == [0, 1, 2, 3]

/-- The matrix unit of an octet serves no other job, whose contexts or commands stand in it (R341). -/
def State.octetFree (s : State) (id : CoreId) : Bool :=
  (octetCores id.die (octetOf id.idx)).all fun k => (s.coreAt k).ctx.isNone && (s.coreAt k).mq.cmds.isEmpty

/-- A core that a record needs can be used and holds no context (R291). -/
def State.seatFree (s : State) (r : Nat) (id : CoreId) : Bool :=
  (s.coreAt id).ctx.isNone && !s.coreOos id && (id.kind != .compute || (s.clusterFree r (hamperKey id) && s.octetFree id))

/-- Every core that a record needs under a mapping can be used and holds no context (R291). -/
def State.seatsFree (s : State) (r : Nat) (j : Job) : Bool := (s.seats r j).all fun p => s.seatFree r p.id

/-- The orders of four clusters. -/
def clusterOrders : List (List Nat) :=
  (List.range 4).flatMap fun a => (List.range 4).flatMap fun b => (List.range 4).flatMap fun c => (List.range 4).filterMap fun d =>
    if [a, b, c, d].foldl insertNat [] == [0, 1, 2, 3] then some [a, b, c, d] else none

/-- The seats of one logical die on a physical die, under some order of its clusters, are free. -/
def State.dieFits (s : State) (r l p : Nat) : Bool :=
  clusterOrders.any fun o =>
    let j := { Job.empty with dies := List.replicate l 99 ++ [p], clusters := List.replicate (4 * l) 0 ++ o }
    (s.seats r j).all fun q => q.id.kind == .harbour || q.id.die != p || s.seatFree r q.id

/-- Logical dies can be given distinct physical ones on which they fit. -/
def State.diesFit (s : State) (r : Nat) : List Nat → List Nat → Bool
  | [], _ => true
  | l :: ls, free => free.any fun p => s.dieFits r l p && State.diesFit s r ls (free.erase p)

/-- The physical dies that a record may take: the one its leg fired on, else any (R288, R441). -/
def State.openDies (s : State) (r : Nat) : List Nat := if (s.job r).dies.isEmpty then List.range 8 else (s.job r).dies

/-- An armed record fits: some mapping finds every core it needs free. -/
def State.fits (s : State) (r : Nat) : Bool :=
  s.diesFit r (List.range (s.spanDies r)) (s.openDies r) &&
    (s.seats r Job.empty).all fun q => q.id.kind != .harbour || s.seatFree r q.id

/-- No armed record that comes before another by class and arming order fits (R291). -/
def State.firstArmed (s : State) (r : Nat) : Bool :=
  let before := s.armed.takeWhile fun q => q != r
  s.armed.all fun q => q == r || s.recState q != 1 || !s.fits q ||
    !(s.recQos r < s.recQos q || (s.recQos q == s.recQos r && before.contains q))

/-! ## Placing (R291, R312, R464) -/

/-- CEIL of `vqw` and `mqw` for a job (R464). -/
def State.ceiling (s : State) (r : Nat) : Nat :=
  let c := s.recQos r
  min (bits (s.reg .clsceil) (4 * c + 3) (4 * c)) (bits (s.reg (.vfqos (s.recVf r))) 11 8)

/-- A weight register under a new CEIL (R45). -/
def newCeiling (w : Word) (ceil : Nat) : Word := setBits (setBits w 11 8 ceil) 3 0 (min (bits w 3 0) ceil)

/-- The doublewords that a tag bitmap marks full, offset by `first` bits into it, for `n` doublewords. -/
def bitmapTags (bm : List Byte) (first n : Nat) : List Nat :=
  (List.range n).filterMap fun i =>
    let k := first + i
    if (bm.getD (k / 8) 0).toNat / 2 ^ (k % 8) % 2 == 1 then some k else none

/-- The parts of a core's memory that a placing writes from the scratch image: offset and length (R309, R313). -/
def imageParts : CoreKind → List (Nat × Nat)
  | .compute => [(0, 0x2C000)]
  | .quay => [(0, 0x2CA00), (0x30000, 0x50000)]
  | .harbour => [(0, 0x2CA00), (0x30000, 0xD0000)]
  | .lighthouse => []

/-- The part of a scratch image that lies in a part of memory, padded with zeros. -/
def partBytes (img : List Byte) (p : Nat × Nat) : List Byte :=
  let b := (img.drop p.1).take p.2
  b ++ List.replicate (p.2 - b.length) 0

/-- Memory and tags of a core as a placing leaves them (R291, R309 to R313). -/
def placeMemory (k : CoreKind) (m : Memory) (tags : List Nat) (img bm handler : List Byte) (berths : List Berth) : Memory × List Nat :=
  let parts := imageParts k
  let m1 := parts.foldl (fun m p => m.write p.1 (partBytes img p)) m
  let t1 := tags.filter fun d => !parts.any fun p => decide (p.1 ≤ 8 * d) && decide (8 * d < p.1 + p.2)
  let t2 := parts.foldl (fun t p => (bitmapTags bm (p.1 / 8) (p.2 / 8)).foldl insertNat t) t1
  let m2 := if k == .compute then m1.write 0x2C000 (List.replicate 0x1000 0) else m1
  let t3 := if k == .compute then t2.filter fun d => !(decide (0x2C000 ≤ 8 * d) && decide (8 * d < 0x2D000)) else t2
  let m3 := ((List.range berths.length).zip berths).foldl (fun m p =>
    if p.2.flags % 2 == 1 then m.write (descriptorOff p.1) p.2.bytes else m) m2
  let t4 := ((List.range berths.length).zip berths).foldl (fun t p =>
    if p.2.flags % 2 == 1 then (fullDwords (descriptorOff p.1) 32).foldl insertNat t else t) t3
  let m4 := m3.write 0x2F000 (handler.take 4096 ++ List.replicate (4096 - handler.length) 0)
  (m4, (fullDwords 0x2F000 4096).foldl insertNat t4)

/-- A channel as its descriptor declares it (R208, R209). -/
def channelOf (d : List Byte) : Channel :=
  let f := stField d 6 1
  if f % 2 == 0 then Channel.reset
  else { Channel.reset with
    declared := true, base := stField d 0 4, eng := f / 2 % 2 == 1, smode := stField d 7 1, sender := stField d 8 3,
    owner := stField d 12 3, entries := List.replicate (stField d 4 2) ⟨.free, 0, none⟩ }

/-- The image of the resident handler region for a core kind of a function (R425). -/
def State.handlerImage (s : State) (vf : Nat) (k : CoreKind) : List Byte :=
  let a := bits (w64 (stField (s.handlerEntry vf) (24 + 8 * handlerKind k) 8)) 51 12 * 4096
  if a == 0 then List.replicate 4096 0 else s.dm.bytes a 4096

/-- The accumulator elements and scale bytes that a core owns, as arming leaves them (R323). -/
def Octet.clean (o : Octet) (first count : Nat) : Octet :=
  { acc := o.acc.filter fun e => !(decide (first * 8192 ≤ e.1) && decide (e.1 < (first + count) * 8192)),
    scale := o.scale.write (4096 * first) (List.replicate (4096 * count) 0) }

/-- A core takes a context of a record: memory, channels, berths, match table, weights and accumulator slots; every party's wait
reason is zero (R291, R380). -/
def State.seat (s : State) (r : Nat) (p : Seat) (preempted : Bool) : State :=
  let e := p.entry
  let n := bits (roleDw e 7) 63 52 * 4096
  let a := bits (roleDw e 7) 51 12 * 4096
  let img := if preempted then [] else (s.readRec r a n).getD []
  let bm := if preempted then [] else (s.readRec r (a + n) (n / 64)).getD []
  let cs := (s.roleChans r e).getD []
  let bs := if p.id.kind == .compute then (s.roleBerths r e).getD [] else []
  let ceil := s.ceiling r
  let acc := roleAcc e (inOctet p.id.idx)
  let s1 := s.onCoreAt p.id fun c =>
    let (m, t) := placeMemory p.id.kind c.mem c.tags img bm (s.handlerImage (s.recVf r) p.id.kind) bs
    { c with
      mem := m, tags := t, coord := p.coord, actq := [], helpers := Vector.replicate 10 ⟨false, false, none, 0⟩,
      chans := Vector.ofFn fun i : Fin 16 => channelOf (cs.getD i.val []), matchTab := Vector.replicate 16 none, notices := [],
      outside := [], berths := Vector.ofFn fun i : Fin 16 => match bs[i.val]? with
        | some b => if b.flags % 2 == 1 then some b else none
        | none => none
      dreqs := 0, ctx := some ⟨r, s.cidNext, p.role, false, false, false⟩, vqw := newCeiling c.vqw ceil, mqw := newCeiling c.mqw ceil,
      mq := { c.mq with accFirst := acc.1, accCount := acc.2, wrr := 0, flags := 0, cur := 0, waiting := [] },
      stream := { c.stream with wrr := 0 }, stopped := false, slots := c.slots.map fun t => { t with csr := { t.csr with wrr := 0 } } }
  let s2 : State := { s1 with cidNext := s.cidNext + 1 }
  if p.id.kind == .compute then s2.onOctet p.id fun o => o.clean acc.1 acc.2 else s2

/-- The Hampers of a record's clusters, empty with every credit free (R357, R360). -/
def State.openHampers (s : State) (r : Nat) : State :=
  let old := fun (h : Hamper) => if h.record == some r then { h with record := none } else h
  let s : State := { s with hampers := s.hampers.map fun h => (h.1, old h.2) }
  (s.stages r).foldl (fun s g => (stClusters g.2).foldl (fun s p =>
    s.onHamper ((s.job r).hamperOf p) fun h =>
      let h1 := if h.record == some r then h else { Hamper.empty with record := some r }
      { h1 with credits := put h1.credits g.1 (stCredits g.2) }) s) s

/-- The granted counters of the job's dies hold what has been added since arming set them to zero, where CZ asks for it (R303). -/
def State.zeroCounters (s : State) (r : Nat) (dies : List Nat) : State :=
  if !bit (s.dw r 8) 32 then s
  else { s with ctrs := s.ctrs.filterMap fun c =>
    if !(dies.contains (c.1 / 4096) && s.grantKey r c.1) then some c
    else
      let v := c.2 - look 0 (s.job r).ctrBase c.1
      if v == 0 then none else some (c.1, v) }

/-- x1 to x8 of a control context receive ARG0 to ARG7 (R290). -/
def Slot.controlArgs (t : Slot) (args : List Word) : Slot :=
  { t with x := Vector.ofFn fun j : Fin 32 => if 1 ≤ j.val && j.val ≤ 8 then args.getD (j.val - 1) 0 else t.x[j] }

/-- What a placing reads of a role can be translated: its scratch image with its tags, its channels and its berths (R508). -/
def State.seatReadable (s : State) (r : Nat) (e : List Byte) : Bool :=
  let n := bits (roleDw e 7) 63 52 * 4096
  let a := bits (roleDw e 7) 51 12 * 4096
  (s.readRec r a n).isSome && (s.readRec r (a + n) (n / 64)).isSome && (s.roleChans r e).isSome && (s.roleBerths r e).isSome

/-- Places an armed record under a mapping (R291): every core is written and slot 0 of each filled; the job is running. Tables that can no
longer be translated make it failed (R508). -/
def State.placeJob (s : State) (r : Nat) (dies clusters : List Nat) : State :=
  let j := { s.job r with dies := dies, clusters := clusters }
  let seats := s.seats r j
  let s1 : State := { s with jobs := put s.jobs r { j with cores := seats.map (·.id), sliced := s.time }, armed := s.armed.filter (fun q => q != r),
                             epochs := put s.epochs r (0, false) }
  let s2 := ((s1.zeroCounters r (dies ++ if seats.any (fun p => p.id.kind == .harbour) then [8, 9] else [])).setRecState r 2).openHampers r
  let s2' := seats.foldl (fun s p => s.seat r p false) s2
  let s3 := if (s.roles r).isSome && s.stagesRead r && seats.all fun p => s.seatReadable r p.entry then s2' else s2'.killJob r 0x18 true
  let args := (List.range 8).map fun i => s3.dw r (24 + i)
  seats.foldl (fun s p => s.fillSlot p.id 0 0 0 fun _ t => t.controlArgs args) s3

/-- RECORD_PLACE (R291): an armed record that fits under the mapping given is placed, unless one before it fits. -/
def execRecordPlace (rec : Nat) (dies clusters : List Nat) (s : State) : Out :=
  if s.armed.contains rec && s.recState rec == 1 && s.mappingOk rec dies clusters && dies.all (s.openDies rec).contains &&
      s.firstArmed rec &&
      s.seatsFree rec { s.job rec with dies := dies, clusters := clusters } then
    .next (s.placeJob rec dies clusters)
  else .next s

end Sys2Proof.Machine
end

