-- ==== Sys2Proof/Machine/Pages.lean ====
section
/-! DEFINITION. Page requests of engines and queues (spec/19_virtualisation.md R461, R462). -/

set_option autoImplicit false
set_option Elab.async false

namespace Sys2Proof.Machine

/-- Entries of the page request queue. -/
def State.prqSize (s : State) : Nat := 2 ^ (bits (s.reg .prqbase) 3 0 + 6)

/-- Physical base of the page request queue. -/
def State.prqAddr (s : State) : Nat := bits (s.reg .prqbase) 51 12 * 4096

/-- An entry of the page request queue (R462). -/
def prqEntry (va asid vf access party tag : Nat) : List Byte :=
  leBytes 8 va ++ leBytes 2 asid ++ leBytes 1 vf ++ leBytes 1 access ++ leBytes 4 party ++ leBytes 2 tag ++ List.replicate 14 0

/-- The queue has no place for a request: it is full, or it lies past the end of device memory. -/
def State.prqFull (s : State) : Bool :=
  decide (s.prqSize ≤ (bits (s.reg .prqtail) 31 0 + 2 ^ 32 - bits (s.reg .prqhead) 31 0) % 2 ^ 32) ||
    decide (Config.deviceBytes < s.prqAddr + 32 * s.prqSize + 8)

/-- The first tag from `t` on that no outstanding request bears, among `n` more. -/
def freeTag (prqs : List (Nat × Requester)) (t : Nat) : Nat → Nat
  | 0 => t
  | n + 1 => if (look? prqs t).isNone then t else freeTag prqs ((t + 1) % 2 ^ 16) n

/-- Writes a page request and moves TAIL on; its tag, or none while the queue has no place (R462). -/
def State.askPage (s : State) (who : Requester) (party asid vf va access : Nat) : State × Option Nat :=
  if s.prqFull then (s, none)
  else
    let tag := freeTag s.prqs (s.prqNext % 2 ^ 16) s.prqs.length
    let tail := bits (s.reg .prqtail) 31 0
    let next := (tail + 1) % 2 ^ 32
    let s0 := (s.writeDevice (s.prqAddr + 32 * (tail % s.prqSize)) 0 (prqEntry va asid vf access party tag)).writeDevice
      (s.prqAddr + 32 * s.prqSize) 0 (leBytes 8 next)
    let s1 : State := { s0 with prqNext := tag + 1, prqs := put s.prqs tag who }
    (s1.setReg .prqtail (w64 next), some tag)

/-- A page request is no longer outstanding. -/
def State.dropPage (s : State) (tag : Option Nat) : State := match tag with
  | some t => { s with prqs := del s.prqs t }
  | none => s

end Sys2Proof.Machine
end

