-- ==== Sys2Proof/Machine/Queues.lean ====
section
/-! DEFINITION. The front-end queues and their packets (spec/18_command_firmware.md R423 to R441), and `sy.submit` (spec/08 R235). -/

set_option autoImplicit false
set_option Elab.async false

namespace Sys2Proof.Machine

/-! ## Queues (R426 to R428) -/

/-- A queue right after reset. -/
def FQueue.reset : FQueue := ⟨false, [], none, none, [], none, false, false, none, 0, 0, none⟩

/-- A front-end queue. -/
def State.queue (s : State) (q : Nat) : FQueue := look FQueue.reset s.queues q

/-- Changes a front-end queue. -/
def State.onQueue (s : State) (q : Nat) (f : FQueue → FQueue) : State := { s with queues := put s.queues q (f (s.queue q)) }

/-- The I/O die that serves a queue (R426). -/
def queueDie (q : Nat) : Nat := 8 + q / 2048 % 2

/-- The party ID of a queue (R426). -/
def queueClassParty (q : Nat) : Nat := queueDie q * 2 ^ 20 + 6 * 2 ^ 16 + q

/-- A number of `n` bytes at an offset of a descriptor or packet. -/
def fieldAt (d : List Byte) (i n : Nat) : Nat := leNat ((d.drop i).take n)

/-- Doubleword `i` of a packet. -/
def packetDw (p : List Byte) (i : Nat) : Word := w64 (fieldAt p (8 * i) 8)

/-- A queue descriptor obeys R427's limits. -/
def queueDescOk (d : List Byte) : Bool :=
  let ring := packetDw d 0
  let irq := w64 (fieldAt d 14 2)
  let legt := packetDw d 3
  bits ring 62 52 == 0 && bits ring 5 0 == 0 && decide (4 ≤ fieldAt d 8 1) && decide (fieldAt d 8 1 ≤ 16) && decide (fieldAt d 9 1 < 8) &&
    decide (fieldAt d 10 1 < 4) && decide (fieldAt d 11 1 < 64) && bits irq 14 10 == 0 && decide (264 ≤ bits irq 9 0) &&
    decide (fieldAt d 16 4 < 2 ^ 20) && fieldAt d 20 4 == 0 && bits legt 63 52 == 0 && bits legt 15 0 == 0 && fieldAt d 32 32 == 0

/-- The descriptor that holds for a queue: the copy of a resident queue, else the table's (R427). -/
def State.descOf (s : State) (q : Nat) : List Byte := if (s.queue q).resident then (s.queue q).desc else s.queueDesc q

/-- PRIO, VF, ASID and ring entries of a descriptor. -/
def descPrio (d : List Byte) : Nat := fieldAt d 9 1
/-- VF. -/
def descVf (d : List Byte) : Nat := fieldAt d 11 1
/-- ASID. -/
def descAsid (d : List Byte) : Nat := fieldAt d 12 2
/-- PASID. -/
def descPasid (d : List Byte) : Nat := fieldAt d 16 4 % 2 ^ 20
/-- 2^LSIZE. -/
def descSize (d : List Byte) : Nat := 2 ^ (fieldAt d 8 1 % 32)

/-- HEAD of a queue. -/
def State.qHead (s : State) (q : Nat) : Nat := bits (s.reg (.qhead q)) 31 0
/-- TAIL of a queue. -/
def State.qTail (s : State) (q : Nat) : Nat := bits (s.reg (.qtail q)) 31 0
/-- STATE of a queue. -/
def State.qState (s : State) (q : Nat) : Nat := bits (s.reg (.qst q)) 63 61
/-- Sets STATE. -/
def State.setQState (s : State) (q v : Nat) : State := s.setField (.qst q) 63 61 v

/-- Entries posted and not completed. -/
def State.qPosted (s : State) (q : Nat) : Nat := (s.qTail q + 2 ^ 32 - s.qHead q) % 2 ^ 32

/-- A lighthouse of a die. -/
def State.light (s : State) (die : Nat) : Lighthouse := look ⟨0, 0, 0, 0, 0, false, false, 0⟩ s.lights die

/-- Changes a lighthouse. -/
def State.onLight (s : State) (die : Nat) (f : Lighthouse → Lighthouse) : State := { s with lights := put s.lights die (f (s.light die)) }

/-- The queues of an I/O die still work: its side has not lost quorum (R447). -/
def State.sideRuns (s : State) (die : Nat) : Bool := !(s.light die).outOfQuorum

/-- The wait of a queue's party ends. -/
def FQueue.unwait (q : FQueue) : FQueue := { q with wrr := setBits q.wrr 63 63 0 }

/-! ## Tails, stops and resets (R430, R431) -/

/-- A stop (R431): STATE 4 with ERR and EIDX; the source is raised where IE is 1. -/
def State.stopQueue (s : State) (q code : Nat) : State :=
  let d := s.descOf q
  let s1 := (s.setReg (.qst q) (w64 (4 * 2 ^ 61 + code * 2 ^ 48 + s.qHead q))).onQueue q fun f =>
    { f.unwait with waiting := none, marks := [], watch := none, hit := false, fresh := false }
  if 2 ^ 15 ≤ fieldAt d 14 2 then s1.raiseQueue d else s1

/-- The queue is empty and runs no packet: it releases its resident slot (R432). A packet in course keeps it (DEDUCED, log 125). -/
def State.releaseEmpty (s : State) (q : Nat) : State :=
  if (s.queue q).resident && (s.queue q).waiting.isNone && s.qPosted q == 0 then
    (s.onQueue q fun f => { f with resident := false }).setQState q 0
  else s

/-- A new tail from the register or from `sy.submit` (R430). -/
def State.newTail (s : State) (q v : Nat) (fromReg : Bool) : State :=
  if s.qState q == 4 || !s.sideRuns (queueDie q) then s
  else if descSize (s.descOf q) < (v + 2 ^ 32 - s.qHead q) % 2 ^ 32 then if fromReg then s.stopQueue q 0x0D else s
  else ((s.onQueue q id).setReg (.qtail q) (w64 v)).releaseEmpty q

/-- QTAIL_WRITE (R430). -/
def execQtailWrite (q : Nat) (tail : HWord) (s : State) : Out := if 4096 ≤ q then .next s else .next (s.newTail q tail.toNat true)

/-- `submit` (R235): the release, and the new write index of a queue that the running ASID owns. -/
def sySubmit (s : State) : Res :=
  let l := s.lat .sy
  let q := bits l.t 11 0
  let d := s.queueDesc q
  let old := s.qTail q
  if s.coreId.kind != .harbour || bits l.t 63 12 != 0 then .trap trapIllegalOp l.t
  else if bits l.a 63 32 != 0 then .trap trapIllegalOp l.a
  else if descAsid d != s.asid then .trap trapAccess l.t
  else if descSize d < (bits l.a 31 0 + 2 ^ 32 - old) % 2 ^ 32 then .trap trapOverflow l.a
  else s.ordered fun s => .ok ((s.newTail q (bits l.a 31 0) false).launch .sy 0x40 20 60 (w64 old) 0)

/-- SY_SUBMIT (R235): advances the write index of a front-end queue. -/
def execSySubmit (h : Hdr) (s : State) : Out := execTrigger .sy 0x40 h sySubmit s

/-- A page request of a queue is no longer outstanding. -/
def State.dropQueuePage (s : State) (q : Nat) : State := (s.dropPage (s.queue q).prq).onQueue q fun f => { f with prq := none }

/-- RESET of a queue (R431, R440). -/
def State.resetQueue (s : State) (q : Nat) : State :=
  let s1 := (s.dropQueuePage q).onQueue q fun f =>
    { f.unwait with waiting := none, marks := [], watch := none, hit := false, fresh := false, resident := false, desc := [] }
  let s2 : State := { s1 with legs := s1.legs.filter fun l => l.1 / 1024 != q }
  (s2.setReg (.qhead q) (w64 (s2.qTail q))).setReg (.qst q) 0

/-- QCTL_RESET (R431). -/
def execQctlReset (q : Nat) (s : State) : Out := if 4096 ≤ q then .next s else .next (s.resetQueue q)

/-! ## Resident slots (R432) -/

/-- The queue is pending: described, enabled, with packets posted, and neither stopped nor waiting for a page (R432, R438). -/
def State.qPending (s : State) (q : Nat) : Bool :=
  let f := s.queue q
  !f.resident && f.prq.isNone && s.qPosted q != 0 && s.qState q != 4 && fieldAt (s.queueDesc q) 10 1 % 4 == 3

/-- The tick since which a queue has been pending without a break, as it stands at the end of a step. -/
def State.notePending (s : State) (q : Nat) : State :=
  let f := s.queue q
  if s.qPending q == f.pendingSince.isSome then s
  else s.onQueue q fun f => { f with pendingSince := if f.pendingSince.isSome then none else some s.time }

/-- Resident queues of a die. -/
def State.residents (s : State) (die : Nat) : Nat := (s.queues.filter fun q => queueDie q.1 == die && q.2.resident).length

/-- A function holds as many resident slots of a die as its FES allows (R464). -/
def State.atCap (s : State) (die vf : Nat) : Bool :=
  decide (bits (s.reg (.vfqos vf)) 6 0 ≤ (s.queues.filter fun q => queueDie q.1 == die && q.2.resident && descVf q.2.desc == vf).length)

/-- The pending queue that takes a free slot: the highest PRIO of those whose function is below its cap, then the one pending longest, then the lowest number. -/
def State.nextQueue (s : State) (die : Nat) : Option Nat :=
  (s.queues.filter fun q => queueDie q.1 == die && s.qPending q.1 && !s.atCap die (descVf (s.queueDesc q.1))).foldl (fun (best : Option Nat) q =>
    match best with
    | none => some q.1
    | some b =>
      let p := descPrio (s.queueDesc q.1)
      let pb := descPrio (s.queueDesc b)
      let since := fun (f : FQueue) => f.pendingSince.getD s.time
      if pb < p || (p == pb && (since q.2 < since (s.queue b) || (since q.2 == since (s.queue b) && q.1 < b))) then some q.1 else best) none

/-- The queue leaves its slot with its wait kept (R432). -/
def State.leaveSlot (s : State) (q : Nat) : State :=
  (s.onQueue q fun f => { f with resident := false }).setQState q 3

/-! ## Packets (R429, R433) -/

/-- The 64 bytes of a ring entry (R427, R429). -/
def State.ringEntry (s : State) (q i : Nat) : List Byte :=
  let d := s.descOf q
  let ring := packetDw d 0
  let a := bits ring 51 6 * 64 + 64 * (i % descSize d)
  if bit ring 63 then s.hm.bytes (hostKey (s.fnPort (descVf d) (queueDie q)) (descPasid d) a) 64 else s.deviceRead a 64

/-- A packet starts on the queue: it is resident and running, nothing of it is in course, and the front end is set up (R424, R429). -/
def State.qReady (s : State) (q : Nat) : Bool :=
  let f := s.queue q
  f.resident && f.waiting.isNone && s.qState q == 1 && s.qPosted q != 0 && s.sideRuns (queueDie q) &&
    s.feSet

/-- KIND of a header. -/
def pktKind (h : Word) : Nat := bits h 7 0
/-- ARG of a header. -/
def pktArg (h : Word) : Nat := bits h 19 16
/-- Entries of a packet (R429). -/
def pktEntries (h : Word) : Nat := if bit h 8 then 2 else 1

/-- A header obeys R433. -/
def headerOk (h : Word) : Bool :=
  let k := pktKind h
  bits h 62 60 == 0 && bits h 55 44 == 0 && bits h 31 20 == 0 && bits h 15 12 == 0 && !bit h 9 && decide (k < 6) &&
    decide (bits h 59 56 < 8) && bit h 8 == (k == 2 || k == 5) && (pktArg h == 0 || k == 2 || k == 4) && (!bit h 10 || k == 1 || k == 5)

/-- Some record of a function grants a counter (R433). -/
def State.vfGrants (s : State) (vf n : Nat) : Bool := (List.range 4096).any fun r => s.recVf r == vf && s.granted r n

/-- Doublewords `i` to `j` of a packet are zero. -/
def dwsZero (p : List Byte) (i j : Nat) : Bool := ((p.drop (8 * i)).take (8 * (j + 1 - i))).all fun b => b == 0

/-- A packet of KIND `kind` at HEAD is taken (R429, R431, R433): `k` runs it; a header in error stops the queue; a packet whose second
entry has not been posted waits. -/
def State.takePacket (s : State) (q kind : Nat) (k : List Byte → State → State) : Out :=
  if !s.qReady q then .next s
  else
    let first := s.ringEntry q (s.qHead q)
    let h := packetDw first 0
    if s.qPosted q < pktEntries h then .next s
    else if !headerOk h then .next (s.stopQueue q 0x02)
    else if pktKind h != kind then .next s
    else if bit h 63 && !s.vfGrants (descVf (s.descOf q)) (bits h 43 32) then .next (s.stopQueue q 0x07)
    else .next (k (if bit h 8 then first ++ s.ringEntry q (s.qHead q + 1) else first) s)

/-- A packet completes (R429, R433): the counter, the interrupt, and HEAD; a queue that is empty releases its slot (R432). -/
def State.endPacket (s : State) (q : Nat) (p : List Byte) : State :=
  let h := packetDw p 0
  let s1 := if bit h 63 then s.addCtr (bits h 59 56) (bits h 43 32) 1 else s
  let s2 := if bit h 11 then s1.raiseQueue (s.descOf q) else s1
  let s3 := (s2.onQueue q fun f =>
    { f.unwait with waiting := none, marks := [], watch := none, hit := false, fresh := false }).setReg (.qhead q)
      (w64 ((s2.qHead q + pktEntries h) % 2 ^ 32))
  if s3.qPosted q == 0 then (s3.onQueue q fun f => { f with resident := false }).setQState q 0 else s3.setQState q 1

/-- A packet waits, its wait reason recorded where it has one (R435, R437). -/
def State.holdPacket (s : State) (q : Nat) (p : List Byte) (reason : Option (Nat × Nat × Word)) : State :=
  let s1 := (s.onQueue q fun f => { f with waiting := some p }).setQState q 2
  match reason with
  | none => s1
  | some (kind, object, ctl) =>
    let f := s1.queue q
    if sameReason f.wrr kind (bits ctl 58 56) (bits ctl 47 24) object && !f.fresh then s1
    else s1.onQueue q fun f =>
      { f with wrr := wrrWord f.wrr kind (bits ctl 58 56) (bits ctl 47 24) object, since := s.time, fresh := false }

/-- A wait control obeys R225, its COND at most `top`. -/
def waitControlOk (w : Word) (top : Nat) : Bool :=
  decide (bits w 63 61 ≤ top) && bits w 60 59 == 0 && bits w 58 56 < 4 && bits w 55 48 == 0 && bits w 23 0 == 0 &&
    (bits w 58 56 != 3 || bits w 47 24 == 0)

/-! ### No-op and launch (R433, R434) -/

/-- PKT_NOOP (R433). -/
def execPktNoop (q : Nat) (s : State) : Out := s.takePacket q 0 fun p s => s.endPacket q p

/-- A record's job is over: idle or failed (R434). -/
def State.jobOver (s : State) (r : Nat) : Bool := s.recState r == 0 || s.recState r == 4

/-- A launch packet (R434). -/
def State.runLaunch (s : State) (q : Nat) (p : List Byte) : State :=
  let w := packetDw p 1
  let r := bits w 11 0
  if bits w 63 12 != 0 || !dwsZero p 2 7 then s.stopQueue q 0x02
  else if s.recVf r != descVf (s.descOf q) then s.stopQueue q 0x07
  else if s.recState r != 0 || !s.complete? r then s.stopQueue q 0x02
  else
    let s1 := (s.arm r).onQueue q fun f => { f with job := some r }
    if bit (packetDw p 0) 10 then s1.holdPacket q p none else s1.endPacket q p

/-- PKT_LAUNCH (R434). -/
def execPktLaunch (q : Nat) (s : State) : Out := s.takePacket q 1 fun p s => s.runLaunch q p

/-! ### Fences (R435, R436) -/

/-- The entries of a fence packet that are satisfied, those marked before among them. -/
def State.fenceMarks (s : State) (p : List Byte) (marks : List Nat) : List Nat :=
  (List.range (pktArg (packetDw p 0))).filter fun i =>
    let e := packetDw p (2 + i)
    marks.contains i || decide (bits e 47 0 ≤ (s.ctr (bits e 63 60) (bits e 59 48)).toNat)

/-- A fence packet obeys R435. -/
def fenceOk (p : List Byte) : Bool :=
  let n := pktArg (packetDw p 0)
  decide (1 ≤ n) && decide (n ≤ 12) && waitControlOk (packetDw p 1) 0 &&
    ((List.range n).all fun i => decide (bits (packetDw p (2 + i)) 63 60 < 8)) && dwsZero p (2 + n) 15

/-- A fence is tested: it completes, or the queue waits with what it has seen. -/
def State.testFence (s : State) (q : Nat) (p : List Byte) : State :=
  let m := s.fenceMarks p (s.queue q).marks
  if m.length == pktArg (packetDw p 0) then s.endPacket q p
  else (s.onQueue q fun f => { f with marks := m }).holdPacket q p (some (12, q, packetDw p 1))

/-- PKT_FENCE (R435). -/
def execPktFence (q : Nat) (s : State) : Out :=
  s.takePacket q 2 fun p s => if fenceOk p then s.testFence q p else s.stopQueue q 0x02

/-! ### Waits (R437, R438) -/

/-- The home of the doubleword that a wait or signal packet names. -/
def State.packetHome (s : State) (q : Nat) (addr : Word) (a : Access) : Except XlatErr Home :=
  let d := s.descOf q
  if bit addr 63 then .ok (.host (hostKey (s.fnPort (descVf d) (queueDie q)) (descPasid d) (bits addr 51 0)) 0)
  else s.translate (s.dieTlb (queueDie q)) (descAsid d) (descVf d) (bits addr 51 0) a false

/-- Asks for the page of a packet's address (R461, R462). -/
def State.askQueuePage (s : State) (q : Nat) (addr : Word) (access : Nat) : State :=
  let d := s.descOf q
  let (s1, tag) := s.askPage (.queue q) (queueClassParty q) (descAsid d) (descVf d) (bits addr 51 16 * 2 ^ 16) access
  s1.onQueue q fun f => { f with prq := tag }

/-- An address field of a packet obeys R437. -/
def packetAddrOk (w : Word) : Bool := bits w 62 52 == 0 && bits w 2 0 == 0

/-- COND of a wait packet holds of the word at a home, or a write has made it true (R437). -/
def State.waitHolds (s : State) (q : Nat) (p : List Byte) (h : Home) : Bool :=
  (s.queue q).hit || condHolds (bits (packetDw p 3) 63 61) (w64 (leNat (s.readHome h 8))) (packetDw p 2)

/-- A wait packet is tested: it completes, or the queue waits; where its page is not resident it waits out of its slot (R438). While the page request queue has no place for its request, the queue stays pending
and asks again when it regains a slot (DEDUCED, log 125). -/
def State.testWait (s : State) (q : Nat) (p : List Byte) : State :=
  let addr := packetDw p 1
  let reason := some (4, bits addr 23 0, packetDw p 3)
  match s.packetHome q addr .read with
  | .error .access => s.stopQueue q 0x07
  | .error .noPage =>
    let s1 := ((s.holdPacket q p reason).askQueuePage q addr 1).onQueue q fun f => { f with watch := none, hit := false, fresh := true }
    s1.leaveSlot q
  | .ok h =>
    if s.waitHolds q p h then s.endPacket q p
    else
      let w := match h with
        | .device a key => some (a, key)
        | _ => none
      (s.onQueue q fun f => { f with watch := w }).holdPacket q p reason

/-- PKT_WAIT (R437). -/
def execPktWait (q : Nat) (s : State) : Out :=
  s.takePacket q 3 fun p s =>
    if packetAddrOk (packetDw p 1) && waitControlOk (packetDw p 3) 4 && dwsZero p 4 7 then s.testWait q p else s.stopQueue q 0x02

/-! ### Signals (R439) -/

/-- A signal packet's store, or the request for its page. -/
def State.storeSignal (s : State) (q : Nat) (p : List Byte) : State :=
  let addr := packetDw p 1
  match s.packetHome q addr .write with
  | .error .access => s.stopQueue q 0x07
  | .error .noPage => (s.holdPacket q p none).askQueuePage q addr 2
  | .ok h => (s.writeHome h (leBytes 8 (packetDw p 2).toNat)).endPacket q p

/-- HOST_SIGNAL at slot 0 of every core of a running record (R439). -/
def State.signalJob (s : State) (r : Nat) (v : Word) : State :=
  if s.recState r != 2 then s else s.atControl r fun p => { p with signals := p.signals ++ [v] }

/-- A signal packet's form: a store for OP 0, HOST_SIGNAL for OP 1; other OP values stop the queue. -/
def State.runSignal (s : State) (q : Nat) (p : List Byte) (op : Nat) : State :=
  let o := pktArg (packetDw p 0)
  let w := packetDw p 1
  if o != op then if 2 ≤ o then s.stopQueue q 0x02 else s
  else if !dwsZero p 3 7 then s.stopQueue q 0x02
  else if op == 0 then if packetAddrOk w then s.storeSignal q p else s.stopQueue q 0x02
  else if bits w 63 12 != 0 then s.stopQueue q 0x02
  else if s.recVf (bits w 11 0) != descVf (s.descOf q) then s.stopQueue q 0x07
  else (s.signalJob (bits w 11 0) (packetDw p 2)).endPacket q p

/-- PKT_SIGNAL_STORE (R439, OP 0). -/
def execPktSignalStore (q : Nat) (s : State) : Out := s.takePacket q 4 fun p s => s.runSignal q p 0

/-- PKT_SIGNAL_HOST (R439, OP 1). -/
def execPktSignalHost (q : Nat) (s : State) : Out := s.takePacket q 4 fun p s => s.runSignal q p 1

/-! ### Legs (R440, R441) -/

/-- A leg packet obeys R440. -/
def legOk (p : List Byte) : Bool :=
  let w := packetDw p 1
  bits w 15 10 == 0 && bits w 31 28 == 0 && bits w 63 40 == 0 && bits (packetDw p 2) 63 44 == 0 &&
    ((List.range 4).all fun i => bits (packetDw p (3 + 2 * i)) 63 52 == 0 && bits (packetDw p (4 + 2 * i)) 63 32 == 0) && dwsZero p 11 15

/-- The successors that a leg packet names as valid. -/
def legSuccs (p : List Byte) : List Nat :=
  let w := packetDw p 2
  (List.range 4).filterMap fun i => if bit w (40 + i) then some (bits w (10 * i + 9) (10 * i)) else none

/-- A leg packet stores its leg; with JW it completes when its record ends (R440). -/
def State.runLeg (s : State) (q : Nat) (p : List Byte) : State :=
  let w := packetDw p 1
  let r := bits w 27 16
  let k := q * 1024 + bits w 9 0
  if bits (packetDw (s.descOf q) 3) 51 16 == 0 || !legOk p || s.spanDies r != 1 || s.spanDevs r != 1 then s.stopQueue q 0x02
  else if s.recVf r != descVf (s.descOf q) then s.stopQueue q 0x07
  else
    let pend := (look (Leg.empty 0) s.legs k).pend
    let ranges := (List.range 4).map fun i => (bits (packetDw p (3 + 2 * i)) 51 0, bits (packetDw p (4 + 2 * i)) 31 0)
    let s1 := s.setLeg k ⟨bits w 39 32, pend, true, false, r, legSuccs p, ranges⟩
    let s2 := s1.onQueue q fun f => { f with job := some r }
    if bit (packetDw p 0) 10 then s2.holdPacket q p none else s2.endPacket q p

/-- PKT_LEG (R440). -/
def execPktLeg (q : Nat) (s : State) : Out := s.takePacket q 5 fun p s => s.runLeg q p

/-- The bytes of the range [va, va + n) that are homed on each of the eight compute dies (R441): a walk over 2 KiB stripes. -/
def State.homedBytes (s : State) (q : Nat) : Nat → Nat → Nat → List Nat → List Nat
  | 0, _, _, acc => acc
  | fuel + 1, va, n, acc =>
    if n == 0 then acc
    else
      let m := min n (2048 - va % 2048)
      let d := s.descOf q
      let acc1 := match s.translate (s.dieTlb (queueDie q)) (descAsid d) (descVf d) va .read false with
        | .ok (.device pa _) => modifyAt (· + m) acc (s.homeOf pa).1
        | _ => acc
      State.homedBytes s q fuel (va + m) (n - m) acc1

/-- A record of one die may be mapped onto a physical die: some order of its clusters meets no unit that is out of service (R288, R504). -/
def State.dieAllowed (s : State) (r d : Nat) : Bool :=
  clusterOrders.any fun o => (s.seats r { Job.empty with dies := [d], clusters := o }).all fun q =>
    !s.coreOos q.id && (q.id.kind != .compute || !s.oos.any fun u => unitCluster u == some (hamperKey q.id))

/-- The die on which a leg fires (R441). -/
def State.legDie (s : State) (q : Nat) (l : Leg) : Option Nat :=
  let counts := l.ranges.foldl (fun acc x => s.homedBytes q (x.2 / 2048 + 2) x.1 x.2 acc) (List.replicate 8 0)
  ((List.range 8).filter (s.dieAllowed l.record)).foldl (fun (best : Option Nat) d => match best with
    | none => some d
    | some b => if counts.getD b 0 < counts.getD d 0 then some d else best) none

/-- LEG_FIRE (R440, R441): a stored leg whose count is 0 or less arms its record for the die that holds most of its input. -/
def execLegFire (q leg : Nat) (s : State) : Out :=
  let k := q * 1024 + leg
  match look? s.legs k with
  | none => .next s
  | some l =>
    if !l.stored || l.fired || 0 < l.count || !s.sideRuns (queueDie q) || !s.feSet then .next s
    else if s.recVf l.record != descVf (s.descOf q) then .next (s.stopQueue q 0x07)
    else if s.recState l.record != 0 || !s.complete? l.record then .next (s.stopQueue q 0x02)
    else match s.legDie q l with
      | none => .next s
      | some d =>
        let s1 := s.setLeg k { l with fired := true }
        .next ((s1.arm l.record).onJob l.record fun j => { j with dies := [d] })

/-! ## Waiting packets and slots (R429, R432) -/

/-- The record of a leg packet has ended, or its leg is gone. -/
def State.legOver (s : State) (q : Nat) (p : List Byte) : Bool :=
  match look? s.legs (q * 1024 + bits (packetDw p 1) 9 0) with
  | some l => !l.stored
  | none => true

/-- PACKET_COMPLETE (R429): a waiting packet of a resident queue is tested again. -/
def execPacketComplete (q : Nat) (s : State) : Out :=
  let f := s.queue q
  match f.waiting with
  | none => .next s
  | some p =>
    if !f.resident || f.prq.isSome || !s.sideRuns (queueDie q) then .next s
    else match pktKind (packetDw p 0) with
      | 1 => .next (if s.jobOver (bits (packetDw p 1) 11 0) then s.endPacket q p else s)
      | 2 => .next (s.testFence q p)
      | 3 => .next (s.testWait q p)
      | 4 => .next (s.storeSignal q p)
      | 5 => .next (if s.legOver q p then s.endPacket q p else s)
      | _ => .next s

/-- QUEUE_RESIDENT (R427, R432): the best pending queue of a die takes a free slot and reads its descriptor. -/
def execQueueResident (die : Nat) (s : State) : Out :=
  if 64 ≤ s.residents die || !s.sideRuns die then .next s
  else match s.nextQueue die with
    | none => .next s
    | some q =>
      let d := s.queueDesc q
      let s1 := (s.onQueue q fun f => { f with resident := true, desc := d }).setQState q (if (s.queue q).waiting.isSome then 2 else 1)
      if !queueDescOk d then .next (s1.stopQueue q 0x02)
      else match (s.queue q).waiting with
        | some p => .next (if pktKind (packetDw p 0) == 3 then s1.testWait q p else s1)
        | none => .next s1

/-- QUEUE_SLOT_YIELD (R432): a queue that has waited 1 ms in a fence or wait packet gives up its slot to a pending queue of equal or
higher PRIO that finds none free. -/
def execQueueSlotYield (q : Nat) (s : State) : Out :=
  let f := s.queue q
  let die := queueDie q
  match f.waiting with
  | none => .next s
  | some p =>
    let k := pktKind (packetDw p 0)
    let rival := s.queues.any fun o => queueDie o.1 == die && s.qPending o.1 && decide (descPrio f.desc ≤ descPrio (s.queueDesc o.1))
    if f.resident && (k == 2 || k == 3) && f.prq.isNone && bit f.wrr 63 && f.since + 100000 ≤ s.time && 64 ≤ s.residents die && rival then
      .next (s.leaveSlot q)
    else .next s

end Sys2Proof.Machine
end

