-- ==== Sys2Proof/Machine/Scratchpad.lean ====
section
/-! DEFINITION. The scratchpad unit `ls` (spec/05_scratchpad_ops.md R132 to R154): loads and stores, scoped acquire and release,
load-and-lock, atomics, futures and berths. -/

set_option autoImplicit false
set_option Elab.async false

namespace Sys2Proof.Machine

/-! ## Loads and stores (R134, R138 to R140) -/

/-- The latency range of an `ls` access: `l` on the issuing core's memory, `r` to `r + 22` in another core's (R134). -/
def State.lsLatency (s : State) (c : CoreId) (l r : Nat) : Nat × Nat := if s.isLocal c then (l, l) else (r, r + 22)

/-- The `n` low bytes of a number, sign- or zero-extended (R138). -/
def extend (x n : Nat) (signed : Bool) : Word := if signed then sext x (8 * n) else zext x (8 * n)

/-- A load of `n` bytes (R138): the value is the one at the trigger (log 10). -/
def lsLoad (opc n : Nat) (signed : Bool) (s : State) : Res :=
  let t := (s.lat .ls).t
  s.withSpa t n false t fun (c, off) =>
    let (lo, hi) := s.lsLatency c 2 18
    .ok ((s.launch .ls opc lo hi (extend (leNat (s.loadHome (.core c off) n)) n signed) 0).count (if s.isLocal c then 5 else 6))

/-- A store of the low `n` bytes of `a`: it completes on entry to the slot's FIFO (R138, R139). -/
def lsStore (n : Nat) (s : State) : Res :=
  let l := s.lat .ls
  s.withSpa l.t n true l.t fun (c, off) =>
    .ok (((s.complete .ls 0 0).buffer ⟨.core c off, leBytes n l.a.toNat, none, false, l.t, false⟩).count 7)

/-- `strel` with scope `sc`, and `fput` (R140, R149): a store of `a` that the FIFO keeps behind every earlier one. It stalls
while a notice waits outside the core's buffer (R214), or a push of the slot is held (R198). -/
def lsRelease (sc : Nat) (s : State) : Res :=
  let l := s.lat .ls
  s.withSpa l.t 8 true l.t fun (c, off) =>
    let s1 := if 2 ≤ sc then s.flushPulls.flushPushes else s.flushPulls
    if !s1.core.outside.isEmpty || (decide (2 ≤ sc) && s1.pushes.any s.isMine) then .stall
    else .ok (((s1.complete .ls 0 0).buffer ⟨.core c off, leBytes 8 l.a.toNat, some sc, false, l.t, false⟩).count 7)

/-! ## Locks and atomics (R141 to R146) -/

/-- Goes on when no other slot holds the lock bit of a doubleword; else waits for its holder (R142, R145). Waiting requests are served in the
order in which they reached the bank (`State.serveLocks`). -/
def State.lockGate (s : State) (opc : Nat) (c : CoreId) (off : Nat) (k : State → Res) : Res :=
  let b := lockBit off
  let m := s.coreAt c
  let me := (s.coreId, s.core.cur.val)
  match (m.holder b).filter fun h => h != me with
  | some (hid, hslot) =>
    let queued := if m.lockq.contains (b, me) then s
      else s.onCoreAt c fun m => { m with lockq := m.lockq ++ [(b, me)] }
    queued.block .ls opc 13 0 (partyOf hid (s.coreAt hid) hslot) (lockIdentity m off)
  | none => k (s.onCoreAt c fun m => { m with lockq := m.lockq.filter fun q => q != (b, me) })

/-- `lla` (R142). -/
def lsLla (s : State) : Res :=
  let t := (s.lat .ls).t
  s.check s.sl.link.isSome trapIllegalOp t <|
    s.withSpa t 8 true t fun (c, off) =>
      s.ordered fun s => s.lockGate 0x20 c off fun s =>
        let me := (s.coreId, s.core.cur.val)
        let (lo, hi) := s.lsLatency c 3 20
        let s1 := (s.onCoreAt c fun m => { m with locks := m.locks ++ [(lockBit off, me)] }).onSl fun t =>
          { t with link := some (c, off) }
        .ok (s1.launch .ls 0x20 lo hi ((s1.coreAt c).mem.dword off) 0)

/-- `ssu` (R143): stores and unlocks at one instant, or, the lock lost, stores nothing. -/
def lsSsu (s : State) : Res :=
  let l := s.lat .ls
  s.withSpa l.t 8 true l.t fun (c, off) =>
    let (lo, hi) := s.lsLatency c 2 18
    match s.sl.link with
    | none => s.ordered fun s => .ok (s.launch .ls 0x21 lo hi 0 0)
    | some p =>
      if p != (c, off) then .trap trapIllegalOp l.t
      else s.ordered fun s =>
        let s1 := s.writeCore c off (leBytes 8 l.a.toNat)
        .ok ((s1.releaseLock s1.coreId s1.core.cur).launch .ls 0x21 lo hi 1 0)

/-- A single-instruction atomic (R145): `f old a b` is the new value, where it stores. -/
def lsAtomic (opc : Nat) (f : Word → Word → Word → Option Word) (s : State) : Res :=
  let l := s.lat .ls
  s.withSpa l.t 8 true l.t fun (c, off) =>
    s.ordered fun s => s.lockGate opc c off fun s =>
      let old := (s.coreAt c).mem.dword off
      let (lo, hi) := s.lsLatency c 3 20
      let new := f old l.a l.b
      let s1 := match new with
        | some w => s.writeCore c off (leBytes 8 w.toNat)
        | none => s
      .ok (s1.launch .ls opc lo hi old (if opc == 0x22 && new.isSome then 1 else 0))

/-- `cas`. -/
def casNew (old a b : Word) : Option Word := if old == a then some b else none
/-- `swap`. -/
def swapNew (_ a _ : Word) : Option Word := some a
/-- `aadd`. -/
def aaddNew (old a _ : Word) : Option Word := some (old + a)
/-- `aand`. -/
def aandNew (old a _ : Word) : Option Word := some (old &&& a)
/-- `aor`. -/
def aorNew (old a _ : Word) : Option Word := some (old ||| a)
/-- `amin`. -/
def aminNew (old a _ : Word) : Option Word := some (if old.slt a then old else a)
/-- `amax`. -/
def amaxNew (old a _ : Word) : Option Word := some (if old.slt a then a else old)
/-- `aminu`. -/
def aminuNew (old a _ : Word) : Option Word := some (if old.ult a then old else a)
/-- `amaxu`. -/
def amaxuNew (old a _ : Word) : Option Word := some (if old.ult a then a else old)

/-! ## Futures (R147 to R150) -/

/-- `fget` (R148): reads a full doubleword; an empty one traps, or, with W, is waited for. -/
def lsFget (s : State) : Res :=
  let l := s.lat .ls
  let w := bit l.c 63
  s.check (w && (bits l.c 62 59 != 0 || bits l.c 55 48 != 0 || bits l.c 23 0 != 0 || 3 < bits l.c 58 56)) trapIllegalOp l.c <|
    s.withSpa l.t 8 false l.t fun (c, off) =>
      let s := s.drain
      let (lo, hi) := s.lsLatency c 2 18
      match s.handed with
      | some v => .ok (s.launch .ls 0x30 lo hi v 0)
      | none =>
        if (s.coreAt c).full off then .ok (s.launch .ls 0x30 lo hi ((s.coreAt c).mem.dword off) 0)
        else if !w then .trap trapFuture l.t
        else s.block .ls 0x30 7 (bits l.c 58 56) (bits l.c 47 24) (bits l.t 23 0)

/-- `fclr` (R150): reads the word and empties its tag at one instant. -/
def lsFclr (s : State) : Res :=
  let t := (s.lat .ls).t
  s.withSpa t 8 true t fun (c, off) =>
    s.ordered fun s => s.lockGate 0x32 c off fun s =>
      let m := s.coreAt c
      let (lo, hi) := s.lsLatency c 3 20
      .ok ((s.onCoreAt c fun m => { m with tags := m.tags.filter fun d => d != off / 8 }).launch .ls 0x32 lo hi (m.mem.dword off)
        (if m.full off then 1 else 0))

/-! ## Berth operations (R151 to R153) -/

/-- Which end an operation asks for. -/
inductive BerthEnd where
  | prod | cons | either
  deriving DecidableEq, Repr

/-- The checks of R151 and the latency: goes on with the berth's core, its number and its descriptor. -/
def State.withBerth (s : State) (counted wait : Bool) (e : BerthEnd) (k : CoreId → Nat → Berth → Res) : Res :=
  let l := s.lat .ls
  let b := bits l.t 3 0
  let c := s.handleCore l.t
  let badA := (if wait then bits l.a 63 17 != 0 else bits l.a 63 16 != 0) || bits l.a 15 0 == 0
  if s.coreId.kind != .compute then .trap trapIllegalOp l.t
  else s.check (bits l.t 63 24 != 0 || bits l.t 15 9 != 0 || bits l.t 7 4 != 0) trapIllegalOp l.t <|
    s.check (counted && badA) trapIllegalOp l.a <|
    s.check (bit l.t 8 && !s.clusterInSpan (bits l.t 23 16)) trapAccess l.t <|
    match s.berthAt c b with
    | none => .trap trapIllegalOp l.t
    | some d =>
      let endOk := match e with
        | .prod => s.isMyCore d.prod
        | .cons => s.isMyCore d.cons
        | .either => true
      s.check (!endOk) trapIllegalOp l.t <|
        s.check (wait && decide (d.n < bits l.a 15 0)) trapIllegalOp l.a <| k c b d

/-- The address of a slot in the form that the handle implies (R152). -/
def berthAddr (t : Word) (off : Nat) : Word := if bit t 8 then w64 (bits t 23 16 * 2 ^ 18 + off) else w64 (0x4000000 + off)

/-- `bwait` (R152): DIR 0 waits for filled slots, DIR 1 for space; the indices are those of the update that released it. -/
def lsBwait (s : State) : Res :=
  let l := s.lat .ls
  let n := bits l.a 15 0
  let dir := bit l.a 16
  s.withBerth true true (if dir then .prod else .cons) fun c b d =>
    let (lo, hi) := s.lsLatency c 2 18
    let d := match s.handed with
      | some v => { d with pi := bits v 63 32, ci := bits v 31 0 }
      | none => d
    if dir then
      if d.space < n then s.block .ls 0x40 3 0 d.cons (s.berthObject c b)
      else .ok (s.launch .ls 0x40 lo hi (berthAddr l.t (d.slotOff d.pi)) (w64 d.space))
    else if d.filled < n then s.block .ls 0x40 2 0 d.prod (s.berthObject c b)
    else .ok (s.launch .ls 0x40 lo hi (berthAddr l.t (d.slotOff d.ci)) (w64 d.filled))

/-- `badv` (R152, R153): frees slots, as a release. -/
def lsBadv (s : State) : Res :=
  let l := s.lat .ls
  s.withBerth true false .cons fun c b d =>
    let (lo, hi) := s.lsLatency c 2 18
    if d.filled < bits l.a 15 0 then .trap trapOverflow l.a
    else .ok ((s.drain.advanceCi c b (bits l.a 15 0)).launch .ls 0x41 lo hi 0 0)

/-- `bpush` (R152, R153): hands over filled slots, as a release. -/
def lsBpush (s : State) : Res :=
  let l := s.lat .ls
  s.withBerth true false .prod fun c b d =>
    let (lo, hi) := s.lsLatency c 2 18
    if d.space < bits l.a 15 0 then .trap trapOverflow l.a
    else .ok ((s.drain.advancePi c b (bits l.a 15 0)).launch .ls 0x42 lo hi 0 0)

/-- `bstat` (R152): the indices; it does not read `a`. -/
def lsBstat (s : State) : Res :=
  s.withBerth false false .either fun c _ d =>
    let (lo, hi) := s.lsLatency c 2 18
    .ok (s.launch .ls 0x43 lo hi (w64 (d.pi * 2 ^ 32 + d.ci)) (w64 d.filled))

/-! ## The instructions -/

/-- The operation of an opcode of `ls` (R132). -/
def lsOp (opc : Nat) : Option (State → Res) :=
  match opc with
  | 0x01 => some (lsLoad 0x01 1 true)
  | 0x02 => some (lsLoad 0x02 1 false)
  | 0x03 => some (lsLoad 0x03 2 true)
  | 0x04 => some (lsLoad 0x04 2 false)
  | 0x05 => some (lsLoad 0x05 4 true)
  | 0x06 => some (lsLoad 0x06 4 false)
  | 0x07 => some (lsLoad 0x07 8 false)
  | 0x09 => some (lsStore 1)
  | 0x0A => some (lsStore 2)
  | 0x0B => some (lsStore 4)
  | 0x0C => some (lsStore 8)
  | 0x10 => some (lsLoad 0x10 8 false)
  | 0x11 => some (lsLoad 0x11 8 false)
  | 0x12 => some (lsLoad 0x12 8 false)
  | 0x13 => some (lsLoad 0x13 8 false)
  | 0x14 => some (lsLoad 0x14 8 false)
  | 0x15 => some (lsLoad 0x15 8 false)
  | 0x18 => some (lsRelease 0)
  | 0x19 => some (lsRelease 1)
  | 0x1A => some (lsRelease 2)
  | 0x1B => some (lsRelease 3)
  | 0x1C => some (lsRelease 4)
  | 0x1D => some (lsRelease 5)
  | 0x20 => some lsLla
  | 0x21 => some lsSsu
  | 0x22 => some (lsAtomic 0x22 casNew)
  | 0x23 => some (lsAtomic 0x23 swapNew)
  | 0x24 => some (lsAtomic 0x24 aaddNew)
  | 0x25 => some (lsAtomic 0x25 aandNew)
  | 0x26 => some (lsAtomic 0x26 aorNew)
  | 0x27 => some (lsAtomic 0x27 aminNew)
  | 0x28 => some (lsAtomic 0x28 amaxNew)
  | 0x29 => some (lsAtomic 0x29 aminuNew)
  | 0x2A => some (lsAtomic 0x2A amaxuNew)
  | 0x30 => some lsFget
  | 0x31 => some (lsRelease 1)
  | 0x32 => some lsFclr
  | 0x40 => some lsBwait
  | 0x41 => some lsBadv
  | 0x42 => some lsBpush
  | 0x43 => some lsBstat
  | _ => none

/-- LS_LD8 (R138): a sign-extended load of 1 byte. -/
def execLsLd8 (h : Hdr) (s : State) : Out := execTrigger .ls 0x01 h (lsLoad 0x01 1 true) s

/-- LS_LD8U (R138): a zero-extended load of 1 byte. -/
def execLsLd8u (h : Hdr) (s : State) : Out := execTrigger .ls 0x02 h (lsLoad 0x02 1 false) s

/-- LS_LD16 (R138): a sign-extended load of 2 bytes. -/
def execLsLd16 (h : Hdr) (s : State) : Out := execTrigger .ls 0x03 h (lsLoad 0x03 2 true) s

/-- LS_LD16U (R138): a zero-extended load of 2 bytes. -/
def execLsLd16u (h : Hdr) (s : State) : Out := execTrigger .ls 0x04 h (lsLoad 0x04 2 false) s

/-- LS_LD32 (R138): a sign-extended load of 4 bytes. -/
def execLsLd32 (h : Hdr) (s : State) : Out := execTrigger .ls 0x05 h (lsLoad 0x05 4 true) s

/-- LS_LD32U (R138): a zero-extended load of 4 bytes. -/
def execLsLd32u (h : Hdr) (s : State) : Out := execTrigger .ls 0x06 h (lsLoad 0x06 4 false) s

/-- LS_LD64 (R138): a load of a doubleword. -/
def execLsLd64 (h : Hdr) (s : State) : Out := execTrigger .ls 0x07 h (lsLoad 0x07 8 false) s

/-- LS_ST8 (R138): stores 1 byte of a. -/
def execLsSt8 (h : Hdr) (s : State) : Out := execTrigger .ls 0x09 h (lsStore 1) s

/-- LS_ST16 (R138): stores 2 bytes of a. -/
def execLsSt16 (h : Hdr) (s : State) : Out := execTrigger .ls 0x0A h (lsStore 2) s

/-- LS_ST32 (R138): stores 4 bytes of a. -/
def execLsSt32 (h : Hdr) (s : State) : Out := execTrigger .ls 0x0B h (lsStore 4) s

/-- LS_ST64 (R138): stores 8 bytes of a. -/
def execLsSt64 (h : Hdr) (s : State) : Out := execTrigger .ls 0x0C h (lsStore 8) s

/-- LS_LDACQ_CORE (R140): a load that holds back every later access of the slot. -/
def execLsLdacqCore (h : Hdr) (s : State) : Out := execTrigger .ls 0x10 h (lsLoad 0x10 8 false) s

/-- LS_LDACQ_CLUSTER (R140): a load that holds back every later access of the slot. -/
def execLsLdacqCluster (h : Hdr) (s : State) : Out := execTrigger .ls 0x11 h (lsLoad 0x11 8 false) s

/-- LS_LDACQ_DIE (R140): a load that holds back every later access of the slot. -/
def execLsLdacqDie (h : Hdr) (s : State) : Out := execTrigger .ls 0x12 h (lsLoad 0x12 8 false) s

/-- LS_LDACQ_DEVICE (R140): a load that holds back every later access of the slot. -/
def execLsLdacqDevice (h : Hdr) (s : State) : Out := execTrigger .ls 0x13 h (lsLoad 0x13 8 false) s

/-- LS_LDACQ_DOMAIN (R140): a load that holds back every later access of the slot. -/
def execLsLdacqDomain (h : Hdr) (s : State) : Out := execTrigger .ls 0x14 h (lsLoad 0x14 8 false) s

/-- LS_LDACQ_SYSTEM (R140): a load that holds back every later access of the slot. -/
def execLsLdacqSystem (h : Hdr) (s : State) : Out := execTrigger .ls 0x15 h (lsLoad 0x15 8 false) s

/-- LS_STREL_CORE (R140): a store that follows every earlier access of the slot. -/
def execLsStrelCore (h : Hdr) (s : State) : Out := execTrigger .ls 0x18 h (lsRelease 0) s

/-- LS_STREL_CLUSTER (R140): a store that follows every earlier access of the slot. -/
def execLsStrelCluster (h : Hdr) (s : State) : Out := execTrigger .ls 0x19 h (lsRelease 1) s

/-- LS_STREL_DIE (R140): a store that follows every earlier access of the slot. -/
def execLsStrelDie (h : Hdr) (s : State) : Out := execTrigger .ls 0x1A h (lsRelease 2) s

/-- LS_STREL_DEVICE (R140): a store that follows every earlier access of the slot. -/
def execLsStrelDevice (h : Hdr) (s : State) : Out := execTrigger .ls 0x1B h (lsRelease 3) s

/-- LS_STREL_DOMAIN (R140): a store that follows every earlier access of the slot. -/
def execLsStrelDomain (h : Hdr) (s : State) : Out := execTrigger .ls 0x1C h (lsRelease 4) s

/-- LS_STREL_SYSTEM (R140): a store that follows every earlier access of the slot. -/
def execLsStrelSystem (h : Hdr) (s : State) : Out := execTrigger .ls 0x1D h (lsRelease 5) s

/-- LS_LLA (R142): loads a doubleword and takes its lock. -/
def execLsLla (h : Hdr) (s : State) : Out := execTrigger .ls 0x20 h lsLla s

/-- LS_SSU (R143): stores and unlocks. -/
def execLsSsu (h : Hdr) (s : State) : Out := execTrigger .ls 0x21 h lsSsu s

/-- LS_CAS (R145): compare and swap. -/
def execLsCas (h : Hdr) (s : State) : Out := execTrigger .ls 0x22 h (lsAtomic 0x22 casNew) s

/-- LS_SWAP (R145): an atomic read-modify-write that gives the old value. -/
def execLsSwap (h : Hdr) (s : State) : Out := execTrigger .ls 0x23 h (lsAtomic 0x23 swapNew) s

/-- LS_AADD (R145): an atomic read-modify-write that gives the old value. -/
def execLsAadd (h : Hdr) (s : State) : Out := execTrigger .ls 0x24 h (lsAtomic 0x24 aaddNew) s

/-- LS_AAND (R145): an atomic read-modify-write that gives the old value. -/
def execLsAand (h : Hdr) (s : State) : Out := execTrigger .ls 0x25 h (lsAtomic 0x25 aandNew) s

/-- LS_AOR (R145): an atomic read-modify-write that gives the old value. -/
def execLsAor (h : Hdr) (s : State) : Out := execTrigger .ls 0x26 h (lsAtomic 0x26 aorNew) s

/-- LS_AMIN (R145): an atomic read-modify-write that gives the old value. -/
def execLsAmin (h : Hdr) (s : State) : Out := execTrigger .ls 0x27 h (lsAtomic 0x27 aminNew) s

/-- LS_AMAX (R145): an atomic read-modify-write that gives the old value. -/
def execLsAmax (h : Hdr) (s : State) : Out := execTrigger .ls 0x28 h (lsAtomic 0x28 amaxNew) s

/-- LS_AMINU (R145): an atomic read-modify-write that gives the old value. -/
def execLsAminu (h : Hdr) (s : State) : Out := execTrigger .ls 0x29 h (lsAtomic 0x29 aminuNew) s

/-- LS_AMAXU (R145): an atomic read-modify-write that gives the old value. -/
def execLsAmaxu (h : Hdr) (s : State) : Out := execTrigger .ls 0x2A h (lsAtomic 0x2A amaxuNew) s

/-- LS_FGET (R148): reads a future. -/
def execLsFget (h : Hdr) (s : State) : Out := execTrigger .ls 0x30 h lsFget s

/-- LS_FPUT (R149): fills a future, as `strel.cluster`. -/
def execLsFput (h : Hdr) (s : State) : Out := execTrigger .ls 0x31 h (lsRelease 1) s

/-- LS_FCLR (R150): takes a future. -/
def execLsFclr (h : Hdr) (s : State) : Out := execTrigger .ls 0x32 h lsFclr s

/-- LS_BWAIT (R152): waits for filled slots or space. -/
def execLsBwait (h : Hdr) (s : State) : Out := execTrigger .ls 0x40 h lsBwait s

/-- LS_BADV (R152): frees slots. -/
def execLsBadv (h : Hdr) (s : State) : Out := execTrigger .ls 0x41 h lsBadv s

/-- LS_BPUSH (R152): hands over filled slots. -/
def execLsBpush (h : Hdr) (s : State) : Out := execTrigger .ls 0x42 h lsBpush s

/-- LS_BSTAT (R152): reads the indices. -/
def execLsBstat (h : Hdr) (s : State) : Out := execTrigger .ls 0x43 h lsBstat s

end Sys2Proof.Machine
end

