-- ==== Sys2Proof/Machine/Quay.lean ====
section
/-! DEFINITION. The device-memory unit `qm` of quay and harbour cores (spec/07_engine_ops.md R194 to R198). -/

set_option autoImplicit false
set_option Elab.async false

namespace Sys2Proof.Machine

/-! ## Clocks (R5, R505) -/

/-- Core cycles that last at least some nanoseconds (R5). -/
def State.cycles (s : State) (ns : Nat) : Nat := max 1 ((ns * s.mhz s.coreId + 999) / 1000)

/-! ## Addresses (R195) -/

/-- VA(t, n, access). -/
def State.vaOf (s : State) (t : Word) (n : Nat) (a : Access) : Except Nat Home :=
  if bits t 55 52 != 0 then .error trapAccess
  else if bits t 51 0 % n != 0 then .error trapMisalign
  else match s.translate (s.core.tlb ++ s.dieTlb s.coreId.die) s.asid s.vf (bits t 51 0) a (s.sl.priv == 0) with
    | .error .noPage => .error trapPageFault
    | .error .access => .error trapAccess
    | .ok h => .ok h

/-- Goes on with the home of an address, or traps. -/
def State.withVa (s : State) (n : Nat) (a : Access) (k : Home → Res) : Res :=
  let t := (s.lat .qm).t
  match s.vaOf t n a with
  | .error e => .trap e t
  | .ok h => k h

/-- Latency of a load or atomic by its home, in core cycles (R196). -/
def State.qmLatency (s : State) (h : Home) : Nat × Nat :=
  let (lo, hi) : Nat × Nat := match h with
    | .device pa _ => if (s.homeOf pa).1 == s.coreId.die then (90, 400) else (180, 800)
    | .host _ _ => (800, 3000)
    | .remote _ _ _ => (1200, 5000)
    | .core _ _ => (90, 400)
  (s.cycles lo, s.cycles hi)

/-! ## Loads, stores and atomics (R195, R196) -/

/-- A load of `n` bytes. -/
def qmLoad (opc n : Nat) (signed : Bool) (s : State) : Res :=
  s.withVa n .read fun h =>
    let (lo, hi) := s.qmLatency h
    .ok ((s.asked h).launch .qm opc lo hi (extend (leNat (s.loadFar h n)) n signed) 0)

/-- A store of the low `n` bytes of `a`. -/
def qmStore (n : Nat) (s : State) : Res :=
  let l := s.lat .qm
  s.withVa n .write fun h => .ok (((s.complete .qm 0 0).buffer ⟨h, leBytes n l.a.toNat, none, true, l.t, false⟩).count 7)

/-- `strel` with scope `sc` (R140, R195); it stalls as `ls.strel` does. -/
def qmRelease (sc : Nat) (s : State) : Res :=
  let l := s.lat .qm
  s.withVa 8 .write fun h =>
    let s1 := if 2 ≤ sc then s.flushPulls.flushPushes else s.flushPulls
    if !s1.core.outside.isEmpty || (decide (2 ≤ sc) && s1.pushes.any s.isMine) then .stall
    else .ok (((s1.complete .qm 0 0).buffer ⟨h, leBytes 8 l.a.toNat, some sc, true, l.t, false⟩).count 7)

/-- An atomic at the home's memory controller (R196). -/
def qmAtomic (opc : Nat) (f : Word → Word → Word → Option Word) (s : State) : Res :=
  let l := s.lat .qm
  s.withVa 8 .atomic fun h => s.ordered fun s =>
    let old := w64 (leNat (s.readHome h 8))
    let (lo, hi) := s.qmLatency h
    let new := f old l.a l.b
    let s1 := match new with
      | some w => s.writeHome h (leBytes 8 w.toNat)
      | none => s.asked h
    .ok (s1.launch .qm opc lo hi old (if opc == 0x22 && new.isSome then 1 else 0))

/-- `fence` (R197): every earlier access, push and pull of the slot is performed; `t` is not read. -/
def qmFence (s : State) : Res := s.ordered fun s => .ok (s.complete .qm 0 0)

/-! ## Push and pull (R198) -/

/-- The compute core that names the far end: cluster CL of the issuing die, logical index CORE. -/
def State.farCore (s : State) (cl i : Nat) : CoreId :=
  s.myJob.computeAt s.core.die (cl / 2 * 16 + i / 16) (cl % 2 * 16 + i % 16)

/-- The far end lies in the job's span. -/
def State.farInSpan (s : State) (cl i : Nat) : Bool :=
  match s.record? with
  | some r => s.inSpan r 0 s.core.die (cl / 2 * 16 + i / 16) (cl % 2 * 16 + i % 16)
  | none => false

/-- The checks of R135 on a range with a required multiple of 32 in place of n. -/
def State.blockFault (s : State) (c : CoreId) (off n : Nat) (writes : Bool) : Option Nat :=
  if c.kind.limit < off + n then some trapAccess
  else if off < 0x30000 && 0x2D000 < off + n && s.sl.priv == 0 then some trapPriv
  else if off % 32 != 0 then some trapMisalign
  else if writes && (s.coreAt c).meetsDescriptor off n then some trapAccess
  else if ((s.coreAt c).conflict off n writes).isSome then some trapRange
  else none

/-- The staging range of an own-form address: its offset, or the trap (R198, check 2). -/
def State.staging (s : State) (a : Word) (n : Nat) (writes : Bool) : Except Nat Nat :=
  if bits a 55 27 != 0 || !bit a 26 then .error trapAccess
  else match s.blockFault s.coreId (bits a 25 0) n writes with
    | some e => .error e
    | none => .ok (bits a 25 0)

/-- The checks of R198, in order. -/
def State.copyFault (s : State) (push : Bool) : Option (Nat × Word) :=
  let l := s.lat .qm
  let len := bits l.b 16 0
  let cl := bits l.t 31 30
  let i := bits l.t 25 18
  let bf := bit l.t 29
  let far := s.farCore cl i
  if s.coreId.kind == .harbour then some (trapIllegalOp, l.t)
  else if bits l.b 63 17 != 0 || len % 32 != 0 || len == 0 || 0x10000 < len then some (trapIllegalOp, l.b)
  else if bits l.c 63 16 != 0 || bits l.c 14 12 != 0 then some (trapIllegalOp, l.c)
  else if bits l.t 63 32 != 0 || bits l.t 28 26 != 0 || (bf && bits l.t 17 4 != 0) then some (trapIllegalOp, l.t)
  else match s.staging l.a len (!push) with
    | .error e => some (e, l.a)
    | .ok _ =>
      if !s.farInSpan cl i then some (trapAccess, l.t)
      else
        let end_ : Option Nat :=
          if !bf then s.blockFault far (bits l.t 17 0) len push
          else match s.berthAt far (bits l.t 3 0) with
            | none => some trapIllegalOp
            | some d => if !s.isMyCore (if push then d.prod else d.cons) || d.slotb < len then some trapIllegalOp else none
        match end_ with
        | some e => some (e, l.t)
        | none =>
          if bit l.c 15 && !(match s.record? with | some r => s.granted r (bits l.c 11 0) | none => false) then
            some (trapAccess, l.c)
          else none

/-- `push` and `pull` after their checks: the slot's earlier copies are finished first; a berth that has no place or no filled slot is
waited for, and a lock on the slot to be written (R319). -/
def State.copyNow (s0 : State) (push : Bool) : Res :=
  s0.ordered fun s =>
    let l := s.lat .qm
    let opc := if push then 0x30 else 0x31
    let len := bits l.b 16 0
    let near := bits l.a 25 0
    let far := s.farCore (bits l.t 31 30) (bits l.t 25 18)
    let b := bits l.t 3 0
    let obj := bits l.t 25 18 * 2 ^ 8 + b
    let ctr := if bit l.c 15 then some (bits l.c 11 0) else none
    let go := fun (off : Nat) (berth : Option (CoreId × Nat)) =>
      let me := s.core.cur.val
      let s1 : State :=
        if push then { s with pushes := s.pushes ++ [⟨s.coreId, me, far, off, s.core.mem.bytes near len, berth, ctr⟩] }
        else { s with pulls := s.pulls ++ [⟨s.coreId, me, s.coreId, near, (s.coreAt far).mem.bytes off len, berth, ctr⟩] }
      Res.ok (s1.launch .qm opc (4 + len / 64) (4 + len / 64) 0 0)
    if !bit l.t 29 then go (bits l.t 17 0) none
    else match s.berthAt far b with
      | none => .stall
      | some d =>
        if push then
          if d.space == 0 then s.block .qm opc 3 0 d.cons obj
          else match (s.coreAt far).conflict (d.slotOff d.pi) len true with
            | some k => s.block .qm opc 8 0 k.queue (bits l.t 25 18 * 2 ^ 8)
            | none => go (d.slotOff d.pi) (some (far, b))
        else if d.filled == 0 then s.block .qm opc 2 0 d.prod obj
        else go (d.slotOff d.ci) (some (far, b))

/-- `push` and `pull`. -/
def qmCopy (push : Bool) (s : State) : Res :=
  if s.resuming then s.copyNow push
  else match s.copyFault push with
    | some (e, tval) => .trap e tval
    | none => s.copyNow push

/-! ## The instructions -/

/-- The operation of an opcode of `qm` (R194). -/
def qmOp (opc : Nat) : Option (State → Res) :=
  match opc with
  | 0x01 => some (qmLoad 0x01 1 true)
  | 0x02 => some (qmLoad 0x02 1 false)
  | 0x03 => some (qmLoad 0x03 2 true)
  | 0x04 => some (qmLoad 0x04 2 false)
  | 0x05 => some (qmLoad 0x05 4 true)
  | 0x06 => some (qmLoad 0x06 4 false)
  | 0x07 => some (qmLoad 0x07 8 false)
  | 0x09 => some (qmStore 1)
  | 0x0A => some (qmStore 2)
  | 0x0B => some (qmStore 4)
  | 0x0C => some (qmStore 8)
  | 0x10 => some (qmLoad 0x10 8 false)
  | 0x11 => some (qmLoad 0x11 8 false)
  | 0x12 => some (qmLoad 0x12 8 false)
  | 0x13 => some (qmLoad 0x13 8 false)
  | 0x14 => some (qmLoad 0x14 8 false)
  | 0x15 => some (qmLoad 0x15 8 false)
  | 0x18 => some (qmRelease 0)
  | 0x19 => some (qmRelease 1)
  | 0x1A => some (qmRelease 2)
  | 0x1B => some (qmRelease 3)
  | 0x1C => some (qmRelease 4)
  | 0x1D => some (qmRelease 5)
  | 0x22 => some (qmAtomic 0x22 casNew)
  | 0x23 => some (qmAtomic 0x23 swapNew)
  | 0x24 => some (qmAtomic 0x24 aaddNew)
  | 0x25 => some (qmAtomic 0x25 aandNew)
  | 0x26 => some (qmAtomic 0x26 aorNew)
  | 0x27 => some (qmAtomic 0x27 aminNew)
  | 0x28 => some (qmAtomic 0x28 amaxNew)
  | 0x29 => some (qmAtomic 0x29 aminuNew)
  | 0x2A => some (qmAtomic 0x2A amaxuNew)
  | 0x30 => some (qmCopy true)
  | 0x31 => some (qmCopy false)
  | 0x40 => some qmFence
  | 0x41 => some qmFence
  | 0x42 => some qmFence
  | 0x43 => some qmFence
  | 0x44 => some qmFence
  | 0x45 => some qmFence
  | _ => none

/-- PUSH_WRITE_DONE (R198): the oldest push of the slot in focus is written at its far end. -/
def execPushWriteDone (s : State) : Out :=
  match s.pushes.find? s.isMine with
  | some p => .next (s.finishPush p)
  | none => .next s

/-- PULL_WRITE_DONE (R198): the oldest pull of the slot in focus reaches staging memory. -/
def execPullWriteDone (s : State) : Out :=
  match s.pulls.find? s.isMine with
  | some p => .next (s.finishPull p)
  | none => .next s

/-- QM_LD8 (R195): loads a sign-extended byte from device memory through translation. -/
def execQmLd8 (h : Hdr) (s : State) : Out := execTrigger .qm 0x01 h (qmLoad 0x01 1 true) s

/-- QM_LD8U (R195): loads a zero-extended byte from device memory. -/
def execQmLd8u (h : Hdr) (s : State) : Out := execTrigger .qm 0x02 h (qmLoad 0x02 1 false) s

/-- QM_LD16 (R195): loads a sign-extended halfword from device memory. -/
def execQmLd16 (h : Hdr) (s : State) : Out := execTrigger .qm 0x03 h (qmLoad 0x03 2 true) s

/-- QM_LD16U (R195): loads a zero-extended halfword from device memory. -/
def execQmLd16u (h : Hdr) (s : State) : Out := execTrigger .qm 0x04 h (qmLoad 0x04 2 false) s

/-- QM_LD32 (R195): loads a sign-extended word from device memory. -/
def execQmLd32 (h : Hdr) (s : State) : Out := execTrigger .qm 0x05 h (qmLoad 0x05 4 true) s

/-- QM_LD32U (R195): loads a zero-extended word from device memory. -/
def execQmLd32u (h : Hdr) (s : State) : Out := execTrigger .qm 0x06 h (qmLoad 0x06 4 false) s

/-- QM_LD64 (R195): loads a doubleword from device memory. -/
def execQmLd64 (h : Hdr) (s : State) : Out := execTrigger .qm 0x07 h (qmLoad 0x07 8 false) s

/-- QM_ST8 (R195): stores a byte to device memory. -/
def execQmSt8 (h : Hdr) (s : State) : Out := execTrigger .qm 0x09 h (qmStore 1) s

/-- QM_ST16 (R195): stores a halfword to device memory. -/
def execQmSt16 (h : Hdr) (s : State) : Out := execTrigger .qm 0x0A h (qmStore 2) s

/-- QM_ST32 (R195): stores a word to device memory. -/
def execQmSt32 (h : Hdr) (s : State) : Out := execTrigger .qm 0x0B h (qmStore 4) s

/-- QM_ST64 (R195): stores a doubleword to device memory. -/
def execQmSt64 (h : Hdr) (s : State) : Out := execTrigger .qm 0x0C h (qmStore 8) s

/-- QM_LDACQ_CORE (R195): device-memory load with acquire at core scope. -/
def execQmLdacqCore (h : Hdr) (s : State) : Out := execTrigger .qm 0x10 h (qmLoad 0x10 8 false) s

/-- QM_LDACQ_CLUSTER (R195): device-memory load with acquire at cluster scope. -/
def execQmLdacqCluster (h : Hdr) (s : State) : Out := execTrigger .qm 0x11 h (qmLoad 0x11 8 false) s

/-- QM_LDACQ_DIE (R195): device-memory load with acquire at die scope. -/
def execQmLdacqDie (h : Hdr) (s : State) : Out := execTrigger .qm 0x12 h (qmLoad 0x12 8 false) s

/-- QM_LDACQ_DEVICE (R195): device-memory load with acquire at device scope. -/
def execQmLdacqDevice (h : Hdr) (s : State) : Out := execTrigger .qm 0x13 h (qmLoad 0x13 8 false) s

/-- QM_LDACQ_DOMAIN (R195): device-memory load with acquire at domain scope. -/
def execQmLdacqDomain (h : Hdr) (s : State) : Out := execTrigger .qm 0x14 h (qmLoad 0x14 8 false) s

/-- QM_LDACQ_SYSTEM (R195): device-memory load with acquire at system scope. -/
def execQmLdacqSystem (h : Hdr) (s : State) : Out := execTrigger .qm 0x15 h (qmLoad 0x15 8 false) s

/-- QM_STREL_CORE (R195): device-memory store with release at core scope. -/
def execQmStrelCore (h : Hdr) (s : State) : Out := execTrigger .qm 0x18 h (qmRelease 0) s

/-- QM_STREL_CLUSTER (R195): device-memory store with release at cluster scope. -/
def execQmStrelCluster (h : Hdr) (s : State) : Out := execTrigger .qm 0x19 h (qmRelease 1) s

/-- QM_STREL_DIE (R195): device-memory store with release at die scope. -/
def execQmStrelDie (h : Hdr) (s : State) : Out := execTrigger .qm 0x1A h (qmRelease 2) s

/-- QM_STREL_DEVICE (R195): device-memory store with release at device scope. -/
def execQmStrelDevice (h : Hdr) (s : State) : Out := execTrigger .qm 0x1B h (qmRelease 3) s

/-- QM_STREL_DOMAIN (R195): device-memory store with release at domain scope. -/
def execQmStrelDomain (h : Hdr) (s : State) : Out := execTrigger .qm 0x1C h (qmRelease 4) s

/-- QM_STREL_SYSTEM (R195): device-memory store with release at system scope. -/
def execQmStrelSystem (h : Hdr) (s : State) : Out := execTrigger .qm 0x1D h (qmRelease 5) s

/-- QM_CAS (R196): compare-and-swap at the memory controller of the doubleword's home. -/
def execQmCas (h : Hdr) (s : State) : Out := execTrigger .qm 0x22 h (qmAtomic 0x22 casNew) s

/-- QM_SWAP (R196): atomic swap in device memory. -/
def execQmSwap (h : Hdr) (s : State) : Out := execTrigger .qm 0x23 h (qmAtomic 0x23 swapNew) s

/-- QM_AADD (R196): atomic add in device memory. -/
def execQmAadd (h : Hdr) (s : State) : Out := execTrigger .qm 0x24 h (qmAtomic 0x24 aaddNew) s

/-- QM_AAND (R196): atomic and in device memory. -/
def execQmAand (h : Hdr) (s : State) : Out := execTrigger .qm 0x25 h (qmAtomic 0x25 aandNew) s

/-- QM_AOR (R196): atomic or in device memory. -/
def execQmAor (h : Hdr) (s : State) : Out := execTrigger .qm 0x26 h (qmAtomic 0x26 aorNew) s

/-- QM_AMIN (R196): atomic signed minimum in device memory. -/
def execQmAmin (h : Hdr) (s : State) : Out := execTrigger .qm 0x27 h (qmAtomic 0x27 aminNew) s

/-- QM_AMAX (R196): atomic signed maximum in device memory. -/
def execQmAmax (h : Hdr) (s : State) : Out := execTrigger .qm 0x28 h (qmAtomic 0x28 amaxNew) s

/-- QM_AMINU (R196): atomic unsigned minimum in device memory. -/
def execQmAminu (h : Hdr) (s : State) : Out := execTrigger .qm 0x29 h (qmAtomic 0x29 aminuNew) s

/-- QM_AMAXU (R196): atomic unsigned maximum in device memory. -/
def execQmAmaxu (h : Hdr) (s : State) : Out := execTrigger .qm 0x2A h (qmAtomic 0x2A amaxuNew) s

/-- QM_PUSH (R198): copies staging memory to a compute scratchpad or berth slot. -/
def execQmPush (h : Hdr) (s : State) : Out := execTrigger .qm 0x30 h (qmCopy true) s

/-- QM_PULL (R198): copies a compute scratchpad or berth slot into staging memory. -/
def execQmPull (h : Hdr) (s : State) : Out := execTrigger .qm 0x31 h (qmCopy false) s

/-- QM_FENCE_CORE (R197): waits until earlier qm accesses are performed at core scope. -/
def execQmFenceCore (h : Hdr) (s : State) : Out := execTrigger .qm 0x40 h qmFence s

/-- QM_FENCE_CLUSTER (R197): qm fence at cluster scope. -/
def execQmFenceCluster (h : Hdr) (s : State) : Out := execTrigger .qm 0x41 h qmFence s

/-- QM_FENCE_DIE (R197): qm fence at die scope. -/
def execQmFenceDie (h : Hdr) (s : State) : Out := execTrigger .qm 0x42 h qmFence s

/-- QM_FENCE_DEVICE (R197): qm fence at device scope. -/
def execQmFenceDevice (h : Hdr) (s : State) : Out := execTrigger .qm 0x43 h qmFence s

/-- QM_FENCE_DOMAIN (R197): qm fence at domain scope. -/
def execQmFenceDomain (h : Hdr) (s : State) : Out := execTrigger .qm 0x44 h qmFence s

/-- QM_FENCE_SYSTEM (R197): qm fence at system scope. -/
def execQmFenceSystem (h : Hdr) (s : State) : Out := execTrigger .qm 0x45 h qmFence s

end Sys2Proof.Machine
end

