-- ==== Sys2Proof/Machine/Stream.lean ====
section
/-! DEFINITION. The stream engines and their unit `qs` (spec/07_engine_ops.md R199 to R204). -/

set_option autoImplicit false
set_option Elab.async false

namespace Sys2Proof.Machine

/-! ## The stream pattern record (R200) -/

/-- A field of a record: `n` bytes from byte `i`. -/
def recField (bs : List Byte) (i n : Nat) : Nat := leNat ((bs.drop i).take n)

/-- A stride: signed 32-bit. -/
def recStride (bs : List Byte) (d : Nat) : Int := (BitVec.ofNat 32 (recField bs (28 + 4 * d) 4)).toInt

/-- The count of a dimension. -/
def recCount (bs : List Byte) (d : Nat) : Nat := recField bs (20 + 2 * d) 2

/-- TGT. -/
def recTgt (bs : List Byte) : Word := w64 (recField bs 44 4)

/-- IDXE. -/
def recIndexed (bs : List Byte) : Bool := bit (recTgt bs) 28

/-- Bytes of the whole stream. -/
def recTotal (bs : List Byte) : Nat := recField bs 16 4 * recCount bs 0 * recCount bs 1 * recCount bs 2 * recCount bs 3

/-- Logical core indices of the targets, ascending. -/
def recTargets (bs : List Byte) : List Nat :=
  let core := bits (recTgt bs) 23 16
  if bit (recTgt bs) 29 then (List.range 32).filterMap fun i => if bit (w64 (recField bs 48 4)) i then some (core + i) else none
  else [core]

/-- A field outside R200, the format codes aside. -/
def recBad (bs : List Byte) : Bool :=
  let t := recTgt bs
  bits (w64 (recField bs 0 8)) 55 52 != 0 || (!recIndexed bs && recField bs 8 8 != 0) ||
    recField bs 16 4 == 0 || 0x10000 < recField bs 16 4 || (List.range 4).any (fun d => recCount bs d == 0) ||
    bit t 24 || bits t 15 4 != 0 ||
    (if bit t 29 then bits t 20 16 != 0 || recField bs 48 4 == 0 else recField bs 48 4 != 0) ||
    recField bs 59 1 != 0 || bits (w64 (recField bs 60 2)) 14 12 != 0 || bits (w64 (recField bs 62 2)) 14 12 != 0

/-- A format code of 16 or above in BASE or IDXB; the bytes are moved as they are, whatever the blocks (R202, R320). -/
def recFormatBad (bs : List Byte) : Bool := bit (w64 (recField bs 0 8)) 63 || (recIndexed bs && bit (w64 (recField bs 8 8)) 63)

/-- SE and CE with their counters. -/
def recCounters (bs : List Byte) : List Nat :=
  [60, 62].filterMap fun i => let w := w64 (recField bs i 2); if bit w 15 then some (bits w 11 0) else none

/-- The target core with a logical index in CL of a record. -/
def State.target (s : State) (bs : List Byte) (i : Nat) : CoreId := s.farCore (bits (recTgt bs) 31 30) i

/-- The berth of a target. -/
def State.targetBerth (s : State) (bs : List Byte) (i : Nat) : Option Berth := s.berthAt (s.target bs i) (bits (recTgt bs) 3 0)

/-- The checks of R202 on a record, in order. -/
def State.streamFault (s : State) (bs : List Byte) : Option Nat :=
  let ts := recTargets bs
  if recBad bs then some trapIllegalOp
  else if recFormatBad bs then some trapFormat
  else if ts.any fun i => !s.farInSpan (bits (recTgt bs) 31 30) i then some trapAccess
  else if ts.any (fun i => match s.targetBerth bs i with
      | some d => d.prod != streamParty s.core
      | none => true) then some trapIllegalOp
  else if ts.any (fun i => match s.targetBerth bs i with
      | some d => recTotal bs % d.slotb != 0
      | none => true) then some trapIllegalOp
  else if (recCounters bs).any fun n => !(match s.record? with | some r => s.granted r n | none => false) then some trapAccess
  else none

/-! ## Reading the stream (R201) -/

/-- Why reading stops: an error code, or a page that has to be asked for. -/
inductive StreamStop where
  | err (code : Nat)
  | page (va : Nat)
  deriving DecidableEq, Repr

/-- The homes of bytes at a virtual address as the engine of the core in focus reads them. -/
def State.streamRead (s : State) (va n : Nat) : Except StreamStop (List (Home × Nat)) :=
  if 2 ^ 52 < va + n then .error (.err trapAccess)
  else match s.runs (s.core.tlb ++ s.dieTlb s.coreId.die) s.asid s.vf .read true va n with
    | .ok rs => .ok rs
    | .error (.noPage, a) => .error (.page a)
    | .error (.access, _) => .error (.err trapAccess)

/-- The count of dimension `d` in run number `ri`, or the element of the index array that stands for it. -/
def State.runIndex (s : State) (bs : List Byte) (ri d : Nat) : Except StreamStop Nat :=
  let below := (List.range d).foldl (fun acc k => acc * recCount bs k) 1
  let j := ri / below % recCount bs d
  if recIndexed bs && bits (recTgt bs) 27 26 == d then
    let w := if bit (recTgt bs) 25 then 8 else 4
    match s.streamRead (bits (w64 (recField bs 8 8)) 55 0 + j * w) w with
    | .ok rs => .ok (leNat (s.readRuns rs))
    | .error e => .error e
  else .ok j

/-- The address of a run (R200, R201). -/
def State.runAddr (s : State) (bs : List Byte) (ri : Nat) : Except StreamStop Nat :=
  let base : Int := bits (w64 (recField bs 0 8)) 51 0
  let sum := (List.range 4).foldl (fun (acc : Except StreamStop Int) d => match acc, s.runIndex bs ri d with
    | .ok a, .ok j => .ok (a + j * recStride bs d)
    | .error e, _ => .error e
    | _, .error e => .error e) (.ok base)
  match sum with
  | .error e => .error e
  | .ok a =>
    if a < 0 || (2 : Int) ^ 52 < a + recField bs 16 4 then .error (.err trapAccess)
    else .ok a.toNat

/-- The homes of `n` bytes of the stream from position `pos`. -/
def State.gather (s : State) (bs : List Byte) : Nat → Nat → Nat → Except StreamStop (List (Home × Nat))
  | 0, _, _ => .ok []
  | fuel + 1, pos, n =>
    if n == 0 then .ok []
    else
      let run := recField bs 16 4
      let k := min n (run - pos % run)
      match s.runAddr bs (pos / run) with
      | .error e => .error e
      | .ok a => match s.streamRead (a + pos % run) k with
        | .error e => .error e
        | .ok b => match State.gather s bs fuel (pos + k) (n - k) with
          | .error e => .error e
          | .ok rest => .ok (b ++ rest)

/-! ## The engine's waits (R201, R381) -/

/-- Changes the stream engine of the core in focus. -/
def State.onStream (s : State) (f : Stream → Stream) : State := s.onCore fun c => { c with stream := f c.stream }

/-- Slots of a target that have been committed. -/
def StreamRun.at_ (r : StreamRun) (i : Nat) : Nat := look 0 r.done i

/-- The next slot to be written: the target whose slot ends first in the stream, ties to the lowest core; with its end. -/
def State.nextSlot (s : State) (r : StreamRun) : Option (Nat × Berth × Nat) :=
  (recTargets r.bytes).foldl (fun best i => match s.targetBerth r.bytes i with
    | none => best
    | some d =>
      let e := (r.at_ i + 1) * d.slotb
      if recTotal r.bytes < e then best
      else match best with
        | none => some (i, d, e)
        | some b => if e < b.2.2 then some (i, d, e) else some b) none

/-- The start condition of a record holds. -/
def State.streamMay (s : State) (bs : List Byte) : Bool :=
  let w := w64 (recField bs 60 2)
  !bit w 15 || decide (recField bs 52 4 ≤ (s.ctr s.coreId.die (bits w 11 0)).toNat)

/-- What the engine of the core in focus waits for: kind, object and releaser. -/
def State.streamWait (s : State) : Option (Nat × Nat × Nat) :=
  match s.core.stream.run with
  | none => none
  | some r =>
    if s.core.prq.isSome then none
    else if !r.started then
      if s.streamMay r.bytes then none
      else some (5, bits (w64 (recField r.bytes 60 2)) 11 0, recField r.bytes 56 4)
    else match s.nextSlot r with
      | none => none
      | some (i, d, _) =>
        if d.space == 0 then some (3, i * 2 ^ 8 + bits (recTgt r.bytes) 3 0, d.cons)
        else ((s.coreAt (s.target r.bytes i)).conflict (d.slotOff d.pi) d.slotb true).map fun l => (8, i * 2 ^ 8, l.queue)

/-- Records the engine's wait, or its end. -/
def State.noteStream (s : State) : State :=
  s.onStream fun e => match s.streamWait with
    | none => { e with wrr := setBits e.wrr 63 63 0 }
    | some (kind, object, releaser) =>
      if sameReason e.wrr kind 0 releaser object then e
      else { e with wrr := wrrWord e.wrr kind 0 releaser object, since := s.time }

/-- Stops the engine with an error (R201, R203): slots already committed stay. -/
def State.stopStream (s : State) (code : Nat) : State :=
  (s.onStream fun e => { e with run := none, err := some code }).noteStream

/-! ## The instructions (R202, R203) -/

/-- `qs.run` once its record is read and checked: a place in the run queue, or the wait for one. -/
def State.queueStream (s : State) (bs : List Byte) : Res :=
  let e := s.core.stream
  let me := s.core.cur.val
  let mine := match e.waiting.head? with
    | none => true
    | some w => w.1 == me
  if e.queue.length < 4 && mine then
    let s1 := s.onStream fun e =>
      { e with queue := e.queue ++ [(e.next, bs)], order := e.order ++ [none], next := (e.next + 1) % 2 ^ 32,
               waiting := e.waiting.filter fun w => w.1 != me }
    .ok (s1.complete .qs (w64 e.next) 0)
  else
    let s1 := if e.waiting.any fun w => w.1 == me then s else s.onStream fun e => { e with waiting := e.waiting ++ [(me, bs)] }
    s1.block .qs 1 11 0 (streamParty s.core) 0

/-- `qs.run` (R202). -/
def qsRun (s : State) : Res :=
  let t := (s.lat .qs).t
  if s.resuming then
    match s.core.stream.waiting.find? fun w => w.1 == s.core.cur.val with
    | some w => s.queueStream w.2
    | none => .stall
  else s.withSpa t 64 false t fun (c, off) =>
    let bs := s.loadHome (.core c off) 64
    match s.streamFault bs with
    | some e => .trap e t
    | none => s.queueStream bs

/-- STATE of the status word (R203). -/
def State.streamState (s : State) : Nat :=
  let e := s.core.stream
  match e.err, e.run with
  | some _, _ => 4
  | none, none => 0
  | none, some r =>
    if !r.started then 1
    else match s.streamWait with
      | some (3, _, _) => 3
      | _ => 2

/-- `qs.stat` (R203). -/
def qsStat (s : State) : Res :=
  let e := s.core.stream
  .ok (s.complete .qs (w64 (s.streamState * 2 ^ 61 + e.err.getD 0 * 2 ^ 48 + e.queue.length * 2 ^ 40 + e.seq)) 0)

/-- The running record stops: at once where it stands at a slot boundary, else once the slot that is partly written is complete (R203). -/
def State.cancelRun (s : State) : State :=
  match s.core.stream.run with
  | some r =>
    if r.wrote == 0 then
      ((s.dropPage s.core.prq).onCore fun c => { c with prq := none }).onStream fun e => { e with run := none, err := none }
    else s.onStream fun e => { e with run := some { r with ending := true }, err := none }
  | none => s.onStream fun e => { e with err := none }

/-- `qs.cancel` (R203). A record that is already stopping is not cancelled again. -/
def qsCancel (s : State) : Res :=
  let t := (s.lat .qs).t
  if t != 0 && t != 1 then .trap trapIllegalOp t
  else
    let e := s.core.stream
    let n := (e.run.any fun r => !r.ending).toNat + if t == 1 then e.queue.length else 0
    let s1 := s.cancelRun.onStream fun e =>
      if t == 1 then { e with queue := [], order := e.order.filter fun o => o.isSome } else e
    .ok (s1.noteStream.complete .qs (w64 n) 0)

/-- The operation of an opcode of `qs` (R199). -/
def qsOp (opc : Nat) : Option (State → Res) :=
  match opc with
  | 0x01 => some qsRun
  | 0x02 => some qsStat
  | 0x03 => some qsCancel
  | _ => none

/-! ## The engine's course (R201, R204) -/

/-- The channels of the core record the waits of their queues. -/
def State.noteFed (s : State) : State :=
  (List.range 16).foldl (fun s n => if (s.core.chan n).eng then s.noteChan s.coreId n else s) s

/-- A record begins, its start condition met at once when it has none. -/
def State.beginStream (s : State) (seq : Nat) (bs : List Byte) : State :=
  (s.onStream fun e =>
    { e with run := some ⟨bs, seq, !bit (w64 (recField bs 60 2)) 15, [], [], 0, 0, false⟩, seq := seq }).noteStream.noteFed

/-- A record of an engine-fed channel is taken: it leaves the channel, gets its number and is checked (R204). -/
def State.takeFed (s : State) (ch : Nat) : State :=
  match (s.core.chan ch).oldestPlain with
  | none => s
  | some (i, _) =>
    let off := (s.core.chan ch).entryOff i
    let n := bits (s.core.mem.dword off) 47 40
    let bs := s.core.mem.bytes (off + 8) n
    let seq := s.core.stream.next
    let s0 := (s.freeEntry s.coreId ch i).onCore fun c => c.count 11 noSlot
    let s1 := s0.onStream fun e => { e with next := (e.next + 1) % 2 ^ 32, seq := seq }
    if n != 64 then (s1.stopStream trapIllegalOp).noteFed
    else match s1.streamFault bs with
      | some e => (s1.stopStream e).noteFed
      | none => s1.beginStream seq bs

/-- STREAM_RECORD_TAKE (R204): an idle engine takes the record that became available first. -/
def streamTake (s : State) : State :=
  let e := s.core.stream
  if e.busy then s
  else match e.order with
    | [] => s
    | none :: rest =>
      let s1 := s.onStream fun e => { e with order := rest }
      match e.queue with
      | [] => s1
      | (seq, bs) :: q => (s1.onStream fun e => { e with queue := q }).beginStream seq bs
    | some ch :: rest => (s.onStream fun e => { e with order := rest }).takeFed ch

/-- Reads the stream on to a position, where that has not been done: the homes read, and the record with what they hold. -/
def State.readOn (s : State) (r : StreamRun) (stop : Nat) : Except StreamStop (List (Home × Nat) × StreamRun) :=
  let have_ := r.first + r.buf.length
  if stop ≤ have_ then .ok ([], r)
  else match s.gather r.bytes (stop - have_) have_ (stop - have_) with
    | .ok rs => .ok (rs, { r with buf := r.buf ++ s.readRuns rs })
    | .error e => .error e

/-- Where the part of the stream that some target still needs begins. -/
def State.neededFrom (s : State) (r : StreamRun) : Nat :=
  (recTargets r.bytes).foldl (fun acc i => match s.targetBerth r.bytes i with
    | some d => min acc (r.at_ i * d.slotb)
    | none => acc) (recTotal r.bytes)

/-- The next slot is complete at its target: PI moves on as a release at die scope, and a record that was to stop here does. -/
def State.commitSlot (s : State) (r : StreamRun) (i : Nat) : State :=
  let s1 := s.advancePi (s.target r.bytes i) (bits (recTgt r.bytes) 3 0) 1
  let r1 := { r with done := put r.done i (r.at_ i + 1), wrote := 0 }
  let low := s1.neededFrom r1
  (s1.onStream fun e => { e with run := if r.ending then none else some { r1 with buf := r1.buf.drop (low - r1.first), first := low } }).noteStream

/-- `n` more bytes arrive in the next slot at its target, as many as it has room for (R318). -/
def State.writeSlot (s : State) (r : StreamRun) (i : Nat) (d : Berth) (stop n : Nat) : State :=
  let m := min n (d.slotb - r.wrote)
  let bs := (r.buf.drop (stop - d.slotb + r.wrote - r.first)).take m
  let s1 := s.writeCore (s.target r.bytes i) (d.slotOff d.pi + r.wrote) bs
  let r1 := { r with wrote := r.wrote + m }
  if r1.wrote < d.slotb then (s1.onStream fun e => { e with run := some r1 }).noteStream else s1.commitSlot r1 i

/-- `n` more bytes of the next slot arrive: they are read, if need be, and written once the slot's target has space; the last of them
complete the slot. -/
def State.streamOn (s : State) (r : StreamRun) (i : Nat) (d : Berth) (stop n : Nat) : State :=
  match s.readOn r (min stop (stop - d.slotb + r.wrote + n)) with
  | .error (.err code) => s.stopStream code
  | .error (.page va) =>
    let (s1, tag) := s.askPage (.stream s.coreId) (streamParty s.core) s.asid s.vf va 1
    (s1.onCore fun c => { c with prq := tag }).noteStream
  | .ok (rs, r1) =>
    let s1 := s.askedRuns rs
    if s.streamWait.isSome then (s1.onStream fun e => { e with run := some r1 }).noteStream
    else s1.writeSlot r1 i d stop n

/-- STREAM_SLOT_COMMIT (R201): what is missing of the next slot arrives. -/
def streamCommit (s : State) : State :=
  match s.core.stream.run with
  | none => s
  | some r =>
    if !r.started || s.core.prq.isSome then s
    else match s.nextSlot r with
      | none => s
      | some (i, d, stop) => s.streamOn r i d stop d.slotb

/-- A doubleword of the next slot, not its last, arrives and is written (R318). -/
def State.streamDword (s : State) (r : StreamRun) : State :=
  if s.core.prq.isSome then s
  else match s.nextSlot r with
    | none => s
    | some (i, d, stop) => if r.wrote + 8 < d.slotb then s.streamOn r i d stop 8 else s

/-- STREAM_START (R201, R318): the start condition is met and the engine begins to gather; a record that has begun gathers on. -/
def streamStart (s : State) : State :=
  match s.core.stream.run with
  | none => s
  | some r =>
    if r.started then s.streamDword r
    else if s.streamMay r.bytes then (s.onStream fun e => { e with run := some { r with started := true } }).noteStream
    else s.noteStream

/-- STREAM_RECORD_END (R201): the last slot has been committed; the completion counter is incremented. -/
def streamEnd (s : State) : State :=
  match s.core.stream.run with
  | none => s
  | some r =>
    if !r.started || (s.nextSlot r).isSome then s
    else
      let s1 := (s.onStream fun e => { e with run := none }).noteStream
      let w := w64 (recField r.bytes 62 2)
      if bit w 15 then s1.addCtr s1.coreId.die (bits w 11 0) 1 else s1

/-- STREAM_RECORD_TAKE (R204). -/
def execStreamRecordTake (s : State) : Out := .next (streamTake s)

/-- STREAM_START (R201). -/
def execStreamStart (s : State) : Out := .next (streamStart s)

/-- STREAM_SLOT_COMMIT (R201). -/
def execStreamSlotCommit (s : State) : Out := .next (streamCommit s)

/-- STREAM_RECORD_END (R201). -/
def execStreamRecordEnd (s : State) : Out := .next (streamEnd s)

/-- QS_RUN (R202): reads, checks and queues a stream pattern record for the stream engine. -/
def execQsRun (h : Hdr) (s : State) : Out := execTrigger .qs 0x01 h qsRun s

/-- QS_STAT (R203): returns the stream engine's status. -/
def execQsStat (h : Hdr) (s : State) : Out := execTrigger .qs 0x02 h qsStat s

/-- QS_CANCEL (R203): stops the running record at a slot boundary and optionally discards queued records. -/
def execQsCancel (h : Hdr) (s : State) : Out := execTrigger .qs 0x03 h qsCancel s

end Sys2Proof.Machine
end

