-- ==== Sys2Proof/Machine/Dma.lean ====
section
/-! DEFINITION. The DMA engines (spec/17_host_interface.md R418 to R422; spec/12 R319; spec/19 R461, R462). A descriptor's bytes are
read and written in ascending order as the engine gets on with it, and the rest when it ends (log 36). -/

set_option autoImplicit false
set_option Elab.async false

namespace Sys2Proof.Machine

/-! ## Registers (R418) -/

/-- The index HEAD of an engine. -/
def State.dmaHead (s : State) (die e : Nat) : Nat := bits (s.reg (.drhead die e)) 31 0

/-- Descriptors of an engine's ring. -/
def State.dmaSize (s : State) (die e : Nat) : Nat := 2 ^ (bits (s.reg (.drcfg die e)) 43 40 + 4)

/-- Physical address of the descriptor at HEAD (R419). -/
def State.dmaAt (s : State) (die e : Nat) : Nat :=
  bits (s.reg (.drbase die e)) 51 6 * 64 + 64 * (s.dmaHead die e % s.dmaSize die e)

/-- STATE of DMAST. -/
def State.dmaState (s : State) (die e : Nat) : Nat := bits (s.reg (.dmast die e)) 63 61

/-- An engine exists. -/
def isEngine (die e : Nat) : Bool := (die == 8 || die == 9) && decide (e < 64)

/-- An engine that is not stopped and has no descriptor in course shows idle or running: running where it is enabled and descriptors are
posted. -/
def State.settleDma (s : State) (die e : Nat) : State :=
  let busy := (bit (s.reg (.drcfg die e)) 63 && s.dmaHead die e != bits (s.reg (.drtail die e)) 31 0)
  if (s.engine die e).run.isSome then s else s.setDmaState die e busy.toNat 0

/-- The interrupt source of an engine (R410). -/
def dmaSource (die e : Nat) : Nat := (die - 8) * 64 + e

/-- STOP(code) of R422: STATUS, STATE, SIDX and ERR are written, and the interrupt source raised; the descriptor is dropped. -/
def State.stopDma (s : State) (die e code : Nat) : State :=
  let a := s.dmaAt die e
  let s1 := s.deviceWrite (a + 56) (leBytes 8 (2 ^ 63 + code * 2 ^ 48))
  let s2 := s1.onEngine die e fun g => { g with run := none, prq := none, stopping := false, off := 0, wrr := setBits g.wrr 63 63 0 }
  (s2.setReg (.dmast die e) (w64 (3 * 2 ^ 61 + code * 2 ^ 48 + s.dmaHead die e))).raiseIrq (dmaSource die e)

/-- DRTAIL_WRITE (R418): a tail that would overrun the ring is ignored and stops the engine. -/
def execDrtailWrite (die e : Nat) (tail : HWord) (s : State) : Out :=
  if !isEngine die e then .next s
  else if s.dmaSize die e < (tail.toNat + 2 ^ 32 - s.dmaHead die e) % 2 ^ 32 then .next (s.stopDma die e 0x0D)
  else
    let s1 := s.setReg (.drtail die e) (w64 tail.toNat)
    .next (if s.dmaState die e == 3 then s1 else s1.settleDma die e)

/-- DRCFG_WRITE (R418): while EN is 1 only a write that clears EN takes effect, and the engine stops after its descriptor. -/
def execDrcfgWrite (die e : Nat) (v : Word) (s : State) : Out :=
  if !isEngine die e || (bit (s.reg (.drcfg die e)) 63 && bit v 63) then .next s
  else
    let s1 := (s.setReg (.drcfg die e) (setBits v 19 16 0)).onEngine die e fun g => { g with stopping := g.run.isSome && !bit v 63 }
    .next (if s.dmaState die e == 3 then s1 else s1.settleDma die e)

/-- DMA_ABORT (R418): HEAD := TAIL, and STATE := 0. -/
def execDmaAbort (die e : Nat) (s : State) : Out := if isEngine die e then .next (s.abortEngine die e) else .next s

/-- DMA_RESUME (R418): a stopped engine goes on past the descriptor that stopped it. -/
def execDmaResume (die e : Nat) (s : State) : Out :=
  if isEngine die e && s.dmaState die e == 3 then
    .next ((s.setReg (.drhead die e) (w64 ((bits (s.reg (.dmast die e)) 31 0 + 1) % 2 ^ 32))).settleDma die e)
  else .next s

/-! ## Descriptors (R419) -/

/-- A number of `n` bytes in a descriptor. -/
def descNat (d : List Byte) (i n : Nat) : Nat := leNat ((d.drop i).take n)

/-- OP of a descriptor. -/
def dmaOp (d : List Byte) : Nat := descNat d 20 1
/-- FLAGS of a descriptor. -/
def dmaFlag (d : List Byte) (i : Nat) : Bool := bit (w64 (descNat d 21 1)) i
/-- LEN of a descriptor. -/
def dmaLen (d : List Byte) : Nat := descNat d 16 4
/-- BT of a descriptor. -/
def dmaBt (d : List Byte) : Word := w64 (descNat d 24 4)
/-- CC of a descriptor. -/
def dmaCc (d : List Byte) : Word := w64 (descNat d 28 4)

/-- The record whose counters and logical dies an engine uses (R418). -/
def State.dmaJob (s : State) (die e : Nat) : Option Nat :=
  let w := s.reg (.drcfg die e)
  if bit w 62 then some (bits w 55 44) else none

/-- A logical die is one of a record's job that has a mapping: of its span, or an I/O die (R288, R303). -/
def State.dieOfJob (s : State) (r l : Nat) : Bool :=
  (s.recState r == 2 || s.recState r == 3) && (decide (l < s.spanDies r) || l == 8 || l == 9)

/-- The party ID of an engine (R418). -/
def dmaParty (die e : Nat) : Nat := die * 2 ^ 20 + 7 * 2 ^ 16 + e

/-- The physical core that BT names in a job (R288). -/
def State.dmaTarget (s : State) (r : Nat) (bt : Word) : CoreId :=
  let cl := bits bt 27 26
  let i := bits bt 25 18
  (s.job r).computeAt (bits bt 31 28) (cl / 2 * 16 + i / 16) (cl % 2 * 16 + i % 16)

/-- The berth that BT names: of the job's context on its core, with this engine as PROD (R420). -/
def State.dmaBerth (s : State) (die e : Nat) (bt : Word) : Option (CoreId × Nat × Berth) :=
  match s.dmaJob die e with
  | none => none
  | some r =>
    let c := s.dmaTarget r bt
    if !s.dieOfJob r (bits bt 31 28) || ((s.coreAt c).ctx.map (·.record)) != some r then none
    else match s.berthAt c (bits bt 3 0) with
      | some b => if b.prod == dmaParty die e then some (c, bits bt 3 0, b) else none
      | none => none

/-- A descriptor obeys R419 and R420's first check. -/
def State.dmaOk (s : State) (die e : Nat) (d : List Byte) : Bool :=
  let op := dmaOp d
  let len := dmaLen d
  let cc := dmaCc d
  decide (1 ≤ len) && decide (len ≤ 0x40000000) && decide (op ≤ 2) && descNat d 21 1 < 16 && descNat d 22 2 == 0 &&
    descNat d 32 24 == 0 && bits cc 30 28 == 0 && bits cc 23 12 == 0 &&
    (op != 1 || (len % 8 == 0 && descNat d 8 8 % 8 == 0)) &&
    (op != 2 || (descNat d 8 8 == 0 && len % 32 == 0 && bits (dmaBt d) 17 4 == 0 &&
      match s.dmaBerth die e (dmaBt d) with
      | some (_, _, b) => decide (len ≤ b.slotb)
      | none => false)) &&
    (!bit cc 31 || match s.dmaJob die e with
      | some r => s.dieOfJob r (bits cc 27 24) && s.granted r (bits cc 11 0)
      | none => false)

/-! ## The course of a descriptor (R420) -/

/-- What an engine waits for: kind, object and releaser. -/
def State.dmaWait (s : State) (die e : Nat) (d : List Byte) : Option (Nat × Nat × Nat) :=
  if dmaOp d != 2 then none
  else match s.dmaBerth die e (dmaBt d) with
    | none => none
    | some (c, b, k) =>
      if k.space == 0 then some (3, s.berthObject c b, k.cons)
      else ((s.coreAt c).conflict (k.slotOff k.pi) (dmaLen d) true).map fun l => (8, (s.coreAt c).cidx * 2 ^ 8, l.queue)

/-- The engine records its wait, or its end (R381); a wait for berth space shows in STATE. -/
def State.noteDma (s : State) (die e : Nat) (d : List Byte) : State :=
  match s.dmaWait die e d with
  | none => (s.onEngine die e fun g => { g with wrr := setBits g.wrr 63 63 0 }).setDmaState die e 1 0
  | some (kind, object, releaser) =>
    let s1 := s.setDmaState die e (if kind == 3 then 2 else 1) 0
    if sameReason (s.engine die e).wrr kind 0 releaser object then s1
    else s1.onEngine die e fun g => { g with wrr := wrrWord g.wrr kind 0 releaser object, since := s.time }

/-- A device address of a descriptor whose tag no access may use (R77, R78, R419). -/
def dmaTagBad (d : List Byte) : Bool :=
  (dmaOp d != 1 && !dmaFlag d 0 && pointerBad (w64 (descNat d 0 8))) || (dmaOp d != 2 && !dmaFlag d 1 && pointerBad (w64 (descNat d 8 8)))

/-- What the descriptor at HEAD may still read of what earlier ones have overwritten: it was posted when they wrote (R421). -/
def State.stillEarly (s : State) (die e : Nat) (before : List (Nat × Nat × Home × List Byte)) : List (Nat × Nat × Home × List Byte) :=
  let head := s.dmaHead die e
  before.filter fun x => decide ((head + 2 ^ 32 - x.1) % 2 ^ 32 < (x.2.1 + 2 ^ 32 - x.1) % 2 ^ 32)

/-- DMA_DESCRIPTOR_START (R420): the engine reads the descriptor at HEAD, checks it, and runs it or stops; a tag that R77 or
R78 forbids stops it with FORMAT, a code that R422 does not list (DEDUCED, log 107). -/
def execDmaDescriptorStart (die e : Nat) (s : State) : Out :=
  let a := s.dmaAt die e
  if !isEngine die e || !bit (s.reg (.drcfg die e)) 63 || s.dmaState die e == 3 || (s.engine die e).run.isSome ||
      s.dmaHead die e == bits (s.reg (.drtail die e)) 31 0 then .next s
  else
    let d := s.deviceRead a 64
    if !s.dmaOk die e d then .next (s.stopDma die e 0x02)
    else if dmaTagBad d then .next (s.stopDma die e trapFormat)
    else .next ((s.onEngine die e fun g => { g with run := some d, off := 0, before := if dmaFlag d 2 then [] else s.stillEarly die e g.before }).noteDma die e d)

/-- The homes of a range of I/O virtual addresses under a PASID, page by page: PRI serves a page that is not mapped, or fails finally, which
shows as `access` (R419, R420, R461; log 89). -/
def State.hostRuns (s : State) (port pasid : Nat) : Nat → Nat → Nat → Except (XlatErr × Nat) (List (Home × Nat))
  | 0, _, _ => .ok []
  | fuel + 1, a, n =>
    if n == 0 then .ok []
    else
      let m := min n (4096 - a % 4096)
      match Config.pri port pasid (a / 4096) s.time with
      | 0 => match State.hostRuns s port pasid fuel (a + m) (n - m) with
        | .error x => .error x
        | .ok rest => .ok ((.host (hostKey port pasid a) 0, m) :: rest)
      | 1 => .error (.noPage, a)
      | _ => .error (.access, a)

/-- The homes of one end of a copy: host memory under PASID on the function's port (R412), or device memory under ASID for the engine's
function, U ignored (R419, R458). -/
def State.dmaRuns (s : State) (die e : Nat) (acc : Access) (isHost : Bool) (addr : Word) (n : Nat) :
    Except (XlatErr × Nat) (List (Home × Nat)) :=
  let w := s.reg (.drcfg die e)
  if isHost then s.hostRuns (s.fnPort (bits w 61 56) die) (bits w 39 20) (n / 4096 + 2) addr.toNat n
  else if bits addr 55 52 != 0 then .error (.access, 0)
  else s.runs (s.dieTlb die) (bits w 15 0) (bits w 61 56) acc false (bits addr 55 0) n

/-- A translation that fails: a page is asked for, and the engine holds its place; or it stops. PRI serves a host page, and the engine goes on
once it has (R420, R461). -/
def State.dmaMiss (s : State) (die e access : Nat) (isHost : Bool) (x : XlatErr × Nat) : State :=
  match isHost, x with
  | true, (.access, _) => s.stopDma die e 0x08
  | true, (.noPage, _) => s
  | false, (.access, _) => s.stopDma die e 0x07
  | false, (.noPage, va) =>
    let w := s.reg (.drcfg die e)
    let (s1, tag) := s.askPage (.dma die e) (dmaParty die e) (bits w 15 0) (bits w 61 56) (va / 2 ^ 16 * 2 ^ 16) access
    s1.onEngine die e fun g => { g with prq := tag }

/-- The pattern of a fill, repeated. -/
def fillBytes (pattern n : Nat) : List Byte := (List.range (n / 8)).flatMap fun _ => leBytes 8 pattern

/-- The end of a descriptor whose data have been written: STATUS, the counter, the interrupt, and HEAD (R420, R421). -/
def State.dmaDone (s : State) (die e : Nat) (d : List Byte) : State :=
  let s1 := s.deviceWrite (s.dmaAt die e + 56) (leBytes 8 (2 ^ 63))
  let cc := dmaCc d
  let s2 := match bit cc 31, s1.dmaJob die e with
    | true, some r => s1.addCtr ((s1.job r).physDie (bits cc 27 24)) (bits cc 11 0) 1
    | _, _ => s1
  let s3 := if dmaFlag d 3 then s2.raiseIrq (dmaSource die e) else s2
  let head := (s3.dmaHead die e + 1) % 2 ^ 32
  let s4 := (s3.setReg (.drhead die e) (w64 head)).onEngine die e fun g =>
    { g with run := none, stopping := false, off := 0, before := g.before.filter fun x => x.2.1 != head, wrr := setBits g.wrr 63 63 0 }
  s4.settleDma die e

/-- A byte as the engine reads it: the read comes behind some of the earlier writes of its ring, and before the others, one place for a
doubleword (R421, log 36). -/
def State.earlyByte (s : State) (die e : Nat) (h : Home) (b : Byte) : Byte :=
  let head := s.dmaHead die e
  let olds := (s.engine die e).before.filter fun x => x.1 != head
  let behind := Config.readEarly s.time (die * 64 + e) head h.dword % (olds.length + 1)
  ((olds.drop behind).findSome? fun x => x.2.2.1.byteOf x.2.2.2 h).getD b

/-- The bytes of runs as the engine reads them. -/
def State.earlyRuns (s : State) (die e : Nat) (rs : List (Home × Nat)) : List Byte :=
  if (s.engine die e).before.isEmpty then s.readRuns rs
  else rs.flatMap fun r => (s.readHome r.1 r.2).mapIdx fun i b => s.earlyByte die e (r.1.shift i) b

/-- The running descriptor is about to write runs; the descriptors posted behind it may still read what stands there. -/
def State.noteBefore (s : State) (die e : Nat) (rs : List (Home × Nat)) : State :=
  let head := s.dmaHead die e
  let tail := bits (s.reg (.drtail die e)) 31 0
  if (head + 1) % 2 ^ 32 == tail then s
  else s.onEngine die e fun g => { g with before := g.before ++ rs.map fun r => (head, tail, r.1, s.readHome r.1 r.2) }

/-- The bytes of an end of a copy from `off` on that translate, as runs, and the error behind them, if any. -/
def State.dmaSpan (s : State) (die e : Nat) (acc : Access) (isHost : Bool) (addr : Word) (n : Nat) :
    List (Home × Nat) × Nat × Option (XlatErr × Nat) :=
  match s.dmaRuns die e acc isHost addr n with
  | .ok rs => (rs, n, none)
  | .error x =>
    let k := x.2 - if isHost then addr.toNat else bits addr 55 0
    match s.dmaRuns die e acc isHost addr k with
    | .ok rs => (rs, k, some x)
    | .error _ => ([], 0, some x)

/-- What a descriptor still has to write, from `off` on: the homes read, their bytes, how many they are, and the error behind them. -/
def State.dmaBytes (s : State) (die e : Nat) (d : List Byte) (off n : Nat) : List (Home × Nat) × List Byte × Nat × Option (XlatErr × Nat) :=
  if dmaOp d == 1 then ([], (fillBytes (descNat d 0 8) (dmaLen d)).drop off, n, none)
  else
    let (rs, k, x) := s.dmaSpan die e .read (dmaFlag d 0) (w64 (descNat d 0 8 + off)) n
    (rs, s.earlyRuns die e rs, k, x)

/-- What a step of a copy leaves: the descriptor done, or its first `off` bytes written and the translation that fails served. -/
def State.dmaAfter (s : State) (die e : Nat) (d : List Byte) (off access : Nat) (x : Option (XlatErr × Nat)) : State :=
  match x with
  | none => s.dmaDone die e d
  | some x => (s.onEngine die e fun g => { g with off }).dmaMiss die e access (dmaFlag d (access - 1)) x

/-- The next `n` bytes of a copy into a berth slot: how many were written, and the error behind them (R420). -/
def State.dmaIntoBerth (s : State) (die e : Nat) (d : List Byte) (off n : Nat) : State × Nat × Nat × Option (XlatErr × Nat) :=
  let (rs, bs, k, x) := s.dmaBytes die e d off n
  match s.dmaBerth die e (dmaBt d) with
  | none => (s, 0, 1, none)
  | some (c, _, q) => ((s.askedRuns rs).writeCore c (q.slotOff q.pi + off) (bs.take k), k, 1, x)

/-- The next `n` bytes of a copy or fill into memory: those that both ends translate are written, and the error behind them is a read's, 1, or
a write's, 2 (R420). -/
def State.dmaIntoMemory (s : State) (die e : Nat) (d : List Byte) (off n : Nat) : State × Nat × Nat × Option (XlatErr × Nat) :=
  let (from_, bs, k, x) := s.dmaBytes die e d off n
  let (rs, j, y) := s.dmaSpan die e .write (dmaFlag d 1) (w64 (descNat d 8 8 + off)) k
  let s1 := ((s.askedRuns from_).noteBefore die e rs).writeRuns rs (bs.take j)
  if y.isSome then (s1, j, 2, y) else (s1, k, 1, x)

/-- The next `n` bytes of a descriptor. -/
def State.dmaNext (s : State) (die e : Nat) (d : List Byte) (off n : Nat) : State × Nat × Nat × Option (XlatErr × Nat) :=
  if dmaOp d == 2 then s.dmaIntoBerth die e d off n else s.dmaIntoMemory die e d off n

/-- The rest of a descriptor: all is written and it is done, a berth's PI counting the slot; or a translation that fails is served. -/
def State.dmaRest (s : State) (die e : Nat) (d : List Byte) (off : Nat) : State :=
  let (s1, k, access, x) := s.dmaNext die e d off (dmaLen d - off)
  match dmaOp d == 2, s.dmaBerth die e (dmaBt d) with
  | true, none => s.stopDma die e 0x02
  | true, some (c, b, _) => (if x.isNone then s1.advancePi c b 1 else s1).dmaAfter die e d (off + k) access x
  | false, _ => s1.dmaAfter die e d (off + k) access x

/-- Bytes that a copy gets on with in a step: whole doublewords of both its ends (R420). -/
def State.dmaStride (s : State) (die e : Nat) (d : List Byte) (off : Nat) : Nat :=
  let dst := if dmaOp d == 2 then 0 else descNat d 8 8
  let src := if dmaOp d == 1 then dst else descNat d 0 8
  let stop := min (dmaLen d) (off + Config.dmaStride s.time (die * 64 + e) off % dmaLen d)
  if src % 8 != dst % 8 || stop < (dst + stop) % 8 then 0 else stop - (dst + stop) % 8 - off

/-- An engine in the midst of a descriptor gets on with it, in ascending order, as far as its translations stand (R420, log 36). -/
def State.dmaAdvance (s : State) (die e : Nat) (d : List Byte) : State :=
  let g := s.engine die e
  let n := s.dmaStride die e d g.off
  if g.prq.isSome || (s.dmaWait die e d).isSome || n == 0 then s
  else
    let (s1, k, _, _) := s.dmaNext die e d g.off n
    s1.onEngine die e fun g => { g with off := g.off + k }

/-- DMA_DESCRIPTOR_DONE (R420): the descriptor's remaining bytes are read and written, and what follows them done; or the engine waits. -/
def execDmaDescriptorDone (die e : Nat) (s : State) : Out :=
  let g := s.engine die e
  match g.run, g.prq with
  | some d, none =>
    if (s.dmaWait die e d).isSome then .next (s.noteDma die e d)
    else .next (s.dmaRest die e d g.off)
  | _, _ => .next s

end Sys2Proof.Machine
end

