-- ==== Sys2Proof/Machine/Channels.lean ====
section
/-! DEFINITION. The channel unit `ch` (spec/08_system_ops.md R206 to R216): sending, taking and freeing messages, the match table, and
the landing and spilling of messages on their way (spec/09 R254, R256; spec/11 R305). -/

set_option autoImplicit false
set_option Elab.async false

namespace Sys2Proof.Machine

/-! ## Sending (R212) -/

/-- The physical core of the place that a destination word names under a job's mapping. -/
def Job.destOf (j : Job) (t : Word) : CoreId :=
  let die := bits t 31 28
  match bits t 43 42 with
  | 0 => j.computeAt die (bits t 25 21) (bits t 20 16)
  | 1 => ⟨.quay, j.physDie die, bits t 15 8⟩
  | _ => ⟨.harbour, die, bits t 15 8⟩

/-- The place that a destination word names on logical device `dev` lies in the span of a record (R510). -/
def State.destInSpan (s : State) (r dev : Nat) (t : Word) : Bool :=
  decide (dev < s.spanDevs r) &&
    if bits t 43 42 == 0 then s.inSpan r dev (bits t 31 28) (bits t 25 21) (bits t 20 16) else s.hasRole r ((s.job r).destOf t)

/-- The logical device that a destination word of a job of record `r` names. -/
def State.destDev (s : State) (r : Nat) (t : Word) : Nat := if bit t 41 then bits t 39 32 else s.myDev r

/-- The core a destination word names, where it lies in the span of the issuing job (R510). -/
def State.destCore (s : State) (t : Word) : Option CoreId :=
  match s.record? with
  | none => none
  | some r => if s.destInSpan r (s.destDev r t) t then some ((s.job r).destOf t) else none

/-- The message leaves the device (R212, X). -/
def State.leavesDevice (s : State) (t : Word) : Bool := match s.record? with
  | some r => s.destDev r t != s.myDev r
  | none => false

/-- A nonzero bit in a zero field of a destination word. -/
def destZero (t : Word) : Bool :=
  bit t 40 || (!bit t 41 && bits t 39 32 != 0) || bits t 27 26 != 0 || bits t 7 0 != 0 ||
    (if bits t 43 42 == 0 then bits t 15 8 != 0 else bits t 25 16 != 0) || (bits t 43 42 == 3 && bits t 15 8 != 0)

/-- A nonzero bit in a zero field of a destination word, or KIND 3. -/
def destBad (t : Word) : Bool := destZero t || bits t 43 42 == 3

/-- A sender belongs to the sender set of a channel (R208). -/
def State.accepts (s : State) (ch : Channel) (r : Nat) (sender : Nat) : Bool :=
  ch.declared && match ch.smode with
    | 0 => sender == ch.sender
    | 1 => ((s.job r).sets.getD ch.sender []).contains sender
    | 3 => true
    | _ => false

/-- The core holds a context of a job that takes messages into its channels (R254). -/
def Core.takesFor (c : Core) (r : Option Nat) : Bool := match c.ctx with
  | some x => some x.record == r && !x.preempting
  | none => false

/-- `send` and `sendm` once they have an entry, or need none: the message is on its way and the trigger completes. -/
def State.sendNow (s : State) (opc : Nat) (dst : CoreId) (entry : Option Nat) (pay : List Byte) : Res :=
  let t := (s.lat .ch).t
  let header := w64 (bits t 63 48 * 2 ^ 48 + pay.length * 2 ^ 40 + s.party)
  let resv := if entry.isSome then ((s.coreAt dst).chan (bits t 47 44)).next else 0xFFFFFFFF
  let m : Msg := ⟨s.record?, s.coreId, s.core.cur, dst, bits t 47 44, entry, resv, header, t, pay⟩
  let s1 := match entry with
    | some i => s.onCoreAt dst fun c =>
        (c.reserveEntry m.chan i).onChan m.chan fun k => { k with queue := k.queue.filter fun q => q != (s.coreId, s.core.cur.val) }
    | none => s
  let s2 : State := if s.leavesDevice t then s1.sendFlit 0 (leBytes 8 header.toNat ++ pay) else { s1.noteChan dst m.chan with msgs := s1.msgs ++ [m] }
  let lat := if opc == 1 then 2 else 2 + pay.length / 32
  .ok ((s2.launch .ch opc lat lat 0 0).count 10)

/-- The core is being or has been copied out, so that a sender's reservation there is still pending (R254). -/
def State.copiedOut (s : State) (r : Nat) (dst : CoreId) : Bool :=
  (s.job r).parkedCores.contains dst || match (s.coreAt dst).ctx with
    | some x => x.record == r && x.preempting
    | none => false

/-- `send` and `sendm` with their payload: an entry is obtained in the order in which requests reach a full channel. An entry of another
device's channel is that device's to give: the slot waits, and the answer of the device ends the wait (log 8). -/
def State.sendOn (s0 : State) (opc : Nat) (dst : CoreId) (pay : List Byte) : Res :=
  if !s0.core.outside.isEmpty then .stall
  else s0.ordered fun s =>
    let t := (s.lat .ch).t
    let ch := bits t 47 44
    let c := s.coreAt dst
    let me := (s.coreId, s.core.cur.val)
    let k := c.chan ch
    let r := s.record?.getD 0
    if s.leavesDevice t then match s.handed with
      | some _ => s.sendNow opc dst none pay
      | none => (s.block .ch opc 9 0 (externalParty (s.destDev r t)) ch).holding pay
    else if s.resuming && s.copiedOut r dst then .stall
    else if !c.takesFor s.record? || !s.accepts k r s.party then s.sendNow opc dst none pay
    else match c.sendable ch, k.queue.isEmpty || k.queue.head? == some me with
      | some i, true => s.sendNow opc dst (some i) pay
      | _, _ =>
        let s1 := if k.queue.contains me then s
          else s.onCoreAt dst fun c => c.onChan ch fun k => { k with queue := k.queue ++ [me] }
        ((s1.noteChan dst ch).block .ch opc 9 0 (chanParty dst c ch) ch).holding pay

/-- `send` and `sendm` past the checks of the destination word. -/
def State.sendTo (s : State) (k : CoreId → Res) : Res :=
  let t := (s.lat .ch).t
  match s.destCore t with
  | none => .trap trapAccess t
  | some dst => s.check (bits t 47 44 == 15 && s.sl.priv == 0) trapPriv t (k dst)

/-- `send` (R212). -/
def chSend (s : State) : Res :=
  let l := s.lat .ch
  s.check (destBad l.t) trapIllegalOp l.t <| s.sendTo fun dst => s.sendOn 1 dst (leBytes 8 l.a.toNat)

/-- `sendm` (R212). -/
def chSendm (s : State) : Res :=
  let l := s.lat .ch
  let n := bits l.b 7 0
  s.check (destZero l.t) trapIllegalOp l.t <|
    s.check (bits l.b 63 8 != 0 || n % 8 != 0 || 248 < n) trapIllegalOp l.b <|
    s.check (destBad l.t) trapIllegalOp l.t <| s.sendTo fun dst =>
      if s.resuming then s.sendOn 2 dst s.held
      else if n == 0 then s.sendOn 2 dst []
      else s.withSpa l.a 8 false l.a fun (c, off) =>
        match s.spaOffset c off n 8 false with
        | some e => .trap e l.a
        | none => s.sendOn 2 dst (s.loadHome (.core c off) n)

/-! ## Taking and freeing (R213, R214) -/

/-- The checks of `recv` and `poll`. -/
def State.takeFrom (s : State) (k : Nat → Channel → Res) : Res :=
  let t := (s.lat .ch).t
  let ch := s.core.chan (bits t 3 0)
  s.check (bits t 63 4 != 0 || !ch.declared || ch.eng) trapIllegalOp t (k (bits t 3 0) ch)

/-- `recv` (R213). -/
def chRecv (s : State) : Res :=
  s.takeFrom fun n ch =>
    let me := s.core.cur.val
    match ch.oldestPlain, ch.recvq.isEmpty || ch.recvq.head? == some me with
    | some (i, _), true => .ok (s.onCore fun c => c.giveEntry n i me)
    | _, _ =>
      let s1 := if ch.recvq.contains me then s else s.onCore fun c => c.onChan n fun k => { k with recvq := k.recvq ++ [me] }
      s1.block .ch 3 1 ch.smode ch.sender n

/-- `poll` (R213). -/
def chPoll (s : State) : Res :=
  s.takeFrom fun n ch =>
    match ch.oldestPlain with
    | none => .ok (s.complete .ch 0 0)
    | some (i, _) =>
      let off := ch.entryOff i
      .ok (((s.complete .ch (w64 (0x4000000 + off)) (s.core.mem.dword off)).onCore fun c =>
        c.onEntry n i fun e => { e with state := .taken }).count 11)

/-- The taken entry of a declared channel that starts at an address. -/
def Core.takenAt (c : Core) (t : Word) : Option (Nat × Nat) :=
  (List.range 16).findSome? fun n =>
    let k := c.chan n
    if !k.declared then none
    else (k.entries.mapIdx fun i e => (i, e)).findSome? fun (i, e) =>
      if e.state == EntryState.taken && t == w64 (0x4000000 + k.entryOff i) then some (n, i) else none

/-- `free` (R214): a release of the slot's reads of the entry. -/
def chFree (s : State) : Res :=
  let t := (s.lat .ch).t
  match s.core.takenAt t with
  | none => .trap trapIllegalOp t
  | some (n, i) => s.ordered fun s => .ok ((s.complete .ch 0 0).freeEntry s.coreId n i)

/-! ## The match table (R215) -/

/-- `match` (R215): writes an entry, and tests every arrived entry of its channel. -/
def chMatch (s : State) : Res :=
  let l := s.lat .ch
  let n := bits l.t 19 16
  let ch := s.core.chan n
  s.check (bits l.t 23 20 != 0 || bits l.t 15 4 != 0 || !ch.declared || ch.eng) trapIllegalOp l.t <|
    s.check (bits l.a 63 52 != 0) trapIllegalOp l.a <| s.check (bits l.a 1 0 != 0) trapMisalign l.a <|
      let s1 := (s.complete .ch 0 0).onCore fun c =>
        let c1 := { c with matchTab := c.matchTab.set (Fin.ofNat 16 (bits l.t 3 0)) (some ⟨l.t, l.a, l.b⟩) }
        let c2 := (List.range ch.entries.length).foldl (fun c i => match ch.entries[i]? with
          | some e => if e.state == .arrived && e.mark.isNone then c.offerEntry n i else c
          | none => c) c1
        (List.range 16).foldl (fun c _ => c.releaseTask) c2
      .ok s1

/-- Entries marked for the task of a match-table entry become plain arrived entries. -/
def Channel.unmark (n : Nat) (m : Option MatchEntry) (ch : Channel) : Channel :=
  { ch with entries := ch.entries.map fun e => if decide (e.mark = m.map fun k => (n, k)) then { e with mark := none } else e }

/-- `unmatch` (R215): clears an entry and returns the messages marked for its task. -/
def chUnmatch (s : State) : Res :=
  let t := (s.lat .ch).t
  s.check (bits t 63 4 != 0) trapIllegalOp t <|
    let s1 := (s.complete .ch 0 0).onCore fun c =>
      let n := Fin.ofNat 16 (bits t 3 0)
      { c with matchTab := c.matchTab.set n none, chans := c.chans.map (Channel.unmark n c.matchTab[n]) }
    .ok ((List.range 16).foldl (fun s n => (List.range 4).foldl (fun s _ => s.serveRecv s.coreId n) s) s1)

/-! ## The instructions -/

/-- The operation of an opcode of `ch` (R211). -/
def chOp (opc : Nat) : Option (State → Res) :=
  match opc with
  | 0x01 => some chSend
  | 0x02 => some chSendm
  | 0x03 => some chRecv
  | 0x04 => some chPoll
  | 0x05 => some chFree
  | 0x06 => some chMatch
  | 0x07 => some chUnmatch
  | _ => none

/-! ## Landing and spilling (R209, R254, R256, R305) -/

/-- A spill entry (R256). -/
def spillBytes (m : Msg) : List Byte :=
  leBytes 8 m.dest.toNat ++ leBytes 8 m.header.toNat ++ m.payload ++ List.replicate (248 - m.payload.length) 0 ++
    leBytes 4 m.resv ++ [0, 0, 0, 0]

/-- Offset of a spill entry: fifteen to a unit of 4 KiB (R305). -/
def spillOff (n : Nat) : Nat := n / 15 * 4096 + n % 15 * 272

/-- A message goes to the spill buffer of a job, or, that being full, waits in the fabric. A buffer that cannot be translated makes the job
failed, as a host kill does (R508). -/
def State.spillMsg (s : State) (r : Nat) (m : Msg) : State :=
  let n := (s.job r).spilled.length
  if n < bits (s.dw r 12) 63 52 * 15 then match s.recRuns r (bits (s.dw r 12) 51 0 + spillOff n) 272 with
    | some rs => (s.writeRuns rs (spillBytes m)).onJob r fun j => { j with spilled := j.spilled ++ [m] }
    | none => s.killJob r 0x18 true
  else s.onJob r fun j => { j with held := j.held ++ [m] }

/-- Where a message from another device is said to come from: no core of this one. -/
def awayCore : CoreId := ⟨.lighthouse, 15, 0⟩

/-- A message that its receiver discards: the sender's core gets a SEND_REJECT notice (R212, R214). -/
def State.rejectMsg (s : State) (m : Msg) : State :=
  let n : Notice := ⟨w64 (0xFF30 * 2 ^ 48 + 16 * 2 ^ 40 + bits m.header 23 0), m.header, m.dest⟩
  if m.src = awayCore then s.sendFlit 0 ([n.header, n.p0, n.p1].flatMap fun w => leBytes 8 w.toNat) else (s.onCoreAt m.src fun c => { c with outside := c.outside ++ [n] }).admitAll m.src

/-- A message lands: in its reserved entry once no range lock bars it (R319); else, with no entry, it is spilled, takes an entry now, or is
rejected, as at a core of the span that is none of the job's and so declares no channel (R212). -/
def State.landMsg (s : State) (k : Nat) (m : Msg) : State :=
  let c := s.coreAt m.dst
  let s1 : State := { s with msgs := s.msgs.eraseIdx k }
  let away := match m.job with
    | some r => (s.job r).parkedCores.contains m.dst
    | none => false
  match m.entry with
  | some i =>
    if away then s1.spillMsg (m.job.getD 0) m
    else if (c.landLock m.chan i m.payload.length).isSome then s.noteChan m.dst m.chan
    else s1.landEntry m.dst m.chan i m.header m.payload
  | none =>
    match m.job with
    | none => s1
    | some r =>
      if !c.takesFor (some r) then
        if s.copiedOut r m.dst then s1.spillMsg r m
        else if s.recState r == 2 || s.recState r == 3 then s1.rejectMsg m else s1
      else if !s.accepts (c.chan m.chan) r (bits m.header 23 0) then s1.rejectMsg m
      else match c.sendable m.chan, (c.chan m.chan).queue.isEmpty with
        | some i, true =>
          if (c.landLock m.chan i m.payload.length).isSome then s.noteChan m.dst m.chan
          else (s1.onCoreAt m.dst fun c => c.reserveEntry m.chan i).landEntry m.dst m.chan i m.header m.payload
        | _, _ => s

/-- Messages of one sending slot, whose sends are performed in order, to whatever channels they go (R209, R216). -/
def Msg.sameWay (m n : Msg) : Bool := m.src == n.src && m.slot == n.slot && bits m.header 31 0 == bits n.header 31 0

/-- MESSAGE_LAND (R209): message `k` on its way lands, once none from the same slot is before it. -/
def execMessageLand (k : Nat) (s : State) : Out :=
  match s.msgs[k]? with
  | none => .next s
  | some m => if (s.msgs.take k).any m.sameWay then .next s else .next (s.landMsg k m)

/-- TASK_RELEASE (R215): the oldest matched entry of the core releases its task, once the activation queue has room. -/
def execTaskRelease (s : State) : Out := .next (s.onCore Core.releaseTask)

/-- SCOPE_MISS (R338): notices that the router holds for the core enter channel 15 or its buffer. -/
def execScopeMiss (s : State) : Out := .next (s.admitAll s.coreId)

/-- CH_SEND (R212): reserves an entry of the destination channel and queues an 8-byte message for delivery. -/
def execChSend (h : Hdr) (s : State) : Out := execTrigger .ch 0x01 h chSend s

/-- CH_SENDM (R212): sends up to 248 bytes read from memory as a message. -/
def execChSendm (h : Hdr) (s : State) : Out := execTrigger .ch 0x02 h chSendm s

/-- CH_RECV (R213): takes the oldest arrived entry of a channel, waiting while none has arrived. -/
def execChRecv (h : Hdr) (s : State) : Out := execTrigger .ch 0x03 h chRecv s

/-- CH_POLL (R213): takes the oldest arrived entry of a channel or returns zero at once. -/
def execChPoll (h : Hdr) (s : State) : Out := execTrigger .ch 0x04 h chPoll s

/-- CH_FREE (R214): frees a taken channel entry as a release, granting it to a waiting notice or sender. -/
def execChFree (h : Hdr) (s : State) : Out := execTrigger .ch 0x05 h chFree s

/-- CH_MATCH (R215): writes a match-table entry and tests the channel's arrived entries against it. -/
def execChMatch (h : Hdr) (s : State) : Out := execTrigger .ch 0x06 h chMatch s

/-- CH_UNMATCH (R215): clears a match-table entry and returns its marked entries to arrived. -/
def execChUnmatch (h : Hdr) (s : State) : Out := execTrigger .ch 0x07 h chUnmatch s

end Sys2Proof.Machine
end

