-- ==== Sys2Proof/Machine/Exchange.lean ====
section
/-! DEFINITION. Supersteps and the exchange (spec/08_system_ops.md R222; spec/11_execution_model.md R294 to R299), and the dispenser
(spec/11 R300 to R302). -/

set_option autoImplicit false
set_option Elab.async false

namespace Sys2Proof.Machine

/-! ## Plans (R294, R295) -/

/-- The party ID of a job's slack group (R377, R378). -/
def slackParty : Nat := 5 * 2 ^ 16 + 0xFF

/-- The core's position in its role (R294). -/
def State.rolePlace (s : State) (e : List Byte) : Nat :=
  let p := roleDw e 2
  match roleKind e with
  | 0 => (s.core.row - bits p 12 8) * (bits p 36 32 + 1) + (s.core.col - bits p 20 16)
  | _ => s.core.cidx - bits p 47 40

/-- A plan entry (R295). -/
structure PlanEntry where
  slot : Nat
  op : Nat
  peer : Nat
  loff : Nat
  roff : Nat
  len : Nat
  deriving DecidableEq, Repr

/-- The entry of sixteen bytes. -/
def planEntry (bs : List Byte) : PlanEntry :=
  ⟨stField bs 0 2, stField bs 2 1, stField bs 4 4, stField bs 8 2, stField bs 10 2, stField bs 12 2⟩

/-- A PEER that stands on this device: its logical die, row and column. -/
def PlanEntry.place (e : PlanEntry) : Nat × Nat × Nat := (e.peer / 2 ^ 8 % 16, e.peer / 2 ^ 12 % 32, e.peer / 2 ^ 17 % 32)

/-- The logical device of PEER. -/
def PlanEntry.dev (e : PlanEntry) : Nat := e.peer % 256

/-- An entry breaks R295 for the core in focus; `low` is the slot of the entry before it. The berths of a peer on another device are those
of its place on this one, since every device uses the same roles (R287). -/
def State.entryBad (s : State) (r low : Nat) (bs : List Byte) : Bool :=
  let e := planEntry bs
  let (d, row, col) := e.place
  let peer := (s.job r).computeAt d row col
  let range := (e.roff * 32, (e.roff + e.len) * 32)
  stField bs 3 1 != 0 || stField bs 14 2 != 0 || (e.op != 1 && e.op != 2) || decide (e.slot < low) || decide (2 ^ 22 ≤ e.peer) || e.len == 0 ||
    decide (0x2C000 < (e.loff + e.len) * 32) || decide (0x2C000 < range.2) || !s.inSpan r e.dev d row col ||
    ((e.dev == s.myDev r && decide (peer = s.coreId)) || (List.range 16).any fun b => match s.berthAt peer b with
      | some k => meets range (k.base, k.base + k.n * k.slotb)
      | none => false)

/-- A plan's bytes up to its terminator, or none where it breaks R295. -/
def State.planBytes (s : State) (r addr : Nat) : Nat → Nat → Nat → Option (List Byte)
  | 0, _, _ => none
  | fuel + 1, i, low => match s.readRec r (addr + 16 * i) 16 with
    | none => none
    | some bs =>
      if bs.all (fun b => b == 0) then some []
      else if s.entryBad r low bs then none
      else (State.planBytes s r addr fuel (i + 1) (planEntry bs).slot).map fun rest => bs ++ rest

/-- The address of the plan of an index for the core in focus: none where the record does not fill the index, and an error with an
address where the directory cannot be read. -/
def State.planAddr (s : State) (r role index : Nat) : Except Nat (Option Nat) :=
  match s.roleEntry r role with
  | none => .ok none
  | some e =>
    let dir := bits (roleDw e 5) 51 0
    if roleDw e 5 == 0 then .ok none
    else match s.readRec r (dir + 16 * index) 16 with
      | none => .error (dir + 16 * index)
      | some bs =>
        if stField bs 0 8 == 0 then .ok none else .ok (some (stField bs 0 8 + s.rolePlace e * stField bs 8 4))

/-! ## Arriving (R222) -/

/-- `slack` (R222). The plan read at the trigger is kept while the slot waits. -/
def sySlack (s : State) : Res :=
  let t := (s.lat .sy).t
  match s.handed with
  | some v => .ok (s.launch .sy 1 2 2 v 0)
  | none => match s.core.ctx with
    | none => .trap trapIllegalOp t
    | some x =>
      if s.core.cur != 0 || bits t 63 4 != 0 || !s.recSS x.record then .trap trapIllegalOp t
      else match s.planAddr x.record x.role (bits t 3 0) with
        | .error a => .trap 0x14 (w64 a)
        | .ok none => .trap trapIllegalOp t
        | .ok (some a) => match s.planBytes x.record a 1024 0 0 with
          | none => .trap 0x14 (w64 a)
          | some bs => s.ordered fun s =>
            if s.msgs.any (fun m => m.src == s.coreId && m.slot == s.core.cur.val) || s.core.mq.cmds.any (fun m => m.cls == 6) then .stall
            else (s.block .sy 1 6 2 slackParty 0xFF).holding bs

/-- A slot waits in `slack`. -/
def Slot.atSlack (t : Slot) : Bool := match t.wait with
  | some w => w.unit == FU.sy && w.opc == 1 && w.value.isNone
  | none => false

/-- Every member of the slack group has arrived: slot 0 of every core of the job (R378). -/
def State.allAtSlack (s : State) (r : Nat) : Bool :=
  !(s.job r).cores.isEmpty && (s.job r).cores.all fun c => ((s.coreAt c).slot 0).atSlack

/-! ## Routes (R296) -/

/-- The steps from `a` to `b`: each place left and the direction, up or down. -/
def stepsTo (a b : Nat) : List (Nat × Bool) :=
  if a ≤ b then (List.range (b - a)).map fun i => (a + i, true) else (List.range (a - b)).map fun i => (a - i, false)

/-- The number of a link: its class, die, two coordinates and direction. -/
def linkId (cls die x y : Nat) (up : Bool) : Nat := (((cls * 16 + die) * 64 + x) * 64 + y) * 2 + up.toNat

/-- The links of a route between compute cores, each given by die, row and column. -/
def routeLinks (a b : Nat × Nat × Nat) : List Nat :=
  let (da, ra, ca) := a
  let (db, rb, cb) := b
  if da == db then
    (stepsTo ca cb).map (fun p => linkId 0 da ra p.1 p.2) ++ (stepsTo ra rb).map fun p => linkId 1 da p.1 cb p.2
  else
    (stepsTo (da % 4) (db % 4)).map (fun p => linkId 2 (da / 4 * 4 + p.1) (ra / 16) 0 p.2) ++
      (stepsTo (da / 4) (db / 4)).map fun p => linkId 3 (p.1 * 4 + db % 4) (cb / 16) 0 p.2

/-- The physical die, row and column of a compute core. -/
def corePlace (id : CoreId) : Nat × Nat × Nat := (id.die, id.idx / 32, id.idx % 32)

/-! ## The phase (R296 to R298) -/

/-- The transfers of the plan that the core of a place keeps, for that place on logical device `dev`: those with an end on this device.
Every device uses the same plan (R294). Links are physical (R297); a transfer with an end on another device, or whose issuer has no row and
column, holds none here. -/
def State.transfersOf (s : State) (r : Nat) (id : CoreId) (dev : Nat) : List Transfer :=
  let c := s.coreAt id
  let bs := match (c.slot 0).wait with
    | some w => w.held
    | none => []
  let me := s.myDev r
  (List.range (bs.length / 16)).filterMap fun i =>
    let e := planEntry ((bs.drop (16 * i)).take 16)
    let (d, row, col) := e.place
    let peer := (s.job r).computeAt d row col
    if dev != me && e.dev != me then none
    else
      let links := fun (a b : CoreId) => if id.kind == .compute && dev == e.dev then routeLinks (corePlace a) (corePlace b) else []
      if e.op == 1 then
        some ⟨e.slot, partyOf id c 0, i, id, dev, e.dev, id, e.loff * 32, peer, e.roff * 32, e.len, links id peer, .waiting, false, 0, []⟩
      else
        some ⟨e.slot, partyOf peer (s.coreAt peer) 0, i, id, e.dev, dev, peer, e.roff * 32, id, e.loff * 32, e.len, links peer id, .waiting,
          false, 0, []⟩

/-- A transfer comes before another in the order of R297. -/
def Transfer.before (a b : Transfer) : Bool :=
  decide (a.xslot < b.xslot) || (a.xslot == b.xslot && (decide (a.party < b.party) || (a.party == b.party && decide (a.entry ≤ b.entry))))

/-- Puts a transfer into an ordered list. -/
def insertTransfer : List Transfer → Transfer → List Transfer
  | [], t => [t]
  | u :: us, t => if u.before t then u :: insertTransfer us t else t :: u :: us

/-- EXCHANGE_START (R296): every member has arrived. -/
def execExchangeStart (rec : Nat) (s : State) : Out :=
  let j := s.job rec
  if s.recState rec == 2 && j.phase.isNone && !j.release && s.allAtSlack rec then
    let ts := (j.cores.flatMap fun c => (List.range (s.spanDevs rec)).flatMap fun d => s.transfersOf rec c d).foldl insertTransfer []
    .next (s.onJob rec fun j => { j with phase := some ts, fabric := 0 })
  else .next s

/-- A transfer is due at a fabric cycle: its slot has begun. -/
def Transfer.due (t : Transfer) (f : Nat) : Bool := decide (t.xslot * 64 ≤ f)

/-- Links held at a fabric cycle. -/
def heldLinks (ts : List Transfer) (f : Nat) : List Nat :=
  (ts.filter fun t => t.state == .active && decide (f < t.stop)).flatMap (·.links)

/-- Links held at a fabric cycle of a job's phase: by its own transfers, and by those of other jobs that have not ended. -/
def State.busyLinks (s : State) (r : Nat) (ts : List Transfer) (f : Nat) : List Nat :=
  heldLinks ts f ++ (s.jobs.filter fun j => j.1 != r).flatMap fun j =>
    (j.2.phase.getD []).flatMap fun t => if t.state == .active then t.links else []

/-- The first due transfer that can start: every link of its route is free, and none before it that still waits needs one. -/
def startable (f : Nat) : List Transfer → List Nat → Nat → Option Nat
  | [], _, _ => none
  | t :: ts, busy, i =>
    if t.state == .waiting && t.due f then
      if t.links.any (busy.contains ·) then startable f ts (busy ++ t.links) (i + 1) else some i
    else startable f ts busy (i + 1)

/-- Of the due transfers that wait, those before position `i` count once in event 15 of their source cores. -/
def State.countWaiting (s : State) (f i : Nat) (ts : List Transfer) : State × List Transfer :=
  let waits := fun (t : Transfer) => t.state == .waiting && t.due f
  let s1 := ((ts.take i).filter fun t => waits t && !t.counted).foldl (fun s t => s.onCoreAt t.src fun c => c.count 15 0) s
  (s1, ((List.range ts.length).zip ts).map fun p => if p.1 < i && waits p.2 then { p.2 with counted := true } else p.2)

/-- The next fabric cycle at which a slot of a waiting transfer begins. -/
def nextSlotAt (ts : List Transfer) (f : Nat) : Option Nat :=
  (ts.filter fun t => t.state == .waiting && !t.due f).foldl (fun best t => match best with
    | none => some (t.xslot * 64)
    | some b => some (min b (t.xslot * 64))) none

/-- The active transfer that ends first. -/
def firstToEnd (ts : List Transfer) : Option (Nat × Nat) :=
  (((List.range ts.length).zip ts).filter fun p => p.2.state == .active).foldl (fun best p => match best with
    | none => some (p.1, p.2.stop)
    | some b => if p.2.stop < b.2 then some (p.1, p.2.stop) else some b) none

/-- The fabric cycle at which a transfer can next start: now, or when the next slot begins before any active transfer ends. -/
def State.startCycle (s : State) (r : Nat) (ts : List Transfer) (f : Nat) : Nat :=
  if (startable f ts (s.busyLinks r ts f) 0).isSome then f
  else match nextSlotAt ts f, firstToEnd ts with
    | some n, some (_, e) => if n < e then n else f
    | some n, none => n
    | none, _ => f

/-- The units that a transfer reads: those of another device are what that device sends (R296). -/
def State.unitsOf (s : State) (r : Nat) (t : Transfer) : List (Nat × List Byte) :=
  (List.range t.len).map fun i => (t.doff + 32 * i,
    if t.srcDev == s.myDev r then (s.coreAt t.src).mem.bytes (t.soff + 32 * i) 32
    else (List.range 32).map fun k => Config.remoteByte t.srcDev (t.src.idx * 2 ^ 18 + t.soff + 32 * i + k) s.time)

/-- The lock that holds up a transfer's write at its destination (R319). -/
def State.transferLock (s : State) (r : Nat) (t : Transfer) : Option RangeLock :=
  if t.dstDev == s.myDev r then (s.coreAt t.dst).conflict t.doff (32 * t.len) true else none

/-- The units of a transfer are written whole at its destination (R298), or leave for another device. -/
def State.putUnits (s : State) (r : Nat) (t : Transfer) (us : List (Nat × List Byte)) : State :=
  if t.dstDev == s.myDev r then us.foldl (fun s u => s.writeCore t.dst u.1 u.2) s else if us.isEmpty then s else s.sendFlit 0 (us.flatMap (·.2))

/-- The fabric cycle in which an active transfer started. -/
def Transfer.began (t : Transfer) : Nat := t.stop - t.len

/-- A transfer has written its units: those of the same place that one that started no later still holds back are not written any more,
since the later-starting one wins (R298). -/
def yieldTo (t : Transfer) (u : Transfer) : Transfer :=
  if u.dst == t.dst && u.dstDev == t.dstDev && u.began ≤ t.began then
    { u with units := u.units.filter fun x => !(decide (t.doff ≤ x.1) && decide (x.1 < t.doff + 32 * t.len)) }
  else u

/-- Transfer `i` of a phase writes its units, and the others yield to it. -/
def State.writeTransfer (s : State) (r : Nat) (ts : List Transfer) (i : Nat) (us : List (Nat × List Byte)) : State × List Transfer :=
  match ts[i]? with
  | none => (s, ts)
  | some t => (s.putUnits r t us, modifyAt (fun t => { t with units := [] }) (ts.map (yieldTo t)) i)

/-- TRANSFER_START (R297): the first due transfer whose route is free starts. -/
def execTransferStart (rec : Nat) (s : State) : Out :=
  let j := s.job rec
  match j.phase with
  | none => .next s
  | some ts =>
    let f := s.startCycle rec ts j.fabric
    let (s0, ts0) := if f == j.fabric then (s, ts) else s.countWaiting j.fabric ts.length ts
    match startable f ts0 (s.busyLinks rec ts0 f) 0 with
    | none => .next (s0.onJob rec fun j => { j with phase := some ts0, fabric := f })
    | some i =>
      let (s1, ts1) := s0.countWaiting f i ts0
      match ts1[i]? with
      | none => .next s
      | some t =>
        let us := s1.unitsOf rec t
        let ts2 := modifyAt (fun t => { t with state := .active, stop := f + t.len, units := us }) ts1 i
        let (s2, ts3) := if (s1.transferLock rec t).isSome then (s1, ts2) else s1.writeTransfer rec ts2 i us
        .next (s2.onJob rec fun j => { j with phase := some ts3, fabric := f })

/-- TRANSFER_END (R297): the active transfer that ends first completes and releases its links. -/
def execTransferEnd (rec : Nat) (s : State) : Out :=
  let j := s.job rec
  match j.phase with
  | none => .next s
  | some ts => match firstToEnd ts with
    | none => .next s
    | some (i, e) =>
      let f := max j.fabric e
      let blocked := (startable j.fabric ts (s.busyLinks rec ts j.fabric) 0).isSome || (nextSlotAt ts j.fabric).any (fun n => decide (n < f))
      match blocked, ts[i]? with
      | false, some t =>
        if !t.units.isEmpty && (s.transferLock rec t).isSome then .next s
        else
          let (s0, ts0) := s.countWaiting j.fabric ts.length ts
          let (s1, ts1) := if t.units.isEmpty then (s0, ts0) else s0.writeTransfer rec ts0 i t.units
          .next (s1.onJob rec fun j => { j with phase := some (modifyAt (fun t => { t with state := .done }) ts1 i), fabric := f })
      | _, _ => .next s

/-- EXCHANGE_PHASE_END (R297, R299): every transfer is done; the next superstep begins. -/
def execExchangePhaseEnd (rec : Nat) (s : State) : Out :=
  match (s.job rec).phase with
  | some ts =>
    if ts.all fun t => t.state == .done then
      .next (s.onJob rec fun j => { j with phase := none, superstep := j.superstep + 1, release := true })
    else .next s
  | none => .next s

/-- SLACK_RELEASE (R299): every member's slack receives the number of the superstep that begins. -/
def execSlackRelease (rec : Nat) (s : State) : Out :=
  let j := s.job rec
  if j.release && s.allAtSlack rec then
    let s1 := j.cores.foldl (fun s c => s.onCoreAt c fun k => k.onSlot 0 fun t => t.hand (w64 j.superstep)) s
    .next (s1.onJob rec fun j => { j with release := false, boundary := true })
  else .next s

/-! ## The dispenser (R300 to R302) -/

/-- How many items a grid hands out. -/
def gridItems (w : Word) : Nat :=
  match bits w 61 60 with
  | 0 => 0
  | 1 => bits w 19 0
  | 2 => bits w 39 20 * bits w 19 0
  | _ => bits w 59 40 * (bits w 39 20 * bits w 19 0)

/-- Item `k` of a grid, or the end-of-work token. -/
def gridItem (w : Word) (k : Nat) : Word :=
  let e0 := bits w 19 0
  let e1 := if bits w 61 60 == 1 then 1 else bits w 39 20
  if gridItems w ≤ k then BitVec.allOnes 64
  else
    let plane := k / (e0 * e1)
    let i := k % (e0 * e1)
    let (row, col) := if bit w 62 && bits w 61 60 != 1 then (i % e1, i / e1) else (i / e0, i % e0)
    w64 ((plane * e1 + row) * 2 ^ 32 + col)

/-- DISPENSER_ANSWER (R300): request `k` is answered, once no earlier one of its slot or of its grid is unanswered. -/
def execDispenserAnswer (rec k : Nat) (s : State) : Out :=
  let j := s.job rec
  match j.dreqs[k]? with
  | none => .next s
  | some d =>
    if (j.dreqs.take k).any fun e => (e.core == d.core && e.slot == d.slot) || e.grid == d.grid then .next s
    else
      let n := j.grids.getD d.grid 0
      let w := s.dw rec (13 + d.grid)
      let s1 := s.onJob rec fun j => { j with dreqs := j.dreqs.eraseIdx k, grids := modifyAt (fun i => if i < gridItems w then i + 1 else i) j.grids d.grid }
      .next ((s1.onCoreAt d.core fun c => { c with dreqs := c.dreqs - 1 }).writeCore d.tgt d.off (leBytes 8 (gridItem w n).toNat))

/-- SY_SLACK (R222): ends the core's compute phase and waits for the exchange. -/
def execSySlack (h : Hdr) (s : State) : Out := execTrigger .sy 0x01 h sySlack s

end Sys2Proof.Machine
end

