-- ==== Sys2Proof/Machine/Preempt.lean ====
section
/-! DEFINITION. Pre-emption and resumption (spec/09_traps.md R254 to R257; spec/11_execution_model.md R289, R304, R305; spec/12 R324;
spec/15 R375), time slices (spec/18 R442) and the recycling of context IDs (spec/19 R466). -/

set_option autoImplicit false
set_option Elab.async false

namespace Sys2Proof.Machine

/-! ## Frames (R304, R324, R375) -/

/-- Base of the context buffer. -/
def State.ctxBuf (s : State) (r : Nat) : Nat := bits (s.dw r 11) 51 0

/-- Bytes of a core's frame. -/
def frameSize : CoreKind → Nat
  | .compute => 0x34000
  | .quay => 0x88000
  | .harbour | .lighthouse => 0x108000

/-- Dies of all the devices of a span. -/
def State.allDies (s : State) (r : Nat) : Nat := s.spanDevs r * s.spanDies r

/-- Address of the first harbour frame, of the first octet frame, and of the first Hamper frame. -/
def State.harbourFrames (s : State) (r : Nat) : Nat := s.ctxBuf r + s.allDies r * 1024 * 0x34000 + s.allDies r * 64 * 0x88000

/-- Address of the first octet frame. -/
def State.octetFrames (s : State) (r : Nat) : Nat := s.harbourFrames r + s.spanDevs r * 32 * 0x108000

/-- Address of the first Hamper frame. -/
def State.hamperFrames (s : State) (r : Nat) : Nat := s.octetFrames r + s.allDies r * 128 * 0x91000

/-- The number of a logical die of this device among the dies of the span. -/
def State.frameDie (s : State) (r die : Nat) : Nat := s.myDev r * s.spanDies r + die

/-- Address of the frame of an octet at its logical place (R324). -/
def State.octetFrameAt (s : State) (r die o : Nat) : Nat := s.octetFrames r + (s.frameDie r die * 128 + o) * 0x91000

/-- Address of the frame of the Hamper of a logical cluster (R375). -/
def State.hamperFrameAt (s : State) (r p : Nat) : Nat := s.hamperFrames r + (4 * s.frameDie r 0 + p) * 0x449000

/-- Address of the frame of a core at its logical place. -/
def State.frameAddr (s : State) (r : Nat) (k : CoreKind) (die row col idx : Nat) : Nat :=
  match k with
  | .compute => s.ctxBuf r + ((s.frameDie r die * 32 + row) * 32 + col) * 0x34000
  | .quay => s.ctxBuf r + s.allDies r * 1024 * 0x34000 + (s.frameDie r die * 64 + idx) * 0x88000
  | .harbour | .lighthouse => s.harbourFrames r + ((s.myDev r * 2 + die - 8) * 16 + idx) * 0x108000

/-- Address of a core's frame. -/
def State.frameOf (s : State) (r : Nat) (id : CoreId) (c : Core) : Nat := s.frameAddr r id.kind c.die c.row c.col c.cidx

/-- Zeros up to a length. -/
def padTo (n : Nat) (bs : List Byte) : List Byte := bs ++ List.replicate (n - bs.length) 0

/-- A doubleword's bytes. -/
def dwBytes (w : Word) : List Byte := leBytes 8 w.toNat

/-- A channel's descriptor (R208). -/
def Channel.bytes (k : Channel) : List Byte :=
  if !k.declared then List.replicate 32 0
  else padTo 32 (leBytes 4 k.base ++ leBytes 2 k.entries.length ++ leBytes 1 (1 + 2 * k.eng.toNat) ++ leBytes 1 k.smode ++
    leBytes 4 k.sender ++ leBytes 4 k.owner)

/-- The state of a channel entry in a frame. -/
def ChanEntry.code (e : ChanEntry) : Word :=
  let st := match e.state with
    | .free => 0
    | .reserved => 1
    | .arrived => 2
    | .taken => 3
  w64 (st + e.mark.isSome.toNat * 4 + e.resv % 2 ^ 32 * 2 ^ 32)

/-- A match-table entry in a frame. -/
def matchBytes : Option MatchEntry → List Byte
  | some m => dwBytes m.t ++ dwBytes m.a ++ dwBytes m.b ++ leBytes 8 1
  | none => List.replicate 32 0

/-- An activation in a frame. -/
def Activation.bytes (a : Activation) : List Byte :=
  padTo 64 (leBytes 8 a.kind ++ dwBytes a.entry ++ dwBytes a.a1 ++ dwBytes a.a2 ++ dwBytes a.a3)

/-- The bitmap of a core's tags: bit `i` for doubleword `i`. -/
def tagBitmap (tags : List Nat) (dwords : Nat) : List Byte :=
  (List.range (dwords / 8)).map fun k =>
    BitVec.ofNat 8 ((List.range 8).foldl (fun acc i => acc + (tags.contains (8 * k + i)).toNat * 2 ^ i) 0)

/-- The state block of a core's frame. Coroutine resumptions are not written. -/
def Core.stateBlock (id : CoreId) (c : Core) : List Byte :=
  c.chans.toList.flatMap Channel.bytes ++
    c.chans.toList.flatMap (fun k => (padTo 512 (k.entries.flatMap fun e => dwBytes e.code)).take 512) ++
    c.chans.toList.flatMap (fun k => leBytes 8 (k.next % 2 ^ 32)) ++ c.matchTab.toList.flatMap matchBytes ++
    (padTo 1024 ((c.actq.filter fun a => a.kind != 3).flatMap Activation.bytes)) ++
    c.helpers.toList.flatMap (fun h => leBytes 8 h.held.toNat ++ dwBytes h.exit) ++
    (padTo 384 (c.notices.flatMap fun n => dwBytes n.header ++ dwBytes n.p0 ++ dwBytes n.p1)) ++
    tagBitmap c.tags (id.kind.limit / 8)

/-- A core's frame: its memory and its state block. -/
def Core.frame (id : CoreId) (c : Core) : List Byte := padTo (frameSize id.kind) (c.mem.bytes 0 id.kind.limit ++ c.stateBlock id)

/-- The accumulator slots and scale bytes of an octet that a job's cores own, by core of the octet. -/
def State.octetOwners (s : State) (r : Nat) (die o : Nat) : List (Nat × Core) :=
  ((List.range 8).zip (octetCores die o)).filterMap fun p =>
    let c := s.coreAt p.2
    if (c.ctx.map (·.record)) == some r then some (p.1, c) else none

/-- A core's matrix queue is not another job's: the core holds no context, or one of the record. -/
def State.queueOf (s : State) (r : Nat) (id : CoreId) : Bool := match (s.coreAt id).ctx with
  | some x => x.record == r
  | none => true

/-- The sticky flags and then the next sequence numbers of the eight queues of an octet, as its frame holds them (R324). -/
def State.queueWords (s : State) (r die o : Nat) : List Byte :=
  let at_ := fun (f : MatQ → Nat) => (octetCores die o).flatMap fun id => leBytes 8 (if s.queueOf r id then f (s.coreAt id).mq else 0)
  at_ (·.flags) ++ at_ (·.next)

/-- The queues of an octet get back the flags and sequence numbers that its frame holds (R324). -/
def State.restoreQueues (s : State) (r die o : Nat) (bs : List Byte) : State :=
  (octetCores die o).foldl (fun s id =>
    let k := inOctet id.idx
    if s.queueOf r id then s.onCoreAt id fun c => { c with mq := { c.mq with flags := stField bs (8 * k) 8, next := stField bs (0x40 + 8 * k) 8 } }
    else s) s

/-- The frame of an octet (R324). -/
def State.octetFrame (s : State) (r die o : Nat) : List Byte :=
  let own := s.octetOwners r die o
  let oct := look ⟨[], []⟩ s.octets (die * 128 + o)
  let owner := fun (slot : Nat) => own.any fun p => p.2.mq.owns slot
  let accs := (List.range 16).flatMap fun i =>
    if owner i then (List.range 8192).flatMap fun e => leBytes 4 (oct.elem i (e / 64) (e % 64)) else List.replicate 0x8000 0
  let scale := (List.range 16).flatMap fun i => if owner i then oct.scale.bytes (4096 * i) 4096 else List.replicate 4096 0
  padTo 0x91000 (accs ++ scale ++ s.queueWords r die o)

/-- The frame of a Hamper (R375). -/
def Hamper.frame (h : Hamper) : List Byte :=
  let ways := (List.range 16384).flatMap fun w => match look? h.ways w with
    | some e => padTo 256 (e.bytes (h.fifo e) e.st.code)
    | none => List.replicate 256 0
  let sets := (List.range 2048).flatMap fun n => leBytes 8 (look 0 h.filters n % 2 ^ 16 + look 0 h.scount n % 2 ^ 16 * 2 ^ 16)
  let recs := (padTo (1024 * 272) (h.recs.flatMap fun k => padTo 272 (dwBytes k.1.key ++ dwBytes k.1.header ++ k.1.payload))).take (1024 * 272)
  padTo 0x449000 (ways ++ sets ++ padTo (0x448000 - 0x404000) recs ++ (List.range 64).flatMap fun g => leBytes 8 (look 0 h.credits g))

/-- Writes a frame; one that cannot be translated makes the job failed, as a host kill does (R508). -/
def State.writeFrame (s : State) (r a : Nat) (bs : List Byte) : State :=
  match s.recRuns r a bs.length with
  | some rs => s.writeRuns rs bs
  | none => s.killJob r 0x18 true

/-! ## Copying out (R254) -/

/-- The front end may pre-empt a job: it has a context buffer, and a confidential one keeps its pages confidential (R304, R468). -/
def State.mayPark (s : State) (r : Nat) : Bool :=
  s.recState r == 2 && s.ctxBuf r != 0 && (!s.recConf r ||
    (s.confAll r (s.ctxBuf r) (s.hamperFrames r + s.allDies r * 4 * 0x449000 - s.ctxBuf r) &&
      s.confAll r (bits (s.dw r 12) 51 0) (bits (s.dw r 12) 63 52 * 4096)))

/-- PREEMPT (R254): sent to the core in focus. Every occupied slot takes it, and messages without an entry are spilled from now on. -/
def execPreempt (s : State) : Out :=
  match s.core.ctx with
  | none => .next s
  | some x =>
    if x.dead || x.preempting || !s.mayPark x.record then .next s
    else
      let s1 := s.onCore fun c =>
        { (c.onSlots fun _ t => if t.occupied then { t with pend := { t.pend with preempt := true } } else t) with
          ctx := some { x with preempting := true } }
      .next (s1.onJob x.record fun j => { j with parking := true })

/-- Everything of the core in focus has come to rest: no slot holds an activation, no store is buffered, no command is queued, no answer
is owed (R254, R301). -/
def State.atRest (s : State) : Bool :=
  let id := s.coreId
  let c := s.core
  c.slots.toList.all (fun t => !t.occupied && t.sb.isEmpty) && c.mq.cmds.isEmpty && c.dreqs == 0 && c.vq.isEmpty && c.stream.run.isNone &&
    c.stream.queue.isEmpty && (s.pushes.all fun p => p.src != id) && (s.pulls.all fun p => p.src != id) && s.emits.all fun e => e.src != id

/-- The core holds nothing any more and is free for another context. -/
def Core.release (id : CoreId) (c : Core) : Core :=
  { c with slots := Vector.replicate 4 (Slot.reset id.kind), actq := [], helpers := Vector.replicate 10 ⟨false, false, none, 0⟩,
           chans := Vector.replicate 16 Channel.reset, matchTab := Vector.replicate 16 none, notices := [], outside := [],
           berths := Vector.replicate 16 none, ctx := none }

/-- Coroutine resumptions still queued on a core go back to its Hamper (R304). -/
def State.handBack (s : State) (id : CoreId) : State :=
  let keys := (s.coreAt id).actq.filterMap (·.key)
  keys.foldl (fun s k => s.onHamper (hamperKey id) fun h =>
    { h with kept := h.kept ++ [(8 * k.set + k.way, k.retire)],
             ways := match look? h.ways (8 * k.set + k.way) with
               | some e => put h.ways (8 * k.set + k.way) { e with core := none }
               | none => h.ways }) s

/-- Logical octet and logical die of a compute core that holds a context. -/
def Core.logicalOctet (c : Core) : Nat := octetOf (c.row * 32 + c.col)

/-- The cores of a job that stand in an octet. -/
def State.octetMates (s : State) (r : Nat) (id : CoreId) : List CoreId :=
  (octetCores id.die (octetOf id.idx)).filter fun k => ((s.coreAt k).ctx.map (·.record)) == some r

/-- Copied cores become free: a compute core with its octet, whose frame is then written (R324). -/
def State.freeCopied (s : State) (r : Nat) (id : CoreId) : State :=
  let s := if (s.coreAt id).dbg.trace.isEmpty then s else s.sealTrace id
  if id.kind != .compute then s.onCoreAt id (Core.release id)
  else
    let mates := s.octetMates r id
    if mates.all fun k => (s.job r).parkedCores.contains k then
      let c := s.coreAt id
      let s1 := s.writeFrame r (s.octetFrameAt r c.die c.logicalOctet) (s.octetFrame r id.die (octetOf id.idx))
      mates.foldl (fun s k => s.onCoreAt k (Core.release k)) s1
    else s

/-- The logical octets of the span in which no core has a role: by logical die and octet (R324, R510). -/
def State.idleOctets (s : State) (r : Nat) : List (Nat × Nat) :=
  let j := s.job r
  (List.range (s.spanDies r)).flatMap fun l => (List.range 128).filterMap fun o =>
    let places := (octetCores 0 o).map fun k => (k.idx / 32, k.idx % 32)
    if (places.any fun p => decide (p.1 < s.spanRows r) && decide (p.2 < s.spanCols r)) &&
        places.all (fun p => !j.cores.contains (j.computeAt l p.1 p.2)) then some (l, o) else none

/-- The physical octet of a logical one under a job's mapping, as its die and number. -/
def Job.octetAt (j : Job) (p : Nat × Nat) : Nat × Nat :=
  match (octetCores 0 p.2).head? with
  | some k => let id := j.computeAt p.1 (k.idx / 32) (k.idx % 32); (id.die, octetOf id.idx)
  | none => p

/-- The last core has been copied: the frames of the octets without a role, which hold nothing but their queues' words, and the Hamper frames are
written, and the record is parked (R286, R324, R375). -/
def State.finishParking (s : State) (r : Nat) : State :=
  let j := s.job r
  if s.recState r == 2 && j.cores.all fun c => j.parkedCores.contains c then
    let s0 := (s.idleOctets r).foldl (fun s p => 
      let o := j.octetAt p
      s.writeFrame r (s.octetFrameAt r p.1 p.2) (padTo 0x91000 (List.replicate 0x90000 0 ++ s.queueWords r o.1 o.2))) s
    let s1 := (List.range (4 * s.spanDies r)).foldl (fun s p =>
      let h := s.hamper (j.hamperOf p)
      s.writeFrame r (s.hamperFrameAt r p) (if h.record == some r then h.frame else List.replicate 0x449000 0)) s0
    let s2 : State := { s1 with hampers := s1.hampers.map fun h => (h.1, if h.2.record == some r then { Hamper.empty with record := some r } else h.2) }
    if s2.recState r == 2 then s2.setRecState r 3 else s2
  else s

/-- What remains of the parked slots of a core. -/
def Core.parkedSlots (id : CoreId) (c : Core) : List Parked :=
  (List.range 4).filterMap fun n =>
    let t := c.slot n
    if t.parked then some ⟨partyOf id c n, t.key, t.helper, t.pend⟩ else none

/-- CONTEXT_COPY_OUT (R254): the core in focus, at rest, is copied to its frame. -/
def execContextCopyOut (s : State) : Out :=
  match s.core.ctx with
  | none => .next s
  | some x =>
    let r := x.record
    let id := s.coreId
    if !x.preempting || x.dead || (s.job r).parkedCores.contains id || !s.atRest ||
        s.hampers.any (fun h => h.2.record == some r && !h.2.holds.isEmpty) then .next s
    else
      let slots := s.core.parkedSlots id
      let plain := s.core.actq.isEmpty && slots.all fun p => p.party % 4 == 0
      let s1 := (s.writeFrame r (s.frameOf r id s.core) (s.core.frame id)).handBack id
      let s2 := s1.onJob r fun j =>
        { j with parkedCores := j.parkedCores ++ [id], parked := j.parked ++ slots, boundary := j.boundary && plain,
                 notes := j.notes ++ s.core.outside.map fun n => (partyOf id s.core 0, n) }
      if s2.recState r == 2 then .next ((s2.freeCopied r id).finishParking r) else .next s2

/-! ## Resumption (R257, R289, R305) -/

/-- A channel entry of a frame. -/
def chanEntryOf (w : Word) : ChanEntry :=
  let st := match bits w 1 0 with
    | 0 => EntryState.free
    | 1 => .reserved
    | 2 => .arrived
    | _ => .taken
  ⟨st, bits w 63 32, if bit w 2 then some (0, ⟨0, 0, 0⟩) else none⟩

/-- A doubleword of a frame's state block. -/
def fdw (bs : List Byte) (i : Nat) : Word := w64 (stField bs i 8)

/-- The channels of a frame. -/
def frameChannel (sb : List Byte) (n : Nat) : Channel :=
  let k := channelOf ((sb.drop (32 * n)).take 32)
  { k with entries := (List.range k.entries.length).map fun i => chanEntryOf (fdw sb (0x200 + 512 * n + 8 * i)),
           next := bits (fdw sb (0x2200 + 8 * n)) 31 0 }

/-- The match table of a frame. -/
def frameMatch (sb : List Byte) (n : Nat) : Option MatchEntry :=
  let f := fun i => fdw sb (0x2280 + 32 * n + 8 * i)
  if bit (f 3) 0 then some ⟨f 0, f 1, f 2⟩ else none

/-- The activation queue of a frame. -/
def frameActq (sb : List Byte) : List Activation :=
  ((List.range 16).map fun n =>
    let f := fun i => fdw sb (0x2480 + 64 * n + 8 * i)
    let kind := (f 0).toNat
    (⟨kind, f 1, f 2, f 3, f 4, if kind == 1 then some (f 3).toNat else none, none⟩ : Activation)).filter fun a => a.kind != 0

/-- The helper table of a frame: a helper is live while it is queued or parked. -/
def frameHelper (sb : List Byte) (act : List Activation) (parked : List Parked) (n : Nat) : Helper :=
  let held := bit (fdw sb (0x2880 + 16 * n)) 0
  let slot := (parked.find? fun p => p.helper == some n).map fun p => p.party % 4
  ⟨held, held && (slot.isSome || act.any fun a => a.helper == some n), slot, fdw sb (0x2888 + 16 * n)⟩

/-- The notice buffer of a frame. -/
def frameNotices (sb : List Byte) : List Notice :=
  ((List.range 16).map fun n => (⟨fdw sb (0x2920 + 24 * n), fdw sb (0x2928 + 24 * n), fdw sb (0x2930 + 24 * n)⟩ : Notice)).filter
    fun n => n.header != 0

/-- A core as its frame gives it back. -/
def Core.restore (id : CoreId) (c : Core) (bs : List Byte) (parked : List Parked) (notes : List Notice) : Core :=
  let m := id.kind.limit
  let sb := bs.drop m
  let act := frameActq sb
  let mem := c.mem.write 0 (bs.take m)
  let c1 := { c with
    mem := mem, tags := bitmapTags (sb.drop 0x2AA0) 0 (m / 8), chans := Vector.ofFn fun n => frameChannel sb n.val,
    matchTab := Vector.ofFn fun n => frameMatch sb n.val, actq := act, helpers := Vector.ofFn fun n => frameHelper sb act parked n.val,
    notices := frameNotices sb, outside := notes,
    berths := Vector.ofFn fun n => (c.berths[n]).map fun _ => berthOf (mem.bytes (descriptorOff n.val) 32) }
  { c1 with chans := c1.chans.mapFinIdx fun n k _ => { k with entries := (List.range k.entries.length).map fun i =>
      let e := k.entries.getD i ⟨.free, 0, none⟩
      { e with mark := e.mark.bind fun _ =>
          (c1.matching n (mem.dword (k.entryOff i))).bind fun k => (c1.matchTab[(Fin.ofNat 16 k)]).map fun m => (k, m) } } }

/-- A parked slot goes on from its image (R257): a user handler runs again, any other program at the image's `epc`. -/
def Slot.resumeParked (k : CoreKind) (img : List Word) (p : Parked) (t : Slot) : Slot :=
  let t1 := if bits (dwordAt img 249) 9 8 == 0 then t.rerunHandler k img
    else
      let u := t.loadImage k img
      let a := bundleAddr (dwordAt img 250)
      { u with csr := { u.csr with estat := 0 }, pc := a, npc := a, flow := .entered, reissue := imageReissue img, rep := [] }
  { t1 with run := .ready, key := p.key, helper := p.helper, pend := { p.pend with preempt := false }, parked := false, badImage := none,
            wait := none, link := none, stall := 0, issued := 0, bubble := 0, yielded := false, after := none, csrw := none }

/-- Resumes a parked slot of a core, or marks the context dead where the image fails (R253, R257). -/
def State.resumeSlot (s : State) (id : CoreId) (p : Parked) : State :=
  let n := p.party % 4
  let img := imageAt (s.coreAt id).mem (saveArea n)
  if (s.coreAt id).badAreas.contains n || imageTag (img.take 255) != dwordAt img 255 || (imageFault id.kind img 1).isSome then
    s.markDead id n 0x15 0 0 0 (w64 (0x4000000 + saveArea n))
  else s.onCoreAt id fun c => c.onSlot n fun t => t.resumeParked id.kind img p

/-- The granted counters of each logical die move with it (R289). -/
def State.moveCounters (s : State) (r : Nat) (old new : List Nat) : State :=
  let w := s.dw r 8
  let ns := (List.range (bits w 28 16)).map fun i => bits w 11 0 + i
  (old.zip new).foldl (fun t d => if d.1 == d.2 then t else ns.foldl (fun (t : State) n =>
    { t with ctrs := put t.ctrs (ctrKey d.2 n) (s.ctr d.1 n) }) t) s

/-- The frame of an octet goes back into the physical octet of a core (R324). -/
def State.restoreOctet (s : State) (r : Nat) (id : CoreId) : State :=
  let c := s.coreAt id
  match s.readRec r (s.octetFrameAt r c.die c.logicalOctet) 0x91000 with
  | none => s.killJob r 0x18 true
  | some bs =>
    let q := c.mq
    let s1 := s.onOctet id fun o =>
      let o1 := (List.range (q.accCount * 8192)).foldl (fun (o : Octet) e =>
        let slot := q.accFirst + e / 8192
        o.setElem slot (e % 8192 / 64) (e % 64) (stField bs (0x8000 * slot + 4 * (e % 8192)) 4)) o
      { o1 with scale := o1.scale.write (4096 * q.accFirst) ((bs.drop (0x80000 + 4096 * q.accFirst)).take (4096 * q.accCount)) }
    (s1.restoreQueues r id.die (octetOf id.idx) (bs.drop 0x90000)).onCoreAt id fun c => { c with mq := { c.mq with cur := 0 } }

/-- The queues of the octets without a role get back what their frames hold. -/
def State.restoreIdle (s : State) (r : Nat) : State :=
  (s.idleOctets r).foldl (fun s p => match s.readRec r (s.octetFrameAt r p.1 p.2 + 0x90000) 128 with
    | some bs => let o := (s.job r).octetAt p; s.restoreQueues r o.1 o.2 bs
    | none => s.killJob r 0x18 true) s

/-- The state that an entry of a frame has. -/
def frameState : Nat → Option HState
  | 1 => some .idle
  | 2 => some .running
  | 3 => some .queued
  | 5 => some .retiring
  | _ => none

/-- The Hamper that a frame gives back with its `n` records, each of which holds a credit (R360); `runs` names the entries whose activations
hold parked slots, with their cores. -/
def frameHamper (r : Nat) (bs : List Byte) (n : Nat) (runs : List (Nat × CoreId)) : Hamper :=
  let ways := (List.range 16384).filterMap fun w =>
    let b := (bs.drop (256 * w)).take 256
    (frameState (stField b 16 8 % 8)).map fun st => (w, { entryOf b st with core := (runs.find? fun p => p.1 == w).map (·.2) })
  let recs := ((List.range (min n 1024)).map fun i => (bs.drop (0x404000 + 272 * i)).take 272).map fun b =>
    (⟨bits (fdw b 8) 53 48, fdw b 0, fdw b 8, (b.drop 16).take (bits (fdw b 8) 47 40)⟩ : KRec)
  let rejoin := fun (e : HEntry) => e.st == .queued || (e.st == .idle && recs.any fun k => k.stage == e.stage && k.key == e.key)
  let ways' := ways.map fun w => (w.1, if rejoin w.2 then { w.2 with st := .queued } else w.2)
  let h : Hamper := { Hamper.empty with
    record := some r, ways := ways',
    filters := (List.range 2048).filterMap fun n => let f := bits (fdw bs (0x400000 + 8 * n)) 15 0; if f == 0 then none else some (n, f)
    scount := (List.range 2048).filterMap fun n => let f := bits (fdw bs (0x400000 + 8 * n)) 31 16; if f == 0 then none else some (n, f)
    credits := (List.range 64).map fun g => (g, stField bs (0x448000 + 8 * g) 8) }
  let place := fun (acc : List (KRec × KPlace)) (k : KRec) => match ways.find? fun w => w.2.stage == k.stage && w.2.key == k.key with
    | none => KPlace.overflow
    | some w =>
      if (w.2.st == .queued || w.2.st == .idle) && !(acc.any fun q => q.1.stage == k.stage && q.1.key == k.key) then .active else .behind
  { h with
    recs := recs.foldl (fun acc k => acc ++ [(k, place acc k)]) []
    kept := ways.filterMap fun w =>
      if rejoin w.2 then some (w.1, false)
      else if w.2.st == .retiring && !(runs.any fun p => p.1 == w.1) then some (w.1, true) else none }

/-- The Hampers of a resumed job come back from their frames (R375). -/
def State.restoreHampers (s : State) (r : Nat) : State :=
  let j := s.job r
  let free : State := { s with hampers := s.hampers.map fun h => (h.1, if h.2.record == some r then { h.2 with record := none } else h.2) }
  if (s.stages r).isEmpty then free
  else
    let runs := j.parked.filterMap fun p => match p.key, j.coreOfParty p.party with
      | some k, some c => some (hamperKey c, 8 * k.set + k.way, c)
      | _, _ => none
    let used := fun (p : Nat) => (s.stages r).any fun g => (stClusters g.2).contains p
    let held := fun (p : Nat) (bs : List Byte) => ((s.stages r).map fun g =>
      if (stClusters g.2).contains p then stCredits g.2 - stField bs (0x448000 + 8 * g.1) 8 else 0).sum
    (List.range (4 * s.spanDies r)).foldl (fun s p =>
      let hk := j.hamperOf p
      if !(used p) then s
      else match s.readRec r (s.hamperFrameAt r p) 0x449000 with
        | none => s.killJob r 0x18 true
        | some bs => s.onHamper hk fun _ => frameHamper r bs (held p bs) ((runs.filter fun q => q.1 == hk).map (·.2))) free

/-- Where a spilled message goes under the new mapping. -/
def State.redirect (s : State) (r : Nat) (m : Msg) : CoreId :=
  (s.job r).destOf m.dest

/-- The spilled message of entry `n`, as the spill buffer holds it. -/
def State.respilled (s : State) (r n : Nat) (m : Msg) : Msg :=
  match s.readRec r (bits (s.dw r 12) 51 0 + spillOff n) 272 with
  | none => m
  | some b => { m with dest := fdw b 0, header := fdw b 8, payload := (b.drop 16).take (bits (fdw b 8) 47 40) }

/-- Messages on their way land in order, as far as they can. -/
def State.landAll (s : State) : Nat → Nat → State
  | 0, _ => s
  | fuel + 1, k => match s.msgs[k]? with
    | none => s
    | some m =>
      if (s.msgs.take k).any m.sameWay then State.landAll s fuel (k + 1)
      else
        let s1 := s.landMsg k m
        if s1.msgs.length < s.msgs.length then State.landAll s1 fuel k else State.landAll s1 fuel (k + 1)

/-- Re-injects the spilled messages of a job, those that MSPILL had no room for last (R257, R305). A buffer that can no longer be translated makes
the job failed (R508). -/
def State.reinject (s : State) (r : Nat) : State :=
  let j := s.job r
  let read := (List.range j.spilled.length).all fun n => (s.readRec r (bits (s.dw r 12) 51 0 + spillOff n) 272).isSome
  let ms := ((List.range j.spilled.length).zip j.spilled).map (fun p => s.respilled r p.1 p.2) ++ j.held
  let ms1 := ms.map fun m => { m with dst := s.redirect r m }
  let s1 : State := { s with msgs := ms1 ++ s.msgs }
  if read then (s1.onJob r fun j => { j with spilled := [], held := [] }).landAll ms1.length 0
  else (s.onJob r fun j => { j with spilled := [], held := [] }).killJob r 0x18 true

/-- A new mapping is allowed at a resumption (R289). -/
def State.mayRemap (s : State) (r : Nat) : Bool := s.recSS r && (s.job r).boundary

/-- The resumption completes: a parked record is running (R286). -/
def State.running (s : State) (r : Nat) : State := if s.recState r == 3 then s.setRecState r 2 else s

/-- Brings a parked job back under a mapping (R257). A frame that cannot be read makes the job failed on the way (R508). -/
def State.resumeJob (s : State) (r : Nat) (dies clusters : List Nat) : State :=
  let old := s.job r
  let j := { old with dies := dies, clusters := clusters }
  let seats := s.seats r j
  let s1 := (s.moveCounters r old.dies dies).onJob r fun j =>
    { j with dies := dies, clusters := clusters, cores := seats.map (·.id), parkedCores := [], parking := false, sliced := s.time }
  let s2 := seats.foldl (fun s p =>
    let s1 := s.seat r p true
    let c := s1.coreAt p.id
    match s1.readRec r (s1.frameOf r p.id c) (frameSize p.id.kind) with
    | none => s1
    | some bs => s1.onCoreAt p.id fun c => c.restore p.id bs (old.parked.filter fun q => q.party / 4 == partyOf p.id c 0 / 4)
        ((old.notes.filter fun n => n.1 == partyOf p.id c 0).map (·.2))) s1
  let read := (s.roles r).isSome && s.stagesRead r && seats.all fun p =>
    (s2.readRec r (s2.frameOf r p.id (s2.coreAt p.id)) (frameSize p.id.kind)).isSome
  let s2' := if read then s2 else s2.killJob r 0x18 true
  let s3 := ((seats.filter fun p => p.id.kind == .compute).foldl (fun s p => s.restoreOctet r p.id) s2').restoreIdle r
  let s3' := (List.range 40).foldl (fun s hk =>
    if (s.hamper hk).record == some r then s.handOffAll r hk (s.hamper hk).kept.length else s) (s3.restoreHampers r)
  let s4 := (s3'.running r).reinject r
  let s5 := old.parked.foldl (fun s p => match (s.job r).coreOfParty p.party with
    | some c => if ((s.coreAt c).ctx.map (·.record)) == some r then s.resumeSlot c p else s
    | none => s) s4
  (s5.onJob r fun j => { j with parked := [], notes := [] }).checkJob r

/-- JOB_RESUME (R257, R289): a parked job whose cores are free again resumes, on its own mapping unless a new one is allowed. -/
def execJobResume (rec : Nat) (dies clusters : List Nat) (s : State) : Out :=
  let j := s.job rec
  if s.recState rec == 3 && s.mappingOk rec dies clusters && ((j.dies == dies && j.clusters == clusters) || s.mayRemap rec) &&
      s.seatsFree rec { j with dies := dies, clusters := clusters } then
    .next (s.resumeJob rec dies clusters)
  else .next s

/-! ## Time slices and context IDs (R442, R466) -/

/-- The first tick of time slices of a length after those counted: a multiple of the length since arming (R442). -/
def Job.nextSlice (j : Job) (len : Nat) : Nat := j.armedAt + ((j.sliced - j.armedAt) / len + 1) * len

/-- TIMER (R442): the next tick of a running job's time slice is raised at slot 0 of each of its cores. -/
def execTimer (rec : Nat) (s : State) : Out :=
  let c := s.recQos rec
  let n := bits (s.reg .fetslc) (8 * c + 7) (8 * c)
  let due := (s.job rec).nextSlice (n * 10000)
  if s.recState rec == 2 && n != 0 && due ≤ s.time then
    let s1 := s.atControl rec fun p => { p with timer := p.timer + 1 }
    .next (s1.onJob rec fun j => { j with sliced := due })
  else .next s

/-- CONTEXT_ID_RECYCLE (R466): nothing tagged with a dead context's ID remains, so the ID leaves the dead set and its core is free. -/
def execContextIdRecycle (cid : Nat) (s : State) : Out :=
  if !s.deadIds.contains cid then .next s
  else
    let s1 : State := { s with deadIds := s.deadIds.filter fun d => d != cid }
    let full := s1.cores.filter fun p => (p.2.ctx.map (·.cid)) == some cid && !p.2.dbg.trace.isEmpty
    let s2 := full.foldl (fun s p => s.sealTrace p.1) s1
    .next (s2.mapCores fun id c => if (c.ctx.map (·.cid)) == some cid then Core.release id c else c)

end Sys2Proof.Machine
end

