-- ==== Sys2Proof/Machine/System.lean ====
section
/-! DEFINITION. The system unit `sy` but for `slack`, `launch`, `lpatch` and `submit`, and the debug unit `db` (spec/08_system_ops.md
R221 to R239). -/

set_option autoImplicit false
set_option Elab.async false

namespace Sys2Proof.Machine

/-! ## Barrier groups (R223, R379) -/

/-- Members of a barrier group of a job, as party IDs; none where it is not declared. -/
def Job.barMembers (j : Job) (g : Nat) : Option (List Nat) := j.bars[g]?.map fun b => j.sets.getD b.1 []

/-- A slot is Blocked at a barrier group and not yet released. -/
def Slot.atBar (t : Slot) (g : Nat) : Bool := match t.wait with
  | some w => w.unit == FU.sy && w.opc == 2 && w.value.isNone && bits (t.lat .sy).t 7 0 == g
  | none => false

/-- The slot of a party of a job. -/
def State.slotOf (s : State) (j : Job) (p : Nat) : Option Slot := (j.coreOfParty p).map fun c => (s.coreAt c).slot (p % 4)

/-- Every member of a group has arrived. -/
def State.barFull (s : State) (j : Job) (g : Nat) (ms : List Nat) : Bool :=
  ms.all fun p => match s.slotOf j p with
    | some t => t.atBar g
    | none => false

/-- Releases a group whose members have all arrived: each receives the generation as it stood, which then goes on (R223). -/
def State.releaseBar (s : State) (r g : Nat) : State :=
  let j := s.job r
  match j.barMembers g with
  | none => s
  | some ms =>
    if !s.barFull j g ms then s
    else
      let v := w64 (j.barGen.getD g 0)
      let s1 := ms.foldl (fun s p => match j.coreOfParty p with
        | some c => s.onCoreAt c fun k => k.onSlot (p % 4) fun t => t.hand v
        | none => s) s
      s1.onJob r fun j => { j with barGen := modifyAt (· + 1) j.barGen g }

/-- `bar` (R223). -/
def syBar (s : State) : Res :=
  let t := (s.lat .sy).t
  let g := bits t 7 0
  match s.handed with
  | some v => .ok (s.launch .sy 2 2 2 v 0)
  | none =>
    s.check (bits t 63 8 != 0) trapIllegalOp t <|
      match s.record?, s.myJob.barMembers g with
      | some r, some ms =>
        if !ms.contains s.party then .trap trapIllegalOp t
        else s.ordered fun s => match s.block .sy 2 6 2 (5 * 2 ^ 16 + g) g with
          | .ok s1 => .ok (s1.releaseBar r g)
          | .trap code tval => .trap code tval
          | .stall => .stall
          | .halt => .halt
      | _, _ => .trap trapIllegalOp t

/-! ## Fences (R224) -/

/-- `fence`: a stall until every earlier access, send and emit of the slot is performed. -/
def syFence (s : State) : Res :=
  s.ordered fun s =>
    let mine := fun (c : CoreId) (n : Nat) => c == s.coreId && n == s.core.cur.val
    if s.msgs.any (fun m => mine m.src m.slot) || s.emits.any (fun e => mine e.src e.slot) then .stall
    else .ok (s.complete .sy 0 0)

/-! ## Waits and counters (R225, R226) -/

/-- The wait control `b` breaks R225. -/
def controlBad (b : Word) (counter : Bool) : Bool :=
  bits b 60 59 != 0 || bits b 55 48 != 0 || bits b 23 0 != 0 || (if counter then bits b 63 61 != 0 else 5 ≤ bits b 63 61) ||
    3 < bits b 58 56 || (bits b 58 56 == 3 && bits b 47 24 != 0)

/-- `wait` (R225). -/
def syWait (s : State) : Res :=
  let l := s.lat .sy
  s.check (controlBad l.b false) trapIllegalOp l.b <| s.withSpa l.t 8 false l.t fun (c, off) =>
    match s.handed with
    | some v => .ok (s.launch .sy 3 2 2 v 0)
    | none =>
      let w := w64 (leNat (s.loadHome (.core c off) 8))
      if condHolds (bits l.b 63 61) w l.a then .ok (s.launch .sy 3 2 2 w 0)
      else s.block .sy 3 4 (bits l.b 58 56) (bits l.b 47 24) (bits l.t 23 0)

/-- The checks of a counter operand `t` (R225). -/
def State.withCounter (s : State) (k : Nat → Res) : Res :=
  let t := (s.lat .sy).t
  s.check (bits t 63 12 != 0) trapIllegalOp t <|
    s.check (!(match s.record? with | some r => s.granted r (bits t 11 0) | none => false)) trapAccess t (k (bits t 11 0))

/-- `cwait` (R225). -/
def syCwait (s : State) : Res :=
  let l := s.lat .sy
  s.check (controlBad l.b true) trapIllegalOp l.b <| s.withCounter fun n =>
    match s.handed with
    | some v => .ok (s.launch .sy 4 2 2 v 0)
    | none =>
      let w := s.ctr s.coreId.die n
      if l.a.ule w then .ok (s.launch .sy 4 2 2 w 0)
      else s.block .sy 4 5 (bits l.b 58 56) (bits l.b 47 24) n

/-- `cinc` (R226). -/
def syCinc (s : State) : Res :=
  let l := s.lat .sy
  s.withCounter fun n => s.ordered fun s =>
    let old := s.ctr s.coreId.die n
    .ok ((s.complete .sy old 0).addCtr s.coreId.die n l.a)

/-! ## Activations (R227 to R230) -/

/-- `yield` (R227). -/
def syYield (s : State) : Res := .ok ((s.complete .sy 0 0).onSl fun t => { t with yielded := true })

/-- `hstart` (R228). -/
def syHstart (s : State) : Res :=
  let l := s.lat .sy
  if s.core.cur != 0 then .trap trapIllegalOp l.t
  else if bits l.t 1 0 != 0 then .trap trapMisalign l.t
  else if s.sl.csr.codelim.ule l.t then .trap trapIllegalOp l.t
  else match s.core.helpers.toList.findIdx? fun h => !h.held with
    | none => .trap trapOverflow l.t
    | some i =>
      if 16 ≤ s.core.actq.length then .trap trapOverflow l.t
      else .ok ((s.complete .sy (w64 i) 0).onCore fun c =>
        { c with helpers := c.helpers.set (Fin.ofNat 10 i) ⟨true, true, none, 0⟩,
                 actq := c.actq ++ [⟨1, l.t, l.a, w64 i, 0, some i, none⟩] })

/-- The helper's copies and stores are performed at the join, an acquire at core scope of its ending, which releases them (R228, R229). -/
def Helper.endedIn (h : Helper) (s : State) : State := match h.slot with
  | some n =>
    let mine := fun (p : Copy) => p.src == s.coreId && p.slot == n
    let s1 := (s.pulls.filter mine).foldl State.finishPull s
    ((s1.pushes.filter mine).foldl State.finishPush s1).drainSlot s.coreId n
  | none => s

/-- `hjoin` (R228). Bits of `t` above the ID, of which R228 says nothing, must be zero (DESIGN CHOICE, log 124). -/
def syHjoin (s : State) : Res :=
  let t := (s.lat .sy).t
  let i := bits t 3 0
  let h := s.core.helpers[(Fin.ofNat 10 i)]
  s.check (bits t 63 4 != 0) trapIllegalOp t <|
    if s.core.cur != 0 || 9 < i || !h.held then .trap trapIllegalOp t
    else if h.live then match h.slot with
      | some n => s.block .sy 8 6 0 (partyOf s.coreId s.core n) i
      | none => s.block .sy 8 6 3 0 i
    else .ok (((h.endedIn s).launch .sy 8 2 2 h.exit 0).onCore fun c =>
      { c with helpers := c.helpers.set (Fin.ofNat 10 i) ⟨false, false, none, 0⟩ })

/-- `tend` (R229). -/
def syTend (s : State) : Res :=
  let t := (s.lat .sy).t
  if s.sl.kind == 3 then .trap trapIllegalOp t else .ok (s.endSlot t)

/-- `dreq` (R230): the future word becomes empty, and the request reaches the job's dispenser. -/
def syDreq (s : State) : Res :=
  let l := s.lat .sy
  let g := bits l.a 2 0
  s.check (bits l.a 63 3 != 0) trapIllegalOp l.a <| s.withSpa l.t 8 true l.t fun (c, off) =>
    match s.record? with
    | none => .trap trapIllegalOp l.a
    | some r =>
      if bits (s.dw r (13 + g)) 61 60 == 0 then .trap trapIllegalOp l.a
      else if 8 ≤ s.core.dreqs then .stall
      else
        let s1 := s.drain.onCoreAt c fun m => { m with tags := m.tags.filter fun d => d != off / 8 }
        let s2 := s1.onCore fun m => { m with dreqs := m.dreqs + 1 }
        .ok ((s2.complete .sy 0 0).onJob r fun j => { j with dreqs := j.dreqs ++ [⟨s.coreId, s.core.cur, g, c, off⟩] })

/-! ## CSRs (R232) -/

/-- What a CSR instruction writes: nothing, `a`, old or `a`, old and not `a`. -/
inductive CsrOp where
  | read | write | setBits | clearBits
  deriving DecidableEq, Repr

/-- The value that would be written; none for a read, and for a set or clear of no bits. -/
def CsrOp.value (o : CsrOp) (old a : Word) : Option Word :=
  match o with
  | .read => none
  | .write => some a
  | .setBits => if a == 0 then none else some (old ||| a)
  | .clearBits => if a == 0 then none else some (old &&& ~~~a)

/-- `csrr`, `csrw`, `csrs` and `csrc` (R232, R165). -/
def syCsr (o : CsrOp) (s : State) : Res :=
  let l := s.lat .sy
  let n := bits l.t 11 0
  if bits l.t 63 12 != 0 || !csrKnown s.coreId.kind n then .trap trapIllegalOp l.t
  else if n == 1 && s.core.hasVector s.core.cur then .stall
  else
    let old := s.csr n
    match o.value old l.a with
    | none => .ok (s.complete .sy old 0)
    | some w =>
      if s.sl.priv == 0 && !csrUser n then .trap trapPriv l.t
      else if csrRefused n w then .trap trapIllegalOp w
      else .ok ((s.complete .sy old 0).onSl fun t => { t with csrw := some (n, w) })

/-! ## Traps, caches and the halt (R233, R234, R236) -/

/-- `trap` (R233): SYSCALL follows the bundle. -/
def syTrap (s : State) : Res :=
  let t := (s.lat .sy).t
  .ok ((s.complete .sy 0 0).onSl fun k => { k with after := some (0x0F, t) })

/-- `tret` (R233): what the handler has stored stands in the image before it is read. -/
def syTret (s : State) : Res := trapReturn s.drain

/-- A cached line is one that `iflush` names. -/
def CodeLine.flushed (l : CodeLine) (asid : Nat) (t a : Word) : Bool :=
  l.asid == asid && (a == 0 || (decide (t.toNat < l.va + 64) && decide (l.va < t.toNat + a.toNat)))

/-- `iflush` with scope `sc` (R234). A quay or harbour core lies in no cluster: its `iflush.cluster` drops the lines of the cores of its kind on its
die whose numbers would lie in one cluster with its own, and no cluster cache (DESIGN CHOICE, log 124). -/
def syIflush (sc : Nat) (s : State) : Res :=
  let l := s.lat .sy
  let keep := fun (ls : List CodeLine) => ls.filter fun k => !k.flushed s.asid l.t l.a
  let here : CoreId → Bool := fun id => match sc with
    | 0 => id == s.coreId
    | 1 => id.kind == s.coreId.kind && id.die == s.coreId.die && clusterOf id.idx == clusterOf s.coreId.idx
    | 2 => id.die == s.coreId.die
    | _ => true
  let s1 := s.mapCores fun id c => if here id then { c with icache := keep c.icache } else c
  let cached : Nat → Bool := fun k => match sc with
    | 0 => false
    | 1 => k == s.coreId.die * 4 + clusterOf s.coreId.idx && s.coreId.kind == .compute
    | 2 => k / 4 == s.coreId.die
    | _ => true
  let s2 : State := { s1 with ccache := s1.ccache.map fun p => if cached p.1 then (p.1, keep p.2) else p }
  .ok (s2.complete .sy 0 0)

/-- `halt` (R236). -/
def syHalt (s : State) : Res :=
  let t := (s.lat .sy).t
  if s.sl.priv != 3 then .trap trapPriv t
  else .ok ((s.drain.complete .sy 0 0).onCore fun c => { c with stopped := true })

/-- The operation of an opcode of `sy` that this file defines (R221). -/
def syOp (opc : Nat) : Option (State → Res) :=
  match opc with
  | 0x02 => some syBar
  | 0x03 => some syWait
  | 0x04 => some syCwait
  | 0x05 => some syCinc
  | 0x06 => some syYield
  | 0x07 => some syHstart
  | 0x08 => some syHjoin
  | 0x09 => some syTend
  | 0x0A => some syDreq
  | 0x10 => some syFence
  | 0x11 => some syFence
  | 0x12 => some syFence
  | 0x13 => some syFence
  | 0x14 => some syFence
  | 0x15 => some syFence
  | 0x20 => some (syCsr .read)
  | 0x21 => some (syCsr .write)
  | 0x22 => some (syCsr .setBits)
  | 0x23 => some (syCsr .clearBits)
  | 0x24 => some syTrap
  | 0x25 => some syTret
  | 0x30 => some (syIflush 0)
  | 0x31 => some (syIflush 1)
  | 0x32 => some (syIflush 2)
  | 0x33 => some (syIflush 3)
  | 0x41 => some syHalt
  | _ => none

/-! ## Counters and marks (R237) -/

/-- `cyc`. -/
def dbCyc (s : State) : Res := .ok (s.complete .db s.core.cycle 0)

/-- `perf`. -/
def dbPerf (s : State) : Res :=
  let t := (s.lat .db).t
  s.check (bits t 63 3 != 0) trapIllegalOp t (.ok (s.complete .db (s.core.perf[(Fin.ofNat 8 (bits t 2 0))]).count 0))

/-- `psel`. -/
def dbPsel (s : State) : Res :=
  let t := (s.lat .db).t
  s.check (bits t 63 19 != 0 || bits t 15 13 != 0 || bits t 7 3 != 0 || 15 < bits t 12 8) trapIllegalOp t <|
    .ok ((s.complete .db 0 0).onCore fun c =>
      { c with perf := c.perf.set (Fin.ofNat 8 (bits t 2 0)) ⟨bits t 12 8, bit t 16, bits t 18 17, 0⟩ })

/-- `mark`. -/
def dbMark (s : State) : Res :=
  let t := (s.lat .db).t
  s.check (bits t 63 32 != 0) trapIllegalOp t (.ok ((s.complete .db 0 0).trace 6 (w64 (bits t 31 0))))

/-- The operation of an opcode of `db` (R237). -/
def dbOp (opc : Nat) : Option (State → Res) :=
  match opc with
  | 0x01 => some dbCyc
  | 0x02 => some dbPerf
  | 0x03 => some dbPsel
  | 0x04 => some dbMark
  | _ => none

/-- SY_BAR (R223): arrives at a barrier group and waits until every member has arrived. -/
def execSyBar (h : Hdr) (s : State) : Out := execTrigger .sy 0x02 h syBar s

/-- SY_WAIT (R225): waits until a memory word satisfies a condition against a. -/
def execSyWait (h : Hdr) (s : State) : Out := execTrigger .sy 0x03 h syWait s

/-- SY_CWAIT (R225): waits until a completion counter reaches a. -/
def execSyCwait (h : Hdr) (s : State) : Out := execTrigger .sy 0x04 h syCwait s

/-- SY_CINC (R226): atomically adds a to a completion counter as a die-scope release. -/
def execSyCinc (h : Hdr) (s : State) : Out := execTrigger .sy 0x05 h syCinc s

/-- SY_YIELD (R227): asks for a slot switch. -/
def execSyYield (h : Hdr) (s : State) : Out := execTrigger .sy 0x06 h syYield s

/-- SY_HSTART (R228): queues a helper activation with an argument and returns its ID. -/
def execSyHstart (h : Hdr) (s : State) : Out := execTrigger .sy 0x07 h syHstart s

/-- SY_HJOIN (R228): waits for a helper to end and returns its exit value. -/
def execSyHjoin (h : Hdr) (s : State) : Out := execTrigger .sy 0x08 h syHjoin s

/-- SY_TEND (R229): ends the slot's activation with an exit value and frees the slot. -/
def execSyTend (h : Hdr) (s : State) : Out := execTrigger .sy 0x09 h syTend s

/-- SY_DREQ (R230): empties a future word and requests work from a dispenser grid. -/
def execSyDreq (h : Hdr) (s : State) : Out := execTrigger .sy 0x0A h syDreq s

/-- SY_FENCE_CORE (R224): full fence at core scope. -/
def execSyFenceCore (h : Hdr) (s : State) : Out := execTrigger .sy 0x10 h syFence s

/-- SY_FENCE_CLUSTER (R224): full fence at cluster scope. -/
def execSyFenceCluster (h : Hdr) (s : State) : Out := execTrigger .sy 0x11 h syFence s

/-- SY_FENCE_DIE (R224): full fence at die scope. -/
def execSyFenceDie (h : Hdr) (s : State) : Out := execTrigger .sy 0x12 h syFence s

/-- SY_FENCE_DEVICE (R224): full fence at device scope. -/
def execSyFenceDevice (h : Hdr) (s : State) : Out := execTrigger .sy 0x13 h syFence s

/-- SY_FENCE_DOMAIN (R224): full fence at domain scope. -/
def execSyFenceDomain (h : Hdr) (s : State) : Out := execTrigger .sy 0x14 h syFence s

/-- SY_FENCE_SYSTEM (R224): full fence at system scope. -/
def execSyFenceSystem (h : Hdr) (s : State) : Out := execTrigger .sy 0x15 h syFence s

/-- SY_CSRR (R232): reads a CSR. -/
def execSyCsrr (h : Hdr) (s : State) : Out := execTrigger .sy 0x20 h (syCsr .read) s

/-- SY_CSRW (R232): writes a CSR with a and returns the old value. -/
def execSyCsrw (h : Hdr) (s : State) : Out := execTrigger .sy 0x21 h (syCsr .write) s

/-- SY_CSRS (R232): sets CSR bits from a and returns the old value. -/
def execSyCsrs (h : Hdr) (s : State) : Out := execTrigger .sy 0x22 h (syCsr .setBits) s

/-- SY_CSRC (R232): clears CSR bits from a and returns the old value. -/
def execSyCsrc (h : Hdr) (s : State) : Out := execTrigger .sy 0x23 h (syCsr .clearBits) s

/-- SY_TRAP (R233): completes its bundle and raises SYSCALL. -/
def execSyTrap (h : Hdr) (s : State) : Out := execTrigger .sy 0x24 h syTrap s

/-- SY_TRET (R252): checks and restores the context image, re-issues recorded triggers and resumes, or parks. -/
def execSyTret (h : Hdr) (s : State) : Out := execTrigger .sy 0x25 h syTret s

/-- SY_IFLUSH_CORE (R234): invalidates instruction-cache lines of the core. -/
def execSyIflushCore (h : Hdr) (s : State) : Out := execTrigger .sy 0x30 h (syIflush 0) s

/-- SY_IFLUSH_CLUSTER (R234): invalidates instruction-cache lines across the cluster. -/
def execSyIflushCluster (h : Hdr) (s : State) : Out := execTrigger .sy 0x31 h (syIflush 1) s

/-- SY_IFLUSH_DIE (R234): invalidates instruction-cache lines across the die. -/
def execSyIflushDie (h : Hdr) (s : State) : Out := execTrigger .sy 0x32 h (syIflush 2) s

/-- SY_IFLUSH_DEVICE (R234): invalidates instruction-cache lines across the package. -/
def execSyIflushDevice (h : Hdr) (s : State) : Out := execTrigger .sy 0x33 h (syIflush 3) s

/-- SY_HALT (R236): at machine level drains the store buffer and halts the core. -/
def execSyHalt (h : Hdr) (s : State) : Out := execTrigger .sy 0x41 h syHalt s

/-- DB_CYC (R237): returns the core's cycle count. -/
def execDbCyc (h : Hdr) (s : State) : Out := execTrigger .db 0x01 h dbCyc s

/-- DB_PERF (R237): returns an event counter. -/
def execDbPerf (h : Hdr) (s : State) : Out := execTrigger .db 0x02 h dbPerf s

/-- DB_PSEL (R237): selects an event for a counter and clears it. -/
def execDbPsel (h : Hdr) (s : State) : Out := execTrigger .db 0x03 h dbPsel s

/-- DB_MARK (R237): places a mark in the core's trace stream. -/
def execDbMark (h : Hdr) (s : State) : Out := execTrigger .db 0x04 h dbMark s

end Sys2Proof.Machine
end

