-- ==== Sys2Proof/Machine/Undertow.lean ====
section
/-! DEFINITION. The wait-for graph and the Undertow (spec/16_wait_graph.md R377 to R398; spec/18 R452): parties and their states, the
chase, its confirmation, the election of a party, the fault record and its delivery. -/

set_option autoImplicit false
set_option Elab.async false

namespace Sys2Proof.Machine

/-! ## Parties (R377, R378) -/

/-- The job of a party that belongs to none. -/
def noJob : Nat := 4096

/-- The class of a party ID. -/
def classOf (p : Nat) : Nat := p / 2 ^ 16 % 16

/-- The logical compute core of a matrix queue party: row × 32 + column. -/
def queueCore (p : Nat) : Nat :=
  match (octetCores 0 (p / 8 % 128))[p % 8]? with
  | some c => c.idx
  | none => 0

/-- Every bit of a party ID that R377 does not name for its class is zero, and its fields name a die, core or engine of the package. -/
def partyShape (p : Nat) : Bool :=
  let die := p / 2 ^ 20
  let i := p % 2 ^ 16
  match classOf p with
  | 0 => decide (die < 8) && decide (i < 2 ^ 12)
  | 1 | 2 | 3 => decide (die < 8) && decide (i < 2 ^ 10)
  | 4 => decide (die < 8) && decide (i < 2 ^ 8)
  | 5 => decide (i < 2 ^ 8)
  | 6 => decide (8 ≤ die) && decide (die < 10) && decide (i < 2 ^ 12)
  | 7 | 8 => decide (8 ≤ die) && decide (die < 10) && decide (i < 2 ^ 6)
  | 9 => decide (die < 10) && i == 0
  | 11 => match i / 2 ^ 14 with
    | 0 => decide (die < 8)
    | 1 => decide (die < 8) && decide (i % 2 ^ 14 < 2 ^ 10)
    | 2 => decide (8 ≤ die) && decide (die < 10) && decide (i % 2 ^ 14 < 2 ^ 8)
    | _ => false
  | 12 => decide (die < 8) && decide (i < 2 ^ 6)
  | _ => false

/-- The physical core that a party of a job stands on. -/
def Job.partyCore (j : Job) (p : Nat) : Option CoreId :=
  let l := p / 2 ^ 20 % 16
  match classOf p with
  | 2 => some (j.computeAt l (queueCore p / 32) (queueCore p % 32))
  | 3 => some (j.computeAt l (p / 512 % 2 * 16 + p / 16 % 16) (p / 256 % 2 * 16 + p % 16))
  | 11 => match p / 2 ^ 14 % 4 with
    | 0 => some (j.computeAt l (p / 2 ^ 9 % 32) (p / 2 ^ 4 % 32))
    | 1 => some ⟨.quay, j.physDie l, p / 2 ^ 4 % 256⟩
    | 2 => some ⟨.harbour, j.physDie l, p / 2 ^ 4 % 256⟩
    | _ => none
  | 12 => some ⟨.quay, j.physDie l, p % 64⟩
  | 0 | 1 | 8 => j.coreOfParty p
  | _ => none

/-- The core of a party, where it holds a context of the party's job. -/
def State.coreOf (s : State) (p : Party) : Option (CoreId × Core × Ctx) :=
  match (s.job p.job).partyCore p.pid with
  | none => none
  | some id => match (s.coreAt id).ctx with
    | some x => if x.record == p.job then some (id, s.coreAt id, x) else none
    | none => none

/-- The Hamper and the stage of a stage party (R361). -/
def State.stageOf (s : State) (p : Party) : Nat × Nat :=
  ((s.job p.job).hamperOf (p.pid / 2 ^ 20 % 16 * 4 + p.pid % 4), p.pid / 4 % 64)

/-- The wait reason register of a party and the tick at which its wait began (R380, R381). A vector queue never waits (R383). -/
def State.partyWait (s : State) (p : Party) : Word × Nat :=
  match classOf p.pid with
  | 3 => (0, 0)
  | 4 => let (hk, g) := s.stageOf p; (look 0 (s.hamper hk).wrr g, look 0 (s.hamper hk).since g)
  | 6 => match look? s.queues (p.pid % 4096) with
    | some q => (q.wrr, q.since)
    | none => (0, 0)
  | 7 => match look? s.dma (p.pid / 2 ^ 20 % 16 * 64 + p.pid % 64) with
    | some e => (e.wrr, e.since)
    | none => (0, 0)
  | c => match s.coreOf p with
    | none => (0, 0)
    | some (_, k, _) => match c with
      | 2 => (k.mq.wrr, k.mq.since)
      | 11 => ((k.chan (p.pid % 16)).wrr, (k.chan (p.pid % 16)).since)
      | 12 => (k.stream.wrr, k.stream.since)
      | _ => ((k.slot (p.pid % 4)).csr.wrr, (k.slot (p.pid % 4)).since)

/-- The job in which the parties that a party names are read. -/
def State.namingJob (s : State) (p : Party) : Nat :=
  match classOf p.pid with
  | 6 => match look? s.queues (p.pid % 4096) with
    | some q => q.job.getD noJob
    | none => noJob
  | 7 =>
    let w := s.reg (.drcfg (p.pid / 2 ^ 20 % 16) (p.pid % 64))
    if bit w 62 then bits w 55 44 else noJob
  | _ => p.job

/-- A party that a party of job `r` names. A group is the same whatever the die field of its ID (R378). -/
def namedParty (r pid : Nat) : Party :=
  ⟨if classOf pid == 6 || classOf pid == 7 then noJob else r, if classOf pid == 5 then pid % 2 ^ 20 else pid⟩

/-! ## Groups and sets (R379, R382) -/

/-- Members of a group, as party IDs; none where the job does not declare it. -/
def State.groupMembers (s : State) (r g : Nat) : Option (List Nat) :=
  let j := s.job r
  if g == 0xFF then
    some ((j.cores.map fun c => partyOf c (s.coreAt c) 0).foldl insertNat [])
  else j.barMembers g

/-- A party is Blocked in kind 6 on a group. -/
def State.arrivedAt (s : State) (r g pid : Nat) : Bool :=
  let p : Party := ⟨r, pid⟩
  let w := (s.partyWait p).1
  let open_ := match s.coreOf p with
    | some (_, c, _) => match (c.slot (pid % 4)).wait with
      | some x => x.value.isNone
      | none => false
    | none => false
  [0, 1, 8].contains (classOf pid) && bit w 63 && bits w 62 59 == 6 && bits w 58 56 == 2 && bits w 7 0 == g && open_

/-- The parties that a wait in mode 1 or 2 names, ascending. -/
def State.waitMembers (s : State) (r mode rel : Nat) : List Nat :=
  if classOf rel == 5 then
    let ms := (s.groupMembers r (rel % 256)).getD []
    if mode == 2 then ms.filter fun p => !s.arrivedAt r (rel % 256) p else ms
  else (s.job r).sets.getD (rel % 4096) []

/-- The wait of a party as a chase reads it: its register, or, of a group, what stands for one. -/
def State.readWait (s : State) (p : Party) : Word :=
  if classOf p.pid == 5 then
    let g := p.pid % 256
    let j := s.job p.job
    let gen := if g == 0xFF then j.superstep else j.barGen.getD g 0
    w64 (2 ^ 63 + 6 * 2 ^ 59 + 2 * 2 ^ 56 + gen % 256 * 2 ^ 48 + p.pid % 2 ^ 24 * 2 ^ 24 + g)
  else (s.partyWait p).1

/-! ## States of a party (R384) -/

/-- A party as a chase finds it. -/
inductive PState where
  | outOfReach | dead | stopped | blocked | running
  deriving DecidableEq, Repr

/-- A thread party. -/
def isThread (p : Party) : Bool := [0, 1, 8].contains (classOf p.pid)

/-- The party is read within its job. -/
def jobBound (p : Nat) : Bool := [0, 1, 2, 3, 4, 5, 8, 11, 12].contains (classOf p)

/-- Every stage core of a stage party's cluster is dead. -/
def State.stageDead (s : State) (p : Party) : Bool :=
  let (hk, g) := s.stageOf p
  match s.stage p.job g with
  | none => false
  | some d =>
    let mine := (s.jobCores p.job).filter fun k => k.1.kind == .compute && hamperKey k.1 == hk && (k.2.ctx.map (·.role)) == some (stRole d)
    mine.all fun k => (k.2.ctx.map (·.dead)) == some true

/-- A core does not run (R384): halted by its debug module, by `sy.halt`, or frozen. -/
def State.coreStopped (s : State) (c : Core) : Bool := c.dbg.halted || s.still c

/-- ACTIVE is 1. -/
def waiting (w : Word) : PState := if bit w 63 then .blocked else .running

/-- A party waits (R381): ACTIVE is 1, and, of a slot, nothing has released it. -/
def State.waits (s : State) (p : Party) : Bool :=
  bit (s.readWait p) 63 && (!isThread p || match s.coreOf p with
    | some (_, c, _) => let t := c.slot (p.pid % 4); t.run == .blocked && (t.wait.map (·.value)) == some none
    | none => false)

/-- The state of a party on a core. -/
def State.corePartyState (s : State) (p : Party) : PState :=
  match s.coreOf p with
  | none => .outOfReach
  | some (_, c, x) =>
    if x.dead then .dead
    else match classOf p.pid with
      | 0 | 1 | 8 =>
        if !(c.slot (p.pid % 4)).occupied && c.partDone then .dead
        else if s.coreStopped c then .stopped
        else if s.waits p then .blocked
        else .running
      | 12 => if s.coreStopped c || c.stream.err.isSome then .stopped else waiting (s.partyWait p).1
      | _ => if s.still c then .stopped else waiting (s.partyWait p).1

/-- A party of a job names one (R377, R378): a core that holds a role of the job, a stage in one of its clusters, or a group. -/
def State.namesParty (s : State) (p : Party) : Bool :=
  match classOf p.pid with
  | 4 => match s.stage p.job (s.stageOf p).2 with
    | some d => (stClusters d).contains (p.pid / 2 ^ 20 % 16 * 4 + p.pid % 4)
    | none => false
  | 5 => (s.groupMembers p.job (p.pid % 256)).isSome
  | 6 => p.pid / 2 ^ 20 == 8 + p.pid % 4096 / 2048
  | 7 | 9 => true
  | _ => match (s.job p.job).partyCore p.pid with
    | some id => (s.job p.job).cores.contains id
    | none => false

/-- The state of a party (R384): the first that applies. -/
def State.partyState (s : State) (p : Party) : PState :=
  if !partyShape p.pid || (jobBound p.pid && p.job == noJob) || !s.namesParty p then .outOfReach
  else if jobBound p.pid && s.recState p.job == 3 then .outOfReach
  else if jobBound p.pid && s.recState p.job == 4 then .dead
  else match classOf p.pid with
    | 4 => if s.stageDead p then .dead else waiting (s.partyWait p).1
    | 5 => if ((s.groupMembers p.job (p.pid % 256)).getD []).all (s.arrivedAt p.job (p.pid % 256)) then .running else .blocked
    | 6 => match look? s.queues (p.pid % 4096) with
      | some q => if q.prq.isSome then .running else waiting q.wrr
      | none => .running
    | 7 => match look? s.dma (p.pid / 2 ^ 20 % 16 * 64 + p.pid % 64) with
      | some e => if e.prq.isSome then .running else waiting e.wrr
      | none => .running
    | 9 => .running
    | _ => s.corePartyState p

/-! ## Quiescence (R389) -/

/-- A core of a quiescent job: its occupied slots wait or are halted, and its engines are idle or wait. -/
def Core.quiet (c : Core) : Bool :=
  c.slots.toList.all (fun t => t.sb.isEmpty && (!t.occupied || c.dbg.halted || (t.run == .blocked && (t.wait.map (·.value)) == some none))) &&
    c.vq.isEmpty && (c.mq.cmds.isEmpty || bit c.mq.wrr 63) &&
    (if c.stream.run.isSome then bit c.stream.wrr 63 else c.stream.err.isSome || c.stream.order.isEmpty) && c.dreqs == 0

/-- A job is quiescent. -/
def State.quiescent (s : State) (r : Nat) : Bool :=
  let cs := s.jobCores r
  let mine := fun (id : CoreId) => cs.any fun p => decide (p.1 = id)
  let j := s.job r
  (cs.all fun p => p.2.quiet) && (s.msgs.all fun m => m.job != some r) && (s.emits.all fun e => !mine e.src) &&
    (s.hampers.all fun h => h.2.record != some r || h.2.requests.all fun q => look 0 h.2.credits q.1 == 0) && (s.pushes.all fun p => !mine p.src) && (s.pulls.all fun p => !mine p.src) && j.dreqs.isEmpty && j.phase.isNone && !j.release

/-- The epoch of a job. -/
def State.epoch (s : State) (r : Nat) : Nat := (look (0, false) s.epochs r).1

/-- After a step: a job that is quiescent no longer has its epoch incremented (R389). -/
def State.tallyEpochs (s : State) : State :=
  { s with epochs := s.epochs.map fun e =>
      let q := s.recState e.1 == 2 && s.quiescent e.1
      (e.1, if e.2.2 && !q then e.2.1 + 1 else e.2.1, q) }

/-! ## The chase (R387, R388, R390) -/

/-- A stuck result: its kind (1 cycle, 2 dead, 3 stopped, 4 quiescent), the party there, and the chain to it. -/
structure Stuck where
  kind : Nat
  target : Party
  links : List Link
  deriving DecidableEq, Repr

/-- A result of a chase. -/
inductive Found where
  | opn
  | abort (i : Nat)
  | stuck (x : Stuck)
  deriving DecidableEq, Repr

/-- What a chase keeps of what it has read: the parties followed with their results, those found dead (2) or stopped (3), and the jobs found
quiescent with their epochs. -/
structure Tracks where
  seen : List (Party × Found)
  ends : List (Party × Nat)
  quiets : List (Nat × Nat)
  deriving DecidableEq, Repr

/-- A chase that has read nothing. -/
def Tracks.none : Tracks := ⟨[], [], []⟩

/-- What following one hop has come to: the final result, if any; stuck members with their results; members followed; what is kept. -/
structure Hop where
  final : Option Found
  stuckl : List (Party × Nat × Stuck)
  followed : Nat
  kept : Tracks
  deriving DecidableEq, Repr

/-- No party. -/
def noParty : Party := ⟨noJob, 0⟩

/-- The order in which stuck results are kept: STOPPED, CYCLE, DEAD, QUIET. -/
def keepRank : Nat → Nat
  | 3 => 0
  | 1 => 1
  | 2 => 2
  | _ => 3

/-- The stuck member that a hop keeps: by rank, then the lowest. -/
def keptMember : List (Party × Nat × Stuck) → Option (Party × Nat × Stuck)
  | [] => none
  | x :: xs => match keptMember xs with
    | none => some x
    | some y => if keepRank x.2.2.kind ≤ keepRank y.2.2.kind then some x else some y

/-- A party then a stuck member, which was found as END `stop`. -/
def Stuck.behind (x : Stuck) (p : Party) (w : Word) (m : Party) (stop : Nat) : Found :=
  .stuck { x with links := ⟨p, w, stop, m⟩ :: x.links }

/-- One member of a hop has been looked at. -/
def Hop.took (h : Hop) (p : Party) (w : Word) (m : Party) (stop : Nat) (r : Found) : Hop :=
  match r with
  | .abort i => { h with final := some (.abort i) }
  | .opn => if bits w 58 56 == 1 then { h with final := some .opn } else h
  | .stuck x =>
    if bits w 58 56 == 2 then { h with final := some (x.behind p w m stop) }
    else { h with stuckl := h.stuckl ++ [(m, stop, x)] }

/-- A member found dead or stopped ends a chain there. -/
def Hop.atEnd (h : Hop) (p : Party) (w : Word) (m : Party) (kind : Nat) : Hop :=
  { h with kept := { h.kept with ends := h.kept.ends ++ [(m, kind)] } }.took p w m kind (.stuck ⟨kind, m, []⟩)

/-- FOLLOW and LOOK: the chase from a Blocked party. `fuel` is 33 less the hops so far. -/
def State.follow (s : State) : Nat → List Party → Tracks → Party → Found × Tracks
  | 0, _, kept, _ => (.abort 7, kept)
  | n + 1, path, kept, p =>
    let w := s.readWait p
    let r := s.namingJob p
    let mode := bits w 58 56
    if mode == 3 then
      if s.quiescent r && s.recState r == 2 then
        (.stuck ⟨4, noParty, [⟨p, w, 4, noParty⟩]⟩, { kept with quiets := kept.quiets ++ [(r, s.epoch r)] })
      else (.opn, kept)
    else
      let list := if mode == 0 then [bits w 47 24] else s.waitMembers r mode (bits w 47 24)
      let h := list.foldl (fun (h : Hop) pid =>
        if h.final.isSome then h
        else
          let m := namedParty r pid
          if path.contains m then h.took p w m 1 (.stuck ⟨1, m, []⟩)
          else match (h.kept.seen.find? fun e => decide (e.1 = m)).map (·.2) with
            | some x => h.took p w m 0 x
            | none => match s.partyState m with
              | .outOfReach => h.took p w m 0 (.abort 6)
              | .running => h.took p w m 0 .opn
              | .dead => h.atEnd p w m 2
              | .stopped => h.atEnd p w m 3
              | .blocked =>
                if 8 < h.followed + 1 || n == 0 || path.length + h.kept.seen.length == 256 then h.took p w m 0 (.abort 7)
                else
                  let (x, kept) := State.follow s n (m :: path) h.kept m
                  { h with followed := h.followed + 1, kept := { kept with seen := kept.seen ++ [(m, x)] } }.took p w m 0 x)
        ⟨none, [], 0, kept⟩
      match h.final with
      | some f => (f, h.kept)
      | none =>
        if mode == 2 then (.opn, h.kept)
        else match keptMember h.stuckl with
          | none => (.opn, h.kept)
          | some (m, stop, x) => (x.behind p w m stop, h.kept)

/-! ## Candidates (R385, R386) -/

/-- DELAY in reference ticks. -/
def State.udDelay (s : State) : Nat := bits (s.reg .udctl) 19 0 * 100

/-- The parties of a die that can wait (R380). -/
def State.dieParties (s : State) (die : Nat) : List Party :=
  let cores := (s.cores.filter fun p => p.1.die == die).flatMap fun p => match p.2.ctx with
    | none => []
    | some x =>
      let own := (List.range 4).map (fun n => partyOf p.1 p.2 n) ++ (List.range 16).map (chanParty p.1 p.2) ++
        (if p.1.kind == .compute then [queueParty p.2, vectorParty p.2] else []) ++ if p.1.kind == .quay then [streamParty p.2] else []
      own.map fun pid => (⟨x.record, pid⟩ : Party)
  let stages := (s.hampers.filter fun h => h.1 / 4 == die).flatMap fun h => match h.2.record with
    | none => []
    | some r => match ((List.range (4 * s.spanDies r)).find? fun p => (s.job r).hamperOf p == h.1) with
      | none => []
      | some p => ((s.stages r).filter fun g => (stClusters g.2).contains p).map fun g => (⟨r, stageParty g.1 p⟩ : Party)
  let qs := (s.queues.filter fun q => 8 + q.1 / 2048 == die).map fun q => (⟨noJob, die * 2 ^ 20 + 6 * 2 ^ 16 + q.1⟩ : Party)
  let es := (s.dma.filter fun e => e.1 / 64 == die).map fun e => (⟨noJob, die * 2 ^ 20 + 7 * 2 ^ 16 + e.1 % 64⟩ : Party)
  cores ++ stages ++ qs ++ es

/-- The Undertow of a die. -/
def State.undertow (s : State) (die : Nat) : Undertow := look ⟨[], none, [], [], []⟩ s.undertows die

/-- Changes the Undertow of a die. -/
def State.onUndertow (s : State) (die : Nat) (f : Undertow → Undertow) : State := { s with undertows := put s.undertows die (f (s.undertow die)) }

/-- A wait is already a candidate of a die, is being chased there, or has been chased with a delivery. -/
def Undertow.knows (u : Undertow) (p : Party) (gen : Nat) : Bool :=
  (u.cands.any fun e => decide (e.1 = p) && e.2.1 == gen) || (u.told.any fun e => decide (e.1 = p) && e.2.1 == gen) ||
    match u.chase with
    | some ch => ch.read.head? == some (p, gen)
    | none => false

/-- When a party's present wait makes it a candidate (R385): DELAY after it began, or, where a chase from it ended without a delivery, at the
next multiple of DELAY after that end. -/
def State.candidacy (s : State) (u : Undertow) (p : Party) : Option (Party × Nat × Nat) :=
  let (w, since) := s.partyWait p
  let gen := bits w 55 48
  let d := s.udDelay
  let at_ := match u.last.find? fun e => decide (e.1 = p) && e.2.1 == gen with
    | some e => since + ((e.2.2 - since) / d + 1) * d
    | none => since + d
  if !s.waits p || d == 0 || s.time < at_ || u.knows p gen then none else some (p, gen, at_)

/-- Puts a candidate into the order of R385. -/
def insertCand : List (Party × Nat × Nat) → Party × Nat × Nat → List (Party × Nat × Nat)
  | [], c => [c]
  | e :: es, c => if c.2.2 < e.2.2 || (c.2.2 == e.2.2 && c.1.pid < e.1.pid) then c :: e :: es else e :: insertCand es c

/-- The party still waits in a generation. -/
def State.sameWait (s : State) (p : Party) (gen : Nat) : Bool := s.waits p && bits (s.readWait p) 55 48 == gen

/-- The candidates of a die, with the waits that have lasted DELAY µs, in order; those whose wait is over are dropped. -/
def State.candidates (s : State) (die : Nat) : List (Party × Nat × Nat) :=
  let u := s.undertow die
  (((s.dieParties die).filterMap (s.candidacy u)).foldl insertCand u.cands).filter fun e => s.sameWait e.1 e.2.1

/-- A die takes up its candidates, and forgets what is over. -/
def State.takeUp (s : State) (die : Nat) : State :=
  s.onUndertow die fun u =>
    { u with cands := s.candidates die, last := u.last.filter fun e => s.sameWait e.1 e.2.1, told := u.told.filter fun e => s.sameWait e.1 e.2.1 }

/-- A chase from a party has ended without a delivery. -/
def State.chaseOver (s : State) (die : Nat) (p : Party) (gen : Nat) : State :=
  s.onUndertow die fun u => { u with last := (u.last.filter fun e => decide (e.1 ≠ p)) ++ [(p, gen, s.time)] }

/-- A chase from a candidate: counted, and kept for confirmation where it ends stuck. -/
def State.runChase (s : State) (die : Nat) (p : Party) (gen : Nat) : State :=
  let s1 := s.udCount die 0
  let (f, kept) := s.follow 32 [p] Tracks.none p
  match f with
  | .opn => (s1.udCount die 5).chaseOver die p gen
  | .abort i => (s1.udCount die i).chaseOver die p gen
  | .stuck x =>
    let read := (p :: kept.seen.map (·.1)).map fun q => (q, bits (s.readWait q) 55 48)
    s1.onUndertow die fun u => { u with chase := some ⟨x.links, x.kind, x.target, read, kept.ends, kept.quiets, s.time⟩ }

/-- UNDERTOW_CANDIDATE (R385, R387): waits of DELAY µs become candidates of the die, and, when no chase awaits confirmation, the first
candidate that still waits is chased. -/
def execUndertowCandidate (die : Nat) (s : State) : Out :=
  if !bit (s.reg .udctl) 31 || Config.dies ≤ die then .next s
  else match (s.undertow die).chase, s.candidates die with
    | none, c :: rest => .next (((s.takeUp die).onUndertow die fun u => { u with cands := rest }).runChase die c.1 c.2.1)
    | _, _ => .next (s.takeUp die)

/-! ## Confirmation (R391) -/

/-- Two byte ranges meet. -/
def rangesMeet (a n b m : Nat) : Bool := decide (a < b + m) && decide (b < a + n)

/-- `n` bytes at one place and `m` at another meet. -/
def Home.meets (a : Home) (n : Nat) (b : Home) (m : Nat) : Bool :=
  match a, b with
  | .core c o, .core d p => decide (c = d) && rangesMeet o n p m
  | .device x _, .device y _ => rangesMeet x n y m
  | .host x _, .host y _ => rangesMeet x n y m
  | .remote c x _, .remote d y _ => c == d && rangesMeet x n y m
  | _, _ => false

/-- A store, a copy or an answer is on its way to bytes of a place. -/
def State.storeTo (s : State) (h : Home) (n : Nat) : Bool :=
  (s.cores.any fun k => k.2.slots.toList.any fun t => t.sb.any fun e => e.home.meets e.bytes.length h n) ||
  ((s.pushes ++ s.pulls).any fun p => (Home.core p.dst p.off).meets p.bytes.length h n) ||
  s.jobs.any fun j => j.2.dreqs.any fun d => (Home.core d.tgt d.off).meets 8 h n

/-- The berths that a party waiting in kind 2 or 3 may mean (R383): that of its `ls` or `qm` trigger, those of its queue's oldest command, those
that a stream fills, or that of a DMA descriptor. -/
def State.waitBerths (s : State) (p : Party) : List (CoreId × Nat) :=
  match classOf p.pid with
  | 7 =>
    let die := p.pid / 2 ^ 20 % 16
    let e := p.pid % 64
    match (s.engine die e).run with
    | some d => match s.dmaJob die e with
      | some r => [(s.dmaTarget r (dmaBt d), bits (dmaBt d) 3 0)]
      | none => []
    | none => []
  | c => match s.coreOf p with
    | none => []
    | some (id, k, _) =>
      let f := s.focus id
      match c with
      | 2 => match k.mq.cmds with
        | m :: _ => (m.operands.filter fun o => o.2.2.2.2.2).map fun o => f.operandBerth o.2.1
        | [] => []
      | 12 => match k.stream.run with
        | some r => (recTargets r.bytes).map fun i => (f.target r.bytes i, bits (recTgt r.bytes) 3 0)
        | none => []
      | _ =>
        let t := k.slot (p.pid % 4)
        match t.wait.map Wait.unit with
        | some FU.qm => let w := (t.lat .qm).t; [(f.farCore (bits w 31 30) (bits w 25 18), bits w 3 0)]
        | _ => let w := (t.lat .ls).t; [(f.handleCore w, bits w 3 0)]

/-- An index update is on its way to a berth. -/
def State.berthMove (s : State) (b : CoreId × Nat) : Bool := (s.pushes ++ s.pulls).any fun p => p.berth == some b

/-- A credit is free in the pool of a stage of a Hamper for which a sender waits, and is still to be granted. -/
def State.creditMove (s : State) (r g : Nat) : Bool := s.hampers.any fun h =>
  h.2.record == some r && look 0 h.2.credits g != 0 && h.2.requests.any fun q => q.1 == g

/-- No slot holds a lock bit any more that a slot of a core still waits for. -/
def State.lockMove (s : State) (me : CoreId × Nat) : Bool := s.cores.any fun k =>
  k.2.lockq.any fun q => q.2 == me && (k.2.holder q.1).isNone

/-- An increment of a counter of a die is on its way: of a push, a pull, or a matrix command that has ended. -/
def State.ctrMove (s : State) (die n : Nat) : Bool :=
  ((s.pushes ++ s.pulls).any fun p => p.ctr == some n && p.src.die == die) ||
    s.cores.any fun k => k.1.die == die && k.2.mq.cmds.any fun m => m.ended && m.ce && m.ctr == n

/-- An increment of a counter that a fence packet names is on its way (R435). -/
def State.fenceMove (s : State) (f : FQueue) : Bool := match f.waiting with
  | some p => (List.range (pktArg (packetDw p 0))).any fun i =>
      let e := packetDw p (2 + i)
      !f.marks.contains i && s.ctrMove (bits e 63 60) (bits e 59 48)
  | none => false

/-- Something is on its way toward what a party waits for. Entries of channels are released within one step, and so are the writes of engines. -/
def State.towardWait (s : State) (p : Party) : Bool :=
  let w := s.readWait p
  let o := bits w 23 0
  let word := fun (u : FU) => match s.coreOf p with
    | some (id, c, _) => let (d, off) := placeOf id ((c.slot (p.pid % 4)).lat u).t; s.storeTo (.core d off) 8
    | none => false
  match bits w 62 59 with
  | 1 => match s.coreOf p with
    | some (id, _, _) => s.msgs.any fun m => decide (m.dst = id) && m.chan == o % 16
    | none => false
  | 2 | 3 => (s.waitBerths p).any s.berthMove
  | 4 =>
    if classOf p.pid == 6 then match (s.queue (p.pid % 4096)).watch with
      | some (pa, key) => s.storeTo (.device pa key) 8
      | none => false
    else word .sy
  | 5 => match s.coreOf p with
    | some (id, _, _) => s.ctrMove id.die (o % 4096)
    | none => false
  | 7 => word .ls
  | 10 => s.creditMove p.job o || s.emits.any fun e => e.krec.stage == o && ((s.coreAt e.src).ctx.map (·.record)) == some p.job
  | 13 => match s.coreOf p with
    | some (id, _, _) => s.lockMove (id, p.pid % 4)
    | none => false
  | 12 => s.fenceMove (s.queue (p.pid % 4096))
  | _ => false

/-- Stores, sends and copies of a slot that are still on their way (R391). The writes of an engine happen within its steps (log 66). -/
def State.outbound (s : State) (p : Party) : Bool :=
  match s.coreOf p with
  | none => false
  | some (id, c, _) =>
    let n := p.pid % 4
    isThread p &&
      (!(c.slot n).sb.isEmpty || (s.msgs.any fun m => decide (m.src = id) && m.slot == n) || (s.emits.any fun e => decide (e.src = id) && e.slot == n) ||
        (s.pushes ++ s.pulls).any fun k => decide (k.src = id) && k.slot == n)

/-- An end of a chain is as the chase found it: dead (2) or stopped (3). -/
def State.sameEnd (s : State) (e : Party × Nat) : Bool := s.partyState e.1 == if e.2 == 2 then .dead else .stopped

/-- The chain still stands (R391): every party found Blocked waits in the same generation with nothing on its way to it, every one found dead
or stopped is so still, and every job found quiescent has been so ever since. -/
def State.confirmed (s : State) (ch : Chase) : Bool :=
  (ch.read.all fun e => s.sameWait e.1 e.2 && !s.towardWait e.1) && ch.ends.all s.sameEnd &&
    ch.quiets.all fun q => s.quiescent q.1 && s.epoch q.1 == q.2

/-! ## Election and the record (R394 to R397) -/

/-- The lowest party of a list that a test admits. -/
def lowest (f : Party → Bool) (ls : List Link) : Option Party :=
  (ls.filter fun l => f l.who).foldl (fun best l => match best with
    | none => some l.who
    | some b => if l.who.pid < b.pid then some l.who else some b) none

/-- A cycle's links from one of its parties on; the last of them closes it. -/
def rotated (cyc : List Link) (p : Party) : List Link :=
  let i := (cyc.findIdx? fun l => decide (l.who = p)).getD 0
  let ls := (cyc.drop i ++ cyc.take i).map fun l => { l with stop := 0 }
  modifyAt (fun l => { l with stop := 1 }) ls (ls.length - 1)

/-- What a chase reports: its code, the elected party, the links in order, and the links of the cycle. -/
structure Report where
  code : Nat
  elected : Option Party
  links : List Link
  ncyc : Nat
  deriving DecidableEq, Repr

/-- The election of R394. -/
def Chase.report (ch : Chase) : Report :=
  let init := (ch.links.head?.map (·.who)).getD noParty
  match ch.kind with
  | 1 =>
    let path := ch.links.takeWhile fun l => decide (l.who ≠ ch.target)
    let cyc := ch.links.drop path.length
    match lowest isThread cyc with
    | some p => ⟨0x10, some p, rotated cyc p ++ path, cyc.length⟩
    | none =>
      let low := (lowest (fun _ => true) cyc).getD ch.target
      ⟨0x10, if isThread init then some init else none, rotated cyc low ++ path, cyc.length⟩
  | 4 => ⟨0x10, lowest isThread ch.links, ch.links, 0⟩
  | k => ⟨if k == 2 then 0x11 else 0x12, (ch.links.find? fun l => isThread l.who).map (·.who), ch.links, 0⟩

/-- The bytes of link `i` (R396), with its header word. -/
def linkBytes (l : Link) (hdr : Nat) : List Byte :=
  leBytes 4 (2 ^ 31 + bits l.wrr 58 56 * 2 ^ 28 + bits l.wrr 62 59 * 2 ^ 24 + l.who.pid % 2 ^ 24) ++
    leBytes 4 (bits l.wrr 55 48 * 2 ^ 24 + bits l.wrr 23 0) ++ leBytes 4 (l.stop * 2 ^ 24 + l.next.pid % 2 ^ 24) ++ leBytes 4 hdr

/-- The fault record (R396). -/
def Report.bytes (x : Report) (init : Party) (time rec_ : Nat) : List Byte :=
  let at_ := fun (p : Party) => (x.links.findIdx? fun l => decide (l.who = p)).getD 0xFF
  let hdr := fun (i : Nat) => match i with
    | 0 => x.code + x.links.length * 2 ^ 8 + x.ncyc * 2 ^ 16
    | 1 => time % 2 ^ 32
    | 2 => time / 2 ^ 32
    | 3 => rec_ + at_ init * 2 ^ 16 + (match x.elected with | some p => at_ p | none => 0xFF) * 2 ^ 24
    | _ => 0
  (List.range 32).flatMap fun i => match x.links[i]? with
    | some l => linkBytes l (hdr i)
    | none => List.replicate 12 0 ++ leBytes 4 (hdr i)

/-- The record area of a core is in use: a slot handles an Undertow trap (R397). -/
def Core.recordInUse (c : Core) : Bool :=
  c.slots.toList.any fun t => t.inh && t.occupied && [0x10, 0x11, 0x12].contains (bits t.csr.cause 7 0)

/-- A STOPPED end at a core halted by its debug module, whose halt group has the initiator's core as a member (R395). -/
def State.suppressed (s : State) (ch : Chase) : Bool :=
  let group := fun (id : CoreId) => let w := s.reg (.dctl id); if bit w 15 && bit w 12 then some (bits w 5 0) else none
  ch.kind == 3 && match s.coreOf ch.target, (ch.links.head?.map (·.who)).bind s.coreOf with
    | some (a, c, _), some (b, _, _) => c.dbg.halted && (group a).isSome && group a == group b
    | _, _ => false

/-- The waits of a chain, by which it is known to have been written (R394): those of the cycle, or of the chain to its end. -/
def Chase.waits (ch : Chase) : List (Party × Nat) :=
  (if ch.kind == 1 then ch.links.dropWhile fun l => decide (l.who ≠ ch.target) else ch.links).map fun l => (l.who, bits l.wrr 55 48)

/-- A chain has been written without delivery, on any die. -/
def State.wasWritten (s : State) (ch : Chase) : Bool :=
  s.undertows.any fun u => u.2.written.any fun w => ch.waits.all w.contains

/-- A record that goes to no party is written and reported, once for the same generations (R394). -/
def State.writeOnly (s : State) (die : Nat) (ch : Chase) (r : Nat) (x : Report) (bs : List Byte) : State :=
  if s.wasWritten ch then s
  else
    let s1 := if r == noJob then s else s.appendFault r x.code true bs
    ((s1.raiseIrq 130).udCount die 4).onUndertow die fun u => { u with written := ch.waits :: u.written }

/-- Delivers a report to the elected party (R393, R397), or writes its record only (R394); and whether it was delivered. A slot to which
another delivery has come takes that one. -/
def State.deliver (s : State) (die : Nat) (ch : Chase) : State × Bool :=
  let x := ch.report
  let init := (ch.links.head?.map (·.who)).getD noParty
  let r := s.namingJob init
  let bs := x.bytes init s.time (r % 4096)
  match x.elected with
  | none => (s.writeOnly die ch r x bs, false)
  | some p => match s.coreOf p with
    | none => (s.udCount die 11, false)
    | some (id, c, _) =>
      if c.recordInUse then (s.udCount die 10, false)
      else
        let s1 := (s.writeCore id 0x2CA00 bs).appendFault p.job x.code false bs
        match (ch.read.find? fun e => decide (e.1 = p)).map (·.2) with
        | none => (s1.udCount die 11, false)
        | some gen =>
          if s1.sameWait p gen && (c.slot (p.pid % 4)).pend.undertow.isNone then
            (s1.onCoreAt id fun c => c.onSlot (p.pid % 4) fun t =>
              { t with pend := { t.pend with undertow := some ⟨x.code, 0x402CA00, die, gen⟩ } }, true)
          else (s1.udCount die 11, false)

/-- A chase is over, with a delivery or without one. -/
def State.closeChase (s : State) (die : Nat) (ch : Chase) (delivered : Bool) : State :=
  match ch.read.head? with
  | none => s
  | some (p, gen) =>
    let got := ch.report.elected.bind fun q => ch.read.find? fun e => decide (e.1 = q)
    match delivered, got with
    | true, some q => s.onUndertow die fun u => { u with told := (p, gen, q) :: u.told }
    | _, _ => s.chaseOver die p gen

/-- UNDERTOW_CONFIRM (R391): the parties of the waiting chase are read again. Outbound queues are waited for, up to 20 µs; then the
fault is delivered, or the chase ends. -/
def execUndertowConfirm (die : Nat) (s : State) : Out :=
  match (s.undertow die).chase with
  | none => .next s
  | some ch =>
    let done := s.onUndertow die fun u => { u with chase := none }
    if ch.read.any (fun e => s.outbound e.1) && s.time < ch.since + 2000 && ch.read.all (fun e => s.sameWait e.1 e.2) then .next s
    else if (ch.read.any fun e => s.outbound e.1) || !s.confirmed ch then .next ((done.udCount die 8).closeChase die ch false)
    else if s.suppressed ch then .next ((done.udCount die 9).closeChase die ch false)
    else
      let (s1, b) := done.deliver die ch
      .next (s1.closeChase die ch b)

end Sys2Proof.Machine
end

