-- ==== Sys2Proof/Machine/Vector.lean ====
section
/-! DEFINITION. The vector port `vp` (spec/06_vector_ops.md R155 to R181): the checks at the trigger, memory at the trigger, the
vector queue and the quad's arbiter. -/

set_option autoImplicit false
set_option Elab.async false

namespace Sys2Proof.Machine

/-! ## Control words (R157, R160) -/

/-- What an operation's control word may hold: M, RM, SAT, LANE and FMT2 beside FMT, and its lane formats. -/
structure VForm where
  m : Bool
  rm : Bool
  sat : Bool
  lane : Bool
  fmt2 : Bool
  fmts : List Nat
  deriving DecidableEq, Repr

/-- Every lane format but E4M3 and E5M2 (R158). -/
def fmtsAll : List Nat := [1, 2, 3, 4, 5, 6, 7, 8]
/-- The integer lane formats. -/
def fmtsInt : List Nat := [1, 2, 3, 4, 5]
/-- The floating-point lane formats of arithmetic. -/
def fmtsFloat : List Nat := [6, 7, 8]
/-- Every lane format (R158). -/
def fmtsCvt : List Nat := [1, 2, 3, 4, 5, 6, 7, 8, 9, 10]

/-- The bits that a control word may set. -/
def VForm.mask (f : VForm) : Word :=
  w64 (0x1F + f.m.toNat * 2 ^ 8 + f.rm.toNat * 7 * 2 ^ 5 + f.sat.toNat * 2 ^ 9 + f.lane.toNat * 0x3F * 2 ^ 24 +
    f.fmt2.toNat * 0x1F * 2 ^ 16)

/-- The mode code in force: code 7 reads `frm`.RM (R57, R160). -/
def Slot.modeCode (t : Slot) (code : Nat) : Nat := if code == 7 then bits t.csr.frm 2 0 else code

/-- Items 1 to 3 of R160: the trap, if any. `code` is the mode code in force. -/
def VForm.fault (f : VForm) (ctl : Word) (code : Nat) : Option Nat :=
  if ctl &&& ~~~f.mask != 0 || bits ctl 7 5 == 5 || bits ctl 7 5 == 6 || 5 ≤ code then some trapIllegalOp
  else if !f.fmts.contains (bits ctl 4 0) then some trapFormat
  else if f.fmt2 && !fmtsCvt.contains (bits ctl 20 16) then some trapFormat
  else none

/-- Item 4 for arithmetic: RM on integer lanes, SAT on floating-point lanes. -/
def arithLate (ctl : Word) (_ : Nat) : Bool :=
  (bits ctl 7 5 != 0 && isIntFmt (bits ctl 4 0)) || (bit ctl 9 && !isIntFmt (bits ctl 4 0))

/-- No item 4 check. -/
def noLate (_ : Word) (_ : Nat) : Bool := false

/-- A computing operation (R156): its control word's form, the mode code that its OPC fixes, item 4 of R160, the limit of LANE,
its latency (R164), the roundings it makes in `rsr` (R60), and its results. -/
structure VOp where
  form : VForm
  mode : Option Nat
  late : Word → Nat → Bool
  limit : Word → Nat
  lat : Word → Nat
  steps : Word → Nat
  run : VIn → VOut

/-- Latency 3 on integer lanes, 5 on floating-point lanes. -/
def latKind (ctl : Word) : Nat := if isIntFmt (bits ctl 4 0) then 3 else 5

/-- One rounding for each lane. -/
def stepsLanes (ctl : Word) : Nat := laneCount (bits ctl 4 0)

/-- LANE has no limit of its own (R160, item 5). -/
def noLimit (_ : Word) : Nat := 64

/-! ## The queue (R162, R164) -/

/-- Enters an operation of the slot in focus at the tail of its core's queue. `ready` and `late` are the least and the greatest time that its
data take to return beyond the next cycle. -/
def State.enqueueVector (s : State) (opc lat ready late : Nat) (o : VOut) : State :=
  let e : VEntry := ⟨s.core.cur, BitVec.ofNat 8 opc, o.q, o.q2, o.flags, 0, lat, ready, late, false, false, false⟩
  ((s.onSl Slot.unblock).onCore fun c => { c with vq := c.vq ++ [e] }).count 8

/-- The random numbers of `n` roundings, and the slot that writes `srseed` after them at the end of the bundle (R60). -/
def Slot.randoms (t : Slot) (rsr : Bool) (n : Nat) : List Nat × Slot :=
  if rsr then
    let st := lfsrStates n t.csr.srseed
    (st.map lfsrRandom, { t with seedw := some (st.getLastD t.csr.srseed) })
  else ([], t)

/-- A computing operation: the checks of R160, the results from the latches as they stand, and a queue entry. -/
def vecOp (opc : Nat) (o : VOp) (s : State) : Res :=
  let t := s.sl
  let ctl := (s.lat .vp).t
  let code := t.modeCode (o.mode.getD (bits ctl 7 5))
  match o.form.fault ctl code with
  | some e => .trap e ctl
  | none =>
    if o.late ctl code || o.limit ctl ≤ bits ctl 29 24 then .trap trapIllegalOp ctl
    else
      let mode := (rmodeOf code).getD .rne
      let (rnd, t1) := t.randoms (mode == .rsr) (o.steps ctl)
      .ok ((s.setSl t1).enqueueVector opc (o.lat ctl) 0 0 (o.run ⟨t.va, t.vb, t.vc, ctl, mode, rnd⟩))

/-- An element-wise arithmetic operation (R170). -/
def arithOp (m rm sat : Bool) (fmts : List Nat) (lat : Word → Nat) (run : VIn → VOut) : VOp :=
  ⟨⟨m, rm, sat, false, false, fmts⟩, none, arithLate, noLimit, lat, stepsLanes, run⟩

/-- An operation whose control allows FMT only. -/
def plainOp (fmts : List Nat) (lat : Word → Nat) (run : VIn → VOut) : VOp := arithOp false false false fmts lat run

/-- `mul` takes 5 cycles in every format. -/
def lat5 (_ : Word) : Nat := 5
/-- Latency 3. -/
def lat3 (_ : Word) : Nat := 3
/-- Latency 7. -/
def lat7 (_ : Word) : Nat := 7

/-- `cvt` with a mode code and saturation (R174). -/
def cvtOp (mode : Nat) (sat : Bool) : VOp where
  form := ⟨false, false, false, true, true, fmtsCvt⟩
  mode := some mode
  late := noLate
  limit := fun ctl =>
    let l := laneCount (bits ctl 4 0)
    let d := laneCount (bits ctl 20 16)
    max l d / min l d
  lat := lat5
  steps := fun ctl => cvtCount (bits ctl 4 0) (bits ctl 20 16)
  run := vCvt sat

/-- A reduction (R175): L − 1 roundings. -/
def reduceOp (rm : Bool) (fmts : List Nat) (run : VIn → VOut) : VOp :=
  ⟨⟨false, rm, false, false, false, fmts⟩, none, arithLate, noLimit, lat7, fun ctl => stepsLanes ctl - 1, run⟩

/-- `ext` and `ins` (R177). -/
def laneOp (run : VIn → VOut) : VOp :=
  ⟨⟨false, false, false, true, false, fmtsAll⟩, none, noLate, stepsLanes, lat3, stepsLanes, run⟩

/-- A function of R180: in BF16 no `rsr`, in F32 no mode but 0. -/
def functionOp (fmts : List Nat) (run : VIn → VOut) : VOp where
  form := ⟨false, true, false, false, false, fmts⟩
  mode := none
  late := fun ctl code => if bits ctl 4 0 == 8 then bits ctl 7 5 != 0 else code == 4
  limit := noLimit
  lat := fun ctl => if bits ctl 4 0 == 8 then 5 else 9
  steps := stepsLanes
  run := run

/-- `dot8` and its forms (R178). -/
def dotOp (run : VIn → VOut) : VOp := ⟨⟨false, false, true, false, false, [4]⟩, none, noLate, noLimit, lat5, stepsLanes, run⟩

/-- `dq` (R179). -/
def dqOp : VOp := ⟨⟨false, false, false, true, false, [8]⟩, none, noLate, fun _ => 8, lat5, stepsLanes, vDq⟩

/-- The computing operation of an opcode of `vp` (R159). -/
def vpCompute (opc : Nat) : Option VOp :=
  match opc with
  | 0x06 => some (plainOp fmtsAll lat3 vBcast)
  | 0x07 => some dqOp
  | 0x10 => some (arithOp true true true fmtsAll latKind vAdd)
  | 0x11 => some (arithOp true true true fmtsAll latKind vSub)
  | 0x12 => some (arithOp true true true fmtsAll lat5 vMul)
  | 0x13 => some (arithOp false true false fmtsFloat lat5 vFma)
  | 0x14 => some (arithOp false true false fmtsFloat lat5 vFnma)
  | 0x15 => some (arithOp true false false fmtsAll latKind vMin)
  | 0x16 => some (arithOp true false false fmtsAll latKind vMax)
  | 0x17 => some (arithOp true false false fmtsInt latKind vMinu)
  | 0x18 => some (arithOp true false false fmtsInt latKind vMaxu)
  | 0x19 => some (arithOp true false true fmtsAll latKind vAbs)
  | 0x1A => some (arithOp true false true fmtsAll latKind vNeg)
  | 0x20 => some (plainOp fmtsAll latKind (vCompare .eq false))
  | 0x21 => some (plainOp fmtsAll latKind (vCompare .ne false))
  | 0x22 => some (plainOp fmtsAll latKind (vCompare .lt false))
  | 0x23 => some (plainOp fmtsAll latKind (vCompare .le false))
  | 0x24 => some (plainOp fmtsInt latKind (vCompare .lt true))
  | 0x25 => some (plainOp fmtsInt latKind (vCompare .le true))
  | 0x26 => some (plainOp fmtsAll lat3 vSel)
  | 0x27 => some (arithOp true false false fmtsAll lat3 vAnd)
  | 0x28 => some (arithOp true false false fmtsAll lat3 vOr)
  | 0x29 => some (arithOp true false false fmtsAll lat3 vXor)
  | 0x2A => some (arithOp true false false fmtsAll lat3 vAndn)
  | 0x2B => some (arithOp true false false fmtsInt lat3 vSll)
  | 0x2C => some (arithOp true false false fmtsInt lat3 vSrl)
  | 0x2D => some (arithOp true false false fmtsInt lat3 vSra)
  | 0x30 => some (cvtOp 0 false)
  | 0x31 => some (cvtOp 1 false)
  | 0x32 => some (cvtOp 2 false)
  | 0x33 => some (cvtOp 3 false)
  | 0x34 => some (cvtOp 4 false)
  | 0x37 => some (cvtOp 7 false)
  | 0x38 => some (cvtOp 0 true)
  | 0x39 => some (cvtOp 1 true)
  | 0x3A => some (cvtOp 2 true)
  | 0x3B => some (cvtOp 3 true)
  | 0x3C => some (cvtOp 4 true)
  | 0x3F => some (cvtOp 7 true)
  | 0x40 => some (reduceOp true fmtsAll vRadd)
  | 0x41 => some (reduceOp false fmtsAll vRmin)
  | 0x42 => some (reduceOp false fmtsAll vRmax)
  | 0x43 => some (reduceOp false fmtsInt vRminu)
  | 0x44 => some (reduceOp false fmtsInt vRmaxu)
  | 0x48 => some (plainOp fmtsAll lat3 vPerm)
  | 0x49 => some (plainOp fmtsAll lat3 vShuf)
  | 0x4A => some (plainOp fmtsAll lat3 (vZip false))
  | 0x4B => some (plainOp fmtsAll lat3 (vZip true))
  | 0x4C => some (plainOp fmtsAll lat3 (vUnzip false))
  | 0x4D => some (plainOp fmtsAll lat3 (vUnzip true))
  | 0x4E => some (laneOp vExt)
  | 0x4F => some (laneOp vIns)
  | 0x50 => some (dotOp (vDot8 true true))
  | 0x51 => some (dotOp (vDot8 false false))
  | 0x52 => some (dotOp (vDot8 true false))
  | 0x54 => some (functionOp [7] vExp2)
  | 0x55 => some (functionOp [7] vLog2)
  | 0x56 => some (functionOp [7, 8] vRcp)
  | 0x57 => some (functionOp [7, 8] vRsqrt)
  | 0x58 => some (arithOp false true false [7, 8] lat5 vNrcp)
  | 0x59 => some (arithOp false true false [7, 8] lat5 vNrsq)
  | _ => none

/-! ## Memory operations (R166 to R169) -/

/-- Latency of a load and the delay of its data beyond the next cycle (R164, log 15). -/
def State.vectorLoad (s : State) (opc : Nat) (c : CoreId) (q : VWord) (flags : Nat) : Res :=
  let local_ := s.isLocal c
  .ok ((s.enqueueVector opc (if local_ then 4 else 20) (if local_ then 0 else 16) (if local_ then 0 else 38) ⟨q, 0, flags⟩).count
    (if local_ then 5 else 6))

/-- Splits bytes at doubleword boundaries (R166). -/
def dwordPieces : Nat → Nat → List Byte → List (Nat × List Byte)
  | 0, _, _ => []
  | fuel + 1, off, bs =>
    let n := min bs.length (8 - off % 8)
    if bs.isEmpty then [] else (off, bs.take n) :: dwordPieces fuel (off + n) (bs.drop n)

/-- Enters a store's bytes into the FIFO, doubleword by doubleword in ascending order (R166). -/
def State.bufferBytes (s : State) (c : CoreId) (off : Nat) (bs : List Byte) (va : Word) : State :=
  (dwordPieces (bs.length + 1) off bs).foldl (fun s p => s.buffer ⟨.core c p.1, p.2, none, false, va, false⟩) s

/-- `vld` (R167). -/
def vpVld (s : State) : Res :=
  let t := (s.lat .vp).t
  s.withSpa t 32 false t fun (c, off) => s.vectorLoad 0x01 c (BitVec.ofNat 256 (leNat (s.loadHome (.core c off) 32))) 0

/-- `vst` (R167). -/
def vpVst (s : State) : Res :=
  let t := (s.lat .vp).t
  s.withSpa t 32 true t fun (c, off) =>
    .ok ((((s.bufferBytes c off (leBytes 32 s.sl.va.toNat) t)).enqueueVector 0x03 2 0 0 ⟨0, 0, 0⟩).count 7)

/-- The entries of a store that writes runs of bytes, those of one doubleword joined (R166). -/
def joinRuns (c : CoreId) (va : Word) : List (Nat × List Byte) → List StoreEntry
  | [] => []
  | [p] => [⟨.core c p.1, p.2, none, false, va, false⟩]
  | p :: q :: rest => ⟨.core c p.1, p.2, none, false, va, p.1 / 8 == q.1 / 8⟩ :: joinRuns c va (q :: rest)

/-- The runs of bytes, doubleword by doubleword, that a byte mask lets through. -/
def maskedRuns : Nat → List (Byte × Bool) → List Byte → List (Nat × List Byte)
  | off, [], run => if run.isEmpty then [] else [(off - run.length, run)]
  | off, (b, on) :: rest, run =>
    let cut := off % 8 == 0 || !on
    let out := if cut && !run.isEmpty then [(off - run.length, run)] else []
    out ++ maskedRuns (off + 1) rest (if on then (if cut then [b] else run ++ [b]) else [])

/-- `vstm` (R167). An M of 0, for which R167 names no trap, is a control outside the form: ILLEGAL_OP with the control word, before the format is
looked at (DESIGN CHOICE, log 124). -/
def vpVstm (s : State) : Res :=
  let t := (s.lat .vp).t
  let ctl := narrow s.sl.vb
  let form : VForm := ⟨true, false, false, false, false, fmtsAll⟩
  if ctl &&& ~~~form.mask != 0 || !bit ctl 8 then .trap trapIllegalOp ctl
  else match form.fault ctl 0 with
    | some e => .trap e ctl
    | none =>
      let f := bits ctl 4 0
      s.withSpa t 32 true t fun (c, off) =>
        let on := (activeLanes f s.sl.vc).flatMap fun b => List.replicate (formatBits f / 8) b
        let runs := maskedRuns off ((leBytes 32 s.sl.va.toNat).zip on) []
        let s1 := (joinRuns c t runs).foldl State.buffer s
        .ok ((s1.enqueueVector 0x05 2 0 0 ⟨0, 0, 0⟩).count 7)

/-- The pairs of memory format and lane format of R168. -/
def pairOk (m f : Nat) (store : Bool) : Bool :=
  if [1, 2, 3, 4, 5, 11, 12, 14, 15].contains m then isIntFmt f && decide (formatBits m ≤ formatBits f)
  else if m == 9 || m == 10 then [6, 7, 8].contains f || (!store && f == m)
  else if m == 6 then f == 6 || f == 8
  else if m == 7 then f == 7 || f == 8
  else m == 8 && f == 8

/-- The FORMAT checks of item 6 of R160 on the tag of an access that starts at an element and covers `count` of them. -/
def tagBad (t : Word) (f count : Nat) (store : Bool) : Bool :=
  let m := bits t 63 59
  let blk := blockLen (bits t 58 56)
  let off := if bit t 26 then bits t 25 0 else bits t 17 0
  decide (16 ≤ m) || !pairOk m f store || (count != 1 && count * formatBits m % 8 != 0) ||
    (blk != 0 && off * 8 / formatBits m % blk != 0)

/-- An element of memory format `m` widened to lane format `f` (R168). -/
def widenElement (m f x : Nat) : Lane :=
  if m == f then (x, 0) else if isIntFmt f then (wrapTo (formatBits f) (intValue m x), 0) else convert m f .rne false 0 x

/-- A lane of format `f` narrowed to memory format `m` (R168). -/
def narrowLane (m f : Nat) (mode : RMode) (sat : Bool) (r16 x : Nat) : Lane :=
  if m == f && !isIntFmt f then (x, 0) else if isIntFmt f then (intResult m sat (intValue f x), 0) else convert f m mode sat r16 x

/-- `vldx` and `vldb` (R168, R169). -/
def vpExpand (opc : Nat) (bcast : Bool) (s : State) : Res :=
  let t := (s.lat .vp).t
  let ctl := narrow s.sl.vb
  let f := bits ctl 4 0
  let m := bits t 63 59
  let form : VForm := ⟨false, false, false, false, false, fmtsCvt⟩
  match form.fault ctl 0 with
  | some e => .trap e ctl
  | none =>
    let count := if bcast then 1 else laneCount f
    if tagBad t f count false then .trap trapFormat t
    else
      let n := max 1 (count * formatBits m / 8)
      s.withSpa t n false t fun (c, off) =>
        let raw := leNat (s.loadHome (.core c off) n)
        let out := (fieldsOf (formatBits m) count raw).map (widenElement m f)
        let ls := if bcast then List.replicate (laneCount f) ((out.map (·.1)).headD 0) else out.map (·.1)
        s.vectorLoad opc c (ofLanes f ls) (joinFlags (out.map (·.2)))

/-- `vstx` (R168). FMT 9 and 10 fail by its pairs (DEDUCED, log 118). -/
def vpVstx (s : State) : Res :=
  let t := (s.lat .vp).t
  let ctl := narrow s.sl.vb
  let f := bits ctl 4 0
  let m := bits t 63 59
  let form : VForm := ⟨false, true, true, false, false, fmtsCvt⟩
  let code := s.sl.modeCode (bits ctl 7 5)
  match form.fault ctl code with
  | some e => .trap e ctl
  | none =>
    if isIntFmt f && bits ctl 7 5 != 0 then .trap trapIllegalOp ctl
    else if tagBad t f (laneCount f) true then .trap trapFormat t
    else
      s.withSpa t (laneCount f * formatBits m / 8) true t fun (c, off) =>
        let mode := (rmodeOf code).getD .rne
        let (rnd, t1) := s.sl.randoms (mode == .rsr) (laneCount f)
        let out := (lanes f s.sl.va).mapIdx fun i x => narrowLane m f mode (bit ctl 9) (rnd.getD i 0) x
        let bs := leBytes (laneCount f * formatBits m / 8) (packFields (formatBits m) (out.map (·.1)))
        .ok ((((s.setSl t1).bufferBytes c off bs t).enqueueVector 0x04 2 0 0 ⟨0, 0, joinFlags (out.map (·.2))⟩).count 7)

/-- The operation of an opcode of `vp` (R159). -/
def vpOp (opc : Nat) : Option (State → Res) :=
  match opc with
  | 0x01 => some vpVld | 0x02 => some (vpExpand 0x02 false) | 0x03 => some vpVst | 0x04 => some vpVstx | 0x05 => some vpVstm
  | 0x08 => some (vpExpand 0x08 true)
  | _ => (vpCompute opc).map (vecOp opc)

/-! ## The queue's events (R163, R164) -/

/-- VECTOR_BIND (R163): the arbiter of the quad of the core in focus binds ready heads, once in each core cycle. -/
def execVectorBind (s : State) : Out :=
  if !s.core.arb && (quadOf s.coreId).any fun id => !(s.coreAt id).arb && (s.coreAt id).vectorReady true then .next (s.arbitrate true)
  else .next s


/-- VECTOR_COMPLETE (R164): an entry of the core in focus that has its latency behind it completes. -/
def execVectorComplete (s : State) : Out := .next (s.onCore Core.completeVector)

/-! ## The instructions -/

/-- VP_VLD (R167): loads 32 raw bytes into the vector queue entry. -/
def execVpVld (h : Hdr) (s : State) : Out := execTrigger .vp 0x01 h vpVld s

/-- VP_VLDX (R168): loads and widens elements of the tag's memory format into lanes. -/
def execVpVldx (h : Hdr) (s : State) : Out := execTrigger .vp 0x02 h (vpExpand 0x02 false) s

/-- VP_VST (R167): stores 32 raw bytes into the store buffer. -/
def execVpVst (h : Hdr) (s : State) : Out := execTrigger .vp 0x03 h vpVst s

/-- VP_VSTX (R168): narrows lanes to the tag's memory format and stores them. -/
def execVpVstx (h : Hdr) (s : State) : Out := execTrigger .vp 0x04 h vpVstx s

/-- VP_VSTM (R167): stores the active lanes of a under the mask in c. -/
def execVpVstm (h : Hdr) (s : State) : Out := execTrigger .vp 0x05 h vpVstm s

/-- VP_BCAST (R177): broadcasts the low lane-width bits of a to every lane. -/
def execVpBcast (h : Hdr) (s : State) : Out := execTrigger .vp 0x06 h (vecOp 0x06 (plainOp fmtsAll lat3 vBcast)) s

/-- VP_DQ (R179): decodes eight CQ4 elements of one block to F32. -/
def execVpDq (h : Hdr) (s : State) : Out := execTrigger .vp 0x07 h (vecOp 0x07 dqOp) s

/-- VP_VLDB (R169): loads one element, widens it and broadcasts it to every lane. -/
def execVpVldb (h : Hdr) (s : State) : Out := execTrigger .vp 0x08 h (vpExpand 0x08 true) s

/-- VP_ADD (R170): lane-wise add. -/
def execVpAdd (h : Hdr) (s : State) : Out := execTrigger .vp 0x10 h (vecOp 0x10 (arithOp true true true fmtsAll latKind vAdd)) s

/-- VP_SUB (R170): lane-wise subtract. -/
def execVpSub (h : Hdr) (s : State) : Out := execTrigger .vp 0x11 h (vecOp 0x11 (arithOp true true true fmtsAll latKind vSub)) s

/-- VP_MUL (R170): lane-wise multiply. -/
def execVpMul (h : Hdr) (s : State) : Out := execTrigger .vp 0x12 h (vecOp 0x12 (arithOp true true true fmtsAll lat5 vMul)) s

/-- VP_FMA (R170): lane-wise fused a × b + c. -/
def execVpFma (h : Hdr) (s : State) : Out := execTrigger .vp 0x13 h (vecOp 0x13 (arithOp false true false fmtsFloat lat5 vFma)) s

/-- VP_FNMA (R170): lane-wise fused −(a × b) + c. -/
def execVpFnma (h : Hdr) (s : State) : Out := execTrigger .vp 0x14 h (vecOp 0x14 (arithOp false true false fmtsFloat lat5 vFnma)) s

/-- VP_MIN (R170): lane-wise minimum. -/
def execVpMin (h : Hdr) (s : State) : Out := execTrigger .vp 0x15 h (vecOp 0x15 (arithOp true false false fmtsAll latKind vMin)) s

/-- VP_MAX (R170): lane-wise maximum. -/
def execVpMax (h : Hdr) (s : State) : Out := execTrigger .vp 0x16 h (vecOp 0x16 (arithOp true false false fmtsAll latKind vMax)) s

/-- VP_MINU (R170): lane-wise unsigned minimum. -/
def execVpMinu (h : Hdr) (s : State) : Out := execTrigger .vp 0x17 h (vecOp 0x17 (arithOp true false false fmtsInt latKind vMinu)) s

/-- VP_MAXU (R170): lane-wise unsigned maximum. -/
def execVpMaxu (h : Hdr) (s : State) : Out := execTrigger .vp 0x18 h (vecOp 0x18 (arithOp true false false fmtsInt latKind vMaxu)) s

/-- VP_ABS (R170): lane-wise absolute value. -/
def execVpAbs (h : Hdr) (s : State) : Out := execTrigger .vp 0x19 h (vecOp 0x19 (arithOp true false true fmtsAll latKind vAbs)) s

/-- VP_NEG (R170): lane-wise negation. -/
def execVpNeg (h : Hdr) (s : State) : Out := execTrigger .vp 0x1A h (vecOp 0x1A (arithOp true false true fmtsAll latKind vNeg)) s

/-- VP_CEQ (R171): lane-wise equality compare writing a lane mask. -/
def execVpCeq (h : Hdr) (s : State) : Out := execTrigger .vp 0x20 h (vecOp 0x20 (plainOp fmtsAll latKind (vCompare .eq false))) s

/-- VP_CNE (R171): lane-wise inequality compare. -/
def execVpCne (h : Hdr) (s : State) : Out := execTrigger .vp 0x21 h (vecOp 0x21 (plainOp fmtsAll latKind (vCompare .ne false))) s

/-- VP_CLT (R171): lane-wise less-than compare. -/
def execVpClt (h : Hdr) (s : State) : Out := execTrigger .vp 0x22 h (vecOp 0x22 (plainOp fmtsAll latKind (vCompare .lt false))) s

/-- VP_CLE (R171): lane-wise less-or-equal compare. -/
def execVpCle (h : Hdr) (s : State) : Out := execTrigger .vp 0x23 h (vecOp 0x23 (plainOp fmtsAll latKind (vCompare .le false))) s

/-- VP_CLTU (R171): lane-wise unsigned less-than. -/
def execVpCltu (h : Hdr) (s : State) : Out := execTrigger .vp 0x24 h (vecOp 0x24 (plainOp fmtsInt latKind (vCompare .lt true))) s

/-- VP_CLEU (R171): lane-wise unsigned less-or-equal. -/
def execVpCleu (h : Hdr) (s : State) : Out := execTrigger .vp 0x25 h (vecOp 0x25 (plainOp fmtsInt latKind (vCompare .le true))) s

/-- VP_SEL (R172): selects lanes of a or b by the mask in c. -/
def execVpSel (h : Hdr) (s : State) : Out := execTrigger .vp 0x26 h (vecOp 0x26 (plainOp fmtsAll lat3 vSel)) s

/-- VP_AND (R173): bitwise and of 256 bits. -/
def execVpAnd (h : Hdr) (s : State) : Out := execTrigger .vp 0x27 h (vecOp 0x27 (arithOp true false false fmtsAll lat3 vAnd)) s

/-- VP_OR (R173): bitwise or of 256 bits. -/
def execVpOr (h : Hdr) (s : State) : Out := execTrigger .vp 0x28 h (vecOp 0x28 (arithOp true false false fmtsAll lat3 vOr)) s

/-- VP_XOR (R173): bitwise xor of 256 bits. -/
def execVpXor (h : Hdr) (s : State) : Out := execTrigger .vp 0x29 h (vecOp 0x29 (arithOp true false false fmtsAll lat3 vXor)) s

/-- VP_ANDN (R173): bitwise a and not b. -/
def execVpAndn (h : Hdr) (s : State) : Out := execTrigger .vp 0x2A h (vecOp 0x2A (arithOp true false false fmtsAll lat3 vAndn)) s

/-- VP_SLL (R173): lane-wise shift left. -/
def execVpSll (h : Hdr) (s : State) : Out := execTrigger .vp 0x2B h (vecOp 0x2B (arithOp true false false fmtsInt lat3 vSll)) s

/-- VP_SRL (R173): lane-wise logical shift right. -/
def execVpSrl (h : Hdr) (s : State) : Out := execTrigger .vp 0x2C h (vecOp 0x2C (arithOp true false false fmtsInt lat3 vSrl)) s

/-- VP_SRA (R173): lane-wise arithmetic shift right. -/
def execVpSra (h : Hdr) (s : State) : Out := execTrigger .vp 0x2D h (vecOp 0x2D (arithOp true false false fmtsInt lat3 vSra)) s

/-- VP_CVT_RNE (R174): converts lanes between formats rounding to nearest even. -/
def execVpCvtRne (h : Hdr) (s : State) : Out := execTrigger .vp 0x30 h (vecOp 0x30 (cvtOp 0 false)) s

/-- VP_CVT_RTZ (R174): converts lanes rounding toward zero. -/
def execVpCvtRtz (h : Hdr) (s : State) : Out := execTrigger .vp 0x31 h (vecOp 0x31 (cvtOp 1 false)) s

/-- VP_CVT_RUP (R174): converts lanes rounding up. -/
def execVpCvtRup (h : Hdr) (s : State) : Out := execTrigger .vp 0x32 h (vecOp 0x32 (cvtOp 2 false)) s

/-- VP_CVT_RDN (R174): converts lanes rounding down. -/
def execVpCvtRdn (h : Hdr) (s : State) : Out := execTrigger .vp 0x33 h (vecOp 0x33 (cvtOp 3 false)) s

/-- VP_CVT_RSR (R174): converts lanes with stochastic rounding. -/
def execVpCvtRsr (h : Hdr) (s : State) : Out := execTrigger .vp 0x34 h (vecOp 0x34 (cvtOp 4 false)) s

/-- VP_CVT_DYN (R174): converts lanes with the mode in frm. -/
def execVpCvtDyn (h : Hdr) (s : State) : Out := execTrigger .vp 0x37 h (vecOp 0x37 (cvtOp 7 false)) s

/-- VP_CVT_SAT_RNE (R174): saturating conversion rounding to nearest even. -/
def execVpCvtSatRne (h : Hdr) (s : State) : Out := execTrigger .vp 0x38 h (vecOp 0x38 (cvtOp 0 true)) s

/-- VP_CVT_SAT_RTZ (R174): saturating conversion toward zero. -/
def execVpCvtSatRtz (h : Hdr) (s : State) : Out := execTrigger .vp 0x39 h (vecOp 0x39 (cvtOp 1 true)) s

/-- VP_CVT_SAT_RUP (R174): saturating conversion rounding up. -/
def execVpCvtSatRup (h : Hdr) (s : State) : Out := execTrigger .vp 0x3A h (vecOp 0x3A (cvtOp 2 true)) s

/-- VP_CVT_SAT_RDN (R174): saturating conversion rounding down. -/
def execVpCvtSatRdn (h : Hdr) (s : State) : Out := execTrigger .vp 0x3B h (vecOp 0x3B (cvtOp 3 true)) s

/-- VP_CVT_SAT_RSR (R174): saturating conversion with stochastic rounding. -/
def execVpCvtSatRsr (h : Hdr) (s : State) : Out := execTrigger .vp 0x3C h (vecOp 0x3C (cvtOp 4 true)) s

/-- VP_CVT_SAT_DYN (R174): saturating conversion with the mode in frm. -/
def execVpCvtSatDyn (h : Hdr) (s : State) : Out := execTrigger .vp 0x3F h (vecOp 0x3F (cvtOp 7 true)) s

/-- VP_RADD (R175): reduces the lanes by ascending addition to a scalar. -/
def execVpRadd (h : Hdr) (s : State) : Out := execTrigger .vp 0x40 h (vecOp 0x40 (reduceOp true fmtsAll vRadd)) s

/-- VP_RMIN (R175): reduces the lanes by minimum. -/
def execVpRmin (h : Hdr) (s : State) : Out := execTrigger .vp 0x41 h (vecOp 0x41 (reduceOp false fmtsAll vRmin)) s

/-- VP_RMAX (R175): reduces the lanes by maximum. -/
def execVpRmax (h : Hdr) (s : State) : Out := execTrigger .vp 0x42 h (vecOp 0x42 (reduceOp false fmtsAll vRmax)) s

/-- VP_RMINU (R175): reduces integer lanes by unsigned minimum. -/
def execVpRminu (h : Hdr) (s : State) : Out := execTrigger .vp 0x43 h (vecOp 0x43 (reduceOp false fmtsInt vRminu)) s

/-- VP_RMAXU (R175): reduces integer lanes by unsigned maximum. -/
def execVpRmaxu (h : Hdr) (s : State) : Out := execTrigger .vp 0x44 h (vecOp 0x44 (reduceOp false fmtsInt vRmaxu)) s

/-- VP_PERM (R176): permutes lanes of a by indices in b. -/
def execVpPerm (h : Hdr) (s : State) : Out := execTrigger .vp 0x48 h (vecOp 0x48 (plainOp fmtsAll lat3 vPerm)) s

/-- VP_SHUF (R176): selects lanes from a and c by indices in b. -/
def execVpShuf (h : Hdr) (s : State) : Out := execTrigger .vp 0x49 h (vecOp 0x49 (plainOp fmtsAll lat3 vShuf)) s

/-- VP_ZIPLO (R176): interleaves the low halves of a and b. -/
def execVpZiplo (h : Hdr) (s : State) : Out := execTrigger .vp 0x4A h (vecOp 0x4A (plainOp fmtsAll lat3 (vZip false))) s

/-- VP_ZIPHI (R176): interleaves the high halves of a and b. -/
def execVpZiphi (h : Hdr) (s : State) : Out := execTrigger .vp 0x4B h (vecOp 0x4B (plainOp fmtsAll lat3 (vZip true))) s

/-- VP_UNZIPE (R176): takes the even lanes of a then b. -/
def execVpUnzipe (h : Hdr) (s : State) : Out := execTrigger .vp 0x4C h (vecOp 0x4C (plainOp fmtsAll lat3 (vUnzip false))) s

/-- VP_UNZIPO (R176): takes the odd lanes of a then b. -/
def execVpUnzipo (h : Hdr) (s : State) : Out := execTrigger .vp 0x4D h (vecOp 0x4D (plainOp fmtsAll lat3 (vUnzip true))) s

/-- VP_EXT (R177): extracts lane LANE of a to a scalar. -/
def execVpExt (h : Hdr) (s : State) : Out := execTrigger .vp 0x4E h (vecOp 0x4E (laneOp vExt)) s

/-- VP_INS (R177): replaces lane LANE of a with a scalar from b. -/
def execVpIns (h : Hdr) (s : State) : Out := execTrigger .vp 0x4F h (vecOp 0x4F (laneOp vIns)) s

/-- VP_DOT8 (R178): accumulates signed INT8 dot products of four into INT32 lanes. -/
def execVpDot8 (h : Hdr) (s : State) : Out := execTrigger .vp 0x50 h (vecOp 0x50 (dotOp (vDot8 true true))) s

/-- VP_DOT8U (R178): unsigned INT8 dot products into INT32 lanes. -/
def execVpDot8u (h : Hdr) (s : State) : Out := execTrigger .vp 0x51 h (vecOp 0x51 (dotOp (vDot8 false false))) s

/-- VP_DOT8SU (R178): signed by unsigned INT8 dot products. -/
def execVpDot8su (h : Hdr) (s : State) : Out := execTrigger .vp 0x52 h (vecOp 0x52 (dotOp (vDot8 true false))) s

/-- VP_EXP2 (R180): lane-wise BF16 base-2 exponential. -/
def execVpExp2 (h : Hdr) (s : State) : Out := execTrigger .vp 0x54 h (vecOp 0x54 (functionOp [7] vExp2)) s

/-- VP_LOG2 (R180): lane-wise BF16 base-2 logarithm. -/
def execVpLog2 (h : Hdr) (s : State) : Out := execTrigger .vp 0x55 h (vecOp 0x55 (functionOp [7] vLog2)) s

/-- VP_RCP (R180): lane-wise reciprocal, correctly rounded in BF16 or an 8-bit estimate in F32. -/
def execVpRcp (h : Hdr) (s : State) : Out := execTrigger .vp 0x56 h (vecOp 0x56 (functionOp [7, 8] vRcp)) s

/-- VP_RSQRT (R180): lane-wise reciprocal square root. -/
def execVpRsqrt (h : Hdr) (s : State) : Out := execTrigger .vp 0x57 h (vecOp 0x57 (functionOp [7, 8] vRsqrt)) s

/-- VP_NRCP (R181): newton reciprocal step 2 − a × b rounded once. -/
def execVpNrcp (h : Hdr) (s : State) : Out := execTrigger .vp 0x58 h (vecOp 0x58 (arithOp false true false [7, 8] lat5 vNrcp)) s

/-- VP_NRSQ (R181): newton reciprocal square root step (3 − a × b)/2. -/
def execVpNrsq (h : Hdr) (s : State) : Out := execTrigger .vp 0x59 h (vecOp 0x59 (arithOp false true false [7, 8] lat5 vNrsq)) s

end Sys2Proof.Machine
end

