-- ==== Sys2Proof/Machine/Course.lean ====
section
/-! DEFINITION. What comes about between bundles: operations complete, stores leave their buffer, waits are released, async traps are
taken, lines are filled, and the core switches slots (spec/01 R18, R20, R26, R27; spec/09 R241 to R246, R252; spec/12 R314, R315;
spec/13 R332, R333; spec/16 R381). -/

set_option autoImplicit false
set_option Elab.async false

namespace Sys2Proof.Machine

/-! ## The operation of a trigger -/

/-- The operation that an opcode of a unit names; none where its map holds none (R87). -/
def triggerOp (u : FU) (opc : Nat) : Option (State → Res) :=
  match u with
  | .ia | .ib => (aluOp opc).map (alu u)
  | .ag => agOp opc
  | .mu => muOp opc
  | .cf => cfOp opc
  | .ls => lsOp opc
  | .vp => vpOp opc
  | .mx => mxOp opc
  | .ch => chOp opc
  | .ks => ksOp opc
  | .sy => match opc with
    | 0x01 => some sySlack
    | 0x0B => some syLaunch
    | 0x0C => some syLpatch
    | 0x40 => some sySubmit
    | _ => syOp opc
  | .qm => qmOp opc
  | .qs => qsOp opc
  | .db => dbOp opc

/-- Does something with another slot of the core in focus. -/
def State.withCur (s : State) (n : Fin 4) (f : State → State) : State :=
  (f (s.onCore fun c => { c with cur := n })).onCore fun c => { c with cur := s.core.cur }

/-! ## Completion (R18, R20) -/

/-- The operation in flight in a unit of the slot in focus completes. A pull is finished first (R198). -/
def State.landUnit (s : State) (u : FU) : State :=
  match (s.lat u).fly with
  | none => s
  | some f => (if u == .qm && f.opc == 0x31 then s.flushPulls else s).onSl fun t => t.land u

/-- RESULT_COMPLETE (R18): an operation that has its least latency behind it completes. -/
def execResultComplete (u : FU) (s : State) : Out :=
  match (s.lat u).fly with
  | none => .next s
  | some f => if f.lo ≤ f.age then .next (s.landUnit u) else .next s

/-- Operations in flight in the slot in focus are one core cycle older, and those due complete. -/
def State.ageSlot (s : State) : State :=
  let s1 := s.onSl fun t => { t with lats := t.lats.map Lat.older }
  s1.sl.due.foldl State.landUnit s1

/-! ## Stores (R139, R332, R333) -/

/-- Two entries write to one doubleword. -/
def Home.sameDword (a b : Home) : Bool :=
  match a, b with
  | .core c o, .core d p => decide (c = d) && o / 8 == p / 8
  | .device x _, .device y _ => x / 8 == y / 8
  | .host x _, .host y _ => x / 8 == y / 8
  | .remote c x _, .remote d y _ => c == d && x / 8 == y / 8
  | _, _ => false

/-- A store may be performed before an older one of the core in focus: neither is a release, and they have different homes, or one outside the
die and different doublewords (R332, R333). -/
def State.mayPass (s : State) (e o : StoreEntry) : Bool :=
  o.scope.isNone && (s.homePlace o.home != s.homePlace e.home || (s.homePlace e.home != s.coreId.die && !o.home.sameDword e.home))

/-- Store `k` of a FIFO may be performed: it begins a doubleword, and it is the oldest, or a plain store that may pass every older one
(R140, R333). -/
def State.mayPerform (s : State) (sb : List StoreEntry) (k : Nat) : Bool :=
  match sb[k]? with
  | none => false
  | some e => k == 0 || (!(sb[k - 1]?.map (·.more)).getD false && e.scope.isNone && (sb.take k).all fun o => s.mayPass e o)

/-- How many entries from `k` on are one store (R166). -/
def chainLength : List StoreEntry → Nat
  | [] => 0
  | e :: rest => if e.more then chainLength rest + 1 else 1

/-- STORE_PERFORMED (R332, R333): a store of the slot in focus leaves its buffer; `k` holds its number in the buffer and, from bit 16 on, the
slots that see it later (log 114). While the job is frozen none does (R490). -/
def execStorePerformed (k : Nat) (s : State) : Out :=
  let i := k % 2 ^ 16
  let n := chainLength (s.sl.sb.drop i)
  if s.still s.core || !s.mayPerform s.sl.sb i then .next s
  else .next (((s.sl.sb.drop i).take n).foldl (fun s e => s.storeOut s.coreId s.core.cur (k / 2 ^ 16) e)
    (s.onSl fun t => { t with sb := t.sb.take i ++ t.sb.drop (i + n) }))

/-! ## Waits (R381) -/

/-- Triggers whose wait is released by the write or the arrival that satisfies it, which hands them a value. -/
def handedTrigger (u : FU) (opc : Nat) : Bool :=
  (u == .sy && decide (1 ≤ opc) && decide (opc ≤ 4)) || (u == .ls && (opc == 0x30 || opc == 0x40))

/-- The wait of the slot in focus ends if its condition holds, and the trigger completes; where the wait's reason has changed, a new wait
begins. -/
def State.releaseWait (s : State) : State :=
  match s.sl.wait with
  | none => s
  | some w =>
    if s.sl.run != .blocked || s.still s.core || (w.value.isNone && handedTrigger w.unit w.opc.toNat) then s
    else match triggerOp w.unit w.opc.toNat with
      | none => s
      | some op => match op s with
        | .ok s1 => s1
        | .trap code tval => enterTrap code tval s.sl.pc s
        | .stall => s
        | .halt => s

/-- Another device gives the entry for which the slot in focus waits to send there (R212; log 8). -/
def State.answerFar (s : State) : State :=
  match s.sl.wait with
  | some w => if w.unit == FU.ch && bits s.sl.csr.wrr 43 40 == 15 && bit s.sl.csr.wrr 63 then s.onSl fun t => t.hand 0 else s
  | none => s

/-- WAIT_RELEASED (R381). -/
def execWaitReleased (s : State) : Out := .next s.answerFar.releaseWait

/-! ## Async traps (R241, R242, R244) -/

/-- The counter of a delivered fault. -/
def deliveredCount : Nat → Nat
  | 0x10 => 1
  | 0x11 => 2
  | _ => 3

/-- The pending async trap that a slot takes now. A Blocked slot whose wait has been satisfied is released first. -/
def Slot.asyncTrap (t : Slot) : Option (Nat × Word) :=
  if !t.occupied || (t.inh && t.hlvl != 0) || (t.wait.bind (·.value)).isSome then none
  else match t.pend.debugHalt, t.pend.preempt, t.pend.undertow, t.pend.signals, t.pend.timer with
    | some g, _, _, _, _ => some (0x21, g)
    | none, true, _, _, _ => some (0x20, 0)
    | none, false, some u, _, _ => if t.standsIn u.gen then some (u.code, u.addr) else none
    | none, false, none, v :: _, _ => some (0x23, v)
    | none, false, none, [], n + 1 => some (0x22, w64 (n + 1))
    | none, false, none, [], 0 => none

/-- A pending trap has been taken. -/
def Pending.taken (p : Pending) (code : Nat) : Pending :=
  match code with
  | 0x21 => { p with debugHalt := Option.none }
  | 0x20 => { p with preempt := false }
  | 0x23 => { p with signals := p.signals.tail }
  | 0x22 => { p with timer := 0 }
  | _ => { p with undertow := Option.none }

/-- DEADLOCK, WAIT_DEAD and WAIT_STOPPED, the traps that an Undertow delivers (R393). -/
def userWait (code : Nat) : Bool := 0x10 ≤ code && code ≤ 0x12

/-- The slot in focus takes the async trap that comes first; the others stay pending. A delivery that is taken is counted (R386). A core that is halted, stopped or frozen takes
none (R236, R482, R490). -/
def State.takeAsync (s : State) : State :=
  if s.core.dbg.halted || s.still s.core then s
  else match s.sl.asyncTrap with
    | none => s
    | some (code, tval) =>
      let s1 := match s.sl.pend.undertow with
        | some u => if userWait code then s.udCount u.die (deliveredCount code) else s
        | none => s
      enterTrap code tval s.sl.pc (s1.onSl fun t => { t with pend := t.pend.taken code })

/-- TRAP_ENTRY (R246): the slot in focus stands at a bundle boundary and takes a pending async trap. The traps of a bundle are taken
within that bundle's own step. -/
def execTrapEntry (s : State) : Out := .next s.takeAsync

/-! ## Lines (R314, R315) -/

/-- The body bundle that the repetition buffer holds for the slot's next issue (R33): by its address, or, the buffer being full and pads
standing before it, by POS. -/
def Slot.buffered (t : Slot) : Option RepBundle :=
  if !t.repActive then none
  else match t.rep.find? fun b => b.addr == t.pc with
    | some b => some b
    | none => if t.rep.length == bits t.csr.rpc 47 44 + 1 then t.rep[bits t.csr.rpc 43 40]? else none

/-- FETCH_LINE_FILL (R315): a line that the slot in focus may fetch arrives; a line that its next bundle needs and that cannot be
fetched traps (R314). A line that the core holds has dropped out of its caches, and is read from memory afresh (log 23). -/
def execFetchLineFill (line : Word) (s : State) : Out :=
  let va := line.toNat / 64 * 64
  let t := s.sl
  let needs := (t.run == .ready || t.run == .issuing || t.run == .stalled) && t.buffered.isNone && t.pc.toNat / 64 * 64 == va
  if s.core.dbg.halted || s.still s.core || !t.occupied then .next s
  else match (if needs then s.fetchWord t.pc.toNat else .miss) with
    | .trap code => .next (enterTrap code t.pc t.pc s)
    | .word _ | .miss =>
      if s.record?.isNone || s.beyond va then .next s
      else .next (if (findLine s.core.icache s.asid va).isSome then s.loadLine va else s.fillLine va)

/-! ## Slot switches (R27) -/

/-- A reason for the core to leave its slot. -/
def Slot.leaves (t : Slot) : Bool :=
  match t.run with
  | .free | .blocked => true
  | .stalled => decide (3 ≤ t.stall) || t.yielded
  | .ready | .issuing => t.yielded || decide (256 ≤ t.issued)

/-- The first Ready slot after the core's own. -/
def Core.nextReady (c : Core) : Option (Fin 4) :=
  [c.cur + 1, c.cur + 2, c.cur + 3].find? fun n => c.slots[n].run == .ready

/-- The core switches to the next Ready slot where a reason for it stands, at the cost of a bubble. A slot that leaves with the bubble of a
taken branch to come is Stalled (R26). A yield that finds no other slot Ready is spent. -/
def State.switchSlot (s : State) : State :=
  if !s.sl.leaves then s
  else match s.core.nextReady with
    | none => s.onSl fun t => { t with yielded := false }
    | some n =>
      let s1 := (s.count 4).onSl fun t => { t with run := if t.run == .issuing then (if t.bubble == 0 then .ready else .stalled) else t.run, yielded := false, issued := 0 }
      let s2 := (s1.onCore fun c => { c with cur := n, swap := 1 }).onSl fun t => { t with run := .issuing, issued := 0 }
      s2.trace 3 s2.sl.pc

/-- STALL_SWITCH (R27). -/
def execStallSwitch (s : State) : Out :=
  if s.core.dbg.halted || s.still s.core then .next s else .next s.switchSlot

/-! ## A core cycle passes (R5, R41, R163, R164, R237) -/

/-- One core cycle of the core in focus: its count, its operations in flight, its vector queue, and time. -/
def State.tick (s : State) : State :=
  let s1 := s.passTime.onCore fun c => { c with cycle := if c.dbg.halted then c.cycle else c.cycle + 1 }
  let s2 := [0, 1, 2, 3].foldl (fun (s : State) (n : Fin 4) => s.withCur n State.ageSlot) s1
  s2.ageVectors.onCore fun c => (List.range 4).foldl Core.countSlot c

/-- Waits end and async traps are taken in every slot of the core in focus. -/
def State.boundaries (s : State) : State :=
  [0, 1, 2, 3].foldl (fun (s : State) (n : Fin 4) => s.withCur n fun s => s.releaseWait.takeAsync) s

end Sys2Proof.Machine
end

