-- ==== Sys2Proof/Machine/Debugging.lean ====
section
/-! DEFINITION. Debug modules, halt groups, the freeze wire, trace control and Tidemark (spec/21_debug_trace.md R481 to R495). -/

set_option autoImplicit false
set_option Elab.async false

namespace Sys2Proof.Machine

/-! ## Halting and resuming (R482 to R488) -/

/-- DCMD_HALT (R482): the core in focus halts at the bundle boundary where it stands. -/
def execDcmdHalt (s : State) : Out := if s.core.dbg.halted then .next s else .next (s.halt 1 0)

/-- A halted core resumes: every slot returns to its state (R482). A core that `sy.halt` has stopped runs again (R236). -/
def State.resumeCore (s : State) (id : CoreId) : State :=
  let d := (s.coreAt id).dbg
  let s := if (s.coreAt id).stopped then s.onCoreAt id fun c => { c with stopped := false } else s
  if d.halted then (s.onCoreAt id fun c => { c with dbg := { d with halted := false } }).traceAt id d.slot 8 (w64 (d.cause * 2 ^ 8)) else s

/-- DCMD_RESUME (R482). -/
def execDcmdResume (s : State) : Out := .next (s.resumeCore s.coreId)

/-- DCMD_STEP (R487): one bundle of slot DSTAT.SLOT is to issue, after which the core halts again. -/
def execDcmdStep (s : State) : Out :=
  if s.core.dbg.halted then
    .next ((s.resumeCore s.coreId).onCore fun c => { c with cur := Fin.ofNat 4 c.dbg.slot, dbg := { c.dbg with step := true } })
  else .next s

/-- A word that can be fetched and is no pad stands at an address (R86). -/
def State.noPad (s : State) (va : Nat) : Bool := match s.peekWord va with
  | some w => w != padWord
  | none => false

/-- The breakpoint that matches the bundle which the slot in focus is about to issue (R483): the lowest, and never on a pad (R86). Triggers to be
issued again stand at the address where the slot resumes (DEDUCED, log 84). -/
def State.breakpoint (s : State) : Option Nat :=
  let t := s.sl
  if !bit (s.reg (.dctl s.coreId)) 15 || s.core.dbg.halted || !(t.run == .ready || t.run == .issuing || t.run == .stalled) then none
  else if !((t.repActive && t.rep.any fun b => b.addr == t.pc) || s.noPad t.pc.toNat) then none
  else (List.range 4).find? fun n =>
    let b := s.reg (.bp s.coreId n)
    bit b 63 && bit b (59 + s.core.cur.val) && bits b 51 2 == bits t.pc 51 2

/-- A matching breakpoint halts the core, or raises DEBUG_HALT once (R483, R485). -/
def State.matchBreakpoint (s : State) (n : Nat) : State :=
  (s.onCore fun c => { c with dbg := { c.dbg with bpn := n } }).halt 2 s.core.cur

/-- A breakpoint acts now: with TRAP, only where no DEBUG_HALT is pending at the slot yet. -/
def State.breaks (s : State) : Option Nat :=
  if bit (s.reg (.dctl s.coreId)) 13 && s.sl.pend.debugHalt.isSome then none else s.breakpoint

/-- BREAKPOINT_MATCH (R483). -/
def execBreakpointMatch (s : State) : Out := match s.breaks with
  | some n => .next (s.matchBreakpoint n)
  | none => .next s

/-- CROSS_TRIGGER_HALT (R488): the core in focus halts because another member of its group has. -/
def execCrossTriggerHalt (s : State) : Out :=
  let ctl := s.reg (.dctl s.coreId)
  let s1 := s.onCore fun c => { c with dbg := { c.dbg with cross := false } }
  if s.core.dbg.cross && !s.core.dbg.halted && bit ctl 15 && bit ctl 12 then .next (s1.halt 4 0) else .next s1

/-- DGRP_RESUME (R488): every halted member of a group resumes. -/
def execDgrpResume (grp : Nat) (s : State) : Out := .next ((s.groupCores (grp % 64)).foldl State.resumeCore s)

/-! ## Live state (R486, R491) -/

/-- The doublewords D0 to D254 of the live state of a slot, in the image layout. -/
def liveWords (k : CoreKind) (t : Slot) : List Word :=
  let dv := match t.divide with
    | some d => some d
    | none => (t.reissue.find? fun e => e.1 == .mu).map (·.2)
  let rv := match t.wait with
    | some w => some (w.unit, w.opc)
    | none => t.reissue.find? fun e => e.1 != .mu
  imageWords k t dv rv

/-- The slot and the doubleword number that DSEL selects. -/
def State.selected (s : State) : Nat × Nat :=
  let w := s.reg (.dsel s.coreId)
  (bits w 13 12, bits w 11 3)

/-- A DDATA access is refused (R486). -/
def State.refuseData (s : State) : State := s.onCore fun c => { c with dbg := { c.dbg with err := true } }

/-- DDATA_READ (R486): the doubleword read stands in `ddata`; a refused read returns 0. -/
def execDdataRead (s : State) : Out :=
  let (n, off) := s.selected
  let t := s.core.slot n
  let img := liveWords s.coreId.kind t
  if !s.core.dbg.halted || 0x100 < off then .next { s.refuseData with ddata := 0 }
  else .next { s with ddata := if off == 0x100 then t.pc else if off == 0xFF then imageTag img else img.getD off 0 }

/-- A slot with one doubleword of its live state replaced: what is in flight stays so. -/
def Slot.putLive (k : CoreKind) (img : List Word) (t : Slot) : Slot :=
  let t1 := t.loadImage k img
  { t1 with lats := Vector.ofFn fun i : Fin 14 => { t1.lats[i] with fly := t.lats[i].fly } }

/-- A slot whose STATE now names other triggers to be issued again: what DV and RV showed, a divide in flight and a wait, gives way to them. -/
def Slot.putReissue (img : List Word) (t : Slot) : Slot :=
  let t1 := t.onLat .mu fun l => { l with fly := if t.divide.isSome then none else l.fly }
  { t1.unblock with reissue := imageReissue img }

/-- The highest level whose state a slot of a core can hold: 3 on a lighthouse core, elsewhere the supervisor's (R39, R251). -/
def topLevel (k : CoreKind) : Nat := if k == .lighthouse then 3 else 1

/-- A slot that goes on from an address, its body, if it repeats one, fetched afresh (R486). -/
def Slot.goFrom (a : Word) (t : Slot) : Slot := { t with pc := a, npc := a, rep := [] }

/-- DDATA_WRITE (R486): a write of DPC or `epc` moves the resume address; one that breaks a check of R251 is refused. -/
def execDdataWrite (v : Word) (s : State) : Out :=
  let (n, off) := s.selected
  let k := s.coreId.kind
  let img := liveWords k (s.core.slot n)
  let new := img.set off v
  if !s.core.dbg.halted || 0x100 < off then .next s.refuseData
  else if off == 0x100 || off == 250 then .next (s.onCore fun c => c.onSlot n (Slot.goFrom (bundleAddr v)))
  else if off == 0xFF then .next s
  else if (imageFault k new (topLevel k)).isSome then .next s.refuseData
  else .next (s.onCore fun c => c.onSlot n fun t =>
    let t1 := t.putLive k new
    if imageReissue new == imageReissue img then t1 else t1.putReissue new)

/-! ## The freeze wire (R490) -/

/-- FRZCTL_ASSERT (R490): the cores of the record's job stop issuing, and their store buffers stop draining. A record named before is let go. -/
def execFrzctlAssert (rec : Nat) (s : State) : Out := .next (s.setReg .frzctl (w64 (2 ^ 63 + rec % 4096)))

/-- FRZCTL_RELEASE (R490): ASSERT is clear, and no job is held through FRZCTL, whatever index is written. -/
def execFrzctlRelease (rec : Nat) (s : State) : Out := .next (s.setReg .frzctl (w64 (rec % 4096)))

/-! ## Trace control (R492, R493) -/

/-- Setting TEN: the index and the block number start anew, and a Sync packet is written. -/
def State.traceStart (s : State) (id : CoreId) : State :=
  let s1 := (s.setReg (.tridx id) 0).onCoreAt id fun c => { c with dbg := { c.dbg with trace := [], lost := 0, block := 0 } }
  s1.acceptPacket id 1 (s1.coreAt id).cur ((s1.coreAt id).slot (s1.coreAt id).cur).pc

/-- Clearing TEN: the packets collected for a block are sealed and written (R492, R493). -/
def State.traceEnd (s : State) (id : CoreId) : State :=
  (if (s.coreAt id).dbg.trace.isEmpty then s else s.sealTrace id).setField (.trctl id) 0 0 0

/-- TRACE_STOP (R492). -/
def execTraceStop (s : State) : Out := if bit (s.reg (.trctl s.coreId)) 0 then .next (s.traceEnd s.coreId) else .next s

/-! ## Tidemark (R494, R495) -/

/-- Every core of the package in the scan order (R491). -/
def scanOrder : List CoreId :=
  (List.range 10).flatMap fun d =>
    (if d < 8 then (List.range 1024).map (fun i => (⟨.compute, d, i⟩ : CoreId)) ++ (List.range 64).map fun i => (⟨.quay, d, i⟩ : CoreId)
     else (List.range 16).map fun i => (⟨.harbour, d, i⟩ : CoreId)) ++ [⟨.lighthouse, d, 0⟩]

/-- The state code of a sample. -/
def State.sampleState (s : State) (c : Core) (t : Slot) : Nat :=
  let frozen := match c.ctx with
    | some x => s.wire x.record
    | none => false
  if frozen then 6 else if c.dbg.halted || c.stopped then 5
  else match t.run with
    | .free => 0
    | .ready => 1
    | .issuing => 2
    | .stalled => 3
    | .blocked => 4

/-- Bytes 0 to 7 of a core's sample (R494, R495). A Free slot has no next bundle, and its address reads as zero. -/
def State.sample (s : State) (c : Core) : Nat :=
  let conf := match c.ctx with
    | some x => s.recConf x.record
    | none => false
  let t := c.slot c.cur
  let st := s.sampleState c t
  if conf then 7 * 2 ^ 52
  else (if st == 4 then bits t.csr.wrr 62 59 else 0) * 2 ^ 55 + st * 2 ^ 52 + (if st == 0 then 0 else bits t.pc 51 2 * 4) + c.cur.val

/-- Runs of equal samples, each with its length. -/
def runsOf : List Nat → List (Nat × Nat)
  | [] => []
  | x :: xs => match runsOf xs with
    | (y, n) :: rest => if x == y then (y, n + 1) :: rest else (x, 1) :: (y, n) :: rest
    | [] => [(x, 1)]

/-- A Tidemark record (R495). -/
def tidemarkRecord (pulse time : Nat) (samples : List Nat) : List Byte :=
  let runs := runsOf samples
  leBytes 8 pulse ++ leBytes 8 time ++ leBytes 4 runs.length ++ leBytes 4 samples.length ++ List.replicate 8 0 ++
    runs.flatMap fun r => leBytes 8 r.1 ++ leBytes 4 r.2 ++ List.replicate 4 0

/-- TIDEMARK_PULSE (R494, R495): a pulse that is due latches every core, and its record is written. -/
def execTidemarkPulse (s : State) : Out :=
  let ctl := s.reg .tmctl
  let past := (s.time - s.tmStart) / (bits ctl 24 1 * 100)
  if !bit ctl 0 || past ≤ s.tmPulse then .next s
  else
    let r := tidemarkRecord (past - 1) s.time (scanOrder.map fun id => s.sample (s.coreAt id))
    let off := if bits (s.reg .tmsize) 31 0 * 2 ^ 20 < (s.reg .tmidx).toNat + r.length then 0 else (s.reg .tmidx).toNat
    let a := bits (s.reg .tmbase) 51 6 * 64 + off
    .next ({ s.deviceWrite a r with tmPulse := past }.setReg .tmidx (w64 (off + r.length)))

end Sys2Proof.Machine
end

