-- ==== Sys2Proof/Machine/Firmware.lean ====
section
/-! DEFINITION. The lighthouses and their lease, the firmware mailboxes, the RESYNC summary and the fatal dump
(spec/18_command_firmware.md R444 to R452; spec/21 R491). -/

set_option autoImplicit false
set_option Elab.async false

namespace Sys2Proof.Machine

/-! ## The leader lease (R445 to R447) -/

/-- Weight of a lighthouse. -/
def lightWeight (die : Nat) : Nat := if die == 8 then 2 else 1

/-- Weight of a set of lighthouses. -/
def weightOf (dies : List Nat) : Nat := (((dies.filter fun d => decide (d < Config.dies)).foldl insertNat []).map lightWeight).sum

/-- Rank of a lighthouse. -/
def lightRank (die : Nat) : Nat := if die == 8 then 0 else if die == 9 then 1 else die + 2

/-- The dies on the side of a die (R447): all of them while the package is whole, but those held in reset (R496). -/
def State.sideOf (s : State) (die : Nat) : List Nat :=
  let all := (List.range Config.dies).filter fun d => !s.dieHeld d
  match s.split with
  | none => all
  | some side => all.filter fun d => side.contains d == side.contains die

/-- The leader, while it acts: 10 ms after its last successful renewal it stops (R445). -/
def State.acting (s : State) : Option Nat := s.leader.filter fun d => decide (s.time < (s.light d).renewed + 1000000)

/-- A source is raised on one port, whatever IRQSRC names (R447). -/
def State.raiseOn (s : State) (src port : Nat) : State :=
  { s.raiseIrq src with portIrqs := (src, port) :: s.portIrqs.filter fun e => !(e.1 == src && e.2 == port) }

/-- A source is raised by the leader on a die: in a divided package on a port of its own side, if it has one (R447). -/
def State.raiseFrom (s : State) (die src : Nat) : State :=
  match s.split, [8, 9].filter (s.sideOf die).contains with
  | none, _ => s.raiseIrq src
  | some _, [] => s
  | some _, d :: ds =>
    let p := (bit (s.reg (.irqsrc src)) 62).toNat
    s.raiseOn src (if (d :: ds).contains (8 + p) then p else d - 8)

/-- Every job with a context on a die outside a side becomes failed (R447). -/
def State.failOutside (s : State) (side : List Nat) : State :=
  let rs := (s.cores.filterMap fun p => match p.2.ctx with
    | some x => if side.contains p.1.die then none else some x.record
    | none => none).foldl insertNat []
  rs.foldl (fun s r => s.failRecord r) s

/-- A renewal that succeeded, with the lighthouses that acknowledged it: their leases run from now (R445). -/
def State.renewed (s : State) (die : Nat) (acks : List Nat) : State :=
  let s1 := acks.foldl (fun s d => s.onLight d fun l => { l with renewed := s.time, lapsed := false, epoch := max l.epoch (s.light die).epoch }) s
  s1.onLight die fun l => { l with renewed := s.time, lapsed := false, sent := s.time, weight := weightOf (die :: acks) }

/-- LEASE_RENEWAL (R445): every 2 ms the leader sends a renewal, which succeeds when those that acknowledge it weigh 6 or more. -/
def execLeaseRenewal (acks : List Nat) (s : State) : Out :=
  match s.acting with
  | none => .next s
  | some d =>
    if s.time < (s.light d).sent + 200000 then .next s
    else
      let heard := acks.filter fun a => (s.sideOf d).contains a && a != d
      if 6 ≤ weightOf (d :: heard) then .next (s.renewed d heard)
      else .next (s.onLight d fun l => { l with sent := s.time, weight := weightOf (d :: heard) })

/-- The next record of a job's fault area lies on the same side of a split as a die, or outside the package (R260). -/
def State.areaNear (s : State) (die r : Nat) : Bool :=
  let base := s.faultBase r
  match s.recRuns r (base + s.recNat r base 8) 1 with
  | some ((.device pa _, _) :: _) => (s.sideOf die).contains (s.homeOf pa).1
  | _ => true

/-- A context of a die that has lost quorum is marked dead; its record is written only where the fault area can be reached (R260, R447). -/
def State.killApart (s : State) (id : CoreId) (code : Nat) : State :=
  match (s.coreAt id).ctx with
  | none => s
  | some x =>
    if s.areaNear id.die x.record then s.markDead id 0 code 0 0 0 0 else ((s.killCore id).failRecord x.record).raiseIrq 131

/-- Every context on a die is marked dead by the loss of quorum (R258, R447). -/
def State.killDie (s : State) (die code : Nat) : State :=
  (s.cores.filter fun p => p.1.die == die && (p.2.ctx.map (·.dead)) == some false).foldl (fun s p => s.killApart p.1 code) s

/-- LEASE_LAPSE (R445 to R447): 10 ms after the last successful renewal a leader stops acting and a follower's lease lapses; on a side
that weighs 5 or less the die's queues stop and its contexts die. -/
def execLeaseLapse (die : Nat) (s : State) : Out :=
  let l := s.light die
  if Config.dies ≤ die || s.dieHeld die || l.lapsed || s.time < l.renewed + 1000000 then .next s
  else
    let s1 := s.onLight die fun l => { l with lapsed := true }
    let s2 : State := if s.leader == some die then { s1 with leader := none } else s1
    if 6 ≤ weightOf (s.sideOf die) then .next s2
    else
      let s3 := (s2.onLight die fun l => { l with outOfQuorum := true }).killDie die 0x1A
      .next (if 8 ≤ die then s3.raiseOn 257 (die - 8) else s3)

/-- A lighthouse grants a vote: its own lease has lapsed, it is on the candidate's side, and it has not voted in the epoch (R446). -/
def State.grants (s : State) (die epoch v : Nat) : Bool :=
  (s.sideOf die).contains v && (s.light v).lapsed && decide ((s.light v).voted < epoch)

/-- VOTE_REQUEST (R446): after its rank's delay, and every 10 ms after that, a lighthouse whose lease has lapsed asks for votes; with
weight 6 it leads. -/
def execVoteRequest (die : Nat) (votes : List Nat) (s : State) : Out :=
  let l := s.light die
  let due := if l.renewed < l.asked then l.asked + 1000000 else l.renewed + 1100000 + 10000 * lightRank die
  if Config.dies ≤ die || s.dieHeld die || !l.lapsed || s.time < due then .next s
  else
    let e := l.epoch + 1
    let got := (die :: votes).filter (s.grants die e)
    let s1 := (got.foldl (fun s d => s.onLight d fun l => { l with voted := e, epoch := max l.epoch e }) s).onLight die fun l =>
      { l with asked := s.time, epoch := e }
    if weightOf got < 6 then .next s1
    else
      let s2 := ({ s1 with leader := some die }.renewed die (got.filter fun d => d != die)).raiseFrom die 256
      .next (if s.split.isSome then (s2.failOutside (s.sideOf die)).raiseFrom die 257 else s2)

/-- MGMT_LINK_FAIL (R447): the package divides. A leader whose side weighs 6 or more stays, and fails the jobs of the other side. -/
def execMgmtLinkFail (side : List Nat) (s : State) : Out :=
  let mine := (side.filter fun d => decide (d < Config.dies)).foldl insertNat []
  if s.split.isSome || mine.isEmpty || mine.length == Config.dies then .next s
  else
    let s1 : State := { s with split := some mine }
    match s.leader with
    | none => .next s1
    | some d => .next (if 6 ≤ weightOf (s1.sideOf d) then (s1.failOutside (s1.sideOf d)).raiseFrom d 257 else s1)

/-! ## Sections (R448, R451) -/

/-- A section of a summary or dump: its type, the bytes of an entry, and the entries. -/
structure Section where
  typ : Nat
  esize : Nat
  entries : List (List Byte)
  deriving DecidableEq, Repr

/-- The bytes of a summary or dump: header, directory and sections. `head` is the header from byte 8 on. -/
def summary (head : List Byte) (secs : List Section) : List Byte :=
  let first := 64 + 16 * secs.length
  let sizes := secs.map fun x => (x.entries.map (·.length)).sum
  let dir := ((List.range secs.length).zip secs).flatMap fun x =>
    leBytes 2 x.2.typ ++ leBytes 2 x.2.esize ++ leBytes 4 x.2.entries.length ++ leBytes 8 (first + (sizes.take x.1).sum)
  padTo 64 (leBytes 2 1 ++ leBytes 2 secs.length ++ leBytes 4 (first + sizes.sum) ++ head) ++ dir ++
    secs.flatMap fun x => x.entries.flatten

/-- A 16-byte entry. -/
def entry16 (a b : Nat) : List Byte := leBytes 8 a ++ leBytes 8 b

/-! ## RESYNC (R448, R449, R452) -/

/-- The physical party ID of slot 0 of a core. -/
def physParty (id : CoreId) : Nat := partyOf id (Core.reset id) 0

/-- The physical dies of a record's job, as bits. -/
def State.dieBits (s : State) (r : Nat) : Nat :=
  let j := s.job r
  (((j.dies ++ j.cores.map (·.die)).foldl insertNat []).map fun d => 2 ^ d).sum

/-- The sections of a RESYNC. -/
def State.resyncSections (s : State) : List Section :=
  let qs := (List.range 4096).filter fun q => fieldAt (s.queueDesc q) 10 1 % 2 == 1
  let recs := (List.range 4096).filter fun r => s.recState r != 0
  let ctxs := s.cores.filterMap fun p => p.2.ctx.map fun x => (p.1, x)
  let sems := (List.range 64).filter fun n => bit (s.reg (.hsem n)) 63
  let role := fun d => if s.leader == some d then 1
    else match s.leader with
      | some l => if (s.sideOf l).contains d then 0 else 2
      | none => if (s.light d).outOfQuorum then 2 else 0
  let img := if bits (s.reg .bootst) 62 60 == 2 then 1 else 0
  [⟨1, 16, qs.map fun q => entry16 (q + bits (s.reg (.qst q)) 63 32 * 2 ^ 32) (s.qHead q + s.qTail q * 2 ^ 32)⟩,
   ⟨2, 16, recs.map fun r => entry16 (r + s.recState r * 2 ^ 16 + s.recVf r * 2 ^ 24) (s.dieBits r)⟩,
   ⟨3, 16, ctxs.map fun x => entry16 (physParty x.1 + x.2.record * 2 ^ 24)
      (if x.2.dead then 2 else if (s.job x.2.record).parkedCores.contains x.1 then 1 else 0)⟩,
   ⟨4, 16, s.faults.map fun f => entry16 f.1 f.2⟩,
   ⟨5, 16, sems.map fun n => entry16 n (s.reg (.hsem n)).toNat⟩,
   ⟨6, 16, (List.range Config.dies).map fun d => entry16 (d + img * 2 ^ 8 + role d * 2 ^ 16) Config.firmwareVersion.toNat⟩,
   ⟨7, 16, (s.errs.filter fun e => e.2 != 0).map fun e => entry16 e.1 e.2⟩]

/-- The header of a RESYNC from byte 8 on. -/
def State.resyncHead (s : State) (d : Nat) : List Byte :=
  let l := s.light d
  leBytes 1 d ++ leBytes 1 l.weight ++ [0, 0] ++ leBytes 4 l.epoch ++ leBytes 8 s.time ++ leBytes 8 (l.renewed + 1000000 - s.time)

/-- The command that a mailbox is running: OP and ARG. -/
def State.mailOf (s : State) (port : Nat) : Option (Nat × Nat) := (look? s.mail port).map fun w => (bits w 63 56, bits w 51 0)

/-- A mailbox command ends (R444). -/
def State.endMail (s : State) (port res len : Nat) : State :=
  ({ s with mail := del s.mail port }.setReg (.mbst port) (w64 (res * 2 ^ 48 + len))).raiseIrq (259 + port)

/-- A command of a mailbox runs: RES 2 on a side without quorum; it waits while there is no leader yet (R444, R447). -/
def State.runMail (s : State) (port : Nat) (is : Nat × Nat → Bool) (k : Nat → Out) : Out :=
  match s.mailOf port with
  | none => .next s
  | some c =>
    if (s.light (8 + port)).outOfQuorum then .next (s.endMail port 2 0)
    else if !is c then .next s
    else match s.acting with
      | some d => k d
      | none => .next s

/-- MB_RESYNC (R444, R448): the summary is written into the buffer, cut at SIZE. The faults it returned are listed no more (R452). -/
def execMbResync (port : Nat) (addr : Word) (s : State) : Out :=
  s.runMail port (fun c => c.1 == 1 && c.2 == bits addr 51 0) fun d =>
    let a := bits addr 51 0
    let size := bits (s.reg (.mbarg port)) 31 0
    let secs := s.resyncSections
    let all := summary (s.resyncHead d) secs
    let cut := all.take size
    let before := 64 + 16 * 7 + 16 * ((secs.take 3).map fun x => x.entries.length).sum
    if a % 64 != 0 then .next (s.endMail port 1 0)
    else
      let s1 := s.deviceWrite a cut
      .next ({ s1 with faults := s1.faults.drop ((size - before) / 16) }.endMail port (if size < all.length then 3 else 0) cut.length)

/-- MB_KILL (R444): the record fails and every context of its job is marked dead; no dead-context record is written. -/
def execMbKill (port rec : Nat) (s : State) : Out :=
  s.runMail port (fun c => c.1 == 2 && c.2 % 4096 == rec) fun _ => .next ((s.killJob rec 0x18 false).endMail port 0 0)

/-- MB_BAD_COMMAND (R444): other operations give RES 1. -/
def execMbBadCommand (port : Nat) (s : State) : Out :=
  s.runMail port (fun c => c.1 == 0 || 3 < c.1) fun _ => .next (s.endMail port 1 0)

/-! ## The fatal dump (R450, R451, R491) -/

/-- The place of a core in the scan order. -/
def scanKey (id : CoreId) : Nat := id.die * 2 ^ 14 + id.kind.role * 2 ^ 12 + id.idx

/-- The cores of a job in the scan order. -/
def State.scanCores (s : State) (r : Nat) : List (CoreId × Core) :=
  ((s.jobCores r).foldl (fun acc p => put acc (scanKey p.1) p) []).map (·.2)

/-- A core as it is scanned: the live state of each occupied slot stands in its save area. -/
def Core.scanned (id : CoreId) (c : Core) : Core :=
  (List.range 4).foldl (fun c n =>
    if (c.slot n).occupied then { c with mem := c.mem.write (saveArea n) (imageBytes (liveWords id.kind (c.slot n))) } else c) c

/-- An entry of a range-lock table (R326). -/
def RangeLock.bytes (l : RangeLock) : List Byte :=
  padTo 32 (leBytes 4 l.start ++ leBytes 4 l.stop ++ leBytes 4 (1 + 2 * l.write.toNat) ++ leBytes 4 l.queue ++ leBytes 4 l.seq)

/-- A store-buffer entry of the dump (R451, log 41). -/
def StoreEntry.dumped (e : StoreEntry) (party pos : Nat) : List Byte :=
  let off := e.va.toNat % 8
  let mask := (2 ^ e.bytes.length - 1) * 2 ^ off % 256
  padTo 31 (leBytes 8 (party + pos * 2 ^ 32) ++ leBytes 8 (bits e.va 55 3 * 8) ++ leBytes 1 mask ++ List.replicate off 0 ++ e.bytes) ++ [1]

/-- The sections of a dump. ESIZE holds the low 16 bits of a frame's size (log 41). -/
def State.dumpSections (s : State) (r : Nat) : List Section :=
  let cs := s.scanCores r
  let octs := (cs.filterMap fun p => if p.1.kind == .compute then some (p.1.die * 128 + octetOf p.1.idx) else none).foldl insertNat []
  let parties := (List.range Config.dies).flatMap fun d => (s.dieParties d).filter fun p => p.job == r
  [⟨1, 0x4000, cs.map fun p => (Core.scanned p.1 p.2).frame p.1⟩,
   ⟨2, 0x1000, octs.map fun o => s.octetFrame r (o / 128) (o % 128)⟩,
   ⟨3, 0x9000, (s.hampers.filter fun h => h.2.record == some r).map fun h => h.2.frame⟩,
   ⟨4, 32, (cs.filter fun p => p.1.kind == .compute).flatMap fun p =>
      (p.2.ranges.map RangeLock.bytes) ++ List.replicate (64 - p.2.ranges.length) (List.replicate 32 0)⟩,
   ⟨5, 32, cs.flatMap fun p => (List.range 4).flatMap fun n =>
      (p.2.slot n).sb.mapIdx fun i e => e.dumped (partyOf p.1 p.2 n) i⟩,
   ⟨6, 16, parties.map fun p => entry16 p.pid (s.partyWait p).1.toNat⟩]

/-- The entries of the sections that fit into a buffer, whole, and whether all did. -/
def fitSections : Nat → List Section → List Section × Bool
  | _, [] => ([], true)
  | room, x :: xs =>
    let kept := x.entries.foldl (fun (acc : List (List Byte) × Nat × Bool) e =>
      if acc.2.2 && e.length ≤ acc.2.1 then (acc.1 ++ [e], acc.2.1 - e.length, true) else (acc.1, acc.2.1, false)) ([], room, true)
    let (rest, all) := fitSections (if kept.2.2 then kept.2.1 else 0) xs
    ({ x with entries := kept.1 } :: rest, all && kept.2.2)

/-- A section of a confidential job's dump, sealed under the tenant key (R468, log 41). -/
def State.sealSection (s : State) (r : Nat) (x : Section) : Section :=
  let key := look [] s.keySlots (s.keySlotOf (s.recAsid r))
  if x.entries.isEmpty then x
  else { x with entries := [Config.gcmSeal key (leBytes 4 x.typ ++ leBytes 8 s.time) x.entries.flatten] }

/-- Messages of a job on their way land in order, as far as they can. -/
def State.landJob (s : State) (r : Nat) : Nat → Nat → State
  | 0, _ => s
  | fuel + 1, k => match s.msgs[k]? with
    | none => s
    | some m =>
      if m.job != some r || (s.msgs.take k).any m.sameWay then State.landJob s r fuel (k + 1)
      else
        let s1 := s.landMsg k m
        State.landJob s1 r fuel (if s1.msgs.length < s.msgs.length then k else k + 1)

/-- The oldest request of a job that the dispenser owes is answered, and the next ones. -/
def State.answerAll (s : State) (r : Nat) : Nat → State
  | 0 => s
  | fuel + 1 => match execDispenserAnswer r 0 s with
    | .next s1 => State.answerAll s1 r fuel
    | _ => s

/-- No write of a job is in flight beyond its store buffers (R450): its pushes, pulls and messages have been written, its dispenser requests
answered, and its matrix commands whose steps have ended are complete. -/
def State.landWrites (s : State) (r : Nat) : State :=
  let mine := fun (c : CoreId) => ((s.coreAt c).ctx.map (·.record)) == some r
  let s1 := (s.pushes.filter fun c => mine c.src).foldl State.finishPush s
  let s2 := (s1.pulls.filter fun c => mine c.src).foldl State.finishPull s1
  let s3 := s2.landJob r s2.msgs.length 0
  let s4 := s3.answerAll r (s3.job r).dreqs.length
  (s4.jobCores r).foldl (fun s p => if (p.2.mq.cmds.head?.map (·.ended)) == some true then s.within p.1 matrixComplete else s) s4

/-- The dump of a job (R450, R451): the freeze wire is asserted, what is past a store buffer completes, and the buffer is written; the job
becomes failed and source 258 is raised. Without a dump buffer or a leader there is none. -/
def State.dump (s : State) (r cause : Nat) : State :=
  let size := bits (s.reg .fedump) 63 52 * 2 ^ 20
  let a := bits (s.reg .fedump) 51 12 * 4096
  match size == 0, s.acting with
  | false, some d =>
    let s1 := (s.onJob r fun j => { j with frozen := true }).landWrites r
    let secs := s1.dumpSections r
    let (kept, all) := fitSections (size - 64 - 16 * secs.length) (if s1.recConf r then secs.map (s1.sealSection r) else secs)
    let head := leBytes 2 r ++ leBytes 2 (!all).toNat ++ leBytes 4 cause ++ leBytes 8 s1.time ++
      leBytes 8 ((s1.light d).renewed + 1000000 - s1.time)
    ((s1.deviceWrite a (summary head kept)).failRecord r).raiseIrq 258
  | _, _ => s

/-- One effect after another. -/
def andThen (o : Out) (k : State → Out) : Out :=
  match o with
  | .next s => k s
  | .fault f => .fault f
  | .refused r => .refused r

/-- MB_KILL_DUMP (R444, R450): a dump of a record that is armed, running or parked, then KILL. -/
def execMbKillDump (port rec : Nat) (s : State) : Out :=
  s.runMail port (fun c => c.1 == 3 && c.2 % 4096 == rec) fun _ =>
    let s1 := if 1 ≤ s.recState rec && s.recState rec ≤ 3 then s.dump rec 0x18 else s
    .next ((s1.killJob rec 0x18 false).endMail port 0 0)

/-- FATAL_ECC (R258, R450, R507): an uncorrectable error in what the slot in focus consumes is counted and marks its context dead; its job is
dumped. -/
def execFatalEcc (s : State) : Out :=
  let s1 := (s.countErr 1).markDead s.coreId s.core.cur 0x3F 0 s.sl.pc 0 0
  .next (match s.record? with
    | some r => s1.dump r 0x3F
    | none => s1)

end Sys2Proof.Machine
end

