-- ==== Sys2Proof/Machine/Virtual.lean ====
section
/-! DEFINITION. Invalidation and filling of TLBs, answers to page requests, memory regions and the reset of virtual functions
(spec/19_virtualisation.md R453 to R466). -/

set_option autoImplicit false
set_option Elab.async false

namespace Sys2Proof.Machine

/-! ## TLBs (R459, R460) -/

/-- An invalidation starts, unless one is in progress. -/
def State.startInval (s : State) (op asid first n : Nat) : State :=
  if bit (s.reg .tlbst) 63 then s else { s with inval := some (op, asid, first, n) }.setReg .tlbst (w64 (2 ^ 63))

/-- TLBINV_ALL (R460). -/
def execTlbinvAll (s : State) : Out := .next (s.startInval 1 0 0 0)

/-- TLBINV_ASID (R460). -/
def execTlbinvAsid (asid : Nat) (s : State) : Out := .next (s.startInval 2 (asid % 2 ^ 16) 0 0)

/-- TLBINV_RANGE (R460): the range stands in TLBINVA. -/
def execTlbinvRange (asid : Nat) (s : State) : Out :=
  let w := s.reg .tlbinva
  .next (s.startInval 3 (asid % 2 ^ 16) (bits w 51 16) (bits w 11 0 + 1))

/-- An entry matches an invalidation. -/
def TlbEntry.matches (e : TlbEntry) (x : Nat × Nat × Nat × Nat) : Bool :=
  let (op, asid, first, n) := x
  match op with
  | 1 => true
  | 2 => e.asid == asid
  | _ => e.asid == asid && decide (e.va < (first + n) * 2 ^ 16) && decide (first * 2 ^ 16 < e.va + 2 ^ e.size)

/-- A slot's store buffer is held by the freeze wire (R490). -/
def State.frozenCore (s : State) (c : Core) : Bool := match c.ctx with
  | some x => s.wire x.record
  | none => false

/-- A wait packet watches the word where its address stands now: what it watched through a dropped entry ends with the invalidation (R460). -/
def State.rewatch (s : State) (q : Nat) : State :=
  let f := s.queue q
  match f.waiting, f.watch with
  | some p, some _ => s.onQueue q fun f => { f with watch := match s.packetHome q (packetDw p 1) .read with
      | .ok (.device a key) => some (a, key)
      | _ => none }
  | _, _ => s

/-- TLBINV_COMPLETE (R460): every TLB drops the entries that match, the accesses that used them having been performed. -/
def execTlbinvComplete (s : State) : Out :=
  match s.inval with
  | none => .next s
  | some x =>
    if s.cores.any fun p => s.frozenCore p.2 && p.2.slots.toList.any fun t => !t.sb.isEmpty then .next s
    else
      let s1 := s.cores.foldl (fun s p => (List.range 4).foldl (fun s n => s.drainSlot p.1 n) s) s
      let s2 := s1.mapCores fun _ c => { c with tlb := c.tlb.filter fun e => !e.matches x }
      let kept : List (Nat × List TlbEntry) := s2.tlbs.map fun t => (t.1, t.2.filter fun e => !e.matches x)
      let s3 := { s2 with tlbs := kept, inval := none }.setReg .tlbst 0
      .next ((s3.queues.map (·.1)).foldl State.rewatch s3)

/-- TLB_WALK (R459): a walk that finds a translation is held by the die's TLB, and by the quay core's that asked for it; a failed one is
not kept. -/
def execTlbWalk (die asid vf : Nat) (va : Word) (_access : Nat) (_user : Bool) (party : BitVec 24) (s : State) : Out :=
  match tlbHit (s.dieTlb die) asid vf (bits va 51 0), s.walk asid vf (bits va 51 0) with
  | none, .ok e =>
    let s1 : State := { s with tlbs := put s.tlbs die ((e :: s.dieTlb die).take 8192) }
    if party.toNat / 2 ^ 16 % 16 == 1 then
      .next (s1.onCoreAt ⟨.quay, die, party.toNat / 4 % 64⟩ fun c => { c with tlb := (e :: c.tlb).take 64 })
    else .next s1
  | _, _ => .next s

/-! ## Page requests (R462) -/

/-- The requester of an answered page request walks again. -/
def State.retryPage (s : State) (who : Requester) : State :=
  match who with
  | .stream c => s.onCoreAt c fun k => { k with prq := none }
  | .dma die e => s.onEngine die e fun g => { g with prq := none }
  | .queue q => s.onQueue q fun f => { f with prq := none }
  | .coll die => { s with coll := put s.coll die { look Engine.reset s.coll die with prq := none } }

/-- PRQ_RETRY (R462). -/
def execPrqRetry (tag : Nat) (s : State) : Out :=
  match look? s.prqs tag with
  | some who => .next ((s.dropPage (some tag)).retryPage who)
  | none => .next s

/-- STOP of a collective engine (R473, R475): as a DMA engine's. -/
def State.stopColl (s : State) (die code : Nat) : State :=
  let a := bits (s.reg (.crbase die)) 51 6 * 64 +
    64 * (bits (s.reg (.crhead die)) 31 0 % 2 ^ (bits (s.reg (.crcfg die)) 43 40 + 4))
  let s1 := s.deviceWrite (a + 56) (leBytes 8 (2 ^ 63 + code * 2 ^ 48))
  let s2 : State := { s1 with coll := put s1.coll die Engine.reset }
  s2.setReg (.crst die) (w64 (3 * 2 ^ 61 + code * 2 ^ 48 + bits (s2.reg (.crhead die)) 31 0))

/-- A requester fails finally with PAGE_FAULT. -/
def State.failPage (s : State) (who : Requester) : State :=
  let s1 := s.retryPage who
  match who with
  | .stream c => ((s1.focus c).stopStream 0x08).focus s.coreId
  | .dma die e => s1.stopDma die e 0x08
  | .queue q => s1.stopQueue q 0x08
  | .coll die => s1.stopColl die 0x08

/-- PRQ_FAIL (R462). -/
def execPrqFail (tag : Nat) (s : State) : Out :=
  match look? s.prqs tag with
  | some who => .next ((s.dropPage (some tag)).failPage who)
  | none => .next s

/-! ## Regions (R454) -/

/-- A staged attribute byte obeys R454. -/
def regionOk (b : Nat) : Bool :=
  decide (b < 32) && match b % 4 with
    | 0 => true
    | 1 => decide (b / 4 < 4)
    | 2 => b / 4 == 0
    | _ => false

/-- Units of 0.5 GiB that a region puts on a compute die. -/
def regionShare (b die : Nat) : Nat :=
  match b % 4 with
  | 0 => if b / 4 == die then 8 else 0
  | 1 => if b / 4 == die / 2 then 4 else 0
  | _ => 1

/-- The staged table. -/
def State.staged (s : State) : List Nat := (List.range 256).map fun r => bits (s.reg (.region r)) 7 0

/-- A commit is allowed. -/
def State.commitOk (s : State) : Bool :=
  let t := s.staged
  t.all regionOk && ((List.range 8).all fun d => decide ((t.map fun b => regionShare b d).sum ≤ 256)) &&
    ((List.range 4096).all fun r => s.recState r == 0) &&
    (List.range 128).all fun k => !bit (s.reg (.drcfg (8 + k / 64) (k % 64))) 63

/-- REGCMT_GO (R454): the staged table is applied, and the regions that changed are to be cleared; or the commit is refused. -/
def execRegcmtGo (s : State) : Out :=
  if bit (s.reg .regcmt) 63 then .next s
  else if !s.commitOk then .next (s.setField .regcmt 62 62 1)
  else
    let t := s.staged
    let changed := (List.range 256).filter fun r => t.getD r 2 != s.regionAttr r
    .next ({ s with regions := (List.range 256).map (fun r => (r, t.getD r 2)), clearing := changed }.setReg .regcmt (w64 (2 ^ 63)))

/-- REGION_CLEAR_DONE (R454): every byte of the changed regions is zero, and BUSY clears. -/
def execRegionClearDone (s : State) : Out :=
  if !bit (s.reg .regcmt) 63 then .next s
  else .next ({ s with dm := s.dm.filter fun c => !s.clearing.contains (c.1 / 2 ^ 32), clearing := [] }.setReg .regcmt 0)

/-! ## Virtual functions (R463 to R466) -/

/-- The queues of a function. -/
def State.vfQueues (s : State) (v : Nat) : List Nat := (s.queues.filter fun q => descVf (s.descOf q.1) == v).map (·.1)

/-- The records of a function, in a pool that has been set up. -/
def State.vfRecords (s : State) (v : Nat) : List Nat := if s.reg .fepool == 0 then [] else (List.range 4096).filter fun r => s.recVf r == v

/-- VFCTL_RESET (R465): the function's records, idle ones among them, become failed and their contexts die, its queues are reset and its DMA
engines abort. -/
def execVfctlReset (v : Nat) (s : State) : Out :=
  if v == 0 || 64 ≤ v || s.vfState v != 0 then .next s
  else
    let s1 := (s.vfRecords v).foldl (fun s r => (s.killJob r 0x19 true).setRecState r 4) s
    let s2 := (s1.vfQueues v).foldl State.resetQueue s1
    .next ((s2.abortEngines fun w => bits w 61 56 == v).setReg (.vfctl v) (w64 (2 * 2 ^ 62)))

/-- A dead context of a function is still draining (R466). -/
def State.vfDraining (s : State) (v : Nat) : Bool := s.cores.any fun p => match p.2.ctx with
  | some x => x.dead && s.recVf x.record == v
  | none => false

/-- VF_RESET_DRAINED (R465): no request of the function remains; its sources are released with PEND clear. -/
def execVfResetDrained (v : Nat) (s : State) : Out :=
  if s.vfState v != 2 || s.vfDraining v then .next s
  else
    let s1 := ((List.range 1024).filter fun n => s.sourceOf n v).foldl (fun s n => s.setField (.irqsrc n) 60 60 0) s
    .next (s1.setReg (.vfctl v) 0)

end Sys2Proof.Machine
end

