-- ==== Sys2Proof/Machine/Scaleup.lean ====
section
/-! DEFINITION. The scale-up domain: remote accesses, flits and links, key rollover, and the collective engines
(spec/20_scaleup.md R469 to R480). -/

set_option autoImplicit false
set_option Elab.async false

namespace Sys2Proof.Machine

/-! ## Links (R469, R473, R479) -/

/-- The register of a port, which shows what the port is. -/
def lnkReg (p : Nat) : Reg := .lnk (8 + p / 9) (p % 9)

/-- Shows a port's state in its register. -/
def State.showPort (s : State) (p : Nat) : State :=
  let k := s.shumPort p
  s.setReg (lnkReg p) (w64 (k.up.toNat * 2 ^ 63 + k.width * 2 ^ 61 + k.kg.toNat * 2 ^ 60 + bits (s.reg (lnkReg p)) 31 0))

/-- Some run of a translated range lies on another device that `who` names. -/
def toAway (who : Nat → Bool) (rs : Except (XlatErr × Nat) (List (Home × Nat))) : Bool := match rs with
  | .ok l => l.any fun r => match r.1 with
    | .remote d _ _ => who d
    | _ => false
  | .error _ => false

/-- A slot has a request outstanding to another device that `who` names: a buffered store, a load or atomic in flight, or a wait on a party of
another device (R472, R480). -/
def State.slotAsksAway (s : State) (who : Nat → Bool) (r : Nat) (id : CoreId) (c : Core) (t : Slot) : Bool :=
  (t.sb.any fun e => match e.home with
    | .remote d _ _ => who d
    | _ => false) ||
  (t.wait.isSome && bits t.csr.wrr 43 40 == 15 && who (bits t.csr.wrr 31 24)) ||
  match (t.lat .qm).fly with
  | some f => decide (f.opc < 0x30) &&
      toAway who (s.runs (c.tlb ++ s.dieTlb id.die) (s.recAsid r) (s.recVf r) .read false (bits (t.lat .qm).t 51 0) 1)
  | none => false

/-- A DMA engine that works for a job reads or writes another device that `who` names. -/
def State.dmaAsksAway (s : State) (who : Nat → Bool) (r : Nat) : Bool :=
  (List.range 128).any fun k =>
    let (die, e) := (8 + k / 64, k % 64)
    match (s.engine die e).run with
    | some d => s.dmaJob die e == some r &&
        ((dmaOp d != 1 && toAway who (s.dmaRuns die e .read (dmaFlag d 0) (w64 (descNat d 0 8)) (dmaLen d))) ||
          (dmaOp d != 2 && toAway who (s.dmaRuns die e .write (dmaFlag d 1) (w64 (descNat d 8 8)) (dmaLen d))))
    | none => false

/-- A job has a request outstanding to another device that `who` names: of one of its slots, of a stream of one of its cores, of a DMA engine that
works for it, or a transfer of its exchange with that device (R480). -/
def State.asksAway (s : State) (who : Nat → Bool) (r : Nat) : Bool :=
  ((s.jobCores r).any fun p => ((List.range 4).any fun n => s.slotAsksAway who r p.1 p.2 (p.2.slot n)) ||
    match p.2.stream.run with
    | some x => match (s.focus p.1).runAddr x.bytes ((x.first + x.buf.length) / max 1 (recField x.bytes 16 4)) with
      | .ok a => toAway who (s.runs (p.2.tlb ++ s.dieTlb p.1.die) (s.recAsid r) (s.recVf r) .read false a (max 1 (recField x.bytes 16 4)))
      | .error _ => false
    | none => false) ||
  s.dmaAsksAway who r || ((s.job r).phase.getD []).any fun t => (t.srcDev != s.myDev r && who t.srcDev) || (t.dstDev != s.myDev r && who t.dstDev)

/-- Jobs with a context here fail that span another device that `who` names, or have a request outstanding to one (R480, log 108). -/
def State.failSpanning (s : State) (who : Nat → Bool) : State :=
  ((s.jobs.map (·.1)).filter fun r => (s.recState r == 2 || s.recState r == 3) &&
    (((List.range (s.spanDevs r)).any fun d => d != s.myDev r && who d) || s.asksAway who r)).foldl (fun s r => s.killJob r 0x1B true) s

/-- The engine of a die is enabled and not stopped. -/
def State.collOn (s : State) (die : Nat) : Bool := bit (s.reg (.crcfg die)) 63 && bits (s.reg (.crst die)) 63 61 != 3

/-- A port goes down: what its replay buffer holds, and what waited there for a rollover, is re-sent in order on the ports that R469 now selects;
with no port left, the jobs that span devices fail and the collective engines stop with ACCESS (R479, R480). -/
def State.portDown (s : State) (port : Nat) : State :=
  let k := s.shumPort port
  let s1 := (s.onShum port fun k =>
    { k with up := false, width := 0, replay := [], tries := 0, wants := none, again := (0, 0), held := [] }).showPort port
  if s1.portsUp.isEmpty then
    [8, 9].foldl (fun s d => if s.collOn d then s.stopColl d 0x07 else s) (s1.failSpanning fun _ => true)
  else (k.replay.map (fun f => (f.pa, f.body)) ++ k.held).foldl (fun s f => s.sendFlit f.1 f.2) s1

/-- SHUMBIVIA_PORT_DOWN (R479, R480). -/
def execShumbiviaPortDown (port : Nat) (s : State) : Out :=
  if 18 ≤ port || !(s.shumPort port).up then .next s else .next (s.portDown port)

/-- A lane of a port is out of service (R502, R504). -/
def State.laneOut (s : State) (port : Nat) : Bool :=
  s.oos.any fun u => u.kind == .shumbiviaLane && u.die == 8 + port / 9 && u.row / 4 == port % 9

/-- SHUMBIVIA_PORT_UP (R473, R479): a port trains, at two lanes or four; none trains while DOMID.V is 0. -/
def execShumbiviaPortUp (port : Nat) (twoLanes : Bool) (s : State) : Out :=
  if 18 ≤ port || !bit (s.reg .domid) 8 then .next s
  else .next ((s.onShum port fun k =>
    { k with up := true, width := if twoLanes || s.laneOut port then 1 else 2, tries := 0, again := (0, 0) }).showPort port)

/-- A flit is dropped: counted, and a replay asked for from its number; the eighth failed replay of one flit in a row takes the port down (R470,
R479). -/
def State.dropFlit (s : State) (port seq : Nat) (replay : Bool) : State :=
  let w := s.reg (lnkReg port)
  let s1 := ((s.setReg (lnkReg port) (setBits w 31 0 (bits w 31 0 + 1))).countErr 4).onShum port fun k =>
    { k with tries := if replay then k.tries + 1 else 0, wants := some seq }
  if 8 ≤ (s1.shumPort port).tries then s1.portDown port else s1

/-- What a good flit says of this device's own: those acknowledged are kept no longer, and one asked for again is re-sent as it was; the eighth
replay of one flit in a row takes the port down (R478, R479, log 121). -/
def State.answered (s : State) (port : Nat) : State :=
  let n := Config.flitAcked port s.time
  let s1 := s.onShum port fun k =>
    { k with replay := k.replay.drop n, confirmed := k.confirmed || (k.replay.take n).any fun f => f.kg == k.kg }
  match Config.replayAsked port s.time with
  | some m =>
    if (s1.shumPort port).replay.any fun f => f.seq == m then
      let s2 := s1.onShum port fun k => { k with again := (m, if k.again.1 == m then k.again.2 + 1 else 1) }
      if 8 ≤ (s2.shumPort port).again.2 then s2.portDown port else s2
    else s1
  | none => s1

/-- FLIT_RECEIVE (R470, R478): a flit that fails its tag check, or whose key slot is empty, is dropped; a good one is used once, in the order
of its key. -/
def execFlitReceive (port seq : Nat) (kg tagOk replay : Bool) (s : State) : Out :=
  let k := s.shumPort port
  if 18 ≤ port || !k.up then .next s
  else
    let s0 := if replay then s.countErr 5 else s
    if !tagOk || (k.rkeys.getD kg.toNat none).isNone then .next (s0.dropFlit port seq replay)
    else if seq != k.expect.getD kg.toNat 0 then .next s0
    else .next ((s0.onShum port fun k =>
      { k with rkg := kg, expect := k.expect.set kg.toNat (seq + 1), tries := 0, wants := none }).answered port)

/-! ## Key rollover (R478) -/

/-- KEY_ROLLOVER (R478): the leader loads a key into the idle slot, and the transmitter goes on under it from SEQ 0, with what waited for it. -/
def execKeyRollover (port : Nat) (key : List Byte) (s : State) : Out :=
  let k := s.shumPort port
  if 18 ≤ port || s.acting.isNone || (k.keys.getD (!k.kg).toNat none).isSome then .next s
  else
    let s1 := (s.onShum port fun k =>
      { k with keys := k.keys.set (!k.kg).toNat (some key), kg := !k.kg, sent := 0, confirmed := false, held := [] }).showPort port
    .next (k.held.foldl (fun s f => s.onShum port fun k => k.send port f.1 f.2) s1)

/-- The receive slot of the other generation is one that has been used and whose flits come no more: its successor's do, and no replay is
awaited (R478, log 121). -/
def ShumPort.oldReceive (k : ShumPort) : Bool :=
  k.wants.isNone && k.expect.getD k.rkg.toNat 0 != 0 && k.expect.getD (!k.rkg).toNat 0 != 0

/-- KEY_RETIRE (R478): the old key goes once no flit under it remains to be replayed and the peer has confirmed the new one; and that of the
receive direction once the peer's flits come under its successor. -/
def execKeyRetire (port : Nat) (s : State) : Out :=
  let k := s.shumPort port
  if 18 ≤ port then .next s
  else
    let s1 := if k.oldReceive then s.onShum port fun k => { k with rkeys := k.rkeys.set (!k.rkg).toNat none } else s
    if !k.confirmed || k.replay.any (fun f => f.kg != k.kg) then .next s1
    else .next (s1.onShum port fun k => { k with keys := k.keys.set (!k.kg).toNat none })

/-! ## Remote accesses (R471, R472, R480) -/

/-- The domain access table admits a device to a region. -/
def State.admits (s : State) (dev region : Nat) : Bool :=
  bit (w64 (s.dm.byte (bits (s.reg .dactb) 51 13 * 8192 + 32 * (dev % 256) + region / 8)).toNat) (region % 8)

/-- A message from another device of a job is on its way to its channel (R210, R212): its header names the sender's device. -/
def State.messageFrom (s : State) (dev r : Nat) (word : Word) (sender : Nat) (pay : List Byte) : State :=
  if (s.recState r == 2 || s.recState r == 3) && dev < s.spanDevs r && dev != s.myDev r && s.destDev r word == s.myDev r &&
      s.destInSpan r (s.myDev r) word && pay.length % 8 == 0 && pay.length ≤ 248 then
    let header := w64 (bits word 63 48 * 2 ^ 48 + pay.length * 2 ^ 40 + dev * 2 ^ 24 + sender % 2 ^ 24)
    { s with msgs := s.msgs ++ [⟨some r, awayCore, 0, (s.job r).destOf word, bits word 47 44, none, 0xFFFFFFFF, header, word, pay⟩] }
  else s

/-- What an atomic of another device stores, from the old doubleword and its operands (R146, R196). -/
def remoteNew (k : RemoteKind) : Option (Word → Word → Word → Option Word) := match k with
  | .atomicAdd => some aaddNew
  | .cas => some casNew
  | .swap => some swapNew
  | .aand => some aandNew
  | .aor => some aorNew
  | .amin => some aminNew
  | .amax => some amaxNew
  | .aminu => some aminuNew
  | .amaxu => some amaxuNew
  | .read | .write | .message _ _ _ => none

/-- An atomic of another device is performed at its home's controller, and the old value goes back (R472). Its data are its operands `a` and
`b`. -/
def State.remoteAtomic (s : State) (addr : Nat) (f : Word → Word → Word → Option Word) (data : List Byte) : State :=
  let old := s.dm.bytes addr 8
  let s1 := match f (w64 (leNat old)) (w64 (leNat (data.take 8))) (w64 (leNat ((data.drop 8).take 8))) with
    | some w => s.writeDevice addr 0 (leBytes 8 w.toNat)
    | none => s
  s1.sendFlit addr old

/-- REMOTE_ACCESS_ARRIVAL (R472): an access that the table admits is performed at its home, and what it reads goes back; any other is refused
without effect, a read with zeros. A message of a job that spans devices goes its way (R212). -/
def execRemoteAccessArrival (dev addr : Nat) (kind : RemoteKind) (len : Nat) (data : List Byte) (s : State) : Out :=
  let n := match kind with
    | .read => len
    | .write => data.length
    | .message _ _ _ => 0
    | _ => 8
  if s.portsUp.isEmpty then .next s
  else match kind with
  | .message r word sender => .next (s.messageFrom dev r word sender data)
  | _ =>
  if n == 0 then .next s
  else if Config.deviceBytes < addr + n || !(s.admits dev (addr / 2 ^ 32) && s.admits dev ((addr + n - 1) / 2 ^ 32)) then
    .next (if kind == .write then s.refuseRemote addr else (s.refuseRemote addr).sendFlit addr (List.replicate n 0))
  else match remoteNew kind with
    | some f => .next (s.remoteAtomic addr f data)
    | none => .next (if kind == .write then s.writeDevice addr 0 data else s.sendFlit addr (s.dm.bytes addr n))

/-- REMOTE_TIMEOUT (R480): requests to a lost device time out, and the jobs that span it, or have a request outstanding to it, fail. -/
def execRemoteTimeout (dev : Nat) (s : State) : Out :=
  if dev == bits (s.reg .domid) 7 0 then .next s else .next (s.failSpanning fun d => d == dev)

/-! ## The collective ring (R473) -/

/-- HEAD of the ring. -/
def State.crHead (s : State) (die : Nat) : Nat := bits (s.reg (.crhead die)) 31 0
/-- TAIL of the ring. -/
def State.crTail (s : State) (die : Nat) : Nat := bits (s.reg (.crtail die)) 31 0
/-- STATE of the engine. -/
def State.crState (s : State) (die : Nat) : Nat := bits (s.reg (.crst die)) 63 61
/-- Descriptors of the ring. -/
def State.crSize (s : State) (die : Nat) : Nat := 2 ^ (bits (s.reg (.crcfg die)) 43 40 + 4)
/-- Physical address of the descriptor at HEAD. -/
def State.crAt (s : State) (die : Nat) : Nat := bits (s.reg (.crbase die)) 51 6 * 64 + 64 * (s.crHead die % s.crSize die)

/-- The collective engine of an I/O die. -/
def State.collEngine (s : State) (die : Nat) : Engine := look Engine.reset s.coll die

/-- An engine that is not stopped and has no descriptor in course shows idle or running: running where it is enabled and descriptors are
posted. -/
def State.settleColl (s : State) (die : Nat) : State :=
  let busy := bit (s.reg (.crcfg die)) 63 && s.crHead die != s.crTail die
  if (s.collEngine die).run.isSome then s else s.setReg (.crst die) (w64 (busy.toNat * 2 ^ 61 + bits (s.reg (.crst die)) 31 0))

/-- A die has a collective engine (R474). -/
def ioDie (die : Nat) : Bool := die == 8 || die == 9

/-- CRTAIL_WRITE (R473), as a DMA engine's. -/
def execCrtailWrite (die : Nat) (tail : HWord) (s : State) : Out :=
  if !ioDie die then .next s
  else if s.crSize die < (tail.toNat + 2 ^ 32 - s.crHead die) % 2 ^ 32 then .next (s.stopColl die 0x0D)
  else
    let s1 := s.setReg (.crtail die) (w64 tail.toNat)
    .next (if s.crState die == 3 then s1 else s1.settleColl die)

/-- A write of CRCFG: while EN is 1 only one that clears EN takes effect. -/
def State.crcfgWrite (s : State) (die : Nat) (v : Word) : State :=
  if !ioDie die || (bit (s.reg (.crcfg die)) 63 && bit v 63) then s
  else
    let s1 := s.setReg (.crcfg die) (setBits v 19 16 0)
    if s.crState die == 3 then s1 else s1.settleColl die

/-- CR_ABORT (R473). -/
def execCrAbort (die : Nat) (s : State) : Out :=
  if !ioDie die then .next s
  else .next (s.abortColl die)

/-- CR_RESUME (R473). -/
def execCrResume (die : Nat) (s : State) : Out :=
  if ioDie die && s.crState die == 3 then
    .next ((s.setReg (.crhead die) (w64 ((bits (s.reg (.crst die)) 31 0 + 1) % 2 ^ 32))).settleColl die)
  else .next s

/-! ## Collectives (R474 to R477) -/

/-- The members of a group, ascending. -/
def State.collMembers (s : State) (g : Nat) : List Nat :=
  (List.range 256).filter fun d => bit (w64 (s.dm.byte (bits (s.reg .grpb) 51 9 * 512 + 32 * g + d / 8)).toNat) (d % 8)

/-- COUNT of a descriptor. -/
def collCount (d : List Byte) : Nat := descNat d 16 4
/-- OP. -/
def collOp (d : List Byte) : Nat := descNat d 20 1
/-- FMT. -/
def collFmt (d : List Byte) : Nat := descNat d 21 1
/-- GRP. -/
def collGrp (d : List Byte) : Nat := descNat d 22 1
/-- CC. -/
def collCc (d : List Byte) : Word := w64 (descNat d 24 4)

/-- Bytes of an element of a format. -/
def collBytes (f : Nat) : Nat := if f == 5 then 8 else if f == 7 then 2 else 4

/-- The record of the ring's job. -/
def State.collJob (s : State) (die : Nat) : Option Nat :=
  let w := s.reg (.crcfg die)
  if bit w 62 then some (bits w 55 44) else none

/-- A collective descriptor obeys R475. -/
def State.collOk (s : State) (die : Nat) (d : List Byte) : Bool :=
  let cc := collCc d
  let es := collBytes (collFmt d)
  let ms := s.collMembers (collGrp d)
  bits (s.reg (.crcfg die)) 39 20 == 0 && decide (1 ≤ collCount d) && decide (collCount d ≤ 2 ^ 20) && decide (collOp d < 3) &&
    (collFmt d == 5 || collFmt d == 7 || collFmt d == 8) && decide (collGrp d < 16) && descNat d 23 1 == 0 && descNat d 28 28 == 0 &&
    descNat d 0 8 % es == 0 && descNat d 8 8 % es == 0 && bits cc 30 28 == 0 && bits cc 23 12 == 0 &&
    ms.contains (bits (s.reg .domid) 7 0) && decide (2 ≤ ms.length) &&
    (!bit cc 31 || match s.collJob die with
      | some r => s.dieOfJob r (bits cc 27 24) && s.granted r (bits cc 11 0)
      | none => false)

/-- COLLECTIVE_START (R473, R475): the engine reads and checks the descriptor at HEAD, and waits for its peers. -/
def execCollectiveStart (die : Nat) (s : State) : Out :=
  let a := s.crAt die
  if !ioDie die || !bit (s.reg (.crcfg die)) 63 || s.crState die == 3 || (s.collEngine die).run.isSome || s.crHead die == s.crTail die then
    .next s
  else
    let d := s.deviceRead a 64
    if !s.collOk die d then .next (s.stopColl die 0x02)
    else
      let s1 : State := { s with coll := put s.coll die { s.collEngine die with run := some d } }
      .next (s1.setReg (.crst die) (w64 (2 * 2 ^ 61 + bits (s1.reg (.crst die)) 31 0)))

/-- One step of R476 on two elements: the result and its flags. -/
def collStep (f op a b : Nat) : Nat × Nat :=
  match ffmtOf f with
  | some g => if op == 0 then fadd g .rne 0 a b else fminmax g (op == 2) a b
  | none =>
    let x := (BitVec.ofNat 64 a).toInt
    let y := (BitVec.ofNat 64 b).toInt
    match op with
    | 0 => ((a + b) % 2 ^ 64, 0)
    | 1 => (if x ≤ y then a else b, 0)
    | _ => (if x ≤ y then b else a, 0)

/-- One level of the tree: neighbours are combined, an odd last element is carried. -/
def collLevel (f op : Nat) : List (Nat × Nat) → List (Nat × Nat)
  | a :: b :: rest =>
    let r := collStep f op a.1 b.1
    (r.1, joinFlags [a.2, b.2, r.2]) :: collLevel f op rest
  | rest => rest

/-- The tree over all levels; nine cover 256 members. -/
def collTree (f op : Nat) : Nat → List (Nat × Nat) → Nat × Nat
  | _, [x] => x
  | 0, l => l.headD (0, 0)
  | n + 1, l => collTree f op n (collLevel f op l)

/-- The result of an element over its members' values. -/
def collElement (f op : Nat) (vs : List Nat) : Nat × Nat := collTree f op 9 (vs.map fun v => (v, 0))

/-- The elements of a member's bytes. -/
def collElements (es n : Nat) (bs : List Byte) : List Nat := (List.range n).map fun i => leNat ((bs.drop (es * i)).take es)

/-- The homes of a range of the ring's address space. -/
def State.collRuns (s : State) (die : Nat) (acc : Access) (addr n : Nat) : Except (XlatErr × Nat) (List (Home × Nat)) :=
  let w := s.reg (.crcfg die)
  if bits (w64 addr) 55 52 != 0 then .error (.access, 0)
  else s.runs (s.dieTlb die) (bits w 15 0) (bits w 61 56) acc false (bits (w64 addr) 51 0) n

/-- A translation that fails: a page is asked for, or the engine stops. -/
def State.collMiss (s : State) (die access : Nat) (x : XlatErr × Nat) : State :=
  match x with
  | (.access, _) => s.stopColl die 0x07
  | (.noPage, va) =>
    let w := s.reg (.crcfg die)
    let (s1, tag) := s.askPage (.coll die) (die * 2 ^ 20 + 7 * 2 ^ 16 + 64) (bits w 15 0) (bits w 61 56) (va / 2 ^ 16 * 2 ^ 16) access
    { s1 with coll := put s1.coll die { s1.collEngine die with prq := tag } }

/-- The end of a collective: STATUS with the flags, the counter, and HEAD (R476). -/
def State.collDone (s : State) (die : Nat) (d : List Byte) (flags : Nat) : State :=
  let s1 := s.deviceWrite (s.crAt die + 56) (leBytes 8 (2 ^ 63 + flags))
  let cc := collCc d
  let s2 := match bit cc 31, s1.collJob die with
    | true, some r => s1.addCtr ((s1.job r).physDie (bits cc 27 24)) (bits cc 11 0) 1
    | _, _ => s1
  let s3 : State := { s2 with coll := put s2.coll die Engine.reset }
  (s3.setReg (.crhead die) (w64 ((s3.crHead die + 1) % 2 ^ 32))).settleColl die

/-- What the members must agree in: COUNT, OP, FMT and GRP of a descriptor (R475). -/
def collTerms (d : List Byte) : List Byte := (d.drop 16).take 7

/-- COLLECTIVE_COMPLETE (R475, R476): `peers` brings, for each other member, COUNT, OP, FMT and GRP of its descriptor and then its elements. Where
the descriptors do not agree every engine stops; else each element is reduced over the tree and written to DST. -/
def execCollectiveComplete (die : Nat) (peers : List (Nat × List Byte)) (s : State) : Out :=
  let g := s.collEngine die
  match g.run, g.prq with
  | some d, none =>
    let me := bits (s.reg .domid) 7 0
    let ms := s.collMembers (collGrp d)
    let f := collFmt d
    let es := collBytes f
    let n := collCount d
    let others := ms.filter fun m => m != me
    if !(others.all fun m => decide (7 ≤ (look [] peers m).length)) then .next s
    else if !(others.all fun m => (look [] peers m).take 7 == collTerms d) then .next (s.stopColl die 0x02)
    else if !(others.all fun m => (look [] peers m).length == 7 + es * n) then .next s
    else match s.collRuns die .read (descNat d 0 8) (es * n), s.collRuns die .write (descNat d 8 8) (es * n) with
      | .error x, _ => .next (s.collMiss die 1 x)
      | _, .error x => .next (s.collMiss die 2 x)
      | .ok src, .ok dst =>
        let mine := s.readRuns src
        let cols := ms.map fun m => collElements es n (if m == me then mine else (look [] peers m).drop 7)
        let rs := (List.range n).map fun i => collElement f (collOp d) (cols.map fun c => c.getD i 0)
        .next (((s.askedRuns src).writeRuns dst (rs.flatMap fun r => leBytes es r.1)).collDone die d (joinFlags (rs.map (·.2))))
  | _, _ => .next s

end Sys2Proof.Machine
end

