-- ==== Sys2Proof/Machine/Boot.lean ====
section
/-! DEFINITION. Reset and boot, images and fuses, attestation, key slots, islands, and units out of service
(spec/22_boot_operations.md R496 to R507; spec/17 R406). -/

set_option autoImplicit false
set_option Elab.async false

namespace Sys2Proof.Machine

/-! ## Images (R497, R498) -/

/-- A field of an image. -/
def imageField (m : Memory) (a n : Nat) : Nat := m.nat a n

/-- SHAKE256 with a 64-byte output (R497; the function itself is free, log 5). -/
def shake64 (bs : List Byte) : List Byte := (padTo 64 (Config.shake256 bs)).take 64

/-- The digest of an image: over bytes 0 to 63, bytes 178 to 255, and the body. -/
def imageDigest (m : Memory) : List Byte :=
  shake64 (m.bytes 0 64 ++ m.bytes 178 78 ++ m.bytes 256 (imageField m 12 4 % 2 ^ 25))

/-- KEYSEL. -/
def imageKey (m : Memory) : Nat := imageField m 16 1
/-- SVN. -/
def imageSvn (m : Memory) : Nat := imageField m 8 4

/-- Bytes from `a` on are zero. -/
def zeroBytes (m : Memory) (a n : Nat) : Bool := (m.bytes a n).all fun b => b == 0

/-- An image's fields obey R497. -/
def imageFormOk (m : Memory) (kind : Nat) : Bool :=
  imageField m 0 4 == 0x52444657 && imageField m 4 2 == 1 && imageField m 6 2 == kind && decide (1 ≤ imageField m 12 4) &&
    decide (imageField m 12 4 ≤ 0x1FFFF00) && decide (imageKey m < 5) && zeroBytes m 17 47 && zeroBytes m 235 21 &&
    (imageKey m != 0 || zeroBytes m 178 57)

/-- A key selector is allowed by OWNMODE and is not revoked (R498, R499). -/
def Persistent.allows (f : Persistent) (k : Nat) : Bool :=
  if k == 0 then f.ownMode != 2 else f.ownMode != 0 && !f.revoked.contains k

/-- A main image is acceptable (R498). -/
def Persistent.acceptable (f : Persistent) (m : Memory) : Bool :=
  let k := imageKey m
  let d := imageDigest m
  let sig := m.bytes 64 114
  let pub := m.bytes 178 57
  imageFormOk m 0 && f.allows k && decide (f.svnFloor ≤ imageSvn m) &&
    (if k == 0 then Config.ed448Verify Config.vendorKey d sig
     else f.owners.getD (k - 1) none == some (shake64 pub) && Config.ed448Verify pub d sig)

/-- The image that boot selects: IMG and BOOTST.CODE; none where the recovery image fails its check (R498). -/
def Persistent.select (f : Persistent) (strap : Bool) : Option Nat × Nat :=
  let recovery := fun (code : Nat) => if imageDigest f.slotR == Config.recoveryDigest then (some 2, code) else ((none : Option Nat), 4)
  let a := f.acceptable f.slotA
  let b := f.acceptable f.slotB
  if strap then recovery 2
  else if f.recoveryNext then recovery 3
  else if a && b then (some (if imageSvn f.slotA < imageSvn f.slotB then 1 else 0), 0)
  else if a then (some 0, 0)
  else if b then (some 1, 0)
  else recovery 1

/-- The image slot of IMG. -/
def Persistent.slot (f : Persistent) (img : Nat) : Memory := if img == 0 then f.slotA else if img == 1 then f.slotB else f.slotR

/-- Shows the fuses in BOOTST (R499). -/
def State.showFuses (s : State) : State :=
  let f := s.flash
  let revoke := ((List.range 4).map fun i => (f.revoked.contains (i + 1)).toNat * 2 ^ i).sum
  ((s.setField .bootst 59 58 f.ownMode).setField .bootst 57 54 revoke).setField .bootst 31 0 f.svnFloor

/-- Sets BOOTST.CODE. -/
def State.bootCode (s : State) (code : Nat) : State := s.setField .bootst 39 32 code

/-! ## Units out of service (R502 to R504) -/

/-- The unit's number in a BIST record (R502); what is no unit of its table has 0. -/
def unitNumber : UnitKind → Nat
  | .computeCore => 1
  | .quayCore => 2
  | .harbourCore => 3
  | .matrixUnit => 4
  | .vectorUnit => 5
  | .hamperBank => 6
  | .hbmChannel => 7
  | .shumbiviaLane => 8
  | .pcieLane => 9
  | .islandRegulator => 10
  | .lighthouse | .saveArea | .codeLine | .dmaData => 0

/-- The 16-byte record of a failure (R502). -/
def LogEntry.record (e : LogEntry) : List Byte :=
  leBytes 1 e.unit.die ++ leBytes 1 (unitNumber e.unit.kind) ++ leBytes 2 e.unit.row ++ leBytes 2 e.unit.col ++ leBytes 1 e.test ++
    leBytes 1 e.result ++ leBytes 8 e.addr.toNat

/-- A lane that fails narrows its port: a Shumbivia port to two lanes (R479), a host port by that lane (R504). Nine Shumbivia ports of four lanes
stand on an I/O die. -/
def State.narrowLink (s : State) (u : UnitId) : State :=
  match u.kind with
  | .shumbiviaLane =>
    let p := (u.die - 8) * 9 + u.row / 4
    if (s.shumPort p).up then (s.onShum p fun k => { k with width := 1 }).showPort p else s
  | .pcieLane => s.onPort (u.die - 8) fun p => { p with lanes := insertNat p.lanes u.row }
  | _ => s

/-- A unit goes out of service: noted in the flash fault log and counted. -/
def State.removeUnit (s : State) (u : UnitId) (test : Nat) (addr : Word) : State :=
  if s.oos.contains u then s
  else
    let e : LogEntry := ⟨u, test, 2, addr, s.time⟩
    let s1 : State := { s with oos := s.oos ++ [u], flash := { s.flash with log := s.flash.log ++ [e] } }
    (s1.countErr 9).narrowLink u

/-- A BIST failure (R502): its record stands in the log, and the unit goes out of service (R503). -/
def State.bistFail (s : State) (b : BistFail) : State :=
  let u := b.where_.whole
  let e : LogEntry := ⟨u, b.test, if b.removed then 2 else 1, b.addr, s.time⟩
  { s with bist := s.bist ++ [e.record] }.removeUnit u b.test b.addr

/-- The cores on which a unit's job runs: a vector unit serves a quad, a regulator the two octets of its island (R11, R188, R505). -/
def State.unitCores (s : State) (u : UnitId) : List CoreId :=
  let i := u.row * 32 + u.col
  match u.kind with
  | .computeCore => [⟨.compute, u.die, i⟩]
  | .matrixUnit => octetCores u.die (octetOf i)
  | .vectorUnit => quadOf ⟨.compute, u.die, i⟩
  | .hamperBank => (s.cores.filter fun p => p.1.kind == .compute && p.1.die == u.die && clusterOf p.1.idx == clusterOf i).map (·.1)
  | .quayCore => [⟨.quay, u.die, u.row⟩]
  | .harbourCore => [⟨.harbour, u.die, u.row⟩]
  | .islandRegulator =>
    let first := if u.die < 8 then 64 * u.die else 512 + (u.die - 8) * 8
    (s.cores.filter fun p => islandOf p.1 == first + u.row).map (·.1)
  | .hbmChannel | .shumbiviaLane | .pcieLane | .lighthouse | .saveArea | .codeLine | .dmaData => []

/-- A unit is removed in the field: the contexts on its die of the jobs that run on it are marked dead by FATAL_ECC, with a dump of each
(R450, R504). -/
def State.retireUnit (s : State) (u : UnitId) (addr : Word) : State :=
  let s1 := s.removeUnit u 0 addr
  let rs := ((s1.unitCores u).filterMap fun c => (s1.coreAt c).ctx.map (·.record)).foldl insertNat []
  let s2 := rs.foldl (fun s r => ((s.jobCores r).filter fun p => p.1.die == u.die && (p.2.ctx.map (·.dead)) == some false).foldl
    (fun s p => s.markDead p.1 0 0x3F 0 0 0 0) s) s1
  rs.foldl (fun s r => s.dump r 0x3F) s2

/-- The counter of an error (R507). -/
def errNumber (k : UnitKind) (uncorrectable : Bool) : Option Nat :=
  match k with
  | .hbmChannel | .dmaData => some (2 + uncorrectable.toNat)
  | .pcieLane => if uncorrectable then none else some 6
  | .shumbiviaLane | .islandRegulator => none
  | .computeCore | .quayCore | .harbourCore | .matrixUnit | .vectorUnit | .hamperBank | .lighthouse | .saveArea | .codeLine =>
    some uncorrectable.toNat

/-- Ticks of an hour. -/
def hourTicks : Nat := 360000000000

/-- Data hold an uncorrectable error: at the core in focus, the save area of a slot or the line of code at 64 × `row` (R251, R314); or what the
running descriptor of a DMA engine reads, which stops it (R422). -/
def State.spoil (s : State) (where_ : UnitId) : State :=
  match where_.kind with
  | .saveArea => s.onCore fun c => { c with badAreas := insertNat c.badAreas (where_.row % 4) }
  | .codeLine => s.onCore fun c => { c with badLines := (s.asid, 64 * where_.row) :: c.badLines }
  | .dmaData => if (s.engine where_.die where_.row).run.isSome then s.stopDma where_.die where_.row 0x3F else s
  | _ => s

/-- The error stands in data and not in a unit's logic. -/
def dataError (u : UnitId) : Bool := u.kind == .saveArea || u.kind == .codeLine || u.kind == .dmaData

/-- The unit of a core. -/
def coreUnit (id : CoreId) (part : Nat) : UnitId :=
  match id.kind with
  | .compute => ⟨id.die, .computeCore, id.idx / 32, id.idx % 32, part⟩
  | .quay => ⟨id.die, .quayCore, id.idx, 0, part⟩
  | .harbour => ⟨id.die, .harbourCore, id.idx, 0, part⟩
  | .lighthouse => ⟨id.die, .lighthouse, 0, 0, part⟩

/-- The unit whose bank or row group a corrected error stands in (R503): save areas and code lines stand in the SRAM of the core in focus; the row
group behind a DMA engine's data is not named (log 120). -/
def State.errorUnit (s : State) (u : UnitId) : Option UnitId :=
  match u.kind with
  | .saveArea | .codeLine => some (coreUnit s.coreId u.part)
  | .dmaData => none
  | _ => some u

/-- ECC_ERROR (R503): the error is counted; more than 16 corrected ones of one SRAM bank or HBM row group within an hour, or an uncorrectable one
in a unit's logic, take the unit out of service. An uncorrectable error in data is met by what reads them (R251, R314, R422; log 120). -/
def execEccError (where_ : UnitId) (uncorrectable : Bool) (s : State) : Out :=
  let s1 := match errNumber where_.kind uncorrectable with
    | some n => s.countErr n
    | none => s
  if uncorrectable then .next (if dataError where_ then s1.spoil where_ else s1.retireUnit where_.whole 0)
  else match s.errorUnit where_ with
    | none => .next s1
    | some u =>
      let recent := (s1.corrected.filter fun e => decide (s.time < e.2 + hourTicks)) ++ [(u, s.time)]
      let s2 : State := { s1 with corrected := recent }
      .next (if 16 < (recent.filter fun e => decide (e.1 = u)).length then s2.retireUnit u.whole 0 else s2)

/-! ## Package reset and boot (R496) -/

/-- What a package reset leaves: device memory, flash and fuses; host memory and what was sent to the host are not the device's. -/
def State.afterReset (s : State) : State :=
  { State.reset with dm := s.dm, hm := s.hm, flash := s.flash, msix := s.msix, inbox := s.inbox }

/-- Step 5 of boot: the lighthouses that are not held in reset vote for the first of them by rank, which leads with weight 6 (R446, R496). -/
def State.electFirst (s : State) : State :=
  let voters := (List.range Config.dies).filter fun d => !s.dieHeld d
  let s1 := voters.foldl (fun s d => s.onLight d fun l => { l with epoch := 1, voted := 1 }) s
  match [8, 9, 0, 1, 2, 3, 4, 5, 6, 7].find? voters.contains with
  | none => s1
  | some d => if weightOf voters < 6 then s1 else ({ s1 with leader := some d }.renewed d (voters.filter fun v => v != d)).raiseIrq 256

/-- The dies whose lighthouses fail step 3 (R496). -/
def heldDies (bist : List BistFail) : List Nat :=
  ((bist.filter fun b => b.where_.kind == .lighthouse && decide (b.where_.die < Config.dies)).map (·.where_.die)).foldl insertNat []

/-- Step 6 of boot: with a leader the ports train, and boot is complete (R496, R402). -/
def State.trainPorts (s : State) : State :=
  if s.leader.isNone then s
  else ((s.onPort 0 fun p => { p with up := true, cxl := Config.cxlStrap 0 }).onPort 1 fun p =>
    { p with up := true, cxl := Config.cxlStrap 1 }).setField .bootst 63 63 1

/-- A package reset and the boot that follows it (R496, R498, R502). -/
def State.bootUp (s : State) (thermal strap : Bool) (bist : List BistFail) : State :=
  let s1 : State := { s.afterReset with strap := strap, unfit := bist }
  let (img, code) := s1.flash.select strap
  let s2 : State := { s1 with flash := { s1.flash with recoveryNext := false } }.showFuses
  match img with
  | none => (s2.bootCode code).setField .bootst 49 40 0x3FF
  | some n =>
    let m := s2.flash.slot n
    let held := heldDies bist
    let s3 : State := { (s2.setField .bootst 62 60 n).setField .bootst 49 40 (held.map fun d => 2 ^ d).sum with
      image := ⟨imageDigest m, imageSvn m, imageKey m⟩ }
    let s4 := held.foldl (fun s d => s.onLight d fun l => { l with outOfQuorum := true })
      ((if code == 1 then s3.countErr 11 else s3).bootCode (if thermal then 5 else code))
    let logged := (s4.flash.log.map (·.unit)).foldl (fun (acc : List UnitId) u => if acc.contains u then acc else acc ++ [u]) []
    let s5 := logged.foldl (fun s u => (s.countErr 9).narrowLink u) { s4 with oos := logged }
    let s6 := (bist.filter fun b => !held.contains b.where_.die).foldl State.bistFail s5
    s6.electFirst.trainPorts

/-- PACKAGE_RESET (R496). -/
def execPackageReset (thermal strap : Bool) (bist : List BistFail) (s : State) : Out := .next (s.bootUp thermal strap bist)

/-- DEVRST (R406): the holder of semaphore 0 resets the package; another source sets GUARD. The strap and the units' faults are what they
were (log 122). -/
def execDevrst (src : RegSource) (s : State) : Out := .next (if s.holds src 0 then s.bootUp false s.strap s.unfit else s.guard)

/-! ## BOOTCTL (R499) -/

/-- A BOOTCTL operation of a source: without semaphore 1 it is ignored and sets GUARD. -/
def State.bootctl (s : State) (src : RegSource) (k : State) : Out := .next (if s.holds src 1 then k else s.guard)

/-- An operation that was not refused: CODE 6 of an earlier one goes. -/
def State.accepted (s : State) : State := if bits (s.reg .bootst) 39 32 == 6 then s.bootCode 0 else s

/-- Changes the fuses and shows them. -/
def State.burn (s : State) (f : Persistent → Persistent) : State := { s with flash := f s.flash }.showFuses.accepted

/-- BOOTCTL_RECOVERY (OP 1). -/
def execBootctlRecovery (src : RegSource) (s : State) : Out := s.bootctl src (s.burn fun f => { f with recoveryNext := true })

/-- BOOTCTL_MAIN (OP 2). -/
def execBootctlMain (src : RegSource) (s : State) : Out := s.bootctl src (s.burn fun f => { f with recoveryNext := false })

/-- BOOTCTL_RAISE_SVN (OP 3). -/
def execBootctlRaiseSvn (src : RegSource) (s : State) : Out :=
  s.bootctl src (s.burn fun f => { f with svnFloor := max f.svnFloor s.image.svn })

/-- BOOTCTL_FUSE_OWNER (OP 4): refused on a slot that is fused already, and on one that does not exist. -/
def execBootctlFuseOwner (src : RegSource) (slot addr : Nat) (s : State) : Out :=
  let a := addr / 256 * 256
  s.bootctl src (
    if slot == 0 || 4 < slot || (s.flash.owners.getD (slot - 1) none).isSome then s.bootCode 6
    else s.burn fun f =>
      { f with owners := (List.range 4).map fun i => if i + 1 == slot then some (s.deviceRead a 64) else f.owners.getD i none })

/-- BOOTCTL_REVOKE_OWNER (OP 5): refused where no acceptable key would be left under OWNMODE. -/
def execBootctlRevokeOwner (src : RegSource) (slot : Nat) (s : State) : Out :=
  let f := s.flash
  let left := (List.range 4).any fun i => i + 1 != slot && (f.owners.getD i none).isSome && !f.revoked.contains (i + 1)
  s.bootctl src (
    if slot == 0 || 4 < slot || (f.ownMode == 2 && !left) then s.bootCode 6
    else s.burn fun f => { f with revoked := insertNat f.revoked slot })

/-- BOOTCTL_SET_OWNMODE (OP 6): refused where it would lower OWNMODE, and for a mode that does not exist. -/
def execBootctlSetOwnmode (src : RegSource) (mode : Nat) (s : State) : Out :=
  s.bootctl src (if mode < s.flash.ownMode || 2 < mode then s.bootCode 6 else s.burn fun f => { f with ownMode := mode })

/-! ## Attestation and keys (R500, R501) -/

/-- The identity key: SHAKE256 of the seed fused at manufacture (R500). No path returns it or the seed. -/
def identityKey : List Byte := (padTo 57 (Config.shake256 ((padTo 57 Config.identitySeed).take 57))).take 57

/-- The identity public key, 57 bytes. -/
def identityPublic : List Byte := (padTo 57 (Config.ed448Public identityKey)).take 57

/-- Bytes 0 to 196 of an attestation report (R500). -/
def State.report (s : State) (nonce : List Byte) : List Byte :=
  let b := s.reg .bootst
  nonce ++ (padTo 64 s.image.digest).take 64 ++ leBytes 4 s.image.svn ++ leBytes 1 (bits b 62 60) ++ leBytes 1 s.image.keysel ++
    leBytes 1 (bits b 59 58) ++ leBytes 1 (bits b 57 54) ++ leBytes 8 s.oos.length ++ leBytes 8 (s.reg .devid).toNat ++
    List.replicate 20 0 ++ identityPublic

/-- ATTCMD_GO (R500): the leader writes the report and its signature, then DONE. -/
def execAttcmdGo (addr : Nat) (s : State) : Out :=
  let a := addr / 64 * 64
  if s.acting.isNone then .next s
  else
    let r := s.report (s.deviceRead a 32)
    let sig := (padTo 114 (Config.ed448Sign identityKey r)).take 114
    .next ((s.deviceWrite a (padTo 256 r ++ sig)).setReg .attst (w64 (2 ^ 63)))

/-- A key slot is named by the ASID of a running job. -/
def State.keyInUse (s : State) (slot : Nat) : Bool :=
  s.jobs.any fun j => s.recState j.1 == 2 && s.keySlotOf (s.recAsid j.1) == slot

/-- Key slot writes that need wait no longer take effect (R501). -/
def State.applyKeys (s : State) : State :=
  s.keyWaits.foldl (fun s k => if s.keyInUse k.1 then s else { s with keySlots := put s.keySlots k.1 k.2, keyWaits := del s.keyWaits k.1 }) s

/-- KEY_SLOT_WRITE (R501): slots 1 to 255 are those that ASIDs name; 256 + 2 × port + KG are the ports' link key slots (log 44). -/
def execKeySlotWrite (slot : Nat) (key : List Byte) (s : State) : Out :=
  if slot == 0 then .next s
  else if slot < 256 then .next { s with keyWaits := put s.keyWaits slot key }.applyKeys
  else if slot < 256 + 36 then
    .next (s.onShum ((slot - 256) / 2) fun k => 
      let g := (slot - 256) % 2
      { k with keys := k.keys.set g (some key), rkeys := k.rkeys.set g (some key), expect := k.expect.set g 0 })
  else .next s

/-! ## Islands (R505, R506) -/

/-- Number of islands. -/
def islands : Nat := 528

/-- ACT of an island. -/
def State.act (s : State) (n : Nat) : Nat := bits (s.reg (.isl n)) 52 42
/-- TGT. -/
def State.tgt (s : State) (n : Nat) : Nat := bits (s.reg (.isl n)) 41 31
/-- The island was last seen at 105 °C or above. -/
def State.hot (s : State) (n : Nat) : Bool := decide (840 ≤ bits (s.reg (.isl n)) 30 16)
/-- The remaining time of an operation whose bounds the spec gives in nanoseconds, in core cycles of a new clock: the loads and atomics of
`qm` (R196). -/
def Flight.reclock (old new : Nat) (f : Flight) : Flight :=
  if f.opc ≤ 7 || (0x10 ≤ f.opc && f.opc ≤ 0x2A) then
    { f with lo := f.age + ((f.lo - f.age) * new + old - 1) / old, hi := f.age + ((f.hi - f.age) * new + old - 1) / old }
  else f

/-- A slot whose clock changes: rules stated in time hold unchanged (R5, R505), so that `qm` loads and atomics in flight and a stall for code
count the time they have left, or have lasted, in cycles of the new clock. -/
def Slot.reclock (old new : Nat) (t : Slot) : Slot :=
  let t1 := t.onLat .qm fun l => { l with fly := l.fly.map (Flight.reclock old new) }
  { t1 with stall := if t.stall ≤ 3 then t.stall else max 3 (t.stall * new / old) }

/-- Sets ACT, the clock in force of an island's cores. -/
def State.setAct (s : State) (n v : Nat) : State :=
  let old := s.act n
  let s1 := s.setField (.isl n) 52 42 v
  if old == 0 || old == v then s1
  else s1.mapCores fun id c => if islandOf id == n then c.onSlots fun _ t => t.reclock old v else c

/-- ISLAND_CLOCK_CHANGE (R505, R506): the clock in force becomes the target, but for an island that is hot, and never upward while a power
cap is set. -/
def execIslandClockChange (n : Nat) (s : State) : Out :=
  if islands ≤ n then .next s
  else .next (s.setAct n (if s.hot n then 470 else if bits (s.reg .pcap) 12 0 != 0 then min (s.act n) (s.tgt n) else s.tgt n))

/-- The power of an island over the last 100 µs, in units of 0.1 W; free (log 6). -/
def State.islandPower (s : State) (n : Nat) : Nat := (Config.sensor (s.time / 10000 * islands + n)).toNat % 2 ^ 16

/-- CAPPING_CHECK (R506): every 100 µs the leader compares the summed power with the cap. -/
def execCappingCheck (s : State) : Out :=
  let cap := bits (s.reg .pcap) 12 0 * 10
  if cap == 0 || s.acting.isNone || s.time < s.capped + 10000 then .next s
  else
    let power := ((List.range islands).map s.islandPower).sum
    let s1 : State := { s with capped := s.time }
    if cap < power then
      let fast := (List.range islands).filter fun n => decide (470 < s.act n)
      .next (fast.foldl (fun s n => s.setAct n (max 470 (s.act n - 10))) (if fast.isEmpty then s1 else s1.countErr 8))
    else if power * 100 < cap * 98 then
      .next ((List.range islands).foldl (fun s n =>
        if s.act n < s.tgt n && !s.hot n then s.setAct n (min (s.tgt n) (s.act n + 10)) else s) s1)
    else .next s1

/-- THERMAL_TRIP (R506): a temperature, in units of 0.125 °C, of an island: from 105 °C it is held at 470 MHz; at 115 °C the package
resets. -/
def execThermalTrip (n temp : Nat) (s : State) : Out :=
  if islands ≤ n then .next s
  else if 920 ≤ temp then .next (s.bootUp true s.strap s.unfit)
  else
    let s1 := s.setField (.isl n) 30 16 temp
    .next (if 840 ≤ temp then (if s.hot n then s1.setAct n 470 else (s1.setAct n 470).countErr 7) else s1)

end Sys2Proof.Machine
end

