-- ==== Sys2Proof/Machine/Regs.lean ====
section
/-! DEFINITION. Writes to the device's registers (spec/00_scope.md R6, R7; the register maps of spec/16 to spec/22): fields by their access
codes, and what the registers that act do. -/

set_option autoImplicit false
set_option Elab.async false

namespace Sys2Proof.Machine

/-! ## Plain fields -/

/-- Bits `hi` to `lo`. -/
def fieldMask (hi lo : Nat) : Word := w64 ((2 ^ (hi + 1 - lo) - 1) * 2 ^ lo)

/-- The RW fields of a register whose writes do nothing but set them; none of a register that acts, or has other access codes. -/
def plainMask : Reg → Option Word
  | .irqsrc _ => some (fieldMask 63 61 ||| fieldMask 42 32)
  | .msixAddr _ _ => some (fieldMask 63 2)
  | .msixData _ _ => some (fieldMask 31 0)
  | .msixMask _ _ => some 1
  | .msixCtl _ => some (fieldMask 15 14)
  | .fedump => some (fieldMask 63 12)
  | .fetslc => some (fieldMask 63 0)
  | .ferh => some (fieldMask 51 12)
  | .mbarg _ => some (fieldMask 31 0)
  | .tlbinva => some (fieldMask 51 16 ||| fieldMask 11 0)
  | .prqbase => some (fieldMask 51 12 ||| fieldMask 3 0)
  | .prqhead => some (fieldMask 31 0)
  | .clsceil => some (fieldMask 31 0)
  | .region _ => some (fieldMask 7 0)
  | .dactb => some (fieldMask 51 13)
  | .grpb => some (fieldMask 51 9)
  | .dctl _ => some (fieldMask 15 12 ||| fieldMask 5 0)
  | .bp _ _ => some (fieldMask 63 59 ||| fieldMask 51 2)
  | .dsel _ => some (fieldMask 13 3)
  | .pcap => some (fieldMask 12 0)
  | _ => none

/-- Sets the RW fields of a register that a mask gives; the others keep their values. -/
def State.writeFields (s : State) (r : Reg) (mask v : Word) : State := s.setReg r ((v &&& mask) ||| (s.reg r &&& ~~~mask))

/-- Sets a RWL field while it is zero (R6). -/
def State.writeOnce (s : State) (r : Reg) (hi lo : Nat) (v : Word) : State :=
  if bits (s.reg r) hi lo == 0 then s.setField r hi lo (bits v hi lo) else s

/-- The registers that the management network alone reaches (R473, R481, R488, R490, R494, R500, R505). -/
def managed : Reg → Bool
  | .domid | .dactb | .grpb | .drefuse _ | .lnk _ _ | .crbase _ | .crcfg _ | .crhead _ | .crtail _ | .crst _ | .crctl _ | .dctl _ | .dcmd _
  | .dstat _ | .bp _ _ | .dsel _ | .ddata _ | .trctl _ | .trbase _ | .tridx _ | .dgrp | .frzctl | .tmctl | .tmbase | .tmsize | .tmidx
  | .attcmd | .attst | .isl _ | .pcap => true
  | _ => false

/-! ## Registers that act -/

/-- What acts, where a bit asks for it. -/
def onBit (b : Bool) (k : State → Out) (s : State) : Out := if b then k s else .next s

/-- An effect on another core's debug module. -/
def onFocus (c : CoreId) (k : State → Out) (s : State) : Out := andThen (k (s.focus c)) fun t => .next (t.focus s.coreId)

/-- HSEMCMD (R408). -/
def writeHsemcmd (v : Word) (src : RegSource) (s : State) : Out :=
  let tag : HWord := BitVec.ofNat 32 (bits v 31 0)
  match bits v 63 62 with
  | 1 => execHsemAcquire src (bits v 53 48) tag s
  | 2 => execHsemRelease src (bits v 53 48) tag s
  | _ => .next s

/-- BOOTCTL (R499). -/
def writeBootctl (v : Word) (src : RegSource) (s : State) : Out :=
  match bits v 63 56 with
  | 1 => execBootctlRecovery src s
  | 2 => execBootctlMain src s
  | 3 => execBootctlRaiseSvn src s
  | 4 => execBootctlFuseOwner src (bits v 2 0) (bits v 51 8 * 256) s
  | 5 => execBootctlRevokeOwner src (bits v 2 0) s
  | 6 => execBootctlSetOwnmode src (bits v 1 0) s
  | _ => s.bootctl src s

/-- A value with a field brought into its range. -/
def clampTo (lo hi v : Nat) : Nat := max lo (min hi v)

/-- UDCTL and UDCLR (R386). -/
def writeUdctl (v : Word) (s : State) : State :=
  s.setReg .udctl (w64 ((bit v 31).toNat * 2 ^ 31 + clampTo 10 1000000 (bits v 19 0)))

/-- UDCLR (R386). -/
def writeUdclr (die : Nat) (v : Word) (s : State) : State :=
  (List.range 12).foldl (fun s i => if bit v i then s.setReg (.udcnt die i) 0 else s) s

/-- IOTCTL (R417): TSIZE stands while TEN is 1, and setting TEN clears TIDX. -/
def writeIotctl (p : Nat) (v : Word) (s : State) : State :=
  let on := bit (s.reg (.iotctl p)) 0
  let s1 := s.setReg (.iotctl p) (if on then setBits (s.reg (.iotctl p)) 0 0 (bits v 0 0) else w64 (bits v 4 0))
  if !on && bit v 0 then s1.setReg (.iotidx p) 0 else s1

/-- TRCTL (R481, R492): TSIZE stands while TEN is 1; setting TEN starts the trace, clearing it ends it. -/
def writeTrctl (c : CoreId) (v : Word) (s : State) : State :=
  if bit (s.reg (.trctl c)) 0 then if bit v 0 then s else s.traceEnd c
  else
    let s1 := s.setReg (.trctl c) (w64 (bits v 4 0))
    if bit v 0 then s1.traceStart c else s1

/-- TMCTL (R494): PERIOD is brought into 1 to 10,000 µs; setting TEN starts Tidemark anew. -/
def writeTmctl (v : Word) (s : State) : State :=
  let s1 := s.setReg .tmctl (w64 (clampTo 1 10000 (bits v 24 1) * 2 + bits v 0 0))
  if !bit (s.reg .tmctl) 0 && bit v 0 then { s1.setReg .tmidx 0 with tmPulse := 0, tmStart := s.time } else s1

/-- The weight ceilings of every core that holds a context follow the registers (R464). -/
def State.setCeilings (s : State) : State :=
  s.mapCores fun _ c => match c.ctx with
    | some x => { c with vqw := newCeiling c.vqw (s.ceiling x.record), mqw := newCeiling c.mqw (s.ceiling x.record) }
    | none => c

/-- VFQOS (R453): a MCEIL of 0 stores 1; FES is at most 64 (log 45). -/
def writeVfqos (v : Nat) (w : Word) (s : State) : State :=
  (s.setReg (.vfqos v) (w64 (bits w 31 16 * 2 ^ 16 + max 1 (bits w 11 8) * 2 ^ 8 + min 64 (bits w 6 0)))).setCeilings

/-- MBCMD (R444): ignored while a command runs. -/
def writeMbcmd (p : Nat) (v : Word) (s : State) : State :=
  if 2 ≤ p || bit (s.reg (.mbst p)) 63 then s else { s with mail := put s.mail p v }.setReg (.mbst p) (w64 (2 ^ 63))

/-- TLBINV (R453, R460). -/
def writeTlbinv (v : Word) (s : State) : Out :=
  match bits v 63 62 with
  | 1 => execTlbinvAll s
  | 2 => execTlbinvAsid (bits v 15 0) s
  | 3 => execTlbinvRange (bits v 15 0) s
  | _ => .next s

/-- PRQRESP (R453, R462). -/
def writePrqresp (v : Word) (s : State) : Out :=
  match bits v 63 62 with
  | 1 => execPrqRetry (bits v 15 0) s
  | 2 => execPrqFail (bits v 15 0) s
  | _ => .next s

/-- REGCMT (R453, R454): ERR is cleared by a 1, then GO acts. -/
def writeRegcmt (v : Word) (s : State) : Out := onBit (bit v 0) execRegcmtGo (if bit v 62 then s.setField .regcmt 62 62 0 else s)

/-- DCMD (R481): HALT, RESUME and STEP, as their bits ask. -/
def writeDcmd (c : CoreId) (v : Word) (s : State) : Out :=
  onFocus c (fun s => andThen (onBit (bit v 0) execDcmdHalt s) fun s =>
    andThen (onBit (bit v 1) execDcmdResume s) fun s => onBit (bit v 2) execDcmdStep s) s

/-- Time slices of a changed length count from now on (R442, log 116). -/
def State.sliceAnew (s : State) : State := { s with jobs := s.jobs.map fun p => (p.1, { p.2 with sliced := s.time }) }

/-- A write to a register by a source that reaches it (R6): what its fields' access codes give, and what the register does. -/
def State.writeReg (s : State) (r : Reg) (v : Word) (src : RegSource) : Out :=
  match plainMask r with
  | some m =>
    let s1 := s.writeFields r m v
    .next (if r = .clsceil then s1.setCeilings else if r = .fetslc then s1.sliceAnew else s1)
  | none => match r with
    | .devrst => onBit (bit v 0) (execDevrst src) s
    | .bootctl => writeBootctl v src s
    | .hsemcmd => writeHsemcmd v src s
    | .hsemst => .next (s.setReg .hsemst (s.reg .hsemst &&& ~~~(v &&& 3)))
    | .aer p => .next (s.setReg (.aer p) (s.reg (.aer p) &&& ~~~v))
    | .udctl => .next (writeUdctl v s)
    | .udclr die => .next (writeUdclr die v s)
    | .iotctl p => .next (writeIotctl p v s)
    | .iotbase p => .next (if bit (s.reg (.iotctl p)) 0 then s else s.writeFields (.iotbase p) (fieldMask 51 4) v)
    | .ioperr p => .next (if v == 0 then s else s.setReg (.ioperr p) 0)
    | .drbase die e => .next (if bit (s.reg (.drcfg die e)) 63 then s else s.writeFields (.drbase die e) (fieldMask 51 6) v)
    | .drcfg die e => execDrcfgWrite die e v s
    | .drtail die e => execDrtailWrite die e (BitVec.ofNat 32 (bits v 31 0)) s
    | .dmactl die e => andThen (onBit (bit v 1) (execDmaAbort die e) s) (onBit (bit v 0) (execDmaResume die e))
    | .fepool => .next (s.writeOnce .fepool 51 20 v)
    | .feqt => .next (s.writeOnce .feqt 51 18 v)
    | .qtail q => execQtailWrite q (BitVec.ofNat 32 (bits v 31 0)) s
    | .qctl q => onBit (bit v 0) (execQctlReset q) s
    | .mbcmd p => .next (writeMbcmd p v s)
    | .astbase => .next (s.writeOnce .astbase 51 20 v)
    | .tlbinv => writeTlbinv v s
    | .prqresp => writePrqresp v s
    | .regcmt => writeRegcmt v s
    | .vfctl n => onBit (bit v 0) (execVfctlReset n) s
    | .vfqos n => .next (writeVfqos n v s)
    | .domid => .next ((s.writeOnce .domid 8 8 v).writeOnce .domid 7 0 v)
    | .crbase die => .next (if bit (s.reg (.crcfg die)) 63 then s else s.writeFields (.crbase die) (fieldMask 51 6) v)
    | .crcfg die => .next (s.crcfgWrite die v)
    | .crtail die => execCrtailWrite die (BitVec.ofNat 32 (bits v 31 0)) s
    | .crctl die => andThen (onBit (bit v 1) (execCrAbort die) s) (onBit (bit v 0) (execCrResume die))
    | .dcmd c => writeDcmd c v s
    | .dstat c => .next (if bit v 62 then s.onCoreAt c fun k => { k with dbg := { k.dbg with err := false } } else s)
    | .ddata c => onFocus c (execDdataWrite v) s
    | .trctl c => .next (writeTrctl c v s)
    | .trbase c => .next (if bit (s.reg (.trctl c)) 0 then s else s.writeFields (.trbase c) (fieldMask 51 4) v)
    | .dgrp => onBit (bit v 63) (execDgrpResume (bits v 5 0)) s
    | .frzctl => if bit v 63 then execFrzctlAssert (bits v 11 0) s else execFrzctlRelease (bits v 11 0) s
    | .tmctl => .next (writeTmctl v s)
    | .tmbase => .next (if bit (s.reg .tmctl) 0 then s else s.writeFields .tmbase (fieldMask 51 6) v)
    | .tmsize => .next (if bit (s.reg .tmctl) 0 then s else s.writeFields .tmsize (fieldMask 31 0) v)
    | .attcmd => onBit (bit v 63) (execAttcmdGo (bits v 51 6 * 64)) s
    | .isl n => .next (s.setField (.isl n) 41 31 (clampTo 470 1120 (bits v 41 31)))
    | _ => .next s

/-- The registers of the capability (R453). -/
def inCapability : Reg → Bool
  | .astbase | .tlbinv | .tlbinva | .tlbst | .prqbase | .prqhead | .prqtail | .prqresp | .regcmt | .clsceil | .region _ | .vfctl _ | .vfqos _ => true
  | _ => false

/-- A capability register whose write takes effect with its high half: it has WO fields (R453), or a field across both halves that is written
once (DESIGN CHOICE, log 123). -/
def actsWithHigh : Reg → Bool
  | .astbase | .tlbinv | .prqresp | .regcmt | .vfctl _ => true
  | _ => false

/-- Four bytes from a host's configuration access reach half a register of the capability, or four bytes of the staged region table (R453). -/
def State.configWrite (s : State) (p : Nat) (high : Bool) (r : Reg) (n : Nat) : Out :=
  match r with
  | .region k => .next ((List.range 4).foldl (fun s i => s.writeFields (.region (k / 4 * 4 + i)) 0xFF (w64 (n / 256 ^ i))) s)
  | r =>
    if !inCapability r then .next s
    else if !actsWithHigh r then s.writeReg r (if high then setBits (s.reg r) 63 32 n else setBits (s.reg r) 31 0 n) (.port p)
    else if high then s.writeReg r (w64 (n * 2 ^ 32 + bits (lookReg s.lows r) 31 0)) (.port p)
    else .next { s with lows := putReg s.lows r (w64 n) }

/-- REGISTER_WRITE (R6): a host reaches the registers of BAR0 and of its capability, not those of the management network. -/
def execRegisterWrite (r : Reg) (v : Word) (src : RegSource) (s : State) : Out :=
  match src with
  | .config p high => s.configWrite p high r (bits v 31 0)
  | .port _ => if managed r then .next s else s.writeReg r v src
  | .harbour | .leader => s.writeReg r v src

/-! ## Reads (R6) -/

/-- DSTAT of a core (R481). -/
def State.dstat (s : State) (c : CoreId) : Word :=
  let d := (s.coreAt c).dbg
  w64 (d.halted.toNat * 2 ^ 63 + d.err.toNat * 2 ^ 62 + d.cause * 2 ^ 8 + d.bpn * 2 ^ 2 + d.slot)

/-- What a read of a register through a port returns: WO fields read as 0 (R6); DEVID names the port (R406); PWR of an island is its power over
the last 100 µs (R505); an event at a source of a function
in reset does not show (R465). -/
def State.readReg (s : State) (r : Reg) (port : Nat) : Word :=
  match r with
  | .devid => s.reg .devid ||| w64 ((8 + port) * 2 ^ 8 + port)
  | .dstat c => s.dstat c
  | .isl n => setBits (s.reg r) 15 0 (s.islandPower n)
  | .irqsrc n => if s.sourceQuiet n then setBits (s.reg r) 60 60 0 else s.reg r
  | r => s.reg r

end Sys2Proof.Machine
end

