-- ==== Sys2Proof/Machine/Inbound.lean ====
section
/-! DEFINITION. The inbound path of the host ports (spec/13_ordering.md R339; spec/17_host_interface.md R403 to R406, R413 to R417). -/

set_option autoImplicit false
set_option Elab.async false

namespace Sys2Proof.Machine

/-! ## BAR0 (R405, R423) -/

/-- The offset of a register in BAR0; 0 for one that is not there. -/
def regOffset : Reg → Nat
  | .devrst => 0x10
  | .bootst => 0x18
  | .bootctl => 0x20
  | .hsem n => 0x1000 + 8 * n
  | .hsemcmd => 0x1400
  | .hsemst => 0x1408
  | .irqsrc n => 0x4000 + 8 * n
  | .udctl => 0x10000
  | .udclr d => 0x10000 + 0x1000 * d + 8
  | .udcnt d i => 0x10000 + 0x1000 * d + 0x10 + 8 * i
  | .iotctl p => 0x20000 + 0x1000 * p
  | .iotbase p => 0x20000 + 0x1000 * p + 8
  | .iotidx p => 0x20000 + 0x1000 * p + 0x10
  | .ioperr p => 0x20000 + 0x1000 * p + 0x18
  | .drbase d e => 0x100000 + 0x4000 * (d - 8) + 0x100 * e
  | .drcfg d e => 0x100000 + 0x4000 * (d - 8) + 0x100 * e + 8
  | .drhead d e => 0x100000 + 0x4000 * (d - 8) + 0x100 * e + 0x10
  | .drtail d e => 0x100000 + 0x4000 * (d - 8) + 0x100 * e + 0x18
  | .dmast d e => 0x100000 + 0x4000 * (d - 8) + 0x100 * e + 0x20
  | .dmactl d e => 0x100000 + 0x4000 * (d - 8) + 0x100 * e + 0x28
  | .fepool => 0x1000000
  | .feqt => 0x1000008
  | .fedump => 0x1000010
  | .fetslc => 0x1000018
  | .ferh => 0x1000020
  | .qtail q => 0x2000000 + 0x1000 * q
  | .qhead q => 0x2000000 + 0x1000 * q + 8
  | .qst q => 0x2000000 + 0x1000 * q + 0x10
  | .qctl q => 0x2000000 + 0x1000 * q + 0x18
  | .mbcmd p => 0x8000000 + 0x1000 * p
  | .mbarg p => 0x8000000 + 0x1000 * p + 8
  | .mbst p => 0x8000000 + 0x1000 * p + 0x10
  | _ => 0

/-- A register stands in BAR0. -/
def inBar0 (r : Reg) : Bool := r = .devid || regOffset r != 0

/-- The home of an offset of BAR0, by the block in which it lies; die 8 for one in none (R405, R423; log 112). -/
def blockHome (off : Nat) : Nat :=
  if 0x10000 ≤ off && off < 0x1A000 then (off - 0x10000) / 0x1000
  else if 0x20000 ≤ off && off < 0x22000 then 8 + (off - 0x20000) / 0x1000
  else if 0x100000 ≤ off && off < 0x108000 then 8 + (off - 0x100000) / 0x4000
  else if 0x2000000 ≤ off && off < 0x3000000 then queueDie ((off - 0x2000000) / 0x1000)
  else if 0x8000000 ≤ off && off < 0x8002000 then 8 + (off - 0x8000000) / 0x1000
  else 8

/-- The home of a register block, which is the route of an access to it (R405, R423). -/
def regHome : Reg → Nat
  | .udctl => 0
  | .udclr d | .udcnt d _ => d
  | .iotctl p | .iotbase p | .iotidx p | .ioperr p | .mbcmd p | .mbarg p | .mbst p => 8 + p
  | .drbase d _ | .drcfg d _ | .drhead d _ | .drtail d _ | .dmast d _ | .dmactl d _ => d
  | .qtail q | .qhead q | .qst q | .qctl q => queueDie q
  | _ => 8

/-- A register in which a half that a 4-byte write does not reach must not act: its fields are WO or W1C. -/
def actsOnWrite : Reg → Bool
  | .devrst | .bootctl | .hsemcmd | .hsemst | .udclr _ | .ioperr _ | .dmactl _ _ | .qctl _ | .mbcmd _ => true
  | _ => false

/-- The value that a BAR0 write of a register brings: a 4-byte one reaches the named half, the high one for `true` (R406). -/
def State.bar0Value (s : State) (r : Reg) (half : Option Bool) (bs : List Byte) : Word :=
  let n := leNat bs
  let old := if actsOnWrite r then 0 else s.reg r
  match half with
  | none => w64 n
  | some true => setBits old 63 32 n
  | some false => setBits old 31 0 n

/-- The bytes that a BAR0 read of a word returns. -/
def halfBytes (w : Word) : Option Bool → List Byte
  | none => leBytes 8 w.toNat
  | some true => leBytes 4 (bits w 63 32)
  | some false => leBytes 4 (bits w 31 0)

/-- Bytes of a BAR0 access that names a half. -/
def halfSize (half : Option Bool) : Nat := if half.isNone then 8 else 4

/-! ## BAR4 (R404, R410) -/

/-- The 16 bytes of a vector in a port's MSI-X table: address, data and vector control. -/
def State.vectorBytes (s : State) (p vec : Nat) : List Byte :=
  leBytes 8 (s.reg (.msixAddr p vec)).toNat ++ leBytes 4 (s.reg (.msixData p vec)).toNat ++ leBytes 4 (s.reg (.msixMask p vec)).toNat

/-- A byte of BAR4: of the table, of the pending-bit array, or 0. -/
def State.bar4Byte (s : State) (p off : Nat) : Byte :=
  if off < 0x8000 then (s.vectorBytes p (off / 16)).getD (off % 16) 0
  else if off < 0x8100 then
    BitVec.ofNat 8 ((List.range 8).map fun i => (s.vectorPending p ((off - 0x8000) * 8 + i)).toNat * 2 ^ i).sum
  else 0

/-- A vector with bytes written into it; reserved bits keep reading as 0. -/
def State.writeVector (s : State) (p vec : Nat) (bs : List Byte) : State :=
  let n := fun (i k : Nat) => w64 (leNat ((bs.drop i).take k))
  ((s.writeFields (.msixAddr p vec) (fieldMask 63 2) (n 0 8)).writeFields (.msixData p vec) (fieldMask 31 0) (n 8 4)).writeFields
    (.msixMask p vec) 1 (n 12 4)

/-- A write to BAR4: the table takes it, the pending-bit array ignores it. -/
def State.bar4Write (s : State) (p off : Nat) (bs : List Byte) : State :=
  (List.range ((off + bs.length + 15) / 16 - off / 16)).foldl (fun s i =>
    let vec := off / 16 + i
    if 2048 ≤ vec then s
    else s.writeVector p vec ((List.range 16).map fun k =>
      let a := 16 * vec + k
      if off ≤ a && a < off + bs.length then bs.getD (a - off) 0 else (s.vectorBytes p vec).getD k 0)) s

/-! ## Record headers (R283) -/

/-- HDR after a driver's write of its bytes: STATE and the reserved bits are the device's, but that a failed record becomes idle where STATE is
written as 0 (R286; log 113). -/
def driverHeader (old new : Word) : Word :=
  let rw := fieldMask 53 32 ||| fieldMask 20 16 ||| fieldMask 11 0
  let st := if bits old 58 56 == 4 && bits new 58 56 == 0 then 0 else bits old 58 56
  setBits (new &&& rw) 58 56 st

/-- The records whose headers the bytes [a, a + n) touch. -/
def State.headersIn (s : State) (a n : Nat) : List Nat :=
  let base := s.recAddr 0
  if base == 0 then []
  else ((List.range (n / 256 + 2)).map fun i => (a - base) / 256 + i).filter fun r =>
    decide (r < 4096) && decide (base + 256 * r < a + n) && decide (a < base + 256 * r + 8)

/-- A host's write to device memory (R283, R413). -/
def State.hostStore (s : State) (a : Nat) (bs : List Byte) : State :=
  let s1 := s.writeDevice a 0 bs
  (s.headersIn a bs.length).foldl (fun t r => t.setDw r 0 (driverHeader (s.dw r 0) (s1.dw r 0))) s1

/-! ## The trace of an ordering point (R417) -/

/-- Writes a trace entry, where the trace is on and its place exists. -/
def State.ioTrace (s : State) (p ev route wid piece : Nat) : State :=
  let ctl := s.reg (.iotctl p)
  let i := bits (s.reg (.iotidx p)) 31 0
  let a := bits (s.reg (.iotbase p)) 51 4 * 16 + 16 * (i % 2 ^ (bits ctl 4 1 + 8))
  if !bit ctl 0 || Config.deviceBytes < a + 16 then s
  else (s.writeDevice a 0 (leBytes 6 s.time ++ leBytes 1 ev ++ leBytes 1 route ++ leBytes 4 wid ++ leBytes 2 (piece / 32) ++ [0, 0])).setReg
    (.iotidx p) (w64 ((i + 1) % 2 ^ 32))

/-! ## Refusals (R416) -/

/-- An HBM channel of a stripe is out of service. -/
def State.stripeOos (s : State) (pa : Nat) : Bool :=
  let (die, ch) := s.homeOf pa
  s.oos.any fun u => u.kind == .hbmChannel && u.die == die && u.row == ch

/-- The stripes that the bytes [a, a + n) touch, by their first addresses. -/
def stripesOf (a n : Nat) : List Nat := (List.range ((a + n + 2047) / 2048 - a / 2048)).map fun i => (a / 2048 + i) * 2048

/-- Why a request is refused, and its address: KIND and ADDR of IOPERR. A BAR0 access has the size of the register or half it names (R406). -/
def State.refusal (s : State) (dst : BarAddr) (n : Nat) (poisoned : Bool) : Option (Nat × Nat) :=
  match dst with
  | .bar0Bad off => some (3, off)
  | .bar2 a | .mem a =>
    if Config.deviceBytes < a + n then some (1, a)
    else if (stripesOf a n).any s.stripeOos then some (2, a)
    else if poisoned then some (4, a) else none
  | .bar0 r half => if n != halfSize half then some (3, regOffset r) else if poisoned then some (4, regOffset r) else none
  | .udctl d half =>
    let off := 0x10000 + 0x1000 * d
    if n != halfSize half then some (3, off) else if poisoned then some (4, off) else none
  | .bar0Free off => if (n != 4 && n != 8) || off % n != 0 then some (3, off) else if poisoned then some (4, off) else none
  | .bar4 off => if poisoned then some (4, off) else none

/-- The bit of the AER status under which a refusal is logged (log 111). -/
def aerBit : Nat → Nat
  | 3 => 15
  | 4 => 12
  | _ => aerUnsupported

/-- The home of an access, which is its route (R339, R405, R413): that of its first byte; the port's own I/O die where there is none (log 112). -/
def State.routeOf (s : State) (p : Nat) : BarAddr → Nat
  | .bar2 a | .mem a => if a < Config.deviceBytes then (s.homeOf a).1 else 8 + p
  | .bar0 r _ => regHome r
  | .udctl d _ => d
  | .bar0Free off | .bar0Bad off => blockHome off
  | .bar4 _ => 8 + p

/-- A refusal is logged and raised (R416). -/
def State.refuseInbound (s : State) (p wid route : Nat) (k : Nat × Nat) : State :=
  (((s.setReg (.ioperr p) (w64 (k.1 * 2 ^ 56 + k.2 % 2 ^ 52))).logAer p (aerBit k.1)).raiseIrq 128).ioTrace p 7 route wid 0

/-! ## Writes (R339, R413) -/

/-- The pieces of a write, cut at 2 KiB stripe boundaries, each with its route. -/
def State.cut (s : State) : Nat → Nat → Nat → List Byte → List Piece
  | 0, _, _, _ => []
  | fuel + 1, a, off, bs =>
    if bs.isEmpty then []
    else
      let n := 2048 - a % 2048
      ⟨off, (s.homeOf a).1, .bar2 a, bs.take n, 0, 0⟩ :: State.cut s fuel (a + n) (off + n) (bs.drop n)

/-- The pieces of a write at its ordering point. -/
def State.pieces (s : State) (p : Nat) (dst : BarAddr) (bs : List Byte) : List Piece :=
  match dst with
  | .bar2 a | .mem a => if a < Config.deviceBytes then s.cut (bs.length / 2048 + 2) a 0 bs else [⟨0, s.routeOf p dst, dst, bs, 0, 0⟩]
  | d => [⟨0, s.routeOf p d, d, bs, 0, 0⟩]

/-- Request `ro`, `ido`, `rid` follows an earlier write (R339); no CXL.mem request does (R403). -/
def follows (mem ro ido : Bool) (rid : Nat) (w : HostWrite) : Bool := !mem && !ro && (!ido || w.rid == rid)

/-- The writes of a port that came before one and that it follows. -/
def HostPort.followed (p : HostPort) (w : HostWrite) : List HostWrite :=
  (p.writes.takeWhile fun x => x.wid != w.wid).filter (follows w.mem w.ro w.ido w.rid)

/-- A piece for a route may leave: each earlier write that its write follows has nothing on another route that is unacknowledged, and nothing
on this one that has not left. -/
def mayLeave (p : HostPort) (w : HostWrite) (route : Nat) : Bool :=
  (p.followed w).all fun x => x.pieces.all fun k => if k.route == route then k.stage != 0 else k.stage == 2

/-- A piece of a write waits for another route (R417). -/
def heldElsewhere (p : HostPort) (w : HostWrite) : Bool :=
  w.pieces.any fun k => (p.followed w).any fun x => x.pieces.any fun o => o.route != k.route && o.stage != 2

/-- INBOUND_WRITE (R413, R416): a write takes its place at the ordering point, and has no effect where it is refused. The point holds 512.
CXL.mem requests come to a port in CXL mode. -/
def execInboundWrite (port : Nat) (dst : BarAddr) (bytes : List Byte) (ro ido : Bool) (rid : Nat) (poisoned : Bool) (s : State) : Out :=
  let p := s.port port
  if 2 ≤ port || !p.up || 512 ≤ p.writes.length || bytes.isEmpty || (dst.isMem && !p.cxl) then .next s
  else
    let bad := s.refusal dst bytes.length poisoned
    let w : HostWrite := ⟨p.wid, ro, ido, rid, dst.isMem, bad.isSome, s.pieces port dst bytes⟩
    let s1 := (s.onPort port fun p => { p with wid := (p.wid + 1) % 2 ^ 32, writes := p.writes ++ [w] }).ioTrace port 1 0xFF p.wid 0
    let s2 := if heldElsewhere (s1.port port) w then s1.ioTrace port 4 0xFF p.wid 0 else s1
    match bad with
    | some k => .next (s2.refuseInbound port p.wid (s.routeOf port dst) k)
    | none => .next s2

/-- A region that is being cleared holds back its requests (R454). -/
def State.heldBack (s : State) (a n : Nat) : Bool := s.clearing.any fun r => decide (r * 2 ^ 32 < a + n) && decide (a < (r + 1) * 2 ^ 32)

/-- The same of a request's address: only device memory lies in regions. -/
def State.heldAt (s : State) (dst : BarAddr) (n : Nat) : Bool := match dst with
  | .bar2 a | .mem a => s.heldBack a n
  | .bar0 _ _ | .udctl _ _ | .bar0Free _ | .bar0Bad _ | .bar4 _ => false

/-- Changes a piece of a write. -/
def HostPort.onPiece (p : HostPort) (wid off : Nat) (f : Piece → Piece) : HostPort :=
  { p with writes := p.writes.map fun w =>
      if w.wid == wid then { w with pieces := w.pieces.map fun k => if k.num == off then f k else k } else w }

/-- A piece of a write. -/
def HostPort.piece (p : HostPort) (wid off : Nat) : Option (HostWrite × Piece) :=
  match p.writes.find? fun w => w.wid == wid with
  | some w => (w.pieces.find? fun k => k.num == off).map fun k => (w, k)
  | none => none

/-- PIECE_LEAVE (R339): a piece leaves for its route. `piece` is its byte offset in the request. -/
def execPieceLeave (port wid piece : Nat) (s : State) : Out :=
  let p := s.port port
  match p.piece wid piece with
  | none => .next s
  | some (w, k) =>
    if k.stage != 0 || s.heldAt k.addr k.bytes.length || !mayLeave p w k.route then .next s
    else
      let s1 := s.onPort port fun p => { p.onPiece wid piece (fun k => { k with stage := 1, left := p.leaves }) with leaves := p.leaves + 1 }
      .next (s1.ioTrace port 2 k.route wid piece)

/-- Every piece that left for a route before another has been acknowledged (R339, R415). -/
def HostPort.inTurn (p : HostPort) (k : Piece) : Bool :=
  p.writes.all fun w => w.pieces.all fun x => !(x.route == k.route && x.stage == 1 && decide (x.left < k.left))

/-- The home performs a piece. -/
def State.performPiece (s : State) (port : Nat) (k : Piece) : Out :=
  match k.addr with
  | .bar2 a | .mem a => .next (s.hostStore a k.bytes)
  | .bar0 r h => if inBar0 r then s.writeReg r (s.bar0Value r h k.bytes) (.port port) else .next s
  | .udctl _ h => s.writeReg .udctl (s.bar0Value .udctl h k.bytes) (.port port)
  | .bar4 off => .next (s.bar4Write port off k.bytes)
  | .bar0Free _ | .bar0Bad _ => .next s

/-- A piece of a write has been acknowledged; a write that is acknowledged whole leaves the ordering point. -/
def HostPort.acked (p : HostPort) (wid piece : Nat) : HostPort :=
  let q := p.onPiece wid piece fun k => { k with stage := 2 }
  { q with writes := q.writes.filter fun w => !w.pieces.all fun k => k.stage == 2 }

/-- A piece of a read returns its bytes, once its region is not being cleared (R454); the read completes with its last piece (R414). -/
def State.answerPiece (s : State) (port wid piece : Nat) : State :=
  match look? (s.port port).reads wid with
  | none => s
  | some ks => match ks.find? fun k => k.num == piece && k.got.isNone && !s.heldBack k.addr k.len with
    | none => s
    | some k =>
      let ks1 := ks.map fun x => if x.num == piece then { x with got := some (s.dm.bytes x.addr x.len) } else x
      let s1 := s.onPort port fun p =>
        if ks1.all fun x => x.got.isSome then { p with reads := del p.reads wid, reply := some (.data (ks1.flatMap fun x => x.got.getD [])) }
        else { p with reads := put p.reads wid ks1 }
      s1.ioTrace port 6 k.route wid piece

/-- PIECE_ACK (R413, R415): the home performs a piece and acknowledges it; one of a refused write has no effect (R416). A piece of a read returns
its bytes. Either waits while its region is being cleared (R454). -/
def execPieceAck (port wid piece : Nat) (s : State) : Out :=
  let p := s.port port
  match p.piece wid piece with
  | none => .next (s.answerPiece port wid piece)
  | some (w, k) =>
    if k.stage != 1 || !p.inTurn k || s.heldAt k.addr k.bytes.length then .next s
    else andThen (if w.void then .next s else s.performPiece port k) fun s1 =>
      .next ((s1.onPort port fun p => p.acked wid piece).ioTrace port 3 k.route wid piece)

/-! ## Reads (R414) -/

/-- What a read of one route returns. -/
def State.inboundBytes (s : State) (port : Nat) (src : BarAddr) (len : Nat) : List Byte :=
  match src with
  | .bar2 a | .mem a => s.dm.bytes a len
  | .bar0 r half => if inBar0 r then halfBytes (s.readReg r port) half else List.replicate len 0
  | .udctl _ half => halfBytes (s.readReg .udctl port) half
  | .bar4 off => (List.range len).map fun i => s.bar4Byte port (off + i)
  | .bar0Free _ | .bar0Bad _ => List.replicate len 0

/-- The pieces of a read of device memory, cut at stripe boundaries. -/
def State.readPieces (s : State) (a len : Nat) : List ReadPiece :=
  (s.cut (len / 2048 + 2) a 0 (List.replicate len 0)).map fun k => ⟨k.num, k.route, a + k.num, k.bytes.length, none⟩

/-- How a refused read completes: with Completer Abort where BAR0 rejects it (R406), else with Unsupported Request (R416; log 111). -/
def refusedReply (k : Nat × Nat) : Reply := if k.1 == 3 then .completerAbort else .unsupported

/-- INBOUND_READ (R414, R416): a read that follows a write waits until that is acknowledged on every route, and then returns the bytes as
performed; one that crosses stripes leaves in pieces. A refused one completes without data. -/
def execInboundRead (port : Nat) (src : BarAddr) (len : Nat) (ro ido : Bool) (rid : Nat) (poisoned : Bool) (s : State) : Out :=
  let p := s.port port
  if 2 ≤ port || !p.up || s.heldAt src len || p.writes.any (follows src.isMem ro ido rid) || (src.isMem && !p.cxl) then .next s
  else
    let s1 := s.onPort port fun p => { p with wid := (p.wid + 1) % 2 ^ 32 }
    let r := s.routeOf port src
    match s.refusal src len poisoned with
    | some k => .next ((s1.onPort port fun p => { p with reply := some (refusedReply k) }).refuseInbound port p.wid r k)
    | none =>
      let ks := match src with
        | .bar2 a | .mem a => s.readPieces a len
        | _ => []
      if 2 ≤ ks.length then
        .next (ks.foldl (fun s k => s.ioTrace port 5 k.route p.wid k.num) (s1.onPort port fun q => { q with reads := q.reads ++ [(p.wid, ks)] }))
      else
        let bs := s.inboundBytes port src len
        .next (((s1.onPort port fun p => { p with reply := some (.data bs) }).ioTrace port 5 r p.wid 0).ioTrace port 6 r p.wid 0)

end Sys2Proof.Machine
end

