-- ==== Sys2Proof/Machine/Move.lean ====
section
/-! DEFINITION. The move to a destination that starts no unit, the line pad, and the moves that are refused when they are decoded
(spec/01_transport_core.md R17; spec/03_encoding.md R86, R87, R92). -/

set_option autoImplicit false
set_option Elab.async false

namespace Sys2Proof.Machine

/-- MOVE (R17): the source's value is copied to the destination at the end of the bundle's cycle, where the guard takes it. -/
def execMove (h : Hdr) (dst : Dst) (s : State) : Out := execMoveTo h dst s

/-- LINE_PAD (R86): execution goes on at the next line's first word; nothing issues, no cycle passes, nothing is counted. After the
last line comes address 0 (DESIGN CHOICE, log 105). -/
def execLinePad (s : State) : Out :=
  .next (s.onSl fun t => { t with pc := w64 ((t.pc.toNat / 64 + 1) * 64 % 2 ^ 52), npc := w64 ((t.pc.toNat / 64 + 1) * 64 % 2 ^ 52),
                                  flow := .entered })

/-- A decode trap: taken at once where the move is a whole bundle, else noted for the bundle on the bus. -/
def illegalTrap (s : State) (code : Nat) (tval : Word) : Out :=
  match s.bus with
  | none => .next (enterTrap code tval s.sl.pc s)
  | some b => .next { s with bus := some { b.pop.2 with raised := b.raised <|> some (code, tval) } }

/-- ILLEGAL_OP (R87): a trigger whose OPC holds no operation traps with reason 15, after the checks that come before it
(R92). -/
def execIllegalOp (h : Hdr) (u : FU) (opc : BitVec 8) (s : State) : Out :=
  let h := renameHdr s.sl.csr.rpc h
  let w := moveWord h (portCode u .t) opc.toNat
  match s.soloFault h.src (some u) w with
  | some (code, tval) => illegalTrap s code tval
  | none => illegalTrap s trapIllegalOp (decodeTval 15 0 w)

/-- ILLEGAL_MOVE (R92): a move word that is illegal by itself traps with its reason; a port of a unit the core does not carry
gives reason 8 before reason 9. -/
def execIllegalMove (w : HWord) (reason : Nat) (s : State) : Out :=
  let k := s.coreId.kind
  let r := if reason == 9 && !(carried k (unitOfCode (fieldSrc w)) && carried k (unitOfCode (fieldDst w))) then 8 else reason
  illegalTrap s 0x01 (decodeTval r 0 (renameWord s.sl.csr.rpc w))

end Sys2Proof.Machine
end

