-- ==== Sys2Proof/Machine/Dispatch.lean ====
section
/-! DEFINITION. The meaning of every instruction, one arm per constructor of `Instr`. -/

namespace Sys2Proof.Machine

def exec (i : Instr) (s : State) : Host.Outcome State Fault Refusal :=
  match i with
  | .move h dst => Sys2Proof.Machine.execMove h dst s
  | .linePad => Sys2Proof.Machine.execLinePad s
  | .iaAdd h => Sys2Proof.Machine.execIaAdd h s
  | .iaSub h => Sys2Proof.Machine.execIaSub h s
  | .iaAnd h => Sys2Proof.Machine.execIaAnd h s
  | .iaOr h => Sys2Proof.Machine.execIaOr h s
  | .iaXor h => Sys2Proof.Machine.execIaXor h s
  | .iaAndn h => Sys2Proof.Machine.execIaAndn h s
  | .iaSll h => Sys2Proof.Machine.execIaSll h s
  | .iaSrl h => Sys2Proof.Machine.execIaSrl h s
  | .iaSra h => Sys2Proof.Machine.execIaSra h s
  | .iaRol h => Sys2Proof.Machine.execIaRol h s
  | .iaRor h => Sys2Proof.Machine.execIaRor h s
  | .iaMin h => Sys2Proof.Machine.execIaMin h s
  | .iaMax h => Sys2Proof.Machine.execIaMax h s
  | .iaMinu h => Sys2Proof.Machine.execIaMinu h s
  | .iaMaxu h => Sys2Proof.Machine.execIaMaxu h s
  | .iaCeq h => Sys2Proof.Machine.execIaCeq h s
  | .iaCne h => Sys2Proof.Machine.execIaCne h s
  | .iaClt h => Sys2Proof.Machine.execIaClt h s
  | .iaCltu h => Sys2Proof.Machine.execIaCltu h s
  | .iaCge h => Sys2Proof.Machine.execIaCge h s
  | .iaCgeu h => Sys2Proof.Machine.execIaCgeu h s
  | .iaSel h => Sys2Proof.Machine.execIaSel h s
  | .iaPopc h => Sys2Proof.Machine.execIaPopc h s
  | .iaClz h => Sys2Proof.Machine.execIaClz h s
  | .iaCtz h => Sys2Proof.Machine.execIaCtz h s
  | .iaExt h => Sys2Proof.Machine.execIaExt h s
  | .iaExtu h => Sys2Proof.Machine.execIaExtu h s
  | .iaIns h => Sys2Proof.Machine.execIaIns h s
  | .iaSxb h => Sys2Proof.Machine.execIaSxb h s
  | .iaSxh h => Sys2Proof.Machine.execIaSxh h s
  | .iaSxw h => Sys2Proof.Machine.execIaSxw h s
  | .iaZxb h => Sys2Proof.Machine.execIaZxb h s
  | .iaZxh h => Sys2Proof.Machine.execIaZxh h s
  | .iaZxw h => Sys2Proof.Machine.execIaZxw h s
  | .iaAddw h => Sys2Proof.Machine.execIaAddw h s
  | .iaSubw h => Sys2Proof.Machine.execIaSubw h s
  | .iaSllw h => Sys2Proof.Machine.execIaSllw h s
  | .iaSrlw h => Sys2Proof.Machine.execIaSrlw h s
  | .iaSraw h => Sys2Proof.Machine.execIaSraw h s
  | .ibAdd h => Sys2Proof.Machine.execIbAdd h s
  | .ibSub h => Sys2Proof.Machine.execIbSub h s
  | .ibAnd h => Sys2Proof.Machine.execIbAnd h s
  | .ibOr h => Sys2Proof.Machine.execIbOr h s
  | .ibXor h => Sys2Proof.Machine.execIbXor h s
  | .ibAndn h => Sys2Proof.Machine.execIbAndn h s
  | .ibSll h => Sys2Proof.Machine.execIbSll h s
  | .ibSrl h => Sys2Proof.Machine.execIbSrl h s
  | .ibSra h => Sys2Proof.Machine.execIbSra h s
  | .ibRol h => Sys2Proof.Machine.execIbRol h s
  | .ibRor h => Sys2Proof.Machine.execIbRor h s
  | .ibMin h => Sys2Proof.Machine.execIbMin h s
  | .ibMax h => Sys2Proof.Machine.execIbMax h s
  | .ibMinu h => Sys2Proof.Machine.execIbMinu h s
  | .ibMaxu h => Sys2Proof.Machine.execIbMaxu h s
  | .ibCeq h => Sys2Proof.Machine.execIbCeq h s
  | .ibCne h => Sys2Proof.Machine.execIbCne h s
  | .ibClt h => Sys2Proof.Machine.execIbClt h s
  | .ibCltu h => Sys2Proof.Machine.execIbCltu h s
  | .ibCge h => Sys2Proof.Machine.execIbCge h s
  | .ibCgeu h => Sys2Proof.Machine.execIbCgeu h s
  | .ibSel h => Sys2Proof.Machine.execIbSel h s
  | .ibPopc h => Sys2Proof.Machine.execIbPopc h s
  | .ibClz h => Sys2Proof.Machine.execIbClz h s
  | .ibCtz h => Sys2Proof.Machine.execIbCtz h s
  | .ibExt h => Sys2Proof.Machine.execIbExt h s
  | .ibExtu h => Sys2Proof.Machine.execIbExtu h s
  | .ibIns h => Sys2Proof.Machine.execIbIns h s
  | .ibSxb h => Sys2Proof.Machine.execIbSxb h s
  | .ibSxh h => Sys2Proof.Machine.execIbSxh h s
  | .ibSxw h => Sys2Proof.Machine.execIbSxw h s
  | .ibZxb h => Sys2Proof.Machine.execIbZxb h s
  | .ibZxh h => Sys2Proof.Machine.execIbZxh h s
  | .ibZxw h => Sys2Proof.Machine.execIbZxw h s
  | .ibAddw h => Sys2Proof.Machine.execIbAddw h s
  | .ibSubw h => Sys2Proof.Machine.execIbSubw h s
  | .ibSllw h => Sys2Proof.Machine.execIbSllw h s
  | .ibSrlw h => Sys2Proof.Machine.execIbSrlw h s
  | .ibSraw h => Sys2Proof.Machine.execIbSraw h s
  | .agPadd h => Sys2Proof.Machine.execAgPadd h s
  | .agPsub h => Sys2Proof.Machine.execAgPsub h s
  | .agPtag h => Sys2Proof.Machine.execAgPtag h s
  | .agPfmt h => Sys2Proof.Machine.execAgPfmt h s
  | .agPblk h => Sys2Proof.Machine.execAgPblk h s
  | .agPclr h => Sys2Proof.Machine.execAgPclr h s
  | .agPidx h => Sys2Proof.Machine.execAgPidx h s
  | .agCadr h => Sys2Proof.Machine.execAgCadr h s
  | .agLcl h => Sys2Proof.Machine.execAgLcl h s
  | .agCoord h => Sys2Proof.Machine.execAgCoord h s
  | .muMul h => Sys2Proof.Machine.execMuMul h s
  | .muMulh h => Sys2Proof.Machine.execMuMulh h s
  | .muMulhu h => Sys2Proof.Machine.execMuMulhu h s
  | .muMulhsu h => Sys2Proof.Machine.execMuMulhsu h s
  | .muMulw h => Sys2Proof.Machine.execMuMulw h s
  | .muDiv h => Sys2Proof.Machine.execMuDiv h s
  | .muDivu h => Sys2Proof.Machine.execMuDivu h s
  | .muRem h => Sys2Proof.Machine.execMuRem h s
  | .muRemu h => Sys2Proof.Machine.execMuRemu h s
  | .muDivw h => Sys2Proof.Machine.execMuDivw h s
  | .muRemw h => Sys2Proof.Machine.execMuRemw h s
  | .cfBr h => Sys2Proof.Machine.execCfBr h s
  | .cfJmp h => Sys2Proof.Machine.execCfJmp h s
  | .cfCall h => Sys2Proof.Machine.execCfCall h s
  | .cfLoop0 h => Sys2Proof.Machine.execCfLoop0 h s
  | .cfLoop1 h => Sys2Proof.Machine.execCfLoop1 h s
  | .cfRep h => Sys2Proof.Machine.execCfRep h s
  | .cfBrk h => Sys2Proof.Machine.execCfBrk h s
  | .lsLd8 h => Sys2Proof.Machine.execLsLd8 h s
  | .lsLd8u h => Sys2Proof.Machine.execLsLd8u h s
  | .lsLd16 h => Sys2Proof.Machine.execLsLd16 h s
  | .lsLd16u h => Sys2Proof.Machine.execLsLd16u h s
  | .lsLd32 h => Sys2Proof.Machine.execLsLd32 h s
  | .lsLd32u h => Sys2Proof.Machine.execLsLd32u h s
  | .lsLd64 h => Sys2Proof.Machine.execLsLd64 h s
  | .lsSt8 h => Sys2Proof.Machine.execLsSt8 h s
  | .lsSt16 h => Sys2Proof.Machine.execLsSt16 h s
  | .lsSt32 h => Sys2Proof.Machine.execLsSt32 h s
  | .lsSt64 h => Sys2Proof.Machine.execLsSt64 h s
  | .lsLdacqCore h => Sys2Proof.Machine.execLsLdacqCore h s
  | .lsLdacqCluster h => Sys2Proof.Machine.execLsLdacqCluster h s
  | .lsLdacqDie h => Sys2Proof.Machine.execLsLdacqDie h s
  | .lsLdacqDevice h => Sys2Proof.Machine.execLsLdacqDevice h s
  | .lsLdacqDomain h => Sys2Proof.Machine.execLsLdacqDomain h s
  | .lsLdacqSystem h => Sys2Proof.Machine.execLsLdacqSystem h s
  | .lsStrelCore h => Sys2Proof.Machine.execLsStrelCore h s
  | .lsStrelCluster h => Sys2Proof.Machine.execLsStrelCluster h s
  | .lsStrelDie h => Sys2Proof.Machine.execLsStrelDie h s
  | .lsStrelDevice h => Sys2Proof.Machine.execLsStrelDevice h s
  | .lsStrelDomain h => Sys2Proof.Machine.execLsStrelDomain h s
  | .lsStrelSystem h => Sys2Proof.Machine.execLsStrelSystem h s
  | .lsLla h => Sys2Proof.Machine.execLsLla h s
  | .lsSsu h => Sys2Proof.Machine.execLsSsu h s
  | .lsCas h => Sys2Proof.Machine.execLsCas h s
  | .lsSwap h => Sys2Proof.Machine.execLsSwap h s
  | .lsAadd h => Sys2Proof.Machine.execLsAadd h s
  | .lsAand h => Sys2Proof.Machine.execLsAand h s
  | .lsAor h => Sys2Proof.Machine.execLsAor h s
  | .lsAmin h => Sys2Proof.Machine.execLsAmin h s
  | .lsAmax h => Sys2Proof.Machine.execLsAmax h s
  | .lsAminu h => Sys2Proof.Machine.execLsAminu h s
  | .lsAmaxu h => Sys2Proof.Machine.execLsAmaxu h s
  | .lsFget h => Sys2Proof.Machine.execLsFget h s
  | .lsFput h => Sys2Proof.Machine.execLsFput h s
  | .lsFclr h => Sys2Proof.Machine.execLsFclr h s
  | .lsBwait h => Sys2Proof.Machine.execLsBwait h s
  | .lsBadv h => Sys2Proof.Machine.execLsBadv h s
  | .lsBpush h => Sys2Proof.Machine.execLsBpush h s
  | .lsBstat h => Sys2Proof.Machine.execLsBstat h s
  | .vpVld h => Sys2Proof.Machine.execVpVld h s
  | .vpVldx h => Sys2Proof.Machine.execVpVldx h s
  | .vpVst h => Sys2Proof.Machine.execVpVst h s
  | .vpVstx h => Sys2Proof.Machine.execVpVstx h s
  | .vpVstm h => Sys2Proof.Machine.execVpVstm h s
  | .vpBcast h => Sys2Proof.Machine.execVpBcast h s
  | .vpDq h => Sys2Proof.Machine.execVpDq h s
  | .vpVldb h => Sys2Proof.Machine.execVpVldb h s
  | .vpAdd h => Sys2Proof.Machine.execVpAdd h s
  | .vpSub h => Sys2Proof.Machine.execVpSub h s
  | .vpMul h => Sys2Proof.Machine.execVpMul h s
  | .vpFma h => Sys2Proof.Machine.execVpFma h s
  | .vpFnma h => Sys2Proof.Machine.execVpFnma h s
  | .vpMin h => Sys2Proof.Machine.execVpMin h s
  | .vpMax h => Sys2Proof.Machine.execVpMax h s
  | .vpMinu h => Sys2Proof.Machine.execVpMinu h s
  | .vpMaxu h => Sys2Proof.Machine.execVpMaxu h s
  | .vpAbs h => Sys2Proof.Machine.execVpAbs h s
  | .vpNeg h => Sys2Proof.Machine.execVpNeg h s
  | .vpCeq h => Sys2Proof.Machine.execVpCeq h s
  | .vpCne h => Sys2Proof.Machine.execVpCne h s
  | .vpClt h => Sys2Proof.Machine.execVpClt h s
  | .vpCle h => Sys2Proof.Machine.execVpCle h s
  | .vpCltu h => Sys2Proof.Machine.execVpCltu h s
  | .vpCleu h => Sys2Proof.Machine.execVpCleu h s
  | .vpSel h => Sys2Proof.Machine.execVpSel h s
  | .vpAnd h => Sys2Proof.Machine.execVpAnd h s
  | .vpOr h => Sys2Proof.Machine.execVpOr h s
  | .vpXor h => Sys2Proof.Machine.execVpXor h s
  | .vpAndn h => Sys2Proof.Machine.execVpAndn h s
  | .vpSll h => Sys2Proof.Machine.execVpSll h s
  | .vpSrl h => Sys2Proof.Machine.execVpSrl h s
  | .vpSra h => Sys2Proof.Machine.execVpSra h s
  | .vpCvtRne h => Sys2Proof.Machine.execVpCvtRne h s
  | .vpCvtRtz h => Sys2Proof.Machine.execVpCvtRtz h s
  | .vpCvtRup h => Sys2Proof.Machine.execVpCvtRup h s
  | .vpCvtRdn h => Sys2Proof.Machine.execVpCvtRdn h s
  | .vpCvtRsr h => Sys2Proof.Machine.execVpCvtRsr h s
  | .vpCvtDyn h => Sys2Proof.Machine.execVpCvtDyn h s
  | .vpCvtSatRne h => Sys2Proof.Machine.execVpCvtSatRne h s
  | .vpCvtSatRtz h => Sys2Proof.Machine.execVpCvtSatRtz h s
  | .vpCvtSatRup h => Sys2Proof.Machine.execVpCvtSatRup h s
  | .vpCvtSatRdn h => Sys2Proof.Machine.execVpCvtSatRdn h s
  | .vpCvtSatRsr h => Sys2Proof.Machine.execVpCvtSatRsr h s
  | .vpCvtSatDyn h => Sys2Proof.Machine.execVpCvtSatDyn h s
  | .vpRadd h => Sys2Proof.Machine.execVpRadd h s
  | .vpRmin h => Sys2Proof.Machine.execVpRmin h s
  | .vpRmax h => Sys2Proof.Machine.execVpRmax h s
  | .vpRminu h => Sys2Proof.Machine.execVpRminu h s
  | .vpRmaxu h => Sys2Proof.Machine.execVpRmaxu h s
  | .vpPerm h => Sys2Proof.Machine.execVpPerm h s
  | .vpShuf h => Sys2Proof.Machine.execVpShuf h s
  | .vpZiplo h => Sys2Proof.Machine.execVpZiplo h s
  | .vpZiphi h => Sys2Proof.Machine.execVpZiphi h s
  | .vpUnzipe h => Sys2Proof.Machine.execVpUnzipe h s
  | .vpUnzipo h => Sys2Proof.Machine.execVpUnzipo h s
  | .vpExt h => Sys2Proof.Machine.execVpExt h s
  | .vpIns h => Sys2Proof.Machine.execVpIns h s
  | .vpDot8 h => Sys2Proof.Machine.execVpDot8 h s
  | .vpDot8u h => Sys2Proof.Machine.execVpDot8u h s
  | .vpDot8su h => Sys2Proof.Machine.execVpDot8su h s
  | .vpExp2 h => Sys2Proof.Machine.execVpExp2 h s
  | .vpLog2 h => Sys2Proof.Machine.execVpLog2 h s
  | .vpRcp h => Sys2Proof.Machine.execVpRcp h s
  | .vpRsqrt h => Sys2Proof.Machine.execVpRsqrt h s
  | .vpNrcp h => Sys2Proof.Machine.execVpNrcp h s
  | .vpNrsq h => Sys2Proof.Machine.execVpNrsq h s
  | .mxMmac h => Sys2Proof.Machine.execMxMmac h s
  | .mxMlut h => Sys2Proof.Machine.execMxMlut h s
  | .mxMsemi h => Sys2Proof.Machine.execMxMsemi h s
  | .mxMzero h => Sys2Proof.Machine.execMxMzero h s
  | .mxMload h => Sys2Proof.Machine.execMxMload h s
  | .mxMdrain h => Sys2Proof.Machine.execMxMdrain h s
  | .mxMscale h => Sys2Proof.Machine.execMxMscale h s
  | .mxMbar h => Sys2Proof.Machine.execMxMbar h s
  | .mxMstat h => Sys2Proof.Machine.execMxMstat h s
  | .qmLd8 h => Sys2Proof.Machine.execQmLd8 h s
  | .qmLd8u h => Sys2Proof.Machine.execQmLd8u h s
  | .qmLd16 h => Sys2Proof.Machine.execQmLd16 h s
  | .qmLd16u h => Sys2Proof.Machine.execQmLd16u h s
  | .qmLd32 h => Sys2Proof.Machine.execQmLd32 h s
  | .qmLd32u h => Sys2Proof.Machine.execQmLd32u h s
  | .qmLd64 h => Sys2Proof.Machine.execQmLd64 h s
  | .qmSt8 h => Sys2Proof.Machine.execQmSt8 h s
  | .qmSt16 h => Sys2Proof.Machine.execQmSt16 h s
  | .qmSt32 h => Sys2Proof.Machine.execQmSt32 h s
  | .qmSt64 h => Sys2Proof.Machine.execQmSt64 h s
  | .qmLdacqCore h => Sys2Proof.Machine.execQmLdacqCore h s
  | .qmLdacqCluster h => Sys2Proof.Machine.execQmLdacqCluster h s
  | .qmLdacqDie h => Sys2Proof.Machine.execQmLdacqDie h s
  | .qmLdacqDevice h => Sys2Proof.Machine.execQmLdacqDevice h s
  | .qmLdacqDomain h => Sys2Proof.Machine.execQmLdacqDomain h s
  | .qmLdacqSystem h => Sys2Proof.Machine.execQmLdacqSystem h s
  | .qmStrelCore h => Sys2Proof.Machine.execQmStrelCore h s
  | .qmStrelCluster h => Sys2Proof.Machine.execQmStrelCluster h s
  | .qmStrelDie h => Sys2Proof.Machine.execQmStrelDie h s
  | .qmStrelDevice h => Sys2Proof.Machine.execQmStrelDevice h s
  | .qmStrelDomain h => Sys2Proof.Machine.execQmStrelDomain h s
  | .qmStrelSystem h => Sys2Proof.Machine.execQmStrelSystem h s
  | .qmCas h => Sys2Proof.Machine.execQmCas h s
  | .qmSwap h => Sys2Proof.Machine.execQmSwap h s
  | .qmAadd h => Sys2Proof.Machine.execQmAadd h s
  | .qmAand h => Sys2Proof.Machine.execQmAand h s
  | .qmAor h => Sys2Proof.Machine.execQmAor h s
  | .qmAmin h => Sys2Proof.Machine.execQmAmin h s
  | .qmAmax h => Sys2Proof.Machine.execQmAmax h s
  | .qmAminu h => Sys2Proof.Machine.execQmAminu h s
  | .qmAmaxu h => Sys2Proof.Machine.execQmAmaxu h s
  | .qmPush h => Sys2Proof.Machine.execQmPush h s
  | .qmPull h => Sys2Proof.Machine.execQmPull h s
  | .qmFenceCore h => Sys2Proof.Machine.execQmFenceCore h s
  | .qmFenceCluster h => Sys2Proof.Machine.execQmFenceCluster h s
  | .qmFenceDie h => Sys2Proof.Machine.execQmFenceDie h s
  | .qmFenceDevice h => Sys2Proof.Machine.execQmFenceDevice h s
  | .qmFenceDomain h => Sys2Proof.Machine.execQmFenceDomain h s
  | .qmFenceSystem h => Sys2Proof.Machine.execQmFenceSystem h s
  | .qsRun h => Sys2Proof.Machine.execQsRun h s
  | .qsStat h => Sys2Proof.Machine.execQsStat h s
  | .qsCancel h => Sys2Proof.Machine.execQsCancel h s
  | .chSend h => Sys2Proof.Machine.execChSend h s
  | .chSendm h => Sys2Proof.Machine.execChSendm h s
  | .chRecv h => Sys2Proof.Machine.execChRecv h s
  | .chPoll h => Sys2Proof.Machine.execChPoll h s
  | .chFree h => Sys2Proof.Machine.execChFree h s
  | .chMatch h => Sys2Proof.Machine.execChMatch h s
  | .chUnmatch h => Sys2Proof.Machine.execChUnmatch h s
  | .ksYield h => Sys2Proof.Machine.execKsYield h s
  | .ksEnd h => Sys2Proof.Machine.execKsEnd h s
  | .ksEmit h => Sys2Proof.Machine.execKsEmit h s
  | .ksDrain h => Sys2Proof.Machine.execKsDrain h s
  | .ksStat h => Sys2Proof.Machine.execKsStat h s
  | .sySlack h => Sys2Proof.Machine.execSySlack h s
  | .syBar h => Sys2Proof.Machine.execSyBar h s
  | .syWait h => Sys2Proof.Machine.execSyWait h s
  | .syCwait h => Sys2Proof.Machine.execSyCwait h s
  | .syCinc h => Sys2Proof.Machine.execSyCinc h s
  | .syYield h => Sys2Proof.Machine.execSyYield h s
  | .syHstart h => Sys2Proof.Machine.execSyHstart h s
  | .syHjoin h => Sys2Proof.Machine.execSyHjoin h s
  | .syTend h => Sys2Proof.Machine.execSyTend h s
  | .syDreq h => Sys2Proof.Machine.execSyDreq h s
  | .syLaunch h => Sys2Proof.Machine.execSyLaunch h s
  | .syLpatch h => Sys2Proof.Machine.execSyLpatch h s
  | .syFenceCore h => Sys2Proof.Machine.execSyFenceCore h s
  | .syFenceCluster h => Sys2Proof.Machine.execSyFenceCluster h s
  | .syFenceDie h => Sys2Proof.Machine.execSyFenceDie h s
  | .syFenceDevice h => Sys2Proof.Machine.execSyFenceDevice h s
  | .syFenceDomain h => Sys2Proof.Machine.execSyFenceDomain h s
  | .syFenceSystem h => Sys2Proof.Machine.execSyFenceSystem h s
  | .syCsrr h => Sys2Proof.Machine.execSyCsrr h s
  | .syCsrw h => Sys2Proof.Machine.execSyCsrw h s
  | .syCsrs h => Sys2Proof.Machine.execSyCsrs h s
  | .syCsrc h => Sys2Proof.Machine.execSyCsrc h s
  | .syTrap h => Sys2Proof.Machine.execSyTrap h s
  | .syTret h => Sys2Proof.Machine.execSyTret h s
  | .syIflushCore h => Sys2Proof.Machine.execSyIflushCore h s
  | .syIflushCluster h => Sys2Proof.Machine.execSyIflushCluster h s
  | .syIflushDie h => Sys2Proof.Machine.execSyIflushDie h s
  | .syIflushDevice h => Sys2Proof.Machine.execSyIflushDevice h s
  | .sySubmit h => Sys2Proof.Machine.execSySubmit h s
  | .syHalt h => Sys2Proof.Machine.execSyHalt h s
  | .dbCyc h => Sys2Proof.Machine.execDbCyc h s
  | .dbPerf h => Sys2Proof.Machine.execDbPerf h s
  | .dbPsel h => Sys2Proof.Machine.execDbPsel h s
  | .dbMark h => Sys2Proof.Machine.execDbMark h s
  | .resultComplete u => Sys2Proof.Machine.execResultComplete u s
  | .stallSwitch => Sys2Proof.Machine.execStallSwitch s
  | .loopEndCheck => Sys2Proof.Machine.execLoopEndCheck s
  | .repetitionEnd => Sys2Proof.Machine.execRepetitionEnd s
  | .fetchLineFill line => Sys2Proof.Machine.execFetchLineFill line s
  | .storePerformed k => Sys2Proof.Machine.execStorePerformed k s
  | .waitReleased => Sys2Proof.Machine.execWaitReleased s
  | .trapEntry => Sys2Proof.Machine.execTrapEntry s
  | .vectorBind => Sys2Proof.Machine.execVectorBind s
  | .vectorComplete => Sys2Proof.Machine.execVectorComplete s
  | .matrixAccept => Sys2Proof.Machine.execMatrixAccept s
  | .matrixFetchDone => Sys2Proof.Machine.execMatrixFetchDone s
  | .matrixStepStart => Sys2Proof.Machine.execMatrixStepStart s
  | .matrixCommandComplete => Sys2Proof.Machine.execMatrixCommandComplete s
  | .streamRecordTake => Sys2Proof.Machine.execStreamRecordTake s
  | .streamStart => Sys2Proof.Machine.execStreamStart s
  | .streamSlotCommit => Sys2Proof.Machine.execStreamSlotCommit s
  | .streamRecordEnd => Sys2Proof.Machine.execStreamRecordEnd s
  | .pushWriteDone => Sys2Proof.Machine.execPushWriteDone s
  | .pullWriteDone => Sys2Proof.Machine.execPullWriteDone s
  | .messageLand k => Sys2Proof.Machine.execMessageLand k s
  | .taskRelease => Sys2Proof.Machine.execTaskRelease s
  | .scopeMiss => Sys2Proof.Machine.execScopeMiss s
  | .activationFill => Sys2Proof.Machine.execActivationFill s
  | .creditGrant stage => Sys2Proof.Machine.execCreditGrant stage s
  | .hamperArrival k => Sys2Proof.Machine.execHamperArrival k s
  | .spillVictimWrite set => Sys2Proof.Machine.execSpillVictimWrite set s
  | .bucketFetch set => Sys2Proof.Machine.execBucketFetch set s
  | .overflowServe set => Sys2Proof.Machine.execOverflowServe set s
  | .activationHandoff => Sys2Proof.Machine.execActivationHandoff s
  | .idleTimeout set way => Sys2Proof.Machine.execIdleTimeout set way s
  | .dispenserAnswer rec k => Sys2Proof.Machine.execDispenserAnswer rec k s
  | .exchangeStart rec => Sys2Proof.Machine.execExchangeStart rec s
  | .transferStart rec => Sys2Proof.Machine.execTransferStart rec s
  | .transferEnd rec => Sys2Proof.Machine.execTransferEnd rec s
  | .exchangePhaseEnd rec => Sys2Proof.Machine.execExchangePhaseEnd rec s
  | .slackRelease rec => Sys2Proof.Machine.execSlackRelease rec s
  | .recordPlace rec dies clusters => Sys2Proof.Machine.execRecordPlace rec dies clusters s
  | .preempt => Sys2Proof.Machine.execPreempt s
  | .contextCopyOut => Sys2Proof.Machine.execContextCopyOut s
  | .jobResume rec dies clusters => Sys2Proof.Machine.execJobResume rec dies clusters s
  | .timer rec => Sys2Proof.Machine.execTimer rec s
  | .contextIdRecycle cid => Sys2Proof.Machine.execContextIdRecycle cid s
  | .undertowCandidate die => Sys2Proof.Machine.execUndertowCandidate die s
  | .undertowConfirm die => Sys2Proof.Machine.execUndertowConfirm die s
  | .inboundWrite port dst bytes ro ido rid poisoned => Sys2Proof.Machine.execInboundWrite port dst bytes ro ido rid poisoned s
  | .pieceLeave port wid piece => Sys2Proof.Machine.execPieceLeave port wid piece s
  | .pieceAck port wid piece => Sys2Proof.Machine.execPieceAck port wid piece s
  | .inboundRead port src len ro ido rid poisoned => Sys2Proof.Machine.execInboundRead port src len ro ido rid poisoned s
  | .msixMessage source => Sys2Proof.Machine.execMsixMessage source s
  | .vfEnable port numVfs => Sys2Proof.Machine.execVfEnable port numVfs s
  | .portLinkDown port flr => Sys2Proof.Machine.execPortLinkDown port flr s
  | .hsemAcquire src n tag => Sys2Proof.Machine.execHsemAcquire src n tag s
  | .hsemRelease src n tag => Sys2Proof.Machine.execHsemRelease src n tag s
  | .devrst src => Sys2Proof.Machine.execDevrst src s
  | .packageReset thermal strap bist => Sys2Proof.Machine.execPackageReset thermal strap bist s
  | .drtailWrite die e tail => Sys2Proof.Machine.execDrtailWrite die e tail s
  | .drcfgWrite die e v => Sys2Proof.Machine.execDrcfgWrite die e v s
  | .dmaAbort die e => Sys2Proof.Machine.execDmaAbort die e s
  | .dmaResume die e => Sys2Proof.Machine.execDmaResume die e s
  | .dmaDescriptorStart die e => Sys2Proof.Machine.execDmaDescriptorStart die e s
  | .dmaDescriptorDone die e => Sys2Proof.Machine.execDmaDescriptorDone die e s
  | .qtailWrite q tail => Sys2Proof.Machine.execQtailWrite q tail s
  | .qctlReset q => Sys2Proof.Machine.execQctlReset q s
  | .queueResident die => Sys2Proof.Machine.execQueueResident die s
  | .queueSlotYield q => Sys2Proof.Machine.execQueueSlotYield q s
  | .pktNoop q => Sys2Proof.Machine.execPktNoop q s
  | .pktLaunch q => Sys2Proof.Machine.execPktLaunch q s
  | .pktFence q => Sys2Proof.Machine.execPktFence q s
  | .pktWait q => Sys2Proof.Machine.execPktWait q s
  | .pktSignalStore q => Sys2Proof.Machine.execPktSignalStore q s
  | .pktSignalHost q => Sys2Proof.Machine.execPktSignalHost q s
  | .pktLeg q => Sys2Proof.Machine.execPktLeg q s
  | .packetComplete q => Sys2Proof.Machine.execPacketComplete q s
  | .legFire q leg => Sys2Proof.Machine.execLegFire q leg s
  | .mbResync port addr => Sys2Proof.Machine.execMbResync port addr s
  | .mbKill port rec => Sys2Proof.Machine.execMbKill port rec s
  | .mbKillDump port rec => Sys2Proof.Machine.execMbKillDump port rec s
  | .mbBadCommand port => Sys2Proof.Machine.execMbBadCommand port s
  | .fatalEcc => Sys2Proof.Machine.execFatalEcc s
  | .leaseRenewal acks => Sys2Proof.Machine.execLeaseRenewal acks s
  | .leaseLapse die => Sys2Proof.Machine.execLeaseLapse die s
  | .voteRequest die votes => Sys2Proof.Machine.execVoteRequest die votes s
  | .mgmtLinkFail side => Sys2Proof.Machine.execMgmtLinkFail side s
  | .tlbinvAll => Sys2Proof.Machine.execTlbinvAll s
  | .tlbinvAsid asid => Sys2Proof.Machine.execTlbinvAsid asid s
  | .tlbinvRange asid => Sys2Proof.Machine.execTlbinvRange asid s
  | .tlbinvComplete => Sys2Proof.Machine.execTlbinvComplete s
  | .tlbWalk die asid vf va access user party => Sys2Proof.Machine.execTlbWalk die asid vf va access user party s
  | .prqRetry tag => Sys2Proof.Machine.execPrqRetry tag s
  | .prqFail tag => Sys2Proof.Machine.execPrqFail tag s
  | .regcmtGo => Sys2Proof.Machine.execRegcmtGo s
  | .regionClearDone => Sys2Proof.Machine.execRegionClearDone s
  | .vfctlReset v => Sys2Proof.Machine.execVfctlReset v s
  | .vfResetDrained v => Sys2Proof.Machine.execVfResetDrained v s
  | .remoteAccessArrival dev addr kind len data => Sys2Proof.Machine.execRemoteAccessArrival dev addr kind len data s
  | .flitReceive port seq kg tagOk replay => Sys2Proof.Machine.execFlitReceive port seq kg tagOk replay s
  | .shumbiviaPortDown port => Sys2Proof.Machine.execShumbiviaPortDown port s
  | .remoteTimeout dev => Sys2Proof.Machine.execRemoteTimeout dev s
  | .keyRollover port key => Sys2Proof.Machine.execKeyRollover port key s
  | .keyRetire port => Sys2Proof.Machine.execKeyRetire port s
  | .crtailWrite die tail => Sys2Proof.Machine.execCrtailWrite die tail s
  | .crAbort die => Sys2Proof.Machine.execCrAbort die s
  | .crResume die => Sys2Proof.Machine.execCrResume die s
  | .collectiveStart die => Sys2Proof.Machine.execCollectiveStart die s
  | .collectiveComplete die peers => Sys2Proof.Machine.execCollectiveComplete die peers s
  | .dcmdHalt => Sys2Proof.Machine.execDcmdHalt s
  | .dcmdResume => Sys2Proof.Machine.execDcmdResume s
  | .dcmdStep => Sys2Proof.Machine.execDcmdStep s
  | .breakpointMatch => Sys2Proof.Machine.execBreakpointMatch s
  | .crossTriggerHalt => Sys2Proof.Machine.execCrossTriggerHalt s
  | .dgrpResume grp => Sys2Proof.Machine.execDgrpResume grp s
  | .ddataRead => Sys2Proof.Machine.execDdataRead s
  | .ddataWrite v => Sys2Proof.Machine.execDdataWrite v s
  | .frzctlAssert rec => Sys2Proof.Machine.execFrzctlAssert rec s
  | .frzctlRelease rec => Sys2Proof.Machine.execFrzctlRelease rec s
  | .traceStop => Sys2Proof.Machine.execTraceStop s
  | .tidemarkPulse => Sys2Proof.Machine.execTidemarkPulse s
  | .bootctlRecovery src => Sys2Proof.Machine.execBootctlRecovery src s
  | .bootctlMain src => Sys2Proof.Machine.execBootctlMain src s
  | .bootctlRaiseSvn src => Sys2Proof.Machine.execBootctlRaiseSvn src s
  | .bootctlFuseOwner src slot addr => Sys2Proof.Machine.execBootctlFuseOwner src slot addr s
  | .bootctlRevokeOwner src slot => Sys2Proof.Machine.execBootctlRevokeOwner src slot s
  | .bootctlSetOwnmode src mode => Sys2Proof.Machine.execBootctlSetOwnmode src mode s
  | .attcmdGo addr => Sys2Proof.Machine.execAttcmdGo addr s
  | .keySlotWrite slot key => Sys2Proof.Machine.execKeySlotWrite slot key s
  | .islandClockChange n => Sys2Proof.Machine.execIslandClockChange n s
  | .cappingCheck => Sys2Proof.Machine.execCappingCheck s
  | .thermalTrip n temp => Sys2Proof.Machine.execThermalTrip n temp s
  | .eccError where_ uncorrectable => Sys2Proof.Machine.execEccError where_ uncorrectable s
  | .registerWrite r v src => Sys2Proof.Machine.execRegisterWrite r v src s
  | .illegalOp h u opc => Sys2Proof.Machine.execIllegalOp h u opc s
  | .illegalMove w reason => Sys2Proof.Machine.execIllegalMove w reason s
  | .hostLinkUp port cxl => Sys2Proof.Machine.execHostLinkUp port cxl s
  | .shumbiviaPortUp port twoLanes => Sys2Proof.Machine.execShumbiviaPortUp port twoLanes s

end Sys2Proof.Machine
end

