-- ==== Sys2Proof/Machine/Parties.lean ====
section
/-! DEFINITION. What slots, queues and engines record of their waits at the end of every step: a wait whose condition holds is over, and one
whose reason has changed is a new one (spec/16_wait_graph.md R381; spec/14 R353; spec/07 R201; spec/17 R420; spec/18 R435 to R438). -/

set_option autoImplicit false
set_option Elab.async false

namespace Sys2Proof.Machine

/-! ## Slots (R381) -/

/-- A Blocked slot looks at its wait: it ends, or its reason changes. -/
def State.settleSlot (s : State) (id : CoreId) (n : Fin 4) : State :=
  if (s.coreAt id).slots[n].run == .blocked then s.within id fun s => s.withCur n State.releaseWait else s

/-- The slots that wait for a lock bit that no slot holds are served, in the order of their requests (R142, R145). -/
def State.serveLocks (s : State) : State :=
  (s.cores.filter fun p => !p.2.lockq.isEmpty).foldl (fun s p =>
    p.2.lockq.foldl (fun s q => if ((s.coreAt p.1).holder q.1).isNone then s.settleSlot q.2.1 (Fin.ofNat 4 q.2.2) else s) s) s

/-- Every Blocked slot looks at its wait. -/
def State.settleWaits (s : State) : State :=
  let s1 := s.serveLocks
  (s1.cores.map (·.1)).foldl (fun s id => [0, 1, 2, 3].foldl (fun s n => s.settleSlot id n) s) s1

/-! ## Queues, engines and channels -/

/-- The stream engine of the core in focus, where it runs or waits. -/
def State.noteEngine (s : State) : State :=
  if s.core.stream.run.isNone && !bit s.core.stream.wrr 63 then s else s.noteStream

/-- The matrix queue and the stream engine of a core. -/
def State.noteCore (s : State) (id : CoreId) : State := s.within id fun s => s.noteMatrix.noteEngine

/-- A DMA engine in the midst of a descriptor gets on with it and records its wait. -/
def State.noteDmaEngine (s : State) (k : Nat) : State :=
  match (s.engine (k / 64) (k % 64)).run with
  | some d => (s.dmaAdvance (k / 64) (k % 64) d).noteDma (k / 64) (k % 64) d
  | none => s

/-- A front-end queue that waits: a fence keeps the entries it has seen satisfied, a wait packet that its condition has held, and the wait
is over once nothing is left of it. -/
def State.noteQueue (s : State) (q : Nat) : State :=
  let f := s.queue q
  match f.waiting with
  | none => s
  | some p =>
    if !bit f.wrr 63 then s
    else match pktKind (packetDw p 0) with
      | 2 =>
        let m := s.fenceMarks p f.marks
        s.onQueue q fun f =>
          let f1 := { f with marks := m }
          if m.length == pktArg (packetDw p 0) then f1.unwait else f1
      | 3 => match s.packetHome q (packetDw p 1) .read with
        | .ok h => if s.waitHolds q p h then s.onQueue q fun f => { f.unwait with hit := true } else s
        | .error _ => s
      | _ => s

/-- What a core whose slot 0 stands in `slack` waits for: the members that have not arrived, or, in the phase, a range lock that holds up a
transfer of its plan (R319): kind, object, mode and releaser. -/
def State.slackWait (s : State) (r : Nat) (id : CoreId) : Nat × Nat × Nat × Nat :=
  let held := ((s.job r).phase.getD []).findSome? fun t =>
    if t.issuer = id && t.state == .active && !t.units.isEmpty then (s.transferLock r t).map fun l => (t, l) else none
  match held with
  | some (t, l) => (8, (s.coreAt t.dst).cidx * 2 ^ 8, 0, l.queue)
  | none => (6, 0xFF, 2, slackParty)

/-- The slots in `slack` of a job's cores record what they wait for. -/
def State.noteSlack (s : State) (r : Nat) : State :=
  if (s.job r).phase.isNone then s
  else (s.job r).cores.foldl (fun s id =>
    let (kind, object, mode, releaser) := s.slackWait r id
    s.onCoreAt id fun c => c.onSlot 0 fun t =>
      if !t.atSlack || sameReason t.csr.wrr kind mode releaser object then t
      else { t with csr := { t.csr with wrr := wrrWord t.csr.wrr kind mode releaser object }, since := s.time }) s

/-- The channels of a core whose queue parties wait, or have a message or a notice to land. -/
def State.noteChans (s : State) (id : CoreId) : State :=
  (List.range 16).foldl (fun s ch =>
    let c := s.coreAt id
    if bit (c.chan ch).wrr 63 || s.msgs.any (fun m => decide (m.dst = id) && m.chan == ch) || !c.notices.isEmpty then s.noteChan id ch else s) s

/-- The delivery that a slot has lost: the wait it was for is over (R393). -/
def Slot.lost (t : Slot) : Option Delivery := t.pend.undertow.filter fun u => !t.standsIn u.gen

/-- A slot without the delivery that it has lost. -/
def Slot.dropLost (t : Slot) : Slot := if t.lost.isSome then { t with pend := { t.pend with undertow := none } } else t

/-- The deliveries that the slots of a core have lost, with the party of each. -/
def Core.lost (id : CoreId) (c : Core) : List (Delivery × Party) :=
  (List.range 4).filterMap fun n => (c.slot n).lost.map fun u => (u, ⟨(c.ctx.map (·.record)).getD noJob, partyOf id c n⟩)

/-- A delivery is dropped: counted (counter 11), and the chase it came from has ended without one (R385, R393). -/
def State.lostDelivery (s : State) (d : Delivery × Party) : State :=
  let s1 := s.udCount d.1.die 11
  let (mine, rest) := (s1.undertow d.1.die).told.partition fun e => decide (e.2.2 = (d.2, d.1.gen))
  mine.foldl (fun s e => s.chaseOver d.1.die e.1 e.2.1) (s1.onUndertow d.1.die fun u => { u with told := rest })

/-- Deliveries whose wait has ended before they were taken are dropped. -/
def State.dropDeliveries (s : State) : State :=
  let lost := s.cores.flatMap fun p => p.2.lost p.1
  if lost.isEmpty then s
  else lost.foldl State.lostDelivery (s.mapCores fun _ c => { c with slots := c.slots.map Slot.dropLost })

/-- A chain that was written without delivery is forgotten once a wait of it is over: the same generations come again only in other waits
(R394). -/
def State.forgetWritten (s : State) : State :=
  if s.undertows.all fun u => u.2.written.isEmpty then s
  else { s with undertows := s.undertows.map fun u => (u.1, { u.2 with written := u.2.written.filter fun ws => ws.all fun e => s.sameWait e.1 e.2 }) }

/-- Every queue and engine that may wait records its wait, or its end. -/
def State.noteWaits (s : State) : State :=
  let s0 := (s.jobs.map (·.1)).foldl State.noteSlack s
  let s1 := (s0.cores.map (·.1)).foldl (fun s id => (s.noteCore id).noteChans id) s0
  let s2 := (s1.dma.map (·.1)).foldl State.noteDmaEngine s1
  (s2.queues.map (·.1)).foldl State.noteQueue s2

/-- Every wait is recorded, or its end, and what was delivered to a wait that is over is dropped. -/
def State.noteParties (s : State) : State :=
  let s1 := s.settleWaits.noteWaits.dropDeliveries.forgetWritten
  (s1.queues.map (·.1)).foldl State.notePending s1

end Sys2Proof.Machine
end

