-- ==== Sys2Proof/Machine/Issue.lean ====
section
/-! DEFINITION. One core cycle: the fetch of the next bundle, its checks, its issue, and what follows it (spec/01 R16, R17, R26 to R28,
R31; spec/03 R81, R86, R92, R93; spec/09 R240 to R242, R252; spec/12 R314; spec/21 R483, R487). -/

set_option autoImplicit false
set_option Elab.async false

namespace Sys2Proof.Machine

/-- Goes on from a next state. -/
def onNext (o : Out) (f : State → State) : Out :=
  match o with
  | .next s => .next (f s)
  | .fault r => .fault r
  | .refused r => .refused r

/-! ## The fetch of a bundle (R81, R85, R86, R92 item 1, R314) -/

/-- What the fetch of the next bundle comes to: its moves with their long-immediate words and its length in words; a word-stream check
that failed, with the bundle's first word; a fetch trap with the address of the failing word; or a miss. -/
inductive Fetched where
  | bundle (moves : List (HWord × List HWord)) (n : Nat)
  | bad (reason : Nat) (first : HWord)
  | trap (code va : Nat)
  | miss
  deriving DecidableEq, Repr

/-- The word of a fetch, zero where there is none. -/
def FetchRes.get : FetchRes → HWord
  | .word w => w
  | .miss => 0
  | .trap _ => 0

/-- The code of a fetch that traps. -/
def FetchRes.code : FetchRes → Option Nat
  | .trap c => some c
  | .word _ => none
  | .miss => none

/-- The bundle at an address, its words fetched in the order in which the decoder reads them: a failure among the words read comes before
every check (R92). -/
def State.fetchBundle (s : State) (va : Nat) : Fetched :=
  let res := (List.range (16 - va / 4 % 16)).map fun i => s.fetchWord (va + 4 * i)
  let sc := scanBundle (res.map FetchRes.get)
  if res.head? == some .miss then .miss
  else match (List.range sc.read).findSome? fun i => ((res[i]?).bind FetchRes.code).map fun c => (c, va + 4 * i) with
    | some (c, a) => .trap c a
    | none => match sc.err with
      | some r => .bad r (res.head?.map FetchRes.get |>.getD 0)
      | none => .bundle sc.moves sc.read

/-- Line pads before the slot's next bundle are skipped, at no cost (R86). -/
def State.skipPads : Nat → State → State
  | 0, s => s
  | fuel + 1, s =>
    match s.fetchWord s.sl.pc.toNat with
    | .word w => if w != padWord then s else match exec .linePad s with
      | .next s1 => State.skipPads fuel s1
      | _ => s
    | _ => s

/-- A body bundle enters the repetition buffer in code order (R33). -/
def insertRep (b : RepBundle) : List RepBundle → List RepBundle
  | [] => [b]
  | a :: l => if a.addr == b.addr then a :: l else if b.addr.ult a.addr then b :: a :: l else a :: insertRep b l

/-- The body bundles that can be found from an address on, at most `n` of them, and where the next one stands. -/
def State.bodyFrom (s : State) : Nat → Nat → List RepBundle × Nat
  | 0, va => ([], va)
  | n + 1, va =>
    match s.bundleAt allLines va with
    | none => ([], va)
    | some (a, ws) =>
      let sc := scanBundle ws
      let (rest, next) := State.bodyFrom s n (a + 4 * sc.read)
      (⟨w64 a, sc.moves, sc.read⟩ :: rest, next)

/-- A repetition whose buffer is empty begins, or resumes at the bundle of index POS, the buffer refilled from `rpb` (R35). -/
def State.resumeBody (s : State) : State :=
  if s.sl.repActive && s.sl.rep.isEmpty then
    let (body, next) := s.bodyFrom (bits s.sl.csr.rpc 43 40) s.sl.csr.rpb.toNat
    s.onSl fun t => { t with rep := body.foldl (fun l b => insertRep b l) [], pc := w64 next, npc := w64 next }
  else s

/-- The slot's next bundle: from the repetition buffer (R33), else fetched. -/
def State.nextBundle (s0 : State) : State × Fetched :=
  let s := s0.resumeBody
  match s.sl.buffered with
  | some b => (s.onSl fun t => { t with pc := b.addr }, .bundle b.moves b.nwords)
  | none =>
    let s1 := s.skipPads allLines
    (s1, s1.fetchBundle s1.sl.pc.toNat)

/-! ## The checks of a bundle (R16, R92, R93) -/

/-- The code of a main register other than x0. -/
def mainCode (c : Nat) : Bool := 1 ≤ c && c < 0x40

/-- Reasons 4 to 9 of a move (R92, item 2). -/
noncomputable def moveReason (k : CoreKind) (m : HWord × List HWord) : Option Nat :=
  let ok := carried k (unitOfCode (fieldSrc m.1)) && carried k (unitOfCode (fieldDst m.1))
  match decodeMove m.1 m.2 with
  | .illegalMove _ r => some (if r == 9 && !ok then 8 else r)
  | _ => if ok then none else some 8

/-- The index and word of the first element for which a test holds. -/
def firstAt (ws : List HWord) (p : Nat → Bool) : Option Nat := (List.range ws.length).find? p

/-- The limits of R16 (R92, item 3): the reason, and the move at which it is first exceeded. -/
def limitFault (ws : List HWord) : Option (Nat × Nat) :=
  let reads := fun n => (((ws.take n).map fieldSrc).filter mainCode).foldl insertNat []
  let writes := fun n => ((ws.take n).map fieldDst).filter mainCode
  let dst := fun i => fieldDst (ws.getD i 0)
  ((firstAt ws fun i => 3 < (reads (i + 1)).length).map fun i => (10, i)) <|>
    ((firstAt ws fun i => 2 < (writes (i + 1)).length).map fun i => (11, i)) <|>
    (firstAt ws fun i => dst i != 0 && ((ws.take i).map fieldDst).contains (dst i)).map fun i => (12, i)

/-- A source that reads a result port whose unit the slot has not triggered (R92, item 4). -/
def State.invalidRead (s : State) (w : HWord) : Bool :=
  match decodeSrc (fieldSrc w) [] with
  | .ok src => !s.validSrc src
  | .error _ => false

/-- A trigger whose OPC holds no operation (R92, item 5). -/
noncomputable def noOperation (m : HWord × List HWord) : Bool :=
  match decodeMove m.1 m.2 with
  | .illegalOp _ _ _ => true
  | _ => false

/-- The checks of R92, items 2 to 5, on the renamed words of a bundle: the trap's code and `tval`. -/
noncomputable def State.bundleFault (s : State) (ms : List (HWord × List HWord)) : Option (Nat × Word) :=
  let ws := ms.map (·.1)
  let word := fun i => ws.getD i 0
  match (List.range ms.length).findSome? fun i => ((ms[i]?).bind (moveReason s.coreId.kind)).map fun r => (r, i) with
  | some (r, i) => some (0x01, decodeTval r i (word i))
  | none => match limitFault ws with
    | some (r, i) => some (0x01, decodeTval r i (word i))
    | none => match firstAt ws fun i => s.invalidRead (word i) with
      | some i => some (0x01, decodeTval 13 i (word i))
      | none => ((List.range ms.length).find? fun i => ((ms[i]?).map noOperation).getD false).map fun i =>
        (trapIllegalOp, decodeTval 15 i (word i))

/-! ## The issue of a bundle (R17) -/

/-- Runs moves one after another. -/
def runMoves : List Instr → State → Out
  | [], s => .next s
  | i :: is, s => match exec i s with
    | .next s1 => runMoves is s1
    | .fault r => .fault r
    | .refused r => .refused r

/-- The guard and the value of a move as they stand at the start of the cycle (R17). -/
def State.moveValue (s : State) (i : Instr) : Bool × VWord :=
  match hdrOf i with
  | some h =>
    let h := renameHdr s.sl.csr.rpc h
    (s.sl.takes h, s.sl.readSrc h.src)
  | none => (false, 0)

/-- A source of a move whose result is in flight (R18). -/
def State.moveStall (s : State) (i : Instr) : Bool :=
  match hdrOf i with
  | some h => s.srcStall (renameSrc s.sl.csr.rpc h.src)
  | none => false

/-- The moves in the order in which they act: those to other destinations before the triggers (R17). -/
def actingOrder (is : List Instr) : List Instr :=
  is.filter (fun i => (triggerOf i).isNone) ++ is.filter fun i => (triggerOf i).isSome

/-- What a trigger of a bundle raised acts on the state before it: a trap, or a halt (R484). -/
def State.raise (s0 : State) (code : Nat) (tval : Word) : State :=
  if code == haltCode then s0.halt 3 s0.core.cur else enterTrap code tval s0.sl.pc s0

/-- What the moves of a bundle come to: a stall, a trap, a halt, or the bundle's end. `s0` is the state before it. -/
def State.settleBus (s0 s : State) : State :=
  match s.bus with
  | none => s.closeBundle
  | some b =>
    if b.stalled then s0.stallBundle
    else match b.raised with
      | some (code, tval) => s0.raise code tval
      | none => { s with bus := none }.closeBundle

/-- The ranges that a matrix command accepted in this bundle has locked, entered in the state before its moves (R327). `next` is the
sequence number that the command took. -/
def State.seizing (s s1 : State) (next : Nat) : State :=
  let party := queueParty s.core
  s1.cores.foldl (fun s p => s.onCoreAt p.1 fun c =>
    { c with ranges := c.ranges ++ p.2.ranges.filter fun l => l.queue == party && l.seq == next }) s

/-- A lock and an access of one cycle (R327): the lock is entered first, so an access that stands before the matrix trigger in its bundle
meets the lock. What that access raises; `s` stands before the moves `is`, `s1` after them. -/
def State.lockFirst (s s1 : State) (is : List Instr) : Option (Nat × Word) :=
  let before := is.takeWhile fun i => (triggerOf i).map (·.1) != some .mx
  if s1.core.mq.next == s.core.mq.next || before.all fun i => (triggerOf i).isNone then none
  else match runMoves before (s.seizing s1 s.core.mq.next) with
    | .next s2 => s2.bus.bind (·.raised)
    | .fault _ => none
    | .refused _ => none

/-- A bundle of several moves (R17). -/
noncomputable def State.issueMany (s : State) (ms : List (HWord × List HWord)) (n : Nat) : Out :=
  match s.bundleFault (ms.map fun m => (renameWord s.sl.csr.rpc m.1, m.2)) with
  | some (code, tval) => .next (enterTrap code tval s.sl.pc s)
  | none =>
    let is := actingOrder (ms.map fun m => decodeMove m.1 m.2)
    if is.any s.moveStall then .next s.stallBundle
    else
      let s1 : State := { s.openBundle n with bus := some ⟨is.map s.moveValue, none, false⟩ }
      onNext (runMoves is s1) fun s2 => match s1.lockFirst s2 is with
        | some (code, tval) => s.raise code tval
        | none => s.settleBus s2

/-- A bundle (R17): one of a single move is that instruction. -/
noncomputable def State.issueMoves (s : State) (ms : List (HWord × List HWord)) (n : Nat) : Out :=
  match ms with
  | [m] => exec (decodeMove m.1 m.2) s
  | _ => s.issueMany ms n

/-! ## After the bundle (R31, R35, R128) -/

/-- The slot moves on: after a bundle that went straight on, with the end checks of R31 or the repetition's (R128). -/
def State.moveOn (s : State) : State :=
  let go := fun (s : State) => s.onSl fun t => { t with pc := t.npc, flow := .entered }
  match s.sl.flow with
  | .seq =>
    if s.sl.repActive then go s.repetitionEnd
    else go (s.onSl fun t => let (t1, next) := t.endChecks t.pc t.npc; { t1 with npc := next })
  | .branch => go s
  | .loopSet => go s
  | .ended => s
  | .entered => s

/-- A bundle of the program, not of a handler, has issued: a superstep's compute phase runs (R289). -/
def State.leaveBoundary (s : State) (handler : Bool) : State :=
  match s.record? with
  | some r => if !handler && (s.job r).boundary then s.onJob r fun j => { j with boundary := false } else s
  | none => s

/-- A step of the debug module ends with the bundle, or with the re-issue, that went out (R487; log 84). -/
def State.endStep (s : State) : State :=
  if s.core.dbg.step && s.sl.run != .stalled then (s.onCore fun c => { c with dbg := { c.dbg with step := false } }).halt 5 s.core.cur else s

/-- What follows a bundle that did not stall: the slot moves on, and a step of the debug module ends (R487). -/
def State.bundleDone (handler : Bool) (s : State) : State :=
  if s.sl.run == .stalled then s else ((s.moveOn).leaveBoundary handler).endStep

/-! ## Re-issued triggers (R252) -/

/-- One re-issued trigger goes out, checked as if newly issued. One that traps is recorded again. -/
def State.reissueOne (s : State) : State :=
  match s.sl.reissue with
  | [] => s
  | (u, opc) :: rest =>
    if s.unitStall u opc.toNat then s.stallBundle
    else match triggerOp u opc.toNat with
      | none => enterTrap trapIllegalOp (decodeTval 15 0 0) s.sl.pc s
      | some op => match op (s.openBundle 0) with
        | .stall => s.stallBundle
        | .halt => s.halt 3 s.core.cur
        | .trap code tval => enterTrap code tval s.sl.pc s
        | .ok s1 =>
          let s2 := (s1.onSl fun t => { t with reissue := if t.flow == .ended then [] else rest }).applyCsr
          match s2.sl.after with
          | some (code, tval) => enterTrap code tval s2.sl.next s2
          | none => if s2.sl.flow == .ended then s2.checkMine else s2.onSl fun t => { t with pc := t.npc, flow := .entered }

/-- The re-issued triggers go out in one cycle, the divide first. -/
def State.reissueAll (s : State) : State :=
  let s1 := (s.onSl fun t => { t with run := .issuing }).reissueOne
  if s1.sl.run == .issuing || s1.sl.run == .ready then s1.reissueOne else s1

/-! ## The cycle (R26, R27) -/

/-- Core cycles after which a line has come at the latest (R196, R315). -/
def State.fillCycles (s : State) (va : Nat) : Nat :=
  if (s.clusterLine va).isSome then 14
  else match s.fetchHome va with
    | .ok (.host _ _) => s.cycles 3700
    | _ => s.cycles 700

/-- The slot in focus waits for a line, which comes when its time is up (R315). -/
def State.awaitLine (s : State) : State :=
  let va := s.sl.pc.toNat / 64 * 64
  (if s.fillCycles va ≤ s.sl.stall then s.fillLine va else s).stallBundle

/-- A bundle stands before its issue: the slot issues, and nothing has gone on yet. -/
def State.standing (s : State) : State := s.onSl fun t => { t with run := .issuing, flow := .entered }

/-- A body bundle that has issued is in the repetition buffer (R33). -/
def State.keepBody (s : State) (ms : List (HWord × List HWord)) (n : Nat) : State :=
  if s.sl.repActive && s.sl.flow == .seq && s.sl.run != .stalled then s.onSl fun t => { t with rep := insertRep ⟨t.pc, ms, n⟩ t.rep } else s

/-- The slot in focus issues its next bundle, or does not. -/
noncomputable def State.issue (s : State) : Out :=
  let t := s.sl
  if t.run == .free || t.run == .blocked then .next s
  else if t.bubble != 0 then .next ((s.onSl fun t => { t with bubble := t.bubble - 1 }).stallBundle)
  else if !t.reissue.isEmpty then match if s.core.dbg.step then none else s.breaks with
    | some k => .next (s.matchBreakpoint k)
    | none => .next s.reissueAll.endStep
  else
    let (s1, f) := s.nextBundle
    match f with
    | .miss => .next s1.awaitLine
    | .trap code va => .next (State.bundleDone t.inh (enterTrap code (w64 va) s1.sl.pc s1))
    | .bad r w => .next (State.bundleDone t.inh (enterTrap 0x01 (decodeTval r 7 (renameWord t.csr.rpc w)) s1.sl.pc s1))
    | .bundle ms n =>
      let s2 := s1.standing
      match if s.core.dbg.step then none else s2.breaks with
      | some k => .next (s2.matchBreakpoint k)
      | none => onNext (s2.issueMoves ms n) fun s3 => (s3.keepBody ms n).bundleDone t.inh

/-- A slot whose bundle could not issue can issue it now. -/
noncomputable def State.couldIssue (s : State) : Bool :=
  match s.issue with
  | .next s1 => s1.sl.run != .stalled
  | .fault _ => true
  | .refused _ => true

/-- A Stalled slot that is not the issuing one: Ready once its bundle can issue (R26). -/
noncomputable def State.recheck (s : State) : State :=
  let t := s.sl
  if t.run != .stalled then s
  else if t.bubble != 0 then s.onSl fun t => { t with bubble := t.bubble - 1, stall := t.stall + 1 }
  else if s.couldIssue then s.onSl fun t => { t with run := .ready, stall := 0 }
  else
    let va := t.pc.toNat / 64 * 64
    let s1 := if t.buffered.isNone && s.fetchWord t.pc.toNat == .miss && decide (s.fillCycles va ≤ t.stall) then s.fillLine va else s
    s1.onSl fun t => { t with stall := t.stall + 1 }

/-- The other slots of the core are looked at, and the core switches where it must; the slot has been selected for one core cycle more. -/
noncomputable def State.finishCycle (s : State) : State :=
  if s.core.dbg.halted || s.core.dbg.step then s
  else ([0, 1, 2, 3].foldl (fun (s : State) (n : Fin 4) => if n = s.core.cur then s else s.withCur n State.recheck)
    (s.onSl fun t => { t with issued := t.issued + 1 })).switchSlot

/-- The core as it stands when its issuing slot may issue: time has passed, waits have ended and async traps are taken; a step of the
debug module issues from its own slot (R487). -/
def State.toIssue (s : State) : State :=
  let s1 := s.tick.boundaries
  if s1.core.dbg.step then s1.onCore fun c => { c with cur := Fin.ofNat 4 c.dbg.slot } else s1

/-- One core cycle of the core in focus (R27). A halted, stopped or frozen core issues nothing (R236, R482, R490). -/
noncomputable def State.cycle (s : State) : Out :=
  let s1 := s.toIssue
  if s1.core.dbg.halted || s1.still s1.core then .next s1
  else if s1.core.swap != 0 then .next (s1.onCore fun c => { c with swap := c.swap - 1 })
  else onNext s1.issue State.finishCycle

/-! ## Events (log 3) -/

/-- An event comes about at its core and slot. A switch is the core's own. -/
def State.atEvent (s : State) (e : Event) : State :=
  let s1 := s.focus e.core
  if e.op = .stallSwitch then s1 else s1.onCore fun c => { c with cur := e.slot }

/-- After an event the core goes on with the slot that issued, unless the event has switched slots. -/
def State.afterEvent (cur : Fin 4) (e : Event) (s : State) : State :=
  if e.op = .stallSwitch then s else s.onCoreAt e.core fun c => if c.cur = e.slot then { c with cur := cur } else c

/-- Events that write no memory but by `State.storeOut`: what a die has yet to see stays so across them. After any other, every performed
store is seen everywhere (R333, R334; log 114). -/
def keepsUnseen : Instr → Bool
  | .storePerformed _ | .resultComplete _ | .stallSwitch => true
  | _ => false

/-- The event that the environment offers next comes about. -/
def State.event (s : State) (e : Event) (rest : List Event) : Out :=
  let s1 : State := { s with inbox := rest }
  onNext (exec e.op (s1.atEvent e)) fun t =>
    let u := State.afterEvent (s1.focus e.core).core.cur e t
    if keepsUnseen e.op then u else u.seeAll

/-- What every step closes with: queues and engines record their waits (R381), epochs are counted (R389), and key slot writes that have
waited are made (R501). -/
def State.afterStep (s : State) : State := s.noteParties.tallyEpochs.applyKeys

/-! ## Placing a word to fetch -/

/-- The words of a one-bundle program: the instruction, and, where it does not end its bundle, a move that does nothing. -/
def programWords (ws : List HWord) : List HWord :=
  let first := ws.headD 0
  let body := ws.take (1 + longWords first)
  if fieldE first then body else body ++ [0x80000000]

/-- A line of code whose rest is zero. -/
def codeLine (va : Nat) (ws : List HWord) : CodeLine := ⟨0, va, ws ++ List.replicate (16 - ws.length) 0⟩

/-- A core that carries the units that a move word names: the one in focus where it does. -/
def State.coreFor (s : State) (w : HWord) : CoreId :=
  let fits := fun (id : CoreId) => carried id.kind (unitOfCode (fieldSrc w)) && carried id.kind (unitOfCode (fieldDst w))
  ([s.coreId, coreZero, ⟨.quay, 0, 0⟩].find? fits).getD s.coreId

/-- A slot that issues from a line: nothing holds its next bundle back. -/
def Slot.issuing (t : Slot) (pc : Word) : Slot :=
  let t1 := t.setAct false
  { t1 with run := .issuing, pc := pc, npc := pc, flow := .entered, wait := none, reissue := [], after := none, bubble := 0, rep := [],
            pend := Pending.none, lats := t1.lats.map (fun l => { l with fly := none }),
            csr := { t1.csr with codelim := 0xFFFFFFFFFFFFF } }

/-- A core that issues from slot `cur`, with lines of code in its cache and no context. -/
def Core.issuing (c : Core) (pc : Word) (ls : List CodeLine) : Core :=
  let c1 := c.onSlot c.cur fun t => t.issuing pc
  { c1 with ctx := none, stopped := false, swap := 0, vq := [], icache := ls.foldl (putLine 256) c1.icache,
            dbg := { c1.dbg with halted := false, step := false } }

/-- The words stand where the core in focus fetches next. -/
def State.placeWords (s : State) (ws : List HWord) : State :=
  let w := ws.headD 0
  let s1 := ({ s with inbox := [], bus := none } : State).focus (s.coreFor w)
  let va := s1.sl.pc.toNat / 64 * 64
  let ls := if w == padWord then [codeLine va [w], codeLine (va + 64) [0x80000000]] else [codeLine va (programWords ws)]
  let s2 := s1.onCore fun c => c.issuing (w64 va) ls
  if bit (s2.reg (.dctl s2.coreId)) 15 then s2.setReg (.dctl s2.coreId) 0 else s2

end Sys2Proof.Machine
end

