-- ==== Sys2Proof/Machine/Step.lean ====
section
/-! DEFINITION. One step of the device: the event that the environment offers next, or one core cycle of the core in focus (log 3). -/

set_option autoImplicit false
set_option Elab.async false

namespace Sys2Proof.Machine

/-- One step. -/
noncomputable def step (s : State) : Host.Outcome State Fault Refusal :=
  onNext (match s.inbox with
    | e :: rest => s.event e rest
    | [] => s.cycle) State.afterStep

/-- The state with an instruction where the next step fetches (log 12). -/
def State.withFetchWord (s : State) (nbits w : Nat) : State := s.placeWords (wordsOfNat 6 (w % 2 ^ nbits))

end Sys2Proof.Machine
end

