-- ==== Sys2Proof/WellFormed.lean ====
section
/-! DEFINITION. Well-formed instructions: the terms the encoding of spec/03_encoding.md can write, and events that name a
place the package has (spec/00_scope.md R2). -/

set_option autoImplicit false
set_option Elab.async false

namespace Sys2Proof

/-- A source that SRC can name (R83). -/
def Src.wf : Src → Bool
  | .port u p => u.canRead p
  | .x _ | .v _ | .o _ | .g _ | .imm8 _ | .imm32 _ | .imm64 _ => true

/-- A destination that DST can name: g0 and the result ports are not writable (R13, R83). -/
def Dst.wf : Dst → Bool
  | .port u p => u.canWrite p
  | .g n => n != 0
  | .x _ | .v _ | .o _ => true

/-- A header the encoding admits: INV is 0 where GI is 0 (R80, R92). -/
def Hdr.wf (h : Hdr) : Bool := h.src.wf && !(h.gi == 0 && h.inv)

/-- Whether OPC holds an operation in a unit's opcode map (R87). -/
def FU.assigns (u : FU) (opc : Nat) : Bool :=
  match u with
  | .ia => (0x01 ≤ opc && opc ≤ 0x1C) || (0x20 ≤ opc && opc ≤ 0x25) || (0x28 ≤ opc && opc ≤ 0x2C)
  | .ib => (0x01 ≤ opc && opc ≤ 0x1C) || (0x20 ≤ opc && opc ≤ 0x25) || (0x28 ≤ opc && opc ≤ 0x2C)
  | .ag => (0x01 ≤ opc && opc ≤ 0x0A)
  | .mu => (0x01 ≤ opc && opc ≤ 0x05) || (0x08 ≤ opc && opc ≤ 0x0D)
  | .cf => (0x01 ≤ opc && opc ≤ 0x03) || (0x08 ≤ opc && opc ≤ 0x0A) || opc == 0x0F
  | .ls => (0x01 ≤ opc && opc ≤ 0x07) || (0x09 ≤ opc && opc ≤ 0x0C) || (0x10 ≤ opc && opc ≤ 0x15) || (0x18 ≤ opc && opc ≤ 0x1D) || (0x20 ≤ opc && opc ≤ 0x2A) || (0x30 ≤ opc && opc ≤ 0x32) || (0x40 ≤ opc && opc ≤ 0x43)
  | .vp => (0x01 ≤ opc && opc ≤ 0x08) || (0x10 ≤ opc && opc ≤ 0x1A) || (0x20 ≤ opc && opc ≤ 0x2D) || (0x30 ≤ opc && opc ≤ 0x34) || (0x37 ≤ opc && opc ≤ 0x3C) || (0x3F ≤ opc && opc ≤ 0x44) || (0x48 ≤ opc && opc ≤ 0x52) || (0x54 ≤ opc && opc ≤ 0x59)
  | .mx => (0x01 ≤ opc && opc ≤ 0x09)
  | .ch => (0x01 ≤ opc && opc ≤ 0x07)
  | .ks => (0x01 ≤ opc && opc ≤ 0x05)
  | .sy => (0x01 ≤ opc && opc ≤ 0x0C) || (0x10 ≤ opc && opc ≤ 0x15) || (0x20 ≤ opc && opc ≤ 0x25) || (0x30 ≤ opc && opc ≤ 0x33) || (0x40 ≤ opc && opc ≤ 0x41)
  | .qm => (0x01 ≤ opc && opc ≤ 0x07) || (0x09 ≤ opc && opc ≤ 0x0C) || (0x10 ≤ opc && opc ≤ 0x15) || (0x18 ≤ opc && opc ≤ 0x1D) || (0x22 ≤ opc && opc ≤ 0x2A) || (0x30 ≤ opc && opc ≤ 0x31) || (0x40 ≤ opc && opc ≤ 0x45)
  | .qs => (0x01 ≤ opc && opc ≤ 0x03)
  | .db => (0x01 ≤ opc && opc ≤ 0x04)

/-- The reasons with which a single move word is illegal by itself (R92, checks 2 and 4). -/
def illegalReasons : List Nat := [4, 5, 6, 7, 9]

/-- A core the package has (R2, R11). -/
def CoreId.wf (c : CoreId) : Bool :=
  match c.kind with
  | .compute => decide (c.die < Config.computeDies) && decide (c.idx < 1024)
  | .quay => decide (c.die < Config.computeDies) && decide (c.idx < 64)
  | .harbour => decide (Config.computeDies ≤ c.die) && decide (c.die < Config.dies) && decide (c.idx < 16)
  | .lighthouse => decide (c.die < Config.dies) && c.idx == 0

/-- A unit on a die of the package (R502). -/
def UnitId.wf (u : UnitId) : Bool := decide (u.die < Config.dies)

/-- A source of a register write: a host port is 0 or 1 (R399). -/
def RegSource.wf : RegSource → Bool
  | .port p | .config p _ => decide (p < 2)
  | .harbour | .leader => true

/-- An inbound request's address lies in the device's memory where it is one of BAR2 (R404). -/
def BarAddr.wf : BarAddr → Bool
  | .bar2 a => decide (a < 2 * Config.deviceBytes)
  | .mem a => decide (a < Config.deviceBytes)
  | .bar4 off => decide (off < 0x10000)
  | .udctl die _ => decide (die < Config.dies)
  | .bar0 _ _ | .bar0Bad _ | .bar0Free _ => true

/-- Well-formed instructions. -/
def Instr.wf : Instr → Bool
  | .move h dst => h.wf && dst.wf
  | .linePad => true
  | .iaAdd h => h.wf
  | .iaSub h => h.wf
  | .iaAnd h => h.wf
  | .iaOr h => h.wf
  | .iaXor h => h.wf
  | .iaAndn h => h.wf
  | .iaSll h => h.wf
  | .iaSrl h => h.wf
  | .iaSra h => h.wf
  | .iaRol h => h.wf
  | .iaRor h => h.wf
  | .iaMin h => h.wf
  | .iaMax h => h.wf
  | .iaMinu h => h.wf
  | .iaMaxu h => h.wf
  | .iaCeq h => h.wf
  | .iaCne h => h.wf
  | .iaClt h => h.wf
  | .iaCltu h => h.wf
  | .iaCge h => h.wf
  | .iaCgeu h => h.wf
  | .iaSel h => h.wf
  | .iaPopc h => h.wf
  | .iaClz h => h.wf
  | .iaCtz h => h.wf
  | .iaExt h => h.wf
  | .iaExtu h => h.wf
  | .iaIns h => h.wf
  | .iaSxb h => h.wf
  | .iaSxh h => h.wf
  | .iaSxw h => h.wf
  | .iaZxb h => h.wf
  | .iaZxh h => h.wf
  | .iaZxw h => h.wf
  | .iaAddw h => h.wf
  | .iaSubw h => h.wf
  | .iaSllw h => h.wf
  | .iaSrlw h => h.wf
  | .iaSraw h => h.wf
  | .ibAdd h => h.wf
  | .ibSub h => h.wf
  | .ibAnd h => h.wf
  | .ibOr h => h.wf
  | .ibXor h => h.wf
  | .ibAndn h => h.wf
  | .ibSll h => h.wf
  | .ibSrl h => h.wf
  | .ibSra h => h.wf
  | .ibRol h => h.wf
  | .ibRor h => h.wf
  | .ibMin h => h.wf
  | .ibMax h => h.wf
  | .ibMinu h => h.wf
  | .ibMaxu h => h.wf
  | .ibCeq h => h.wf
  | .ibCne h => h.wf
  | .ibClt h => h.wf
  | .ibCltu h => h.wf
  | .ibCge h => h.wf
  | .ibCgeu h => h.wf
  | .ibSel h => h.wf
  | .ibPopc h => h.wf
  | .ibClz h => h.wf
  | .ibCtz h => h.wf
  | .ibExt h => h.wf
  | .ibExtu h => h.wf
  | .ibIns h => h.wf
  | .ibSxb h => h.wf
  | .ibSxh h => h.wf
  | .ibSxw h => h.wf
  | .ibZxb h => h.wf
  | .ibZxh h => h.wf
  | .ibZxw h => h.wf
  | .ibAddw h => h.wf
  | .ibSubw h => h.wf
  | .ibSllw h => h.wf
  | .ibSrlw h => h.wf
  | .ibSraw h => h.wf
  | .agPadd h => h.wf
  | .agPsub h => h.wf
  | .agPtag h => h.wf
  | .agPfmt h => h.wf
  | .agPblk h => h.wf
  | .agPclr h => h.wf
  | .agPidx h => h.wf
  | .agCadr h => h.wf
  | .agLcl h => h.wf
  | .agCoord h => h.wf
  | .muMul h => h.wf
  | .muMulh h => h.wf
  | .muMulhu h => h.wf
  | .muMulhsu h => h.wf
  | .muMulw h => h.wf
  | .muDiv h => h.wf
  | .muDivu h => h.wf
  | .muRem h => h.wf
  | .muRemu h => h.wf
  | .muDivw h => h.wf
  | .muRemw h => h.wf
  | .cfBr h => h.wf
  | .cfJmp h => h.wf
  | .cfCall h => h.wf
  | .cfLoop0 h => h.wf
  | .cfLoop1 h => h.wf
  | .cfRep h => h.wf
  | .cfBrk h => h.wf
  | .lsLd8 h => h.wf
  | .lsLd8u h => h.wf
  | .lsLd16 h => h.wf
  | .lsLd16u h => h.wf
  | .lsLd32 h => h.wf
  | .lsLd32u h => h.wf
  | .lsLd64 h => h.wf
  | .lsSt8 h => h.wf
  | .lsSt16 h => h.wf
  | .lsSt32 h => h.wf
  | .lsSt64 h => h.wf
  | .lsLdacqCore h => h.wf
  | .lsLdacqCluster h => h.wf
  | .lsLdacqDie h => h.wf
  | .lsLdacqDevice h => h.wf
  | .lsLdacqDomain h => h.wf
  | .lsLdacqSystem h => h.wf
  | .lsStrelCore h => h.wf
  | .lsStrelCluster h => h.wf
  | .lsStrelDie h => h.wf
  | .lsStrelDevice h => h.wf
  | .lsStrelDomain h => h.wf
  | .lsStrelSystem h => h.wf
  | .lsLla h => h.wf
  | .lsSsu h => h.wf
  | .lsCas h => h.wf
  | .lsSwap h => h.wf
  | .lsAadd h => h.wf
  | .lsAand h => h.wf
  | .lsAor h => h.wf
  | .lsAmin h => h.wf
  | .lsAmax h => h.wf
  | .lsAminu h => h.wf
  | .lsAmaxu h => h.wf
  | .lsFget h => h.wf
  | .lsFput h => h.wf
  | .lsFclr h => h.wf
  | .lsBwait h => h.wf
  | .lsBadv h => h.wf
  | .lsBpush h => h.wf
  | .lsBstat h => h.wf
  | .vpVld h => h.wf
  | .vpVldx h => h.wf
  | .vpVst h => h.wf
  | .vpVstx h => h.wf
  | .vpVstm h => h.wf
  | .vpBcast h => h.wf
  | .vpDq h => h.wf
  | .vpVldb h => h.wf
  | .vpAdd h => h.wf
  | .vpSub h => h.wf
  | .vpMul h => h.wf
  | .vpFma h => h.wf
  | .vpFnma h => h.wf
  | .vpMin h => h.wf
  | .vpMax h => h.wf
  | .vpMinu h => h.wf
  | .vpMaxu h => h.wf
  | .vpAbs h => h.wf
  | .vpNeg h => h.wf
  | .vpCeq h => h.wf
  | .vpCne h => h.wf
  | .vpClt h => h.wf
  | .vpCle h => h.wf
  | .vpCltu h => h.wf
  | .vpCleu h => h.wf
  | .vpSel h => h.wf
  | .vpAnd h => h.wf
  | .vpOr h => h.wf
  | .vpXor h => h.wf
  | .vpAndn h => h.wf
  | .vpSll h => h.wf
  | .vpSrl h => h.wf
  | .vpSra h => h.wf
  | .vpCvtRne h => h.wf
  | .vpCvtRtz h => h.wf
  | .vpCvtRup h => h.wf
  | .vpCvtRdn h => h.wf
  | .vpCvtRsr h => h.wf
  | .vpCvtDyn h => h.wf
  | .vpCvtSatRne h => h.wf
  | .vpCvtSatRtz h => h.wf
  | .vpCvtSatRup h => h.wf
  | .vpCvtSatRdn h => h.wf
  | .vpCvtSatRsr h => h.wf
  | .vpCvtSatDyn h => h.wf
  | .vpRadd h => h.wf
  | .vpRmin h => h.wf
  | .vpRmax h => h.wf
  | .vpRminu h => h.wf
  | .vpRmaxu h => h.wf
  | .vpPerm h => h.wf
  | .vpShuf h => h.wf
  | .vpZiplo h => h.wf
  | .vpZiphi h => h.wf
  | .vpUnzipe h => h.wf
  | .vpUnzipo h => h.wf
  | .vpExt h => h.wf
  | .vpIns h => h.wf
  | .vpDot8 h => h.wf
  | .vpDot8u h => h.wf
  | .vpDot8su h => h.wf
  | .vpExp2 h => h.wf
  | .vpLog2 h => h.wf
  | .vpRcp h => h.wf
  | .vpRsqrt h => h.wf
  | .vpNrcp h => h.wf
  | .vpNrsq h => h.wf
  | .mxMmac h => h.wf
  | .mxMlut h => h.wf
  | .mxMsemi h => h.wf
  | .mxMzero h => h.wf
  | .mxMload h => h.wf
  | .mxMdrain h => h.wf
  | .mxMscale h => h.wf
  | .mxMbar h => h.wf
  | .mxMstat h => h.wf
  | .qmLd8 h => h.wf
  | .qmLd8u h => h.wf
  | .qmLd16 h => h.wf
  | .qmLd16u h => h.wf
  | .qmLd32 h => h.wf
  | .qmLd32u h => h.wf
  | .qmLd64 h => h.wf
  | .qmSt8 h => h.wf
  | .qmSt16 h => h.wf
  | .qmSt32 h => h.wf
  | .qmSt64 h => h.wf
  | .qmLdacqCore h => h.wf
  | .qmLdacqCluster h => h.wf
  | .qmLdacqDie h => h.wf
  | .qmLdacqDevice h => h.wf
  | .qmLdacqDomain h => h.wf
  | .qmLdacqSystem h => h.wf
  | .qmStrelCore h => h.wf
  | .qmStrelCluster h => h.wf
  | .qmStrelDie h => h.wf
  | .qmStrelDevice h => h.wf
  | .qmStrelDomain h => h.wf
  | .qmStrelSystem h => h.wf
  | .qmCas h => h.wf
  | .qmSwap h => h.wf
  | .qmAadd h => h.wf
  | .qmAand h => h.wf
  | .qmAor h => h.wf
  | .qmAmin h => h.wf
  | .qmAmax h => h.wf
  | .qmAminu h => h.wf
  | .qmAmaxu h => h.wf
  | .qmPush h => h.wf
  | .qmPull h => h.wf
  | .qmFenceCore h => h.wf
  | .qmFenceCluster h => h.wf
  | .qmFenceDie h => h.wf
  | .qmFenceDevice h => h.wf
  | .qmFenceDomain h => h.wf
  | .qmFenceSystem h => h.wf
  | .qsRun h => h.wf
  | .qsStat h => h.wf
  | .qsCancel h => h.wf
  | .chSend h => h.wf
  | .chSendm h => h.wf
  | .chRecv h => h.wf
  | .chPoll h => h.wf
  | .chFree h => h.wf
  | .chMatch h => h.wf
  | .chUnmatch h => h.wf
  | .ksYield h => h.wf
  | .ksEnd h => h.wf
  | .ksEmit h => h.wf
  | .ksDrain h => h.wf
  | .ksStat h => h.wf
  | .sySlack h => h.wf
  | .syBar h => h.wf
  | .syWait h => h.wf
  | .syCwait h => h.wf
  | .syCinc h => h.wf
  | .syYield h => h.wf
  | .syHstart h => h.wf
  | .syHjoin h => h.wf
  | .syTend h => h.wf
  | .syDreq h => h.wf
  | .syLaunch h => h.wf
  | .syLpatch h => h.wf
  | .syFenceCore h => h.wf
  | .syFenceCluster h => h.wf
  | .syFenceDie h => h.wf
  | .syFenceDevice h => h.wf
  | .syFenceDomain h => h.wf
  | .syFenceSystem h => h.wf
  | .syCsrr h => h.wf
  | .syCsrw h => h.wf
  | .syCsrs h => h.wf
  | .syCsrc h => h.wf
  | .syTrap h => h.wf
  | .syTret h => h.wf
  | .syIflushCore h => h.wf
  | .syIflushCluster h => h.wf
  | .syIflushDie h => h.wf
  | .syIflushDevice h => h.wf
  | .sySubmit h => h.wf
  | .syHalt h => h.wf
  | .dbCyc h => h.wf
  | .dbPerf h => h.wf
  | .dbPsel h => h.wf
  | .dbMark h => h.wf
  | .resultComplete _ => true
  | .stallSwitch => true
  | .loopEndCheck => true
  | .repetitionEnd => true
  | .fetchLineFill line => line.toNat % 64 == 0
  | .storePerformed _ => true
  | .waitReleased => true
  | .trapEntry => true
  | .vectorBind => true
  | .vectorComplete => true
  | .matrixAccept => true
  | .matrixFetchDone => true
  | .matrixStepStart => true
  | .matrixCommandComplete => true
  | .streamRecordTake => true
  | .streamStart => true
  | .streamSlotCommit => true
  | .streamRecordEnd => true
  | .pushWriteDone => true
  | .pullWriteDone => true
  | .messageLand _ => true
  | .taskRelease => true
  | .scopeMiss => true
  | .activationFill => true
  | .creditGrant stage => decide (stage < 64)
  | .hamperArrival _ => true
  | .spillVictimWrite set => decide (set < 2048)
  | .bucketFetch set => decide (set < 2048)
  | .overflowServe set => decide (set < 2048)
  | .activationHandoff => true
  | .idleTimeout set way => decide (set < 2048) && decide (way < 8)
  | .dispenserAnswer rec _ => decide (rec < 4096)
  | .exchangeStart rec => decide (rec < 4096)
  | .transferStart rec => decide (rec < 4096)
  | .transferEnd rec => decide (rec < 4096)
  | .exchangePhaseEnd rec => decide (rec < 4096)
  | .slackRelease rec => decide (rec < 4096)
  | .recordPlace rec _ _ => decide (rec < 4096)
  | .preempt => true
  | .contextCopyOut => true
  | .jobResume rec _ _ => decide (rec < 4096)
  | .timer rec => decide (rec < 4096)
  | .contextIdRecycle _ => true
  | .undertowCandidate die => decide (die < Config.dies)
  | .undertowConfirm die => decide (die < Config.dies)
  | .inboundWrite port dst _ _ _ _ _ => decide (port < 2) && dst.wf
  | .pieceLeave port _ _ => decide (port < 2)
  | .pieceAck port _ _ => decide (port < 2)
  | .inboundRead port src _ _ _ _ _ => decide (port < 2) && src.wf
  | .msixMessage _ => true
  | .vfEnable port _ => decide (port < 2)
  | .portLinkDown port _ => decide (port < 2)
  | .hsemAcquire src n _ => src.wf && decide (n < 64)
  | .hsemRelease src n _ => src.wf && decide (n < 64)
  | .devrst src => src.wf
  | .packageReset _ _ _ => true
  | .drtailWrite die e _ => decide (8 ≤ die) && decide (die < Config.dies) && decide (e < 64)
  | .drcfgWrite die e _ => decide (8 ≤ die) && decide (die < Config.dies) && decide (e < 64)
  | .dmaAbort die e => decide (8 ≤ die) && decide (die < Config.dies) && decide (e < 64)
  | .dmaResume die e => decide (8 ≤ die) && decide (die < Config.dies) && decide (e < 64)
  | .dmaDescriptorStart die e => decide (8 ≤ die) && decide (die < Config.dies) && decide (e < 64)
  | .dmaDescriptorDone die e => decide (8 ≤ die) && decide (die < Config.dies) && decide (e < 64)
  | .qtailWrite q _ => decide (q < 4096)
  | .qctlReset q => decide (q < 4096)
  | .queueResident die => decide (8 ≤ die) && decide (die < Config.dies)
  | .queueSlotYield q => decide (q < 4096)
  | .pktNoop q => decide (q < 4096)
  | .pktLaunch q => decide (q < 4096)
  | .pktFence q => decide (q < 4096)
  | .pktWait q => decide (q < 4096)
  | .pktSignalStore q => decide (q < 4096)
  | .pktSignalHost q => decide (q < 4096)
  | .pktLeg q => decide (q < 4096)
  | .packetComplete q => decide (q < 4096)
  | .legFire q leg => decide (q < 4096) && decide (leg < 1024)
  | .mbResync port _ => decide (port < 2)
  | .mbKill port rec => decide (port < 2) && decide (rec < 4096)
  | .mbKillDump port rec => decide (port < 2) && decide (rec < 4096)
  | .mbBadCommand port => decide (port < 2)
  | .fatalEcc => true
  | .leaseRenewal _ => true
  | .leaseLapse die => decide (die < Config.dies)
  | .voteRequest die _ => decide (die < Config.dies)
  | .mgmtLinkFail _ => true
  | .tlbinvAll => true
  | .tlbinvAsid _ => true
  | .tlbinvRange _ => true
  | .tlbinvComplete => true
  | .tlbWalk die _ _ _ _ _ _ => decide (die < Config.dies)
  | .prqRetry _ => true
  | .prqFail _ => true
  | .regcmtGo => true
  | .regionClearDone => true
  | .vfctlReset v => decide (v < 64)
  | .vfResetDrained v => decide (v < 64)
  | .remoteAccessArrival _ _ _ _ _ => true
  | .flitReceive port _ _ _ _ => decide (port < 18)
  | .shumbiviaPortDown port => decide (port < 18)
  | .remoteTimeout _ => true
  | .keyRollover port _ => decide (port < 18)
  | .keyRetire port => decide (port < 18)
  | .crtailWrite die _ => decide (8 ≤ die) && decide (die < Config.dies)
  | .crAbort die => decide (8 ≤ die) && decide (die < Config.dies)
  | .crResume die => decide (8 ≤ die) && decide (die < Config.dies)
  | .collectiveStart die => decide (8 ≤ die) && decide (die < Config.dies)
  | .collectiveComplete die _ => decide (8 ≤ die) && decide (die < Config.dies)
  | .dcmdHalt => true
  | .dcmdResume => true
  | .dcmdStep => true
  | .breakpointMatch => true
  | .crossTriggerHalt => true
  | .dgrpResume grp => decide (grp < 64)
  | .ddataRead => true
  | .ddataWrite _ => true
  | .frzctlAssert rec => decide (rec < 4096)
  | .frzctlRelease rec => decide (rec < 4096)
  | .traceStop => true
  | .tidemarkPulse => true
  | .bootctlRecovery src => src.wf
  | .bootctlMain src => src.wf
  | .bootctlRaiseSvn src => src.wf
  | .bootctlFuseOwner src slot _ => src.wf && decide (slot < 8)
  | .bootctlRevokeOwner src slot => src.wf && decide (slot < 8)
  | .bootctlSetOwnmode src mode => src.wf && decide (mode < 4)
  | .attcmdGo _ => true
  | .keySlotWrite _ _ => true
  | .islandClockChange n => decide (n < 528)
  | .cappingCheck => true
  | .thermalTrip n _ => decide (n < 528)
  | .eccError where_ _ => where_.wf
  | .registerWrite _ _ src => src.wf
  | .illegalOp h u opc => h.wf && !u.assigns opc.toNat
  | .illegalMove _ reason => illegalReasons.contains reason
  | .hostLinkUp port _ => decide (port < 2)
  | .shumbiviaPortUp port _ => decide (port < 18)

end Sys2Proof
end

