-- ==== Sys2Proof/Safety.lean ====
section
/-! DEFINITION. The terms in which statements are made: when a move goes out as a bundle of its own, what it leaves as it was, and the
canonical form of every memory. -/

set_option autoImplicit false
set_option Elab.async false

namespace Sys2Proof.Machine

/-! ## A move that goes out (R16 to R22, R92) -/

/-- The source of a move, its register renamed (R33). -/
def State.srcOf (s : State) (h : Hdr) : Src := renameSrc s.sl.csr.rpc h.src

/-- The value that a move carries (R17). -/
def State.moved (s : State) (h : Hdr) : VWord := s.sl.readSrc (s.srcOf h)

/-- The value that a move carries to a port of 64 bits (R14). -/
def State.moved64 (s : State) (h : Hdr) : Word := narrow (s.moved h)

/-- A move is the whole bundle that the slot in focus issues: the core carries the unit its source names, and a result port that it reads
has been triggered (R19) and holds its result (R18). -/
structure Reads (h : Hdr) (s : State) : Prop where
  alone : s.bus = none
  issuing : s.sl.run = .issuing
  source : carried s.coreId.kind (srcUnit (s.srcOf h)) = true
  valid : s.validSrc (s.srcOf h) = true
  ready : s.srcStall (s.srcOf h) = false

/-- A trigger goes out as a bundle of its own: its core carries the unit (R11), the unit is free to take it (R21, R22, R120, R162), and
its guard takes it (R17). -/
structure Goes (u : FU) (opc : Nat) (h : Hdr) (s : State) : Prop extends Reads h s where
  carries : s.coreId.kind.carries u = true
  free : s.unitStall u opc = false
  taken : s.sl.takes h = true

/-- The state in which the operation of a trigger begins: the bundle is open, and the trigger latch holds the value (R15). -/
def State.latched (s : State) (u : FU) (h : Hdr) : State :=
  (s.openBundle (moveWords h.src)).onSl fun t => t.setPort u .t (s.moved h)

/-- The bundle after a move's bundle (R122): the move's own word and its long immediates lie before it. -/
def State.nextPc (s : State) (h : Hdr) : Word := s.sl.pc + w64 (4 * (1 + (srcWords h.src).length))

/-! ## What a bundle leaves as it was -/

/-- Every memory of the device, read byte by byte, is as it was. -/
def SameMemory (s t : State) : Prop := ∀ p : Home, t.readHome p 1 = s.readHome p 1

/-- The state with what every bundle changes blanked out: the retired count and the event counts (R41, R237), where execution goes on,
and the bundle's own notes. -/
def State.blur (s : State) : State :=
  (s.onSl fun t => { t with csr := { t.csr with iret := 0 }, npc := 0, next := 0, flow := .seq, after := none, csrw := none, seedw := none,
                            stall := 0 }).onCore fun c => { c with perf := c.perf.map fun p => { p with count := 0 } }

/-- The state with a unit's latches of the slot in focus blanked out as well. -/
def State.without (s : State) (u : FU) : State := s.blur.onSl fun t => t.onLat u fun _ => Lat.reset

/-- The registers, guards and CSRs of the slot in focus are as they were, but for `iret`, which has counted the bundle (R41). -/
structure SameRegs (s t : State) : Prop where
  x : t.sl.x = s.sl.x
  v : t.sl.v = s.sl.v
  o : t.sl.o = s.sl.o
  g : t.sl.g = s.sl.g
  csrs : ∀ n, n ≠ 7 → t.csr n = s.csr n
  retired : t.csr 7 = s.csr 7 + 1

/-- The frame of a trigger that writes only its own unit's latches: every register, guard and CSR but `iret`, every other unit's latches,
the other slots, all of memory, and every other part of the device are as they were. -/
structure OnlyUnit (u : FU) (s t : State) : Prop extends SameRegs s t where
  lats : ∀ w, w ≠ u → t.lat w = s.lat w
  slots : ∀ n : Fin 4, n ≠ s.core.cur → t.core.slots[n] = s.core.slots[n]
  memory : SameMemory s t
  rest : t.without u = s.without u

/-- The slot in focus after a trigger that goes out alone: its unit's latches as `f` makes them from those that hold the moved value, one
more bundle retired, and execution going on at the next bundle (R15, R41, R122). -/
def State.ran (s : State) (u : FU) (h : Hdr) (f : Lat → Lat) : Slot :=
  { s.sl.onLat u (fun l => f { l with t := s.moved64 h }) with
      csr := { s.sl.csr with iret := s.sl.csr.iret + 1 }, npc := s.nextPc h, next := s.nextPc h, flow := .seq, after := none,
      csrw := none, seedw := none, stall := 0 }

/-- Latches whose unit has answered (R18, R19). -/
def answered (q q2 : Word) (l : Lat) : Lat := { l with q := q, q2 := q2, valid := true, fly := none }

/-- Latches whose unit is to answer later (R20). -/
def entered (opc lo hi : Nat) (q q2 : Word) (l : Lat) : Lat := { l with fly := some ⟨opc, 0, lo, hi, q, q2⟩ }

/-- The state with the counts of the core's event counters blanked out (R237). -/
def State.uncounted (s : State) : State := s.onCore fun c => { c with perf := c.perf.map fun p => { p with count := 0 } }

/-- Nothing but the slot in focus and counts of event counters has changed. -/
structure OnlySlot (s t : State) : Prop where
  slots : ∀ n : Fin 4, n ≠ s.core.cur → t.core.slots[n] = s.core.slots[n]
  memory : SameMemory s t
  rest : (t.setSl s.sl).uncounted = s.uncounted

/-- The core in focus writes no trace (R492). -/
def State.untraced (s : State) : Prop := bit (s.reg (.trctl s.coreId)) 0 = false

/-- A trigger of latency 1 has answered: its results stand at its result ports, its operand latches hold what they held, its trigger latch
holds the value moved, and execution goes on at the next bundle (R15, R18, R20, R122). -/
structure Answers (u : FU) (h : Hdr) (q q2 : Word) (s t : State) : Prop extends OnlyUnit u s t where
  lat : t.lat u = answered q q2 { s.lat u with t := s.moved64 h }
  next : t.sl.npc = s.nextPc h

/-- A trigger of a longer latency has entered its unit, to answer after `lo` to `hi` core cycles (R18, R20): until then its result ports
and its valid bit are as they were. -/
structure Launches (u : FU) (opc : Nat) (h : Hdr) (lo hi : Nat) (q q2 : Word) (s t : State) : Prop extends OnlyUnit u s t where
  lat : t.lat u = entered opc lo hi q q2 { s.lat u with t := s.moved64 h }
  next : t.sl.npc = s.nextPc h

/-! ## The canonical form of every memory -/

/-- Every memory of the device is in its canonical form. -/
structure State.MemoryForm (s : State) : Prop where
  core : s.core.mem.wf
  others : ∀ p ∈ s.others, p.2.mem.wf
  device : s.dm.wf
  host : s.hm.wf
  scales : ∀ p ∈ s.octets, p.2.scale.wf
  slotA : s.flash.slotA.wf
  slotB : s.flash.slotB.wf
  slotR : s.flash.slotR.wf

end Sys2Proof.Machine
end

