-- ==== Sys2Proof/Certificates/Slice0/Obligations.lean ====
section
/-! DEFINITION. The statements about the model, for every state unless a hypothesis says otherwise. Each names the rule of the spec that it
states, or the sections it rests on. Where a statement gives a result it concludes that `exec` answers a next state. -/

set_option autoImplicit false
set_option Elab.async false

namespace Sys2Proof.Claims

open Sys2Proof.Machine

/-! ## Integer units (spec/04 R102 to R107) -/

/-- A truth value as the number 1 or 0. -/
def truth (b : Prop) [Decidable b] : Word := if b then 1 else 0

/-- The low `n` bits of a number read as signed: SEXT. -/
def signedLow (n : Nat) (x : Int) : Word := BitVec.ofInt 64 (x.bmod (2 ^ n))

/-- Position of the field that a control word names (R106). -/
def fieldPos (t : Word) : Nat := t.toNat % 64

/-- Its length, clipped to the word (R106). -/
def fieldSize (t : Word) : Nat := min (t.toNat / 256 % 128) (64 - t.toNat % 64)

/-- An integer operation: its opcode, its instruction on `ia` and on `ib`, and its result from `a`, `b` and `t`. -/
abbrev IntegerRow := Nat × (Hdr → Instr) × (Hdr → Instr) × (Word → Word → Word → Word)

/-- Every row of a table answers its result on either unit. -/
def IntegerRows (rows : List IntegerRow) : Prop :=
  ∀ r ∈ rows, ∀ (h : Hdr) (s : State),
    (Goes .ia r.1 h s →
      ∃ t, exec (r.2.1 h) s = .next t ∧ Answers .ia h (r.2.2.2 (s.lat .ia).a (s.lat .ia).b (s.moved64 h)) 0 s t) ∧
    (Goes .ib r.1 h s →
      ∃ t, exec (r.2.2.1 h) s = .next t ∧ Answers .ib h (r.2.2.2 (s.lat .ib).a (s.lat .ib).b (s.moved64 h)) 0 s t)

/-- Arithmetic, logic, shifts and rotates (R103), over numbers. -/
def arithmeticTable : List IntegerRow :=
  [(0x01, .iaAdd, .ibAdd, fun a _ t => BitVec.ofNat 64 (a.toNat + t.toNat)),
   (0x02, .iaSub, .ibSub, fun a _ t => BitVec.ofInt 64 (a.toInt - t.toInt)),
   (0x03, .iaAnd, .ibAnd, fun a _ t => a &&& t),
   (0x04, .iaOr, .ibOr, fun a _ t => a ||| t),
   (0x05, .iaXor, .ibXor, fun a _ t => a ^^^ t),
   (0x06, .iaAndn, .ibAndn, fun a _ t => a &&& ~~~t),
   (0x07, .iaSll, .ibSll, fun a _ t => BitVec.ofNat 64 (a.toNat * 2 ^ (t.toNat % 64))),
   (0x08, .iaSrl, .ibSrl, fun a _ t => BitVec.ofNat 64 (a.toNat / 2 ^ (t.toNat % 64))),
   (0x09, .iaSra, .ibSra, fun a _ t => BitVec.ofInt 64 (a.toInt / 2 ^ (t.toNat % 64))),
   (0x0A, .iaRol, .ibRol, fun a _ t => BitVec.ofNat 64 (a.toNat * 2 ^ (t.toNat % 64) + a.toNat / 2 ^ (64 - t.toNat % 64))),
   (0x0B, .iaRor, .ibRor, fun a _ t => BitVec.ofNat 64 (a.toNat / 2 ^ (t.toNat % 64) + a.toNat % 2 ^ (t.toNat % 64) * 2 ^ (64 - t.toNat % 64)))]

/-- The smaller and the larger, comparisons (R103) and `sel` (R104). -/
def comparisonTable : List IntegerRow :=
  [(0x0C, .iaMin, .ibMin, fun a _ t => BitVec.ofInt 64 (min a.toInt t.toInt)),
   (0x0D, .iaMax, .ibMax, fun a _ t => BitVec.ofInt 64 (max a.toInt t.toInt)),
   (0x0E, .iaMinu, .ibMinu, fun a _ t => BitVec.ofNat 64 (min a.toNat t.toNat)),
   (0x0F, .iaMaxu, .ibMaxu, fun a _ t => BitVec.ofNat 64 (max a.toNat t.toNat)),
   (0x10, .iaCeq, .ibCeq, fun a _ t => truth (a.toNat = t.toNat)),
   (0x11, .iaCne, .ibCne, fun a _ t => truth (a.toNat ≠ t.toNat)),
   (0x12, .iaClt, .ibClt, fun a _ t => truth (a.toInt < t.toInt)),
   (0x13, .iaCltu, .ibCltu, fun a _ t => truth (a.toNat < t.toNat)),
   (0x14, .iaCge, .ibCge, fun a _ t => truth (t.toInt ≤ a.toInt)),
   (0x15, .iaCgeu, .ibCgeu, fun a _ t => truth (t.toNat ≤ a.toNat)),
   (0x16, .iaSel, .ibSel, fun a b t => if t.toNat = 0 then b else a)]

/-- Bit counts and extensions (R105), bit fields (R106) and the word forms (R107). -/
def fieldTable : List IntegerRow :=
  [(0x17, .iaPopc, .ibPopc, fun _ _ t => BitVec.ofNat 64 ((List.range 64).countP fun i => t.getLsbD i)),
   (0x18, .iaClz, .ibClz, fun _ _ t => BitVec.ofNat 64 (64 - (if t.toNat = 0 then 0 else t.toNat.log2 + 1))),
   (0x19, .iaCtz, .ibCtz, fun _ _ t => BitVec.ofNat 64 ((List.range 64).takeWhile fun i => !t.getLsbD i).length),
   (0x1A, .iaExt, .ibExt, fun a _ t => signedLow (fieldSize t) (a.toNat / 2 ^ fieldPos t : Nat)),
   (0x1B, .iaExtu, .ibExtu, fun a _ t => BitVec.ofNat 64 (a.toNat / 2 ^ fieldPos t % 2 ^ fieldSize t)),
   (0x1C, .iaIns, .ibIns, fun a b t => BitVec.ofNat 64 (a.toNat % 2 ^ fieldPos t + b.toNat % 2 ^ fieldSize t * 2 ^ fieldPos t + a.toNat / 2 ^ (fieldPos t + fieldSize t) * 2 ^ (fieldPos t + fieldSize t))),
   (0x20, .iaSxb, .ibSxb, fun _ _ t => signedLow 8 t.toNat),
   (0x21, .iaSxh, .ibSxh, fun _ _ t => signedLow 16 t.toNat),
   (0x22, .iaSxw, .ibSxw, fun _ _ t => signedLow 32 t.toNat),
   (0x23, .iaZxb, .ibZxb, fun _ _ t => BitVec.ofNat 64 (t.toNat % 2 ^ 8)),
   (0x24, .iaZxh, .ibZxh, fun _ _ t => BitVec.ofNat 64 (t.toNat % 2 ^ 16)),
   (0x25, .iaZxw, .ibZxw, fun _ _ t => BitVec.ofNat 64 (t.toNat % 2 ^ 32)),
   (0x28, .iaAddw, .ibAddw, fun a _ t => signedLow 32 (a.toNat + t.toNat)),
   (0x29, .iaSubw, .ibSubw, fun a _ t => signedLow 32 (a.toNat - t.toNat)),
   (0x2A, .iaSllw, .ibSllw, fun a _ t => signedLow 32 (a.toNat * 2 ^ (t.toNat % 32))),
   (0x2B, .iaSrlw, .ibSrlw, fun a _ t => signedLow 32 (a.toNat % 2 ^ 32 / 2 ^ (t.toNat % 32) : Nat)),
   (0x2C, .iaSraw, .ibSraw, fun a _ t => BitVec.ofInt 64 ((a.toNat : Int).bmod (2 ^ 32) / 2 ^ (t.toNat % 32)))]

/-! ## Address unit (spec/04 R108 to R115) -/

/-- A trap in place of a result: its code and `tval`. -/
abbrev Answer := Except (Nat × Word) Word

/-- Bits per element of the format codes 0 to 15 (R77). -/
def widths : List Nat := [8, 8, 8, 16, 32, 64, 16, 16, 32, 8, 8, 4, 4, 4, 1, 2]

/-- `a` moved by a number of bytes, its tag kept; TAG_CARRY where the address would leave 56 bits (R109). -/
def shifted (a : Word) (d : Int) : Answer :=
  let x := (a.toNat % 2 ^ 56 : Nat) + d
  if x < 0 ∨ 2 ^ 56 ≤ x then .error (0x09, a) else .ok (BitVec.ofNat 64 (a.toNat / 2 ^ 56 * 2 ^ 56 + x.toNat))

/-- An address operation: its opcode, its instruction, and its answer on a core, from `a` and `t`. -/
abbrev AddressRow := Nat × (Hdr → Instr) × (CoreKind → Core → Word → Word → Answer)

/-- The operations of `ag` (R109 to R115). -/
def addressTable : List AddressRow :=
  [(0x01, .agPadd, fun _ _ a t => shifted a t.toInt),
   (0x02, .agPsub, fun _ _ a t => .ok (BitVec.ofInt 64 ((a.toNat % 2 ^ 56 : Nat) - (t.toNat % 2 ^ 56 : Nat)))),
   (0x03, .agPtag, fun _ _ a t =>
     if 16 ≤ t.toNat / 8 % 32 then .error (0x0A, t) else .ok (BitVec.ofNat 64 (t.toNat % 256 * 2 ^ 56 + a.toNat % 2 ^ 56))),
   (0x04, .agPfmt, fun _ _ _ t => .ok (BitVec.ofNat 64 (t.toNat / 2 ^ 59))),
   (0x05, .agPblk, fun _ _ _ t => .ok (if t.toNat / 2 ^ 56 % 8 = 0 then 0 else BitVec.ofNat 64 (8 * 2 ^ (t.toNat / 2 ^ 56 % 8)))),
   (0x06, .agPclr, fun _ _ _ t => .ok (BitVec.ofNat 64 (t.toNat % 2 ^ 56))),
   (0x07, .agPidx, fun _ _ a t =>
     match widths[a.toNat / 2 ^ 59]? with
     | none => .error (0x0A, a)
     | some (w : Nat) => if ¬ (8 : Int) ∣ t.toInt * (w : Int) then .error (0x0A, a) else shifted a (t.toInt * (w : Int) / 8)),
   (0x08, .agCadr, fun k _ a t =>
     if k ≠ .compute then .error (0x02, t) else if 256 ≤ a.toNat then .error (0x07, a)
     else if 0x30000 ≤ t.toNat then .error (0x07, t) else .ok (BitVec.ofNat 64 (a.toNat * 2 ^ 18 + t.toNat))),
   (0x09, .agLcl, fun k _ _ t =>
     if k ≠ .compute then .error (0x02, t) else if 0x30000 ≤ t.toNat then .error (0x07, t)
     else .ok (BitVec.ofNat 64 (0x4000000 + t.toNat))),
   (0x0A, .agCoord, fun k c _ t =>
     let row := t.toNat / 2 ^ 8 % 32
     let col := t.toNat % 32
     if k ≠ .compute then .error (0x02, t)
     else if ¬ (row / 16 = c.row / 16 ∧ col / 16 = c.col / 16) then .error (0x07, t)
     else .ok (BitVec.ofNat 64 ((row % 16 * 16 + col % 16) * 2 ^ 18)))]

/-! ## Multiplier and divider (spec/04 R116 to R120) -/

/-- Bits [127:64] of an exact product. -/
def upperHalf (p : Int) : Word := BitVec.ofInt 64 (p / 2 ^ 64)

/-- The multiply forms: opcode, instruction, result (R117). -/
def multiplyTable : List (Nat × (Hdr → Instr) × (Word → Word → Word)) :=
  [(0x01, .muMul, fun a t => BitVec.ofNat 64 (a.toNat * t.toNat)),
   (0x02, .muMulh, fun a t => upperHalf (a.toInt * t.toInt)),
   (0x03, .muMulhu, fun a t => upperHalf ((a.toNat : Int) * t.toNat)),
   (0x04, .muMulhsu, fun a t => upperHalf (a.toInt * t.toNat)),
   (0x05, .muMulw, fun a t => signedLow 32 (a.toNat % 2 ^ 32 * (t.toNat % 2 ^ 32) : Nat))]

/-- The operands of a divide form as numbers: of 64 bits or 32, signed or unsigned. -/
def operand (n : Nat) (signed : Bool) (w : Word) : Int := if signed then (w.toNat : Int).bmod (2 ^ n) else (w.toNat % 2 ^ n : Nat)

/-- Quotient and remainder of integers, truncated toward zero, with the fixed results of R49. -/
def divided (n : Nat) (x y : Int) : Int × Int :=
  if y = 0 then (-1, x) else if x = -2 ^ (n - 1) ∧ y = -1 then (x, 0) else (x.tdiv y, x.tmod y)

/-- The latency of a divide form (R119). -/
def divideCycles (n : Nat) (signed : Bool) (x y : Int) : Nat :=
  if y = 0 ∨ x = 0 ∨ (signed ∧ x = -2 ^ (n - 1) ∧ y = -1) then 2 else 2 + (x.natAbs.log2 + 1)

/-- The divide forms: opcode, instruction, width, whether signed, and whether the remainder is meant (R118). -/
def divideTable : List (Nat × (Hdr → Instr) × Nat × Bool × Bool) :=
  [(0x08, .muDiv, 64, true, false), (0x09, .muDivu, 64, false, false), (0x0A, .muRem, 64, true, true),
   (0x0B, .muRemu, 64, false, true), (0x0C, .muDivw, 32, true, false), (0x0D, .muRemw, 32, true, true)]

/-! ## Control unit (spec/04 R121 to R130) -/

/-- The target of a branch, jump or call (R123). -/
def branchTable : List (Nat × (Hdr → Instr) × (State → Hdr → Word) × (State → Hdr → Word)) :=
  [(0x01, .cfBr, fun s h => s.sl.pc + s.moved64 h, fun _ _ => 0),
   (0x02, .cfJmp, fun s h => s.moved64 h, fun _ _ => 0),
   (0x03, .cfCall, fun s h => s.moved64 h, fun s h => s.nextPc h)]

/-- A body holds an address (R32). -/
def within (b e x : Word) : Bool := decide (b.toNat ≤ x.toNat ∧ x.toNat ≤ e.toNat)

/-- The slot after a taken branch to a target: outside the bodies that do not hold it, level 0 with level 1 if that goes, and no
repetition (R32, R34). -/
def afterBranch (s : State) (h : Hdr) (target q : Word) : Slot :=
  let t := s.sl
  let keep1 := t.la1 && within t.csr.lb1 t.csr.le1 target
  let keep0 := t.la0 && within t.csr.lb0 t.csr.le0 target && (!t.la1 || keep1)
  let u := s.ran .cf h (answered q 0)
  { u with csr := { u.csr with xstat := setBits t.csr.xstat 15 14 (2 * keep1.toNat + keep0.toNat), rpc := setBits t.csr.rpc 63 63 0 },
           npc := target, flow := .branch, bubble := 2 }

/-- The trap that `loop0` or `loop1` comes to, in the order of R124. -/
def loopTrap (level1 : Bool) (s : State) (h : Hdr) : Option (Nat × Word) :=
  let t := s.moved64 h
  let a := (s.lat .cf).a
  let e := s.sl.pc + t
  let next := s.nextPc h
  if s.sl.repActive then some (0x02, t)
  else if e.toNat % 4 ≠ 0 then some (0x06, e)
  else if e.toNat < next.toNat then some (0x02, t)
  else if 0xFFFFFFFF < a.toNat then some (0x02, a)
  else if level1 = false ∧ s.sl.la1 ∧ (next.toNat < s.sl.csr.lb1.toNat ∨ s.sl.csr.le1.toNat < e.toNat) then some (0x02, t)
  else none

/-- The slot after `loop0` or `loop1` (R124): its level's registers, and the levels active. -/
def afterLoop (level1 : Bool) (s : State) (h : Hdr) : Slot :=
  let a := (s.lat .cf).a
  let e := bundleAddr (s.sl.pc + s.moved64 h)
  let b := bundleAddr (s.nextPc h)
  let on := if a = 0 then 0 else 1
  let u := s.ran .cf h (answered 0 0)
  if level1 then
    { u with csr := { u.csr with lb1 := b, le1 := e, lc1 := a, xstat := setBits u.csr.xstat 15 14 (2 * on) }, flow := .loopSet }
  else
    { u with csr := { u.csr with lb0 := b, le0 := e, lc0 := a, xstat := setBits u.csr.xstat 15 14 (2 * u.la1.toNat + on) },
             flow := .loopSet }

/-- The trap that `rep` comes to, in the order of R127. `body` is the addresses of the body's bundles. -/
def repTrap (s : State) (h : Hdr) (body : List Nat) : Option (Nat × Word) :=
  let t := s.moved64 h
  let a := (s.lat .cf).a
  let base := a.toNat % 32
  let size := a.toNat / 2 ^ 8 % 64
  if s.sl.repActive then some (0x02, t)
  else if a.toNat / 2 ^ 19 ≠ 0 ∨ a.toNat / 2 ^ 14 % 4 ≠ 0 ∨ a.toNat / 2 ^ 5 % 8 ≠ 0 then some (0x02, a)
  else if t.toNat / 2 ^ 28 ≠ 0 ∨ t.toNat / 2 ^ 4 % 2 ^ 12 ≠ 0 then some (0x02, t)
  else if size ≠ 0 ∧ (base = 0 ∨ 32 < base + size) then some (0x02, a)
  else if (s.sl.la0 ∧ s.sl.csr.le0.toNat ∈ body) ∨ (s.sl.la1 ∧ s.sl.csr.le1.toNat ∈ body) then some (0x02, t)
  else none

/-- The slot after `rep` (R127). -/
def afterRep (s : State) (h : Hdr) : Slot :=
  let t := (s.moved64 h).toNat
  let a := (s.lat .cf).a.toNat
  let u := s.ran .cf h (answered 0 0)
  { u with csr := { u.csr with
      rpb := bundleAddr (s.nextPc h)
      rpc := BitVec.ofNat 64 (2 ^ 63 + a % 32 * 2 ^ 58 + a / 2 ^ 8 % 64 * 2 ^ 52 + a / 2 ^ 16 % 8 * 2 ^ 49 + t % 16 * 2 ^ 44 +
        t / 2 ^ 16 % 2 ^ 12 * 2 ^ 24) },
           flow := .loopSet, rep := [] }

/-! ## Moves and the course of a bundle (spec/01 R14 to R31, spec/03 R80 to R93) -/

/-- A slot in which a value has been moved to a destination that starts no unit (R13, R14, R23, R24). -/
def placed (t : Slot) (d : Dst) (v : VWord) : Slot :=
  match d with
  | .x n => if n.val = 0 then t else { t with x := t.x.set n (v.setWidth 64) }
  | .v n => { t with v := t.v.set n v }
  | .o n => { t with o := t.o.set n (v.setWidth 64) }
  | .g n => { t with g := t.g.set n (decide (v.setWidth 64 ≠ 0)) }
  | .port .vp .a => { t with va := v }
  | .port .vp .b => { t with vb := v }
  | .port .vp .c => { t with vc := v }
  | .port u .a => t.onLat u fun l => { l with a := v.setWidth 64 }
  | .port u .b => t.onLat u fun l => { l with b := v.setWidth 64 }
  | .port u .c => t.onLat u fun l => { l with c := v.setWidth 64 }
  | .port _ _ => t

/-- A destination that a move may name (R83). -/
def movable : Dst → Bool
  | .g n => n.val != 0
  | .port u p => u.canWrite p
  | _ => true

/-- The slot after a bundle that wrote nothing or wrote what `t` shows: one more bundle retired, and the next bundle to come. -/
def stepped (s : State) (h : Hdr) (t : Slot) : Slot :=
  { t with csr := { t.csr with iret := t.csr.iret + 1 }, npc := s.nextPc h, next := s.nextPc h, flow := .seq, after := none,
           csrw := none, seedw := none, stall := 0 }

/-- `tval` of a decode trap of a one-move bundle (R93): REASON, move 0, the renamed word. -/
def decodeInfo (s : State) (reason : Nat) (w : HWord) : Word :=
  BitVec.ofNat 64 (reason * 2 ^ 36 + (renameWord s.sl.csr.rpc w).toNat)

/-- The bundle cannot issue in this cycle: the slot is Stalled, and nothing else has changed but a count (R26). -/
def Stalls (i : Instr) (s : State) : Prop :=
  ∃ t, exec i s = .next t ∧ t.sl = { s.sl with run := .stalled, stall := s.sl.stall + 1 } ∧ OnlySlot s t

/-! ## Traps (spec/09) -/

/-- The codes whose Vector column says user (R240). -/
def userCodes : List Nat := [0x0B, 0x0C, 0x0E, 0x10, 0x11, 0x12]

/-- The level at which a first-level trap is handled: 0 through `uvec`, else 1, or 3 on a lighthouse core (R243). -/
def trapLevel (s : State) (code : Nat) : Nat :=
  if code ∈ userCodes ∧ bit s.sl.csr.uvec 0 ∧ s.sl.priv = 0 then 0 else if s.coreId.kind = .lighthouse then 3 else 1

/-- What first-level entry leaves (R246 to R249). -/
structure EntersTrap (code lvl : Nat) (value at_ : Word) (s t : State) : Prop where
  cause : t.sl.csr.cause = w64 code
  tval : t.sl.csr.tval = value
  epc : t.sl.csr.epc = at_
  estat : t.sl.csr.estat = w64 (1 + s.sl.priv * 2 ^ 4 + lvl * 2 ^ 8)
  level : t.sl.priv = lvl
  loops : t.sl.la0 = false ∧ t.sl.la1 = false ∧ t.sl.repActive = false
  handler : t.sl.pc = bundleAddr (if lvl = 0 then s.sl.csr.uvec else s.sl.csr.svec)
  ready : t.sl.run = .ready
  invalid : ∀ u : FU, (t.lat u).valid = false
  x : t.sl.x = s.sl.x
  v : t.sl.v = s.sl.v
  o : t.sl.o = s.sl.o
  g : t.sl.g = s.sl.g
  operands : ∀ u : FU, (t.lat u).a = (s.lat u).a ∧ (t.lat u).b = (s.lat u).b ∧ (t.lat u).c = (s.lat u).c ∧ (t.lat u).t = (s.lat u).t
  savedX : ∀ n : Fin 32, n ≠ 0 → t.core.mem.dword (0x2D000 + 0x800 * s.core.cur + 8 * n) = s.sl.x[n]
  savedG : ∀ n : Fin 4, n ≠ 0 → bit (t.core.mem.dword (0x2D000 + 0x800 * s.core.cur + 0x5D0)) n = s.sl.g[n]
  savedEpc : t.core.mem.dword (0x2D000 + 0x800 * s.core.cur + 0x7D0) = at_
  tag : imageTag ((imageAt t.core.mem (0x2D000 + 0x800 * s.core.cur)).take 255) =
    t.core.mem.dword (0x2D000 + 0x800 * s.core.cur + 0x7F8)

/-- The image of the slot in focus, as the stores that its handler has made leave it. -/
def imageOf (s : State) : List Word := imageAt s.drain.core.mem (0x2D000 + 0x800 * s.core.cur)

/-- The save area of the slot in focus holds no sound image: it is marked bad, an error in it could not be corrected, or its TAG is wrong
(R251, R253). -/
def ImageBad (s : State) : Prop :=
  s.sl.badImage.isSome = true ∨ s.core.badAreas.contains s.core.cur.val = true ∨ imageTag ((imageOf s).take 255) ≠ dwordAt (imageOf s) 255

/-- The image may be restored: its TAG is right, no error in it is known, and the checks of R251 pass. -/
def Restorable (s : State) : Prop :=
  s.sl.badImage = none ∧ s.core.badAreas.contains s.core.cur.val = false ∧ imageTag ((imageOf s).take 255) = dwordAt (imageOf s) 255 ∧
    imageFault s.coreId.kind (imageOf s) s.sl.hlvl = none

/-! ## Scratchpad unit (spec/05 R132 to R154) -/

/-- Nothing of the slot in focus waits to be performed: no buffered store, no push or pull on its way; and no notice waits outside the
core's buffer; and what it has read has been seen in full (R140, R146, R198, R214, R333). -/
structure Settled (s : State) : Prop where
  stores : s.sl.sb = []
  pushes : ∀ p ∈ s.pushes, s.isMine p = false
  pulls : ∀ p ∈ s.pulls, s.isMine p = false
  notices : s.core.outside = []
  seen : s.unseen = []

/-- The checks of R135 in their order: the target and offset of an access, or its trap code. -/
def accessPlace (s : State) (t : Word) (n : Nat) (writes : Bool) : Except Nat (CoreId × Nat) :=
  let x := t.toNat
  let kind := s.coreId.kind
  let place : Except Nat (CoreId × Nat) :=
    if x / 2 ^ 27 % 2 ^ 29 ≠ 0 then .error 0x07
    else if x / 2 ^ 26 % 2 = 1 then
      if kind = .compute ∧ x / 2 ^ 18 % 2 ^ 8 ≠ 0 then .error 0x07 else .ok (s.coreId, x % 2 ^ 26)
    else if kind ≠ .compute then .error 0x07
    else if s.clusterInSpan (x / 2 ^ 18 % 2 ^ 8) = false then .error 0x07
    else .ok (s.clusterCore (x / 2 ^ 18 % 2 ^ 8), x % 2 ^ 18)
  match place with
  | .error e => .error e
  | .ok (c, off) =>
    let limit := match c.kind with
      | .compute => 0x30000
      | .quay => 0x80000
      | .harbour => 0x100000
      | .lighthouse => 0x40000
    let m := s.coreAt c
    if limit < off + n then .error 0x07
    else if 0x2D000 ≤ off ∧ off < 0x30000 ∧ s.sl.priv = 0 ∧ (c.kind = .compute ∨ c.kind = .quay) then .error 0x03
    else if c.kind = .harbour ∧ s.sl.priv = 0 then .error 0x03
    else if off % n ≠ 0 then .error 0x06
    else if writes ∧ ∃ b : Fin 16, m.berths[b].isSome ∧ off < 0x2C800 + 32 * b + 32 ∧ 0x2C800 + 32 * b < off + n then .error 0x07
    else if ∃ l ∈ m.ranges, (writes = true ∨ l.write = true) ∧ l.start < off + n ∧ off ≤ l.stop then .error 0x0B
    else .ok (c, off)

/-- Loads: opcode, instruction, bytes, whether sign-extended (R138, R140). -/
def loadTable : List (Nat × (Hdr → Instr) × Nat × Bool) :=
  [(0x01, .lsLd8, 1, true), (0x02, .lsLd8u, 1, false), (0x03, .lsLd16, 2, true), (0x04, .lsLd16u, 2, false),
   (0x05, .lsLd32, 4, true), (0x06, .lsLd32u, 4, false), (0x07, .lsLd64, 8, false), (0x10, .lsLdacqCore, 8, false),
   (0x11, .lsLdacqCluster, 8, false), (0x12, .lsLdacqDie, 8, false), (0x13, .lsLdacqDevice, 8, false),
   (0x14, .lsLdacqDomain, 8, false), (0x15, .lsLdacqSystem, 8, false)]

/-- Stores: opcode, instruction, bytes, and the scope of a release (R138, R140, R149). -/
def storeTable : List (Nat × (Hdr → Instr) × Nat × Option Nat) :=
  [(0x09, .lsSt8, 1, none), (0x0A, .lsSt16, 2, none), (0x0B, .lsSt32, 4, none), (0x0C, .lsSt64, 8, none),
   (0x18, .lsStrelCore, 8, some 0), (0x19, .lsStrelCluster, 8, some 1), (0x1A, .lsStrelDie, 8, some 2),
   (0x1B, .lsStrelDevice, 8, some 3), (0x1C, .lsStrelDomain, 8, some 4), (0x1D, .lsStrelSystem, 8, some 5),
   (0x31, .lsFput, 8, some 1)]

/-- What a doubleword becomes by an atomic, and whether that is stored, from its old value and operands `a` and `b` (R145). -/
abbrev AtomicRow := Nat × (Hdr → Instr) × (Word → Word → Word → Option Word)

/-- The atomics (R145). -/
def atomicTable : List AtomicRow :=
  [(0x22, .lsCas, fun old a b => if old = a then some b else none), (0x23, .lsSwap, fun _ a _ => some a),
   (0x24, .lsAadd, fun old a _ => some (BitVec.ofNat 64 (old.toNat + a.toNat))), (0x25, .lsAand, fun old a _ => some (old &&& a)),
   (0x26, .lsAor, fun old a _ => some (old ||| a)), (0x27, .lsAmin, fun old a _ => some (BitVec.ofInt 64 (min old.toInt a.toInt))),
   (0x28, .lsAmax, fun old a _ => some (BitVec.ofInt 64 (max old.toInt a.toInt))),
   (0x29, .lsAminu, fun old a _ => some (BitVec.ofNat 64 (min old.toNat a.toNat))),
   (0x2A, .lsAmaxu, fun old a _ => some (BitVec.ofNat 64 (max old.toNat a.toNat)))]

/-- Latency of an access by R134: on the issuing core's own memory, or on another's. -/
def accessCycles (s : State) (c : CoreId) (near far : Nat) : Nat × Nat := if c = s.coreId then (near, near) else (far, far + 22)

/-- The slot in focus, as a lock names it. -/
def me (s : State) : CoreId × Nat := (s.coreId, s.core.cur.val)

/-- The lock bit of a doubleword is open to the slot in focus: no other slot holds it (R142, R145). -/
def LockOpen (s : State) (c : CoreId) (off : Nat) : Prop := ∀ q, (s.coreAt c).holder (lockBit off) = some q → q = me s

/-- A byte offset that a write of `n` bytes at `off` may change: one of the bytes written, or a byte of the TAG of a save area that they
meet (R249). -/
def Touches (off n a : Nat) : Prop :=
  (off ≤ a ∧ a < off + n) ∨
    ∃ k < 4, 0x2D000 + 0x800 * k < off + n ∧ off < 0x2D000 + 0x800 * k + 0x800 ∧ 0x2D000 + 0x800 * k + 0x7F8 ≤ a ∧
      a < 0x2D000 + 0x800 * k + 0x800

/-- Memory after a write of `n` bytes at `off` of core `c`: every other byte of every core, of device memory and of the host is as it
was. -/
def WritesOnly (c : CoreId) (off n : Nat) (s t : State) : Prop :=
  (∀ (id : CoreId) (a : Nat), id ≠ c ∨ ¬ Touches off n a → (t.coreAt id).mem.byte a = (s.coreAt id).mem.byte a) ∧
    (∀ a, t.dm.byte a = s.dm.byte a) ∧ ∀ a, t.hm.byte a = s.hm.byte a

/-- A wait reason: ACTIVE, KIND, MODE, GEN one on from the old one, RELEASER, OBJECT (R380, R381). -/
def reasonWord (old : Word) (kind mode releaser object : Nat) : Word :=
  BitVec.ofNat 64 (2 ^ 63 + kind * 2 ^ 59 + mode * 2 ^ 56 + (old.toNat / 2 ^ 48 % 256 + 1) % 256 * 2 ^ 48 +
    releaser % 2 ^ 24 * 2 ^ 24 + object % 2 ^ 24)

/-- The slot of a trigger that waits (R26, R380, R381): Blocked, its unit's results as they were, its wait reason recorded. -/
def waiting (s : State) (u : FU) (opc : Nat) (h : Hdr) (kind mode releaser object : Nat) (held : List Byte) : Slot :=
  let r := s.ran u h id
  { r with run := .blocked, wait := some ⟨u, BitVec.ofNat 8 opc, none, held⟩, since := s.time,
           csr := { r.csr with wrr := reasonWord s.sl.csr.wrr kind mode releaser object } }

/-- No wait is refused: the slot runs no supervisor or machine handler (R244). -/
def MayWait (s : State) : Prop := ¬ (s.sl.inh = true ∧ s.sl.hlvl ≠ 0)

/-- The berth that a handle names passes the checks of R151 for an end of it. -/
structure BerthOpen (s : State) (h : Hdr) (counted wide : Bool) (ends : Option Bool) (c : CoreId) (d : Berth) : Prop where
  kind : s.coreId.kind = .compute
  handle : (s.moved64 h).toNat / 2 ^ 24 = 0 ∧ (s.moved64 h).toNat / 2 ^ 9 % 2 ^ 7 = 0 ∧ (s.moved64 h).toNat / 2 ^ 4 % 16 = 0
  count : counted = true → (s.lat .ls).a.toNat % 2 ^ 16 ≠ 0 ∧ (s.lat .ls).a.toNat / 2 ^ (if wide then 17 else 16) = 0
  span : bit (s.moved64 h) 8 = true → s.clusterInSpan ((s.moved64 h).toNat / 2 ^ 16 % 256) = true
  core : c = if bit (s.moved64 h) 8 then s.clusterCore ((s.moved64 h).toNat / 2 ^ 16 % 256) else s.coreId
  declared : s.berthAt c ((s.moved64 h).toNat % 16) = some d
  mine : ∀ e, ends = some e → (if e then d.prod else d.cons) / 4 = s.party / 4
  fits : wide = true → (s.lat .ls).a.toNat % 2 ^ 16 ≤ d.n

/-- The address of slot `i` of a berth in the form its handle implies (R152). -/
def slotAddress (t : Word) (d : Berth) (i : Nat) : Word :=
  BitVec.ofNat 64 ((if bit t 8 then t.toNat / 2 ^ 16 % 256 * 2 ^ 18 else 0x4000000) + (d.base + i % d.n * d.slotb))

/-! ## Vector port (spec/06 R155 to R181) -/

/-- But for the slot in focus and counts of event counters, the device is as `s` shows it. -/
def Apart (s t : State) : Prop := (t.setSl s.sl).uncounted = s.uncounted

/-- The state whose vector queue has gained an entry of the slot in focus (R162). -/
def withEntry (s : State) (opc lat ready late : Nat) (q : VWord) (q2 : Word) (flags : Nat) : State :=
  s.onCore fun c => { c with vq := c.vq ++ [⟨s.core.cur, BitVec.ofNat 8 opc, q, q2, flags, 0, lat, ready, late, false, false, false⟩] }

/-- Bits per lane of a lane format (R77, R158). -/
def laneBits (f : Nat) : Nat := widths.getD f 64

/-- Lane `n` of a register. -/
def laneAt (f : Nat) (v : VWord) (n : Nat) : Nat := v.toNat / 2 ^ (laneBits f * n) % 2 ^ laneBits f

/-- The mode code in force (R57, R160). -/
def modeInForce (s : State) (code : Nat) : Nat := if code = 7 then s.sl.csr.frm.toNat % 8 else code

/-- The trap that a computing operation comes to, in the order of R160. -/
def vectorTrap (s : State) (o : VOp) (ctl : Word) : Option Nat :=
  let code := modeInForce s (o.mode.getD (bits ctl 7 5))
  let allowed := 0x1F ||| (if o.form.m then 0x100 else 0) ||| (if o.form.rm then 0xE0 else 0) ||| (if o.form.sat then 0x200 else 0) |||
    (if o.form.lane then 0x3F000000 else 0) ||| (if o.form.fmt2 then 0x1F0000 else 0)
  if ctl.toNat &&& allowed ≠ ctl.toNat ∨ bits ctl 7 5 = 5 ∨ bits ctl 7 5 = 6 ∨ code ∈ [5, 6, 7] then some 0x02
  else if ctl.toNat % 32 ∉ o.form.fmts ∨ (o.form.fmt2 = true ∧ ctl.toNat / 2 ^ 16 % 32 ∉ [1, 2, 3, 4, 5, 6, 7, 8, 9, 10]) then some 0x0A
  else if o.late ctl code = true ∨ o.limit ctl ≤ ctl.toNat / 2 ^ 24 % 64 then some 0x02
  else none

/-- What a computing operation reads: the latches, the control word, the mode, and the random numbers of its roundings (R60, R162). -/
def vectorIn (s : State) (o : VOp) (ctl : Word) : VIn :=
  let code := modeInForce s (o.mode.getD (bits ctl 7 5))
  let rsr := code = 4
  ⟨s.sl.va, s.sl.vb, s.sl.vc, ctl, (rmodeOf code).getD .rne,
    if rsr then (lfsrStates (o.steps ctl) s.sl.csr.srseed).map lfsrRandom else []⟩

/-- `srseed` after a computing operation (R60). -/
def seedAfter (s : State) (o : VOp) (ctl : Word) : Word :=
  if modeInForce s (o.mode.getD (bits ctl 7 5)) = 4 then (lfsrStates (o.steps ctl) s.sl.csr.srseed).getLastD s.sl.csr.srseed
  else s.sl.csr.srseed

/-- The signed number of a lane, or the unsigned number of a UINT8 lane (R158). -/
def laneValue (f x : Nat) : Int := if f = 2 then x else (x : Int).bmod (2 ^ laneBits f)

/-- The low bits of an integer, or the nearest value of the lane's format with SAT (R65, R170). -/
def laneResult (f : Nat) (sat : Bool) (x : Int) : Nat :=
  let w := laneBits f
  let lo : Int := if f = 2 then 0 else -2 ^ (w - 1)
  let hi : Int := if f = 2 then 2 ^ w - 1 else 2 ^ (w - 1) - 1
  ((if sat then max lo (min hi x) else x) % 2 ^ w).toNat

/-- A lane operation: opcode, instruction, formats, and the lane's result from format, SAT, and lanes of `a` and `b`. -/
abbrev LaneRow := Nat × (Hdr → Instr) × List Nat × (Nat → Bool → Nat → Nat → Nat)

/-- The integer operations of R170 and the bit operations of R173. -/
def laneTable : List LaneRow :=
  [(0x10, .vpAdd, [1, 2, 3, 4, 5], fun f sat a b => laneResult f sat (laneValue f a + laneValue f b)),
   (0x11, .vpSub, [1, 2, 3, 4, 5], fun f sat a b => laneResult f sat (laneValue f a - laneValue f b)),
   (0x12, .vpMul, [1, 2, 3, 4, 5], fun f sat a b => laneResult f sat (laneValue f a * laneValue f b)),
   (0x15, .vpMin, [1, 2, 3, 4, 5], fun f _ a b => laneResult f false (min (laneValue f a) (laneValue f b))),
   (0x16, .vpMax, [1, 2, 3, 4, 5], fun f _ a b => laneResult f false (max (laneValue f a) (laneValue f b))),
   (0x17, .vpMinu, [1, 2, 3, 4, 5], fun _ _ a b => min a b),
   (0x18, .vpMaxu, [1, 2, 3, 4, 5], fun _ _ a b => max a b),
   (0x19, .vpAbs, [1, 2, 3, 4, 5], fun f sat a _ => laneResult f sat (laneValue f a).natAbs),
   (0x1A, .vpNeg, [1, 2, 3, 4, 5], fun f sat a _ => laneResult f sat (0 - laneValue f a)),
   (0x27, .vpAnd, [1, 2, 3, 4, 5, 6, 7, 8], fun _ _ a b => a &&& b),
   (0x28, .vpOr, [1, 2, 3, 4, 5, 6, 7, 8], fun _ _ a b => a ||| b),
   (0x29, .vpXor, [1, 2, 3, 4, 5, 6, 7, 8], fun _ _ a b => a ^^^ b),
   (0x2A, .vpAndn, [1, 2, 3, 4, 5, 6, 7, 8], fun _ _ a b => a - (a &&& b)),
   (0x2B, .vpSll, [1, 2, 3, 4, 5], fun f _ a b => a * 2 ^ (b % laneBits f) % 2 ^ laneBits f),
   (0x2C, .vpSrl, [1, 2, 3, 4, 5], fun f _ a b => a / 2 ^ (b % laneBits f)),
   (0x2D, .vpSra, [1, 2, 3, 4, 5], fun f _ a b => ((a : Int).bmod (2 ^ laneBits f) / 2 ^ (b % laneBits f) % 2 ^ laneBits f).toNat)]

/-- The comparisons of R171 on integer lanes. -/
def laneCompareTable : List (Nat × (Hdr → Instr) × (Nat → Nat → Nat → Bool)) :=
  [(0x20, .vpCeq, fun _ a b => a == b), (0x21, .vpCne, fun _ a b => a != b),
   (0x22, .vpClt, fun f a b => decide (laneValue f a < laneValue f b)),
   (0x23, .vpCle, fun f a b => decide (laneValue f a ≤ laneValue f b)),
   (0x24, .vpCltu, fun _ a b => decide (a < b)), (0x25, .vpCleu, fun _ a b => decide (a ≤ b))]

/-- Lane choices of R172, R176 and R177: opcode, instruction, control bits besides FMT, and lane `n` of the result. -/
def laneChoiceTable : List (Nat × (Hdr → Instr) × (State → Nat → Nat → Nat → Nat)) :=
  [(0x06, .vpBcast, fun s f _ _ => s.sl.va.toNat % 2 ^ laneBits f),
   (0x26, .vpSel, fun s f _ n => if laneAt f s.sl.vc n / 2 ^ (laneBits f - 1) = 1 then laneAt f s.sl.va n else laneAt f s.sl.vb n),
   (0x48, .vpPerm, fun s f _ n => laneAt f s.sl.va (laneAt f s.sl.vb n % (256 / laneBits f))),
   (0x49, .vpShuf, fun s f _ n =>
     let k := laneAt f s.sl.vb n % (2 * (256 / laneBits f))
     if k < 256 / laneBits f then laneAt f s.sl.va k else laneAt f s.sl.vc (k - 256 / laneBits f)),
   (0x4A, .vpZiplo, fun s f _ n => laneAt f (if n % 2 = 0 then s.sl.va else s.sl.vb) (n / 2)),
   (0x4B, .vpZiphi, fun s f _ n => laneAt f (if n % 2 = 0 then s.sl.va else s.sl.vb) (256 / laneBits f / 2 + n / 2)),
   (0x4C, .vpUnzipe, fun s f _ n =>
     if 2 * n < 256 / laneBits f then laneAt f s.sl.va (2 * n) else laneAt f s.sl.vb (2 * n - 256 / laneBits f)),
   (0x4D, .vpUnzipo, fun s f _ n =>
     if 2 * n < 256 / laneBits f then laneAt f s.sl.va (2 * n + 1) else laneAt f s.sl.vb (2 * n + 1 - 256 / laneBits f)),
   (0x4F, .vpIns, fun s f lane n => if n = lane then s.sl.vb.toNat % 2 ^ laneBits f else laneAt f s.sl.va n)]

/-! ### Floating-point lanes (spec/02 R52 to R69), over rational numbers -/

/-- Two to an integer power. -/
def twoTo (e : Int) : Rat := if 0 ≤ e then (2 ^ e.toNat : Nat) else 1 / (2 ^ (-e).toNat : Nat)

/-- Fraction bits of a floating-point format code (R52, R77). -/
def fracBits (f : Nat) : Nat := if f = 6 then 10 else if f = 7 then 7 else if f = 8 then 23 else if f = 9 then 3 else 2

/-- The exponent of the smallest subnormal number (R52). -/
def lowest (f : Nat) : Int := if f = 6 then -24 else if f = 7 then -133 else if f = 8 then -149 else if f = 9 then -9 else -16

/-- The magnitude bits of the largest finite number (R52). -/
def largest (f : Nat) : Nat := if f = 6 then 0x7BFF else if f = 7 then 0x7F7F else if f = 8 then 0x7F7FFFFF else if f = 9 then 0x7E else 0x7B

/-- The canonical NaN (R52). -/
def canonical (f : Nat) : Nat := if f = 6 then 0x7E00 else if f = 7 then 0x7FC0 else if f = 8 then 0x7FC00000 else if f = 9 then 0x7F else 0x7E

/-- The number that magnitude bits stand for: subnormal, or normal (R52). -/
def magnitude (f m : Nat) : Rat :=
  let p := 2 ^ fracBits f
  if m < p then m * twoTo (lowest f) else (p + m % p : Nat) * twoTo (lowest f + (m / p : Nat) - 1)

/-- What the bits of a lane stand for (R52, R53): a NaN, signalling or not, an infinity, or a number with its sign. -/
inductive Number where
  | nan (signalling : Bool)
  | inf (negative : Bool)
  | fin (negative : Bool) (value : Rat)

/-- The sign bit in its place. -/
def signBit (f : Nat) (negative : Bool) : Nat := if negative then 2 ^ (laneBits f - 1) else 0

/-- The number of a bit pattern (R52, R53). -/
def number (f x : Nat) : Number :=
  let negative := decide (x / 2 ^ (laneBits f - 1) % 2 = 1)
  let m := x % 2 ^ (laneBits f - 1)
  if m ≤ largest f then .fin negative (if negative then -magnitude f m else magnitude f m)
  else if f ≠ 9 ∧ m = largest f + 1 then .inf negative
  else .nan (decide (f < 9 ∧ m / 2 ^ (fracBits f - 1) % 2 = 0))

/-- Whether a magnitude that lies the fraction `part` of a unit above a kept one is rounded up: in `rne`, `rtz`, `rup`, `rdn`, `rsr` (R56, R59). -/
def goesUp (mode : Nat) (negative : Bool) (random : Nat) (odd : Bool) (part : Rat) : Bool :=
  if mode = 0 then decide (1 / 2 < part ∨ (part = 1 / 2 ∧ odd)) else if mode = 1 then false
  else if mode = 2 then decide (0 < part ∧ negative = false) else if mode = 3 then decide (0 < part ∧ negative = true)
  else decide ((2 : Int) ^ 16 ≤ (part * 2 ^ 16).floor + random)

/-- What a magnitude past the largest finite one becomes (R58, R66). -/
def tooLarge (f mode : Nat) (sat negative : Bool) : Nat :=
  if sat ∨ mode = 1 ∨ (mode = 2 ∧ negative) ∨ (mode = 3 ∧ ¬ negative) then signBit f negative + largest f
  else if f = 9 then canonical f else signBit f negative + largest f + 1

/-- A result is tiny: rounded with an exponent of any size it lies below the smallest normal number (R54). -/
def Tiny (f mode : Nat) (negative : Bool) (random : Nat) (x : Rat) : Prop :=
  ∃ e : Int, twoTo e ≤ x ∧ x < twoTo (e + 1) ∧
    let u := twoTo (e - fracBits f)
    let k := (x / u).floor.toNat
    (if goesUp mode negative random (k % 2 == 1) (x / u - k) then k + 1 else k : Nat) * u < magnitude f (2 ^ fracBits f)

/-- A positive magnitude with a sign is rounded once to a format: the bits and the flags (R54 to R59, R61). -/
def RoundsTo (f mode : Nat) (sat : Bool) (random : Nat) (negative : Bool) (x : Rat) (b flags : Nat) : Prop :=
  (∃ m ≤ largest f, magnitude f m ≤ x ∧ x < magnitude f (m + 1) ∧
    let part := (x - magnitude f m) / (magnitude f (m + 1) - magnitude f m)
    let k := if goesUp mode negative random (m % 2 == 1) part then m + 1 else m
    if k ≤ largest f then
      b = signBit f negative + k ∧ (part = 0 → flags = 0) ∧
        (part ≠ 0 → (Tiny f mode negative random x → flags = 3) ∧ (¬ Tiny f mode negative random x → flags = 1))
    else b = tooLarge f mode sat negative ∧ flags = 5) ∨
  (magnitude f (largest f + 1) ≤ x ∧ b = tooLarge f mode sat negative ∧ flags = 5)

/-- An exact value is rounded once; an exact zero has the sign given (R55). -/
def Delivers (f mode : Nat) (sat : Bool) (random : Nat) (zeroNegative : Bool) (v : Rat) (b flags : Nat) : Prop :=
  if v = 0 then b = signBit f zeroNegative ∧ flags = 0 else RoundsTo f mode sat random (decide (v < 0)) (if v < 0 then -v else v) b flags

/-- The canonical NaN, NV set where an operand was signalling or the operation invalid (R53, R61). -/
def DeliversNan (f : Nat) (invalid : Bool) (b flags : Nat) : Prop := b = canonical f ∧ flags = if invalid then 16 else 0

/-- The product of two numbers: an invalid one counts as a signalling NaN (R55, R61). -/
def Number.times : Number → Number → Number
  | .nan s, .nan t => .nan (s || t)
  | .nan s, _ => .nan s
  | _, .nan t => .nan t
  | .inf a, .inf b => .inf (a != b)
  | .inf a, .fin b v => if v = 0 then .nan true else .inf (a != b)
  | .fin a v, .inf b => if v = 0 then .nan true else .inf (a != b)
  | .fin a v, .fin b w => .fin (a != b) (v * w)

/-- A number with its sign inverted. -/
def Number.minus : Number → Number
  | .nan s => .nan s
  | .inf a => .inf (!a)
  | .fin a v => .fin (!a) (-v)

/-- The sum of two numbers, times a positive factor, is rounded once (R55). -/
def SumIs (f mode random : Nat) (factor : Rat) : Number → Number → Nat → Nat → Prop
  | .nan s, .nan t, b, fl => DeliversNan f (s || t) b fl
  | .nan s, _, b, fl => DeliversNan f s b fl
  | _, .nan t, b, fl => DeliversNan f t b fl
  | .inf a, .inf c, b, fl => if a = c then b = signBit f a + largest f + 1 ∧ fl = 0 else DeliversNan f true b fl
  | .inf a, .fin _ _, b, fl => b = signBit f a + largest f + 1 ∧ fl = 0
  | .fin _ _, .inf c, b, fl => b = signBit f c + largest f + 1 ∧ fl = 0
  | .fin a v, .fin c w, b, fl => Delivers f mode false random (if a = c then a else decide (mode = 3)) ((v + w) * factor) b fl

/-- A product is rounded once (R55). -/
def ProductIs (f mode random : Nat) : Number → Nat → Nat → Prop
  | .nan s, b, fl => DeliversNan f s b fl
  | .inf a, b, fl => b = signBit f a + largest f + 1 ∧ fl = 0
  | .fin a v, b, fl => Delivers f mode false random a v b fl

/-- The order of R63 of two numbers of which none is a NaN; −0 equals +0. -/
def Number.below : Number → Number → Bool
  | .inf a, .inf b => a && !b
  | .inf a, _ => a
  | _, .inf b => !b
  | .fin _ v, .fin _ w => decide (v < w)
  | _, _ => false

/-- A NaN. -/
def Number.isNan : Number → Bool
  | .nan _ => true
  | _ => false

/-- A signalling NaN. -/
def Number.signals : Number → Bool
  | .nan s => s
  | _ => false

/-- The sign of a number. -/
def Number.negative : Number → Bool
  | .nan _ => false
  | .inf a => a
  | .fin a _ => a

/-- Minimum and maximum of two lanes (R63): −0 lies below +0, and a single NaN is passed over. -/
def ExtremeIs (f : Nat) (max? : Bool) (a c b fl : Nat) : Prop :=
  let x := number f a
  let y := number f c
  let lower := x.below y || (!y.below x && x.negative && !y.negative)
  (fl = if x.signals || y.signals then 16 else 0) ∧
    b = if x.isNan && y.isNan then canonical f else if x.isNan then c else if y.isNan then a else if lower = max? then c else a

/-- 1 / x, or 1 / √x with `root`, of a positive x lies at or above a positive number. -/
def reaches (root : Bool) (x y : Rat) : Bool := decide (y * (if root then y else 1) * x ≤ 1)

/-- 1 / √x is rounded to BF16 by a mode other than `rsr` (R180): it can neither overflow nor be tiny. -/
def RootRoundsTo (mode : Nat) (x : Rat) (b fl : Nat) : Prop :=
  ∃ m, reaches true x (magnitude 7 m) = true ∧ reaches true x (magnitude 7 (m + 1)) = false ∧
    let exact := decide (magnitude 7 m * magnitude 7 m * x = 1)
    let half := (magnitude 7 m + magnitude 7 (m + 1)) / 2
    let up := if mode = 0 then reaches true x half && (decide (half * half * x ≠ 1) || m % 2 == 1) else decide (mode = 2) && !exact
    b = (if up then m + 1 else m) ∧ fl = if exact then 0 else 1

/-- The estimate of 1 / x, or of 1 / √x with `root`, in F32 (R180): 8 significant bits, or the subnormal grid where that is coarser, by `rne`;
NX and OF. UF is the model's choice (log 124) and is left open here. -/
def EstimateIs (root negative : Bool) (x : Rat) (b fl : Nat) : Prop :=
  ∃ (e : Int) (k : Nat), reaches root x (twoTo e) = true ∧ reaches root x (twoTo (e + 1)) = false ∧
    let u := twoTo (max (e - 7) (-149))
    reaches root x (k * u) = true ∧ reaches root x ((k + 1 : Nat) * u) = false ∧
    let half := (k + 1 / 2) * u
    let meets := fun (y : Rat) => decide (y * (if root then y else 1) * x = 1)
    let n := if reaches root x half && (!meets half || k % 2 == 1) then k + 1 else k
    let past := decide (twoTo 128 ≤ n * u)
    (if past then b = signBit 8 negative + 0x7F800000 else ∃ m ≤ largest 8, b = signBit 8 negative + m ∧ magnitude 8 m = n * u) ∧
      fl % 2 = (if meets (k * u) && !past then 0 else 1) ∧ fl / 4 = if past then 1 else 0

/-- `rcp` of a lane (R180). -/
def ReciprocalIs (f mode : Nat) (x : Number) (b fl : Nat) : Prop :=
  match x with
  | .nan s => DeliversNan f s b fl
  | .inf a => b = signBit f a ∧ fl = 0
  | .fin a v =>
    if v = 0 then b = signBit f a + largest f + 1 ∧ fl = 8
    else if f = 8 then EstimateIs false a (if v < 0 then -v else v) b fl
    else RoundsTo f mode false 0 a (1 / (if v < 0 then -v else v)) b fl

/-- `rsqrt` of a lane (R180). -/
def RootIs (f mode : Nat) (x : Number) (b fl : Nat) : Prop :=
  match x with
  | .nan s => DeliversNan f s b fl
  | .inf a => if a then DeliversNan f true b fl else b = 0 ∧ fl = 0
  | .fin a v =>
    if v = 0 then b = signBit f a + largest f + 1 ∧ fl = 8
    else if v < 0 then DeliversNan f true b fl
    else if f = 8 then EstimateIs true false v b fl
    else RootRoundsTo mode v b fl

/-- `exp2` of a lane in BF16 (R180), but for numbers that are no integers. -/
def PowerIs (mode : Nat) (x : Number) (b fl : Nat) : Prop :=
  match x with
  | .nan s => DeliversNan 7 s b fl
  | .inf a => b = (if a then 0 else 0x7F80) ∧ fl = 0
  | .fin _ v => ∀ n : Int, v = n → RoundsTo 7 mode false 0 false (twoTo n) b fl

/-- `log2` of a lane in BF16 (R180), but for positive numbers that are no powers of two. -/
def LogarithmIs (mode : Nat) (x : Number) (b fl : Nat) : Prop :=
  match x with
  | .nan s => DeliversNan 7 s b fl
  | .inf a => if a then DeliversNan 7 true b fl else b = 0x7F80 ∧ fl = 0
  | .fin _ v =>
    if v = 0 then b = 0xFF80 ∧ fl = 8 else if v < 0 then DeliversNan 7 true b fl
    else ∀ n : Int, v = twoTo n → Delivers 7 mode false 0 false n b fl

/-- A floating-point lane operation: opcode, instruction, formats, and what a lane and its flags are, from format, mode, random number, and the
lanes of `a`, `b` and `c`. -/
abbrev FloatRow := Nat × (Hdr → Instr) × List Nat × (Nat → Nat → Nat → Nat → Nat → Nat → Nat → Nat → Prop)

/-- The floating-point operations of R170, R180 and R181. -/
def floatTable : List FloatRow :=
  [(0x10, .vpAdd, [6, 7, 8], fun f m r a b _ => SumIs f m r 1 (number f a) (number f b)),
   (0x11, .vpSub, [6, 7, 8], fun f m r a b _ => SumIs f m r 1 (number f a) (number f b).minus),
   (0x12, .vpMul, [6, 7, 8], fun f m r a b _ => ProductIs f m r ((number f a).times (number f b))),
   (0x13, .vpFma, [6, 7, 8], fun f m r a b c => SumIs f m r 1 ((number f a).times (number f b)) (number f c)),
   (0x14, .vpFnma, [6, 7, 8], fun f m r a b c => SumIs f m r 1 ((number f a).times (number f b)).minus (number f c)),
   (0x15, .vpMin, [6, 7, 8], fun f _ _ a b _ => ExtremeIs f false a b),
   (0x16, .vpMax, [6, 7, 8], fun f _ _ a b _ => ExtremeIs f true a b),
   (0x19, .vpAbs, [6, 7, 8], fun f _ _ a _ _ q fl => q = a % 2 ^ (laneBits f - 1) ∧ fl = 0),
   (0x1A, .vpNeg, [6, 7, 8], fun f _ _ a _ _ q fl => q = (a + 2 ^ (laneBits f - 1)) % 2 ^ laneBits f ∧ fl = 0),
   (0x54, .vpExp2, [7], fun _ m _ a _ _ => PowerIs m (number 7 a)),
   (0x55, .vpLog2, [7], fun _ m _ a _ _ => LogarithmIs m (number 7 a)),
   (0x56, .vpRcp, [7, 8], fun f m _ a _ _ => ReciprocalIs f m (number f a)),
   (0x57, .vpRsqrt, [7, 8], fun f m _ a _ _ => RootIs f m (number f a)),
   (0x58, .vpNrcp, [7, 8], fun f m r a b _ => SumIs f m r 1 (.fin false 2) ((number f a).times (number f b)).minus),
   (0x59, .vpNrsq, [7, 8], fun f m r a b _ => SumIs f m r (1 / 2) (.fin false 3) ((number f a).times (number f b)).minus)]

/-- The comparisons of R171 on floating-point lanes (R63): truth, and whether NV is set. -/
def floatCompareTable : List (Nat × (Hdr → Instr) × (Number → Number → Bool × Bool)) :=
  [(0x20, .vpCeq, fun x y => (!x.isNan && !y.isNan && !x.below y && !y.below x, x.signals || y.signals)),
   (0x21, .vpCne, fun x y => (x.isNan || y.isNan || x.below y || y.below x, x.signals || y.signals)),
   (0x22, .vpClt, fun x y => (!x.isNan && !y.isNan && x.below y, x.isNan || y.isNan)),
   (0x23, .vpCle, fun x y => (!x.isNan && !y.isNan && !y.below x, x.isNan || y.isNan))]

/-- An element converted from one lane format to another (R64 to R67). -/
def ConvertsTo (f g mode : Nat) (sat : Bool) (random x b fl : Nat) : Prop :=
  let lo : Int := if g = 2 then 0 else -2 ^ (laneBits g - 1)
  let hi : Int := if g = 2 then 2 ^ 8 - 1 else 2 ^ (laneBits g - 1) - 1
  let low := fun (v : Int) => (v % 2 ^ laneBits g).toNat
  if f ≤ 5 then
    if g ≤ 5 then b = laneResult g sat (laneValue f x) ∧ fl = 0 else Delivers g mode sat random false (laneValue f x) b fl
  else match number f x with
    | .nan s => if g ≤ 5 then b = 0 ∧ fl = 16 else DeliversNan g s b fl
    | .inf a =>
      if g ≤ 5 then b = low (if a then lo else hi) ∧ fl = 16
      else if sat then b = signBit g a + largest g ∧ fl = 1
      else if g = 9 then DeliversNan g true b fl else b = signBit g a + largest g + 1 ∧ fl = 0
    | .fin a v =>
      if g ≤ 5 then
        let w := if a then -v else v
        let k := w.floor.toNat
        let part := w - k
        let n := if goesUp mode a random (k % 2 == 1) part then k + 1 else k
        let z : Int := if a then -(n : Int) else n
        if z < lo then b = low lo ∧ fl = 16 else if hi < z then b = low hi ∧ fl = 16 else b = low z ∧ fl = if part = 0 then 0 else 1
      else Delivers g mode sat random a v b fl

/-- One step of a reduction (R175): opcode, instruction, formats, and the next partial result and its flags from the last one and a lane. -/
def reductionTable : List (Nat × (Hdr → Instr) × List Nat × (Nat → Nat → Nat → Nat → Nat → Nat → Nat → Prop)) :=
  let least := fun (f a c b : Nat) => b = if laneValue f c < laneValue f a then c else a
  let most := fun (f a c b : Nat) => b = if laneValue f a < laneValue f c then c else a
  [(0x40, .vpRadd, [1, 2, 3, 4, 5, 6, 7, 8], fun f m r a c b fl =>
     if f ≤ 5 then b = (a + c) % 2 ^ laneBits f ∧ fl = 0 else SumIs f m r 1 (number f a) (number f c) b fl),
   (0x41, .vpRmin, [1, 2, 3, 4, 5, 6, 7, 8], fun f _ _ a c b fl => if f ≤ 5 then least f a c b ∧ fl = 0 else ExtremeIs f false a c b fl),
   (0x42, .vpRmax, [1, 2, 3, 4, 5, 6, 7, 8], fun f _ _ a c b fl => if f ≤ 5 then most f a c b ∧ fl = 0 else ExtremeIs f true a c b fl),
   (0x43, .vpRminu, [1, 2, 3, 4, 5], fun _ _ _ a c b fl => b = min a c ∧ fl = 0),
   (0x44, .vpRmaxu, [1, 2, 3, 4, 5], fun _ _ _ a c b fl => b = max a c ∧ fl = 0)]

/-- A lane as a scalar of 64 bits (R175, R177). -/
def scalarOf (f : Nat) (unsigned : Bool) (x : Nat) : Word := if f = 2 ∨ 5 < f ∨ unsigned then BitVec.ofNat 64 x else signedLow (laneBits f) x

/-- `cvt` by its mode code: without and with saturation (R174). -/
def convertTable : List (Nat × (Hdr → Instr) × (Hdr → Instr)) :=
  [(0, .vpCvtRne, .vpCvtSatRne), (1, .vpCvtRtz, .vpCvtSatRtz), (2, .vpCvtRup, .vpCvtSatRup), (3, .vpCvtRdn, .vpCvtSatRdn),
   (4, .vpCvtRsr, .vpCvtSatRsr), (7, .vpCvtDyn, .vpCvtSatDyn)]

/-- Dot products (R178): opcode, instruction, whether `a` and `b` are signed. -/
def dotTable : List (Nat × (Hdr → Instr) × Bool × Bool) :=
  [(0x50, .vpDot8, true, true), (0x51, .vpDot8u, false, false), (0x52, .vpDot8su, true, false)]

/-- The codebook of CQ4 (R68). -/
def codebook : List Int := [0, 90, 184, 282, 388, 508, 652, 824, 1024, -100, -202, -308, -424, -560, -736, -1024]

/-- The random number of rounding `n` of an operation in `rsr`, from `srseed` before it (R59, R60). -/
def randomOf (s : State) (n : Nat) : Nat :=
  ((fun x : Word => if x.toNat % 2 = 1 then (x >>> 1) ^^^ 0xD800000000000000 else x >>> 1)^[n + 1] s.sl.csr.srseed).toNat % 2 ^ 16

/-- The flags of several elements together (R62). -/
def together (n : Nat) (fl : Nat → Nat) : Nat := (List.range n).foldl (fun acc k => acc ||| fl k) 0

/-- The vector queue has gained one entry of the slot in focus, with these results. -/
def QueuedResult (s t : State) (opc : Nat) (p : VEntry → Prop) : Prop :=
  ∃ e, t.core.vq = s.core.vq ++ [e] ∧ e.slot = s.core.cur.val ∧ e.opc = BitVec.ofNat 8 opc ∧ e.age = 0 ∧ p e
/-! ## Matrix port (spec/07 R182 to R193) -/

/-- The matrix instructions by class (R183). -/
def matrixTable : List (Nat × (Hdr → Instr)) :=
  [(1, .mxMmac), (2, .mxMlut), (3, .mxMsemi), (4, .mxMzero), (5, .mxMload), (6, .mxMdrain), (7, .mxMscale), (8, .mxMbar), (9, .mxMstat)]

/-- The command that a trigger of `mx` offers: P, Q, `.c`, `.t`, and with `mscale` the record that it reads (R90, R186). -/
def offered (s : State) (cls : Nat) (h : Hdr) : MCmd :=
  let m : MCmd := ⟨cls, (s.lat .mx).a, (s.lat .mx).b, (s.lat .mx).c, s.moved64 h, 0, [], [], [], 0, none, false, 0⟩
  if cls = 7 then { m with layout := s.scaleRecord m } else m

/-- Bits of `.c` that a class uses (R185): K, M, N, SBASE, SOP, ACC, ZA, CLR, RLU, RM. -/
def usedC (cls : Nat) (cq4 : Bool) : Nat :=
  let k := 0xFFFF000000000000
  let mn := 0xFF3F00000000
  match cls with
  | 1 => k + mn + 0xF20 + if cq4 then 0xFFFF0000 else 0
  | 2 => k + mn + 0xF20
  | 3 => k + mn + 0x3F20
  | 4 | 5 => mn + 0xF00
  | 6 => mn + 0xF1F
  | 7 => k + 0x3F00000000 + 0xFFFF0000
  | 9 => 0x10
  | _ => 0

/-! ### Matrix arithmetic (spec/02 R71 to R75, spec/07 R189 to R191), by the numbers of the floating-point lanes -/

/-- The number of an element code of a matrix operand: floating-point, or an integer, signed or not (R48 to R52). -/
def elementNumber (f x : Nat) : Number :=
  if 6 ≤ f ∧ f ≤ 10 then number f x
  else
    let v : Int := if f = 2 ∨ f = 12 then x else (x : Int).bmod (2 ^ laneBits f)
    .fin (decide (v < 0)) v

/-- The infinity of a sign. -/
def Number.isInf : Number → Bool → Bool
  | .inf a, negative => a == negative
  | _, _ => false

/-- The value of a number that is no NaN and no infinity. -/
def Number.real : Number → Rat
  | .fin _ v => v
  | _ => 0

/-- The sum of a chunk's exact products, rounded once to F32 (R73). -/
def ChunkIs (ps : List Number) (b fl : Nat) : Prop :=
  let up := ps.any fun p => p.isInf false
  let down := ps.any fun p => p.isInf true
  if (ps.any fun p => p.isNan) || (up && down) then DeliversNan 8 ((ps.any fun p => p.signals) || (up && down)) b fl
  else if up || down then b = signBit 8 down + 0x7F800000 ∧ fl = 0
  else Delivers 8 0 false 0 false ((ps.map fun p => p.real).foldl (· + ·) 0) b fl

/-- An F32 sum by `rne`. -/
def AddsTo (a c b fl : Nat) : Prop := SumIs 8 0 0 1 (number 8 a) (number 8 c) b fl

/-- Multiply-accumulate of `n` elements of formats `fa` and `fb`, in chunks (R71, R73). -/
def MmacIs (fa fb n : Nat) (a w : Nat → Nat) (acc b fl : Nat) : Prop :=
  let narrow := min (laneBits fa) (laneBits fb)
  let len := if narrow ≤ 4 then 64 else if narrow = 8 then 32 else if narrow = 16 then 16 else 8
  let chunks := (n + len - 1) / len
  ∃ part sum fs fp : Nat → Nat, part 0 = acc ∧ b = part chunks ∧ fl = together chunks (fun c => fs c ||| fp c) ∧
    ∀ c < chunks,
      ChunkIs ((List.range (min len (n - c * len))).map fun i =>
        (elementNumber fa (a (c * len + i))).times (elementNumber fb (w (c * len + i)))) (sum c) (fs c) ∧
      AddsTo (part c) (sum c) (part (c + 1)) (fp c)

/-- Multiply-accumulate of one CQ4 block of `n` codes, with its block scale and superscale (R73). -/
def BlockIs (fa n : Nat) (a w : Nat → Nat) (scale sup acc b fl : Nat) : Prop :=
  ∃ s fs t ft fa' : Nat,
    ChunkIs ((List.range n).map fun i =>
      let kb : Int := codebook.getD (w i) 0 * (scale : Int)
      (elementNumber fa (a i)).times (.fin (decide (kb < 0)) kb)) s fs ∧
    (match (number 8 s).times (number 8 sup) with
      | .nan invalid => DeliversNan 8 invalid t ft
      | .inf negative => t = signBit 8 negative + 0x7F800000 ∧ ft = 0
      | .fin _ v => Delivers 8 0 false 0 false (v / 2 ^ 18) t ft) ∧
    AddsTo acc t b fa' ∧ fl = fs ||| ft ||| fa'

/-- An element of a matrix operand as F32, exactly (R74, R75): F32 as it stands. -/
def WidensTo (f x b fl : Nat) : Prop := if f = 8 then b = x ∧ fl = 0 else ConvertsTo f 8 0 false 0 x b fl

/-- LUT mode over up to 64 activations and weights (R74): the tables `T` of the runs of four, their contributions `G`, and their sum. -/
def LutIs (fa fb n : Nat) (a w : Nat → Nat) (acc b fl : Nat) : Prop :=
  let runs := (n + 3) / 4
  let nibble := fun (g : Nat) (f : Nat → Nat) =>
    (List.range 4).foldl (fun r i => r + (if 4 * g + i < n then f (w (4 * g + i)) else 0) * 2 ^ i) 0
  ∃ (x fx G fG S fS : Nat → Nat) (T fT : Nat → Nat → Nat) (last : Nat),
    (∀ k < n, WidensTo fa (a k) (x k) (fx k)) ∧ (∀ k, n ≤ k → x k = 0) ∧
    (∀ g < runs, T g 0 = 0 ∧ fT g 0 = 0 ∧
      (∀ i, 1 ≤ i → i < 16 → AddsTo (T g (i - 2 ^ i.log2)) (x (4 * g + i.log2)) (T g i) (fT g i)) ∧
      (if fb = 14 then
        SumIs 8 0 0 1 ((number 8 (T g (nibble g id))).times (.fin false 2)) (number 8 (T g 15)).minus (G g) (fG g)
       else
        SumIs 8 0 0 1 (number 8 (T g (nibble g fun c => c % 2))) ((number 8 (T g (nibble g fun c => c / 2))).times (.fin false 2)).minus
          (G g) (fG g))) ∧
    S 0 = 0 ∧ (∀ g < runs, AddsTo (S g) (G g) (S (g + 1)) (fS g)) ∧ AddsTo acc (S runs) b last ∧
    fl = together n fx ||| together runs (fun g => together 16 (fT g) ||| fG g ||| fS g) ||| last

/-- ⊗ of a semiring (R75). -/
def TermIs (sop x y b fl : Nat) : Prop :=
  if sop ≤ 1 then AddsTo x y b fl
  else if sop = 2 then ProductIs 8 0 0 ((number 8 x).times (number 8 y)) b fl
  else b = (if x = 1 ∧ y = 1 then 0x3F800000 else 0) ∧ fl = 0

/-- ⊕ of a semiring (R75): minimum and maximum propagate a NaN. -/
def JoinIs (sop x y b fl : Nat) : Prop :=
  if sop = 3 then b = (if x ≠ 0 ∨ y ≠ 0 then 0x3F800000 else 0) ∧ fl = 0
  else if (number 8 x).isNan || (number 8 y).isNan then DeliversNan 8 ((number 8 x).signals || (number 8 y).signals) b fl
  else ExtremeIs 8 (decide (sop ≠ 0)) x y b fl

/-- A semiring over `n` elements, in chunks (R71, R75): each chunk's terms are joined, then its result with the accumulator. -/
def SemiIs (sop fa fb n : Nat) (a w : Nat → Nat) (acc b fl : Nat) : Prop :=
  let narrow := min (laneBits fa) (laneBits fb)
  let len := if narrow ≤ 4 then 64 else if narrow = 16 then 16 else 8
  let chunks := (n + len - 1) / len
  let bit' := fun (f x y g : Nat) => if f = 14 then y = x ∧ g = 0 else WidensTo f x y g
  ∃ x fx y fy z fz p fp part fa' : Nat → Nat,
    (∀ k < n, bit' fa (a k) (x k) (fx k) ∧ bit' fb (w k) (y k) (fy k) ∧ TermIs sop (x k) (y k) (z k) (fz k) ∧
      (if k % len = 0 then p k = z k ∧ fp k = 0 else JoinIs sop (p (k - 1)) (z k) (p k) (fp k))) ∧
    part 0 = acc ∧ (∀ c < chunks, JoinIs sop (part c) (p (min ((c + 1) * len) n - 1)) (part (c + 1)) (fa' c)) ∧ b = part chunks ∧
    fl = together n (fun k => fx k ||| fy k ||| fz k ||| fp k) ||| together chunks fa'

/-- What a step makes of an accumulator element, from a row of P, a column of Q and the element as it was (R191). -/
def ElementBecomes (m : MCmd) (f : FetchBuf) (i j old b fl : Nat) : Prop :=
  let n := min 64 (m.inner - m.kdone)
  let a := fun k => (f.a.getD i []).getD k 0
  let w := fun k => (f.b.getD j []).getD k 0
  let first := m.za = true ∧ m.kdone = 0
  match m.cls with
  | 1 =>
    let acc := if first then 0 else old
    if m.fmtQ = 13 then BlockIs m.fmtP n a w (f.scales.getD j (0, 0)).1 (f.scales.getD j (0, 0)).2 acc b fl
    else MmacIs m.fmtP m.fmtQ n a w acc b fl
  | 2 => LutIs m.fmtP m.fmtQ n a w (if first then 0 else old) b fl
  | 3 =>
    let identity := if m.sop = 0 then 0x7F800000 else if m.sop = 3 then 0 else 0xFF800000
    SemiIs m.sop m.fmtP m.fmtQ n a w (if first then identity else old) b fl
  | _ => b = (f.a.getD i []).getD j 0 % 2 ^ 32 ∧ fl = 0

/-- The operands in the fetch buffer are those of a step of the command: formats that its class takes, a code for each element along K, each code
within its format (R185, R342). -/
def Feeds (m : MCmd) (f : FetchBuf) : Prop :=
  m.cls = 5 ∨
    (0 < m.inner - m.kdone ∧
      ((m.cls = 1 ∧ m.fmtP ∈ [1, 2, 6, 7, 8, 9, 10, 11, 12] ∧ m.fmtQ ∈ [1, 2, 6, 7, 8, 9, 10, 11, 12, 13]) ∨
        (m.cls = 2 ∧ m.fmtP ∈ [1, 2, 6, 7, 8, 9, 10] ∧ m.fmtQ ∈ [14, 15]) ∨
        (m.cls = 3 ∧ if m.sop = 3 then m.fmtP = 14 ∧ m.fmtQ = 14 else m.fmtP ∈ [7, 8] ∧ m.fmtQ ∈ [7, 8])) ∧
      (∀ i < m.rows, (f.a.getD i []).length = min 64 (m.inner - m.kdone) ∧ ∀ x ∈ f.a.getD i [], x < 2 ^ laneBits m.fmtP) ∧
      ∀ j < m.cols, (f.b.getD j []).length = min 64 (m.inner - m.kdone) ∧ ∀ x ∈ f.b.getD j [], x < 2 ^ laneBits m.fmtQ)

/-- The code of element `k` of row `i` of an operand in memory: rows lie STR apart, elements are packed (R51, R189). -/
def codeAt (s : State) (w : Word) (f i k : Nat) : Nat :=
  let p := placeOf s.coreId (BitVec.ofNat 64 (w.toNat % 2 ^ 32))
  let n := laneBits f
  (s.coreAt p.1).mem.nat (p.2 + i * (w.toNat / 2 ^ 32 % 2 ^ 16) + k * n / 8) ((n + 7) / 8) / 2 ^ (k * n % 8) % 2 ^ n

/-- The matrix queue of the slot's core, as a party (R231). -/
def myQueue (s : State) : Nat := queueParty s.core
/-! ## Device memory, quay and harbour cores (spec/07 R194 to R198) -/

/-- Where an access of `n` bytes through `qm` goes, or its trap code: the format bits, the alignment, then the page (R195). -/
def devicePlace (s : State) (t : Word) (n : Nat) (a : Access) : Except Nat Home :=
  if t.toNat / 2 ^ 52 % 16 ≠ 0 then .error 0x07
  else if t.toNat % 2 ^ 52 % n ≠ 0 then .error 0x06
  else
    match s.translate (s.core.tlb ++ s.dieTlb s.coreId.die) s.asid s.vf (t.toNat % 2 ^ 52) a (decide (s.sl.priv = 0)) with
    | .error .noPage => .error 0x08
    | .error .access => .error 0x07
    | .ok p => .ok p

/-- Nanoseconds that a load or an atomic takes, by its home (R196). -/
def deviceTime (s : State) (p : Home) : Nat × Nat :=
  match p with
  | .device pa _ => if (s.homeOf pa).1 = s.coreId.die then (90, 400) else (180, 800)
  | .host _ _ => (800, 3000)
  | .remote _ _ _ => (1200, 5000)
  | .core _ _ => (90, 400)

/-- Loads: opcode, instruction, bytes, whether sign-extended (R195). -/
def deviceLoadTable : List (Nat × (Hdr → Instr) × Nat × Bool) :=
  [(0x01, .qmLd8, 1, true), (0x02, .qmLd8u, 1, false), (0x03, .qmLd16, 2, true), (0x04, .qmLd16u, 2, false),
   (0x05, .qmLd32, 4, true), (0x06, .qmLd32u, 4, false), (0x07, .qmLd64, 8, false), (0x10, .qmLdacqCore, 8, false),
   (0x11, .qmLdacqCluster, 8, false), (0x12, .qmLdacqDie, 8, false), (0x13, .qmLdacqDevice, 8, false),
   (0x14, .qmLdacqDomain, 8, false), (0x15, .qmLdacqSystem, 8, false)]

/-- Stores: opcode, instruction, bytes, and the scope of a release (R195). -/
noncomputable def deviceStoreTable : List (Nat × (Hdr → Instr) × Nat × Option Nat) :=
  [(0x09, .qmSt8, 1, none), (0x0A, .qmSt16, 2, none), (0x0B, .qmSt32, 4, none), (0x0C, .qmSt64, 8, none),
   (0x18, .qmStrelCore, 8, some 0), (0x19, .qmStrelCluster, 8, some 1), (0x1A, .qmStrelDie, 8, some 2),
   (0x1B, .qmStrelDevice, 8, some 3), (0x1C, .qmStrelDomain, 8, some 4), (0x1D, .qmStrelSystem, 8, some 5)]

/-- The atomics (R196): the operations of R145 on device memory. -/
noncomputable def deviceAtomicTable : List AtomicRow :=
  (atomicTable.zip ([.qmCas, .qmSwap, .qmAadd, .qmAand, .qmAor, .qmAmin, .qmAmax, .qmAminu, .qmAmaxu] : List (Hdr → Instr))).map
    fun r => (r.1.1, r.2, r.1.2.2)

/-- No byte of a core's memory has changed. -/
def SameCores (s t : State) : Prop := ∀ (id : CoreId) (b : Nat), (t.coreAt id).mem.byte b = (s.coreAt id).mem.byte b

/-- The doubleword at `a` of a memory becomes `w` as it is read under key slot `k`. No other byte changes, as bytes are read under `k`; and no
stored byte but those of the 16-byte units in which the doubleword is enciphered, or of the doubleword itself under no key (R467). -/
def Becomes (k a : Nat) (w : Word) (m m' : Memory) (s t : State) : Prop :=
  t.unseal a k 8 m'.bytes = leBytes 8 w.toNat ∧
    (∀ b, b < a ∨ a + 8 ≤ b → t.unseal b k 1 m'.bytes = s.unseal b k 1 m.bytes) ∧
    ∀ b, b < (if k = 0 then a else a / 16 * 16) ∨ (if k = 0 then a + 8 else (a + 23) / 16 * 16) ≤ b → m'.byte b = m.byte b

/-- The fences (R197). -/
noncomputable def deviceFenceTable : List (Nat × (Hdr → Instr)) :=
  [(0x40, .qmFenceCore), (0x41, .qmFenceCluster), (0x42, .qmFenceDie), (0x43, .qmFenceDevice), (0x44, .qmFenceDomain),
   (0x45, .qmFenceSystem)]

/-- The far end of a push or a pull: core and offset, and the berth whose slot it is (R198). -/
def farEnd (s : State) (push : Bool) (t : Word) : Option (CoreId × Nat × Option (CoreId × Nat)) :=
  let far := s.farCore (t.toNat / 2 ^ 30 % 4) (t.toNat / 2 ^ 18 % 256)
  if bit t 29 = false then some (far, t.toNat % 2 ^ 18, none)
  else match s.berthAt far (t.toNat % 16) with
    | none => none
    | some d =>
      let filled := (d.pi + 2 ^ 32 - d.ci) % 2 ^ 32
      if push ∧ filled < d.n then some (far, d.base + d.pi % d.n * d.slotb, some (far, t.toNat % 16))
      else if ¬ push ∧ 0 < filled then some (far, d.base + d.ci % d.n * d.slotb, some (far, t.toNat % 16))
      else none
/-! ## Stream engine, channels, dispenser (spec/07 R199 to R204, spec/08 R206 to R226) -/

/-- A queue party of the core in focus waits no longer, or waits as before: what `noteStream` records of the engine (R201, R381). -/
def engineIdle (e : Stream) : Prop := e.run = none ∧ e.err = none ∧ bit e.wrr 63 = false

/-- The message that a send makes: header {TAG, length, sender}, destination word, payload (R210, R212). -/
def sentMessage (s : State) (h : Hdr) (dst : CoreId) (entry : Option Nat) (pay : List Byte) : Msg :=
  let t := (s.moved64 h).toNat
  ⟨s.record?, s.coreId, s.core.cur, dst, t / 2 ^ 44 % 16, entry,
    if entry.isSome then ((s.coreAt dst).chan (t / 2 ^ 44 % 16)).next else 0xFFFFFFFF,
    BitVec.ofNat 64 (t / 2 ^ 48 * 2 ^ 48 + pay.length * 2 ^ 40 + s.party), s.moved64 h, pay⟩

/-- The payload of a send, or the trap of its length and address: `a` itself, or the bytes that the slot sees at `a` (R212). -/
def sendPayload (s : State) (many : Bool) : Except (Nat × Word) (List Byte) :=
  let a := (s.lat .ch).a
  let b := (s.lat .ch).b
  if many = false then .ok (leBytes 8 a.toNat)
  else if 248 < b.toNat ∨ b.toNat % 8 ≠ 0 then .error (0x02, b)
  else if b.toNat = 0 then .ok []
  else match accessPlace s a 8 false with
    | .error e => .error (e, a)
    | .ok (c, off) => match s.spaOffset c off b.toNat 8 false with
      | some e => .error (e, a)
      | none => .ok (s.loadHome (.core c off) b.toNat)

/-- A bit is set in a zero field of a destination word (R212). -/
def sendZeroBad (t : Word) : Prop :=
  let x := t.toNat
  bit t 40 = true ∨ (bit t 41 = false ∧ x / 2 ^ 32 % 256 ≠ 0) ∨ x / 2 ^ 26 % 4 ≠ 0 ∨ x % 256 ≠ 0 ∨
    (if x / 2 ^ 42 % 4 = 0 then x / 2 ^ 8 % 256 ≠ 0 else x / 2 ^ 16 % 2 ^ 10 ≠ 0) ∨ (x / 2 ^ 42 % 4 = 3 ∧ x / 2 ^ 8 % 256 ≠ 0)

/-- `sendm` moves 0 to 248 bytes, a multiple of 8 (R212). -/
def lengthOk (many : Bool) (b : Word) : Prop := many = true → b.toNat ≤ 248 ∧ b.toNat % 8 = 0

/-- A destination word is turned away: a zero field, or KIND 3 (R212). -/
def sendWordBad (t : Word) : Prop := sendZeroBad t ∨ t.toNat / 2 ^ 42 % 4 = 3

/-- An entry is the arrived and unmarked one with the oldest reservation of its channel (R209, R213). -/
def oldestArrived (ch : Channel) (i : Nat) : Prop :=
  ∃ e, ch.entries[i]? = some e ∧ e.state = .arrived ∧ e.mark = none ∧
    ∀ (j : Nat) (f : ChanEntry), ch.entries[j]? = some f → f.state = .arrived → f.mark = none → e.resv < f.resv ∨ (e.resv = f.resv ∧ i ≤ j)

/-- No unmarked message has arrived. -/
def noneArrived (ch : Channel) : Prop := ∀ e ∈ ch.entries, e.state = .arrived → e.mark ≠ none

/-- A channel of the core in focus whose messages a program takes. -/
def takable (s : State) (n : Nat) : Prop := n < 16 ∧ (s.core.chan n).declared = true ∧ (s.core.chan n).eng = false
/-! ## System unit and debug unit (spec/08 R221 to R239) -/

/-- The condition of `wait`, by COND (R225). -/
def waitHolds (cond : Nat) (w a : Word) : Prop :=
  match cond with
  | 0 => w = a
  | 1 => w ≠ a
  | 2 => a.toNat ≤ w.toNat
  | 3 => w.toNat < a.toNat
  | _ => w &&& a = a

/-- The zero fields, COND and MODE of a wait control (R225). -/
def waitControlBad (b : Word) (counter : Bool) : Prop :=
  b.toNat / 2 ^ 59 % 4 ≠ 0 ∨ b.toNat / 2 ^ 48 % 256 ≠ 0 ∨ b.toNat % 2 ^ 24 ≠ 0 ∨ (if counter then 0 else 4) < b.toNat / 2 ^ 61 ∨
    3 < b.toNat / 2 ^ 56 % 8 ∨ (b.toNat / 2 ^ 56 % 8 = 3 ∧ b.toNat / 2 ^ 24 % 2 ^ 24 ≠ 0)

/-- A counter is granted to the running job (R225, R303). -/
def counterGranted (s : State) (n : Nat) : Prop := ∃ r, s.record? = some r ∧ s.granted r n = true

/-- Numbers of the CSRs of a core (R38). -/
def csrNumbers (k : CoreKind) : List Nat :=
  [0, 1, 2, 3, 4, 5, 6, 7, 8] ++ (if k = .compute then [9, 10] else []) ++ [0x10, 0x11, 0x12, 0x13, 0x14, 0x15, 0x16, 0x17] ++
    [0x20, 0x21, 0x22, 0x23, 0x24, 0x25]

/-- The CSRs that a user program may write (R38). -/
def userCsrs : List Nat := [1, 2, 3, 9, 10, 0x24]

/-- A CSR after a write: fields that are RO keep their values (R38 to R47, R250). -/
def csrWritten (n : Nat) (old w : Word) : Word :=
  let x := w.toNat
  if n = 1 then BitVec.ofNat 64 (x % 2 ^ 5)
  else if n = 2 then BitVec.ofNat 64 (x % 2 ^ 3)
  else if n = 3 then (if x = 0 then 1 else w)
  else if n = 8 then BitVec.ofNat 64 (x % 2 ^ 52)
  else if n = 9 ∨ n = 10 then
    BitVec.ofNat 64 (old.toNat / 16 * 16 + min (if x % 16 = 0 then 1 else x % 16) (old.toNat / 2 ^ 8 % 16))
  else if n = 0x10 ∨ n = 0x13 then BitVec.ofNat 64 (x % 2 ^ 32)
  else if n ∈ [0x11, 0x12, 0x14, 0x15, 0x17, 0x21] then BitVec.ofNat 64 (x % 2 ^ 52 / 4 * 4)
  else if n = 0x16 then w &&& 0xFFFEFF0FFF000FFF
  else if n = 0x20 then (old &&& ~~~ 0x800) ||| (w &&& 0x800)
  else if n = 0x24 ∨ n = 0x25 then BitVec.ofNat 64 (x % 2 ^ 52 / 4 * 4 + x % 2)
  else old

/-- A value that a CSR refuses: RM of 5 to 7; an `rpc` that breaks R47, or with ACT (R129, R232). -/
def csrRejects (n : Nat) (w : Word) : Prop :=
  let x := w.toNat
  let size := x / 2 ^ 52 % 64
  let base := x / 2 ^ 58 % 32
  (n = 2 ∧ 5 ≤ x % 8) ∨
    (n = 0x16 ∧ (bit w 63 = true ∨ (size ≠ 0 ∧ (base = 0 ∨ 32 < base + size)) ∨ x / 2 ^ 44 % 16 < x / 2 ^ 40 % 16 ∨
      x / 2 ^ 24 % 2 ^ 12 < x % 2 ^ 12))

/-- The CSR writes: opcode, instruction, and the value written, if any, from the old value and `a` (R232). -/
noncomputable def csrTable : List (Nat × (Hdr → Instr) × (Word → Word → Option Word)) :=
  [(0x20, .syCsrr, fun _ _ => none), (0x21, .syCsrw, fun _ a => some a),
   (0x22, .syCsrs, fun old a => if a = 0 then none else some (old ||| a)),
   (0x23, .syCsrc, fun old a => if a = 0 then none else some (old &&& ~~~ a))]

/-- Fences and cache flushes (R224, R234). -/
noncomputable def systemFenceTable : List (Nat × (Hdr → Instr)) :=
  [(0x10, .syFenceCore), (0x11, .syFenceCluster), (0x12, .syFenceDie), (0x13, .syFenceDevice), (0x14, .syFenceDomain),
   (0x15, .syFenceSystem)]

/-- The flushes, with whether the instruction cache of a core, and the cache of a cluster, are in their scope (R234). -/
noncomputable def flushTable : List (Nat × (Hdr → Instr) × (CoreId → CoreId → Bool) × (CoreId → Nat → Bool)) :=
  [(0x30, .syIflushCore, fun me c => decide (c = me), fun _ _ => false),
   (0x31, .syIflushCluster, fun me c => decide (c.kind = me.kind ∧ c.die = me.die ∧ clusterOf c.idx = clusterOf me.idx),
     fun me n => decide (me.kind = .compute ∧ n = me.die * 4 + clusterOf me.idx)),
   (0x32, .syIflushDie, fun me c => decide (c.die = me.die), fun me n => decide (n / 4 = me.die)),
   (0x33, .syIflushDevice, fun _ _ => true, fun _ _ => true)]

/-- The lowest free helper ID (R228). -/
def freeHelper (s : State) (n : Fin 10) : Prop := s.core.helpers[n].held = false ∧ ∀ m : Fin 10, m < n → s.core.helpers[m].held = true
/-! ## Events (the device's own steps) -/

/-- Everything but the slot in focus and counts of event counters is as it was. -/
def SlotBecomes (f : Slot → Slot) (s t : State) : Prop := t.sl = f s.sl ∧ Apart s t

/-- The core in focus keeps going: its debug module has not halted it, nothing has stopped it, and its job is not frozen. -/
def Awake (s : State) : Prop := s.core.dbg.halted = false ∧ s.still s.core = false

/-- Store `k` of the slot's buffer may be performed: it is the oldest, or it is no release and passes older ones that are none and lie elsewhere
(R332, R333). -/
def MayLeave (s : State) (k : Nat) (e : StoreEntry) : Prop :=
  k = 0 ∨ (e.scope = none ∧ (∀ o, s.sl.sb[k - 1]? = some o → o.more = false) ∧
    ∀ o ∈ s.sl.sb.take k, o.scope = none ∧ s.homePlace o.home ≠ s.homePlace e.home)

/-- The async trap that a slot takes at its next boundary, and its `tval`, in the order of R242: DEBUG_HALT, PREEMPT, a delivery of an Undertow
for the wait in which the slot stands, HOST_SIGNAL, TIMER. -/
def PendingTrap (t : Slot) (code : Nat) (tval : Word) : Prop :=
  (code = 0x21 ∧ t.pend.debugHalt = some tval) ∨
  (t.pend.debugHalt = none ∧
    ((t.pend.preempt = true ∧ code = 0x20 ∧ tval = 0) ∨
     (t.pend.preempt = false ∧
      ((∃ u, t.pend.undertow = some u ∧ t.standsIn u.gen = true ∧ code = u.code ∧ code ∈ [0x10, 0x11, 0x12] ∧ tval = u.addr) ∨
       (t.pend.undertow = none ∧
        ((∃ rest, t.pend.signals = tval :: rest ∧ code = 0x23) ∨
         (∃ n, t.pend.signals = [] ∧ t.pend.timer = n + 1 ∧ code = 0x22 ∧ tval = BitVec.ofNat 64 (n + 1))))))))

/-- Where execution goes on after a bundle at `a`, by the end checks of R31, and the slot then. -/
def afterEndChecks (t : Slot) (a next : Word) : Slot :=
  let inner := t.la0 && decide (t.csr.le0 = a)
  let c0 : Word := BitVec.ofNat 64 ((t.csr.lc0.toNat + 2 ^ 64 - 1) % 2 ^ 32)
  if inner ∧ c0 ≠ 0 then { t with csr := { t.csr with lc0 := c0 }, npc := t.csr.lb0 }
  else
    let t0 : Slot := if inner then { t with csr := { t.csr with lc0 := c0, xstat := setBits t.csr.xstat 15 14 (2 * t.la1.toNat) } } else t
    let c1 : Word := BitVec.ofNat 64 ((t.csr.lc1.toNat + 2 ^ 64 - 1) % 2 ^ 32)
    if t.la1 ∧ t.csr.le1 = a then
      if c1 ≠ 0 then { t0 with csr := { t0.csr with lc1 := c1 }, npc := t.csr.lb1 }
      else { t0 with csr := { t0.csr with lc1 := c1, xstat := setBits t0.csr.xstat 15 14 t0.la0.toNat }, npc := next }
    else { t0 with npc := next }
/-- The slot of a core, by number. -/
def slotOf (s : State) (id : CoreId) (n : Nat) : Slot := (s.coreAt id).slot n

/-- The Hamper of the cluster of the core in focus serves record `r`. -/
def Serves (s : State) (r : Nat) : Prop := (s.hamper (hamperKey s.coreId)).record = some r

/-- An entry of the Hamper waits for a core to run it: it stands in its way as queued, or as retiring, and its activation is the last one
kept. -/
def Queues (h h' : Hamper) (way : Nat) (e : HEntry) (retire : Bool) : Prop :=
  look? h'.ways way = some { e with st := if retire then .retiring else .queued, core := none } ∧ h'.kept = h.kept ++ [(way, retire)]

/-- Record `i` of a Hamper, `q`, is the oldest of those that wait behind the key of an entry (R363). -/
def oldestBehind (recs : List (KRec × KPlace)) (e : HEntry) (i : Nat) (q : KRec) : Prop :=
  recs[i]? = some (q, .behind) ∧ q.stage = e.stage ∧ q.key = e.key ∧
    ∀ x ∈ recs.take i, x.2 = .behind → x.1.stage = e.stage → x.1.key ≠ e.key

/-- The coordinates of item `n` of a grid and the order of its axes (R300, R301): the end-of-work token is all ones. -/
def workItem (w : Word) (n : Nat) : Nat :=
  let dims := w.toNat / 2 ^ 60 % 4
  let e0 := w.toNat % 2 ^ 20
  let e1 := if dims = 1 then 1 else w.toNat / 2 ^ 20 % 2 ^ 20
  let e2 := if dims = 3 then w.toNat / 2 ^ 40 % 2 ^ 20 else 1
  if dims = 0 ∨ e0 * e1 * e2 ≤ n then 2 ^ 64 - 1
  else
    let plane := n / (e0 * e1)
    let i := n % (e0 * e1)
    (if dims ≠ 1 ∧ w.toNat / 2 ^ 62 % 2 = 1 then (plane * e1 + i % e1) * 2 ^ 32 + i / e1
     else (plane * e1 + i / e0) * 2 ^ 32 + i % e0) % 2 ^ 64

/-- The order in which transfers of an exchange phase start (R297). -/
def StartsBefore (a b : Transfer) : Prop :=
  a.xslot < b.xslot ∨ (a.xslot = b.xslot ∧ (a.party < b.party ∨ (a.party = b.party ∧ a.entry ≤ b.entry)))

/-- A register of the device alone has changed in memory and registers: every memory is as it was, and every other register. -/
def OnlyReg (r : Reg) (s t : State) : Prop := SameMemory s t ∧ ∀ q, q ≠ r → t.reg q = s.reg q

/-- Everything on which a fill rests is in order in the role image of a core (R247, R251, R290). -/
def GoodImage (k : CoreKind) (img : List Word) : Prop := imageTag (img.take 255) = dwordAt img 255 ∧ imageFault k img 1 = none

/-- The fill of a job's slot 0 (R290): Ready at the image's `epc`, with ARG0 to ARG7 in x1 to x8. -/
def StartsControl (s : State) (r : Nat) (img : List Word) (k : Slot) : Prop :=
  k.run = .ready ∧ k.kind = 0 ∧ k.pc = bundleAddr (dwordAt img 250) ∧ k.csr.iret = 0 ∧
    ∀ n : Fin 32, 1 ≤ n.val → n.val ≤ 8 → k.x[n] = s.dw r (23 + n.val)

/-- The frame of a seat of a job (R304). -/
def seatFrame (s : State) (r : Nat) (p : Seat) : Option (List Byte) :=
  s.readRec r (s.frameOf r p.id { Core.reset p.id with coord := p.coord }) (frameSize p.id.kind)

/-- The frame of the octet in which a compute seat stands can be read (R324). -/
def OctetReadable (s : State) (r : Nat) (p : Seat) : Prop :=
  let c := { Core.reset p.id with coord := p.coord }
  p.id.kind = .compute → (s.readRec r (s.octetFrameAt r c.die c.logicalOctet) 0x91000).isSome = true

/-- A piece at a port's ordering point is at a stage, if it is still there (R339). -/
def PieceAt (s : State) (port wid piece stage : Nat) : Prop :=
  ∀ w k, (s.port port).piece wid piece = some (w, k) → k.stage = stage

/-- Device memory outside a range is as it was, and every other memory. -/
def DeviceWritesOnly (a n : Nat) (s t : State) : Prop :=
  (∀ b, b < a ∨ a + n ≤ b → t.dm.byte b = s.dm.byte b) ∧ (∀ b, t.hm.byte b = s.hm.byte b) ∧
    ∀ (id : CoreId) (b : Nat), (t.coreAt id).mem.byte b = (s.coreAt id).mem.byte b

/-- The interrupt source is pending (R411). -/
def Raised (n : Nat) (s : State) : Prop := (s.reg (.irqsrc n)).toNat / 2 ^ 60 % 2 = 1

/-- STATE, ERR and SIDX of a ring's status register (R418, R432). -/
def ringState (w : Word) : Nat := w.toNat / 2 ^ 61

/-- A queue takes a packet of a kind at HEAD: it is resident and running, the packet is posted whole, its header is in order, and the counter
it names is granted (R429, R433). `p` is the packet. -/
def Takes (s : State) (q kind : Nat) (p : List Byte) : Prop :=
  s.qReady q = true ∧
    let first := s.ringEntry q (s.qHead q)
    let h := packetDw first 0
    headerOk h = true ∧ h.toNat % 2 ^ 8 = kind ∧ pktEntries h ≤ s.qPosted q ∧
      (2 ^ 63 ≤ h.toNat → s.vfGrants (descVf (s.descOf q)) (h.toNat / 2 ^ 32 % 2 ^ 12) = true) ∧
      p = if h.toNat / 2 ^ 8 % 2 = 1 then first ++ s.ringEntry q (s.qHead q + 1) else first

/-- A packet has completed (R429, R433): HEAD stands past it, the queue is idle where nothing more is posted, its counter is one higher, and
its interrupt is raised, as its header asks. -/
def Completes (q : Nat) (p : List Byte) (s t : State) : Prop :=
  let h := packetDw p 0
  t.qHead q = (s.qHead q + pktEntries h) % 2 ^ 32 ∧ t.qState q = (if s.qPosted q = pktEntries h then 0 else 1) ∧
    (t.queue q).waiting = none ∧
    (2 ^ 63 ≤ h.toNat → t.ctr (h.toNat / 2 ^ 56 % 2 ^ 4) (h.toNat / 2 ^ 32 % 2 ^ 12) =
      s.ctr (h.toNat / 2 ^ 56 % 2 ^ 4) (h.toNat / 2 ^ 32 % 2 ^ 12) + 1) ∧
    (h.toNat / 2 ^ 11 % 2 = 1 → 264 ≤ descSource (s.descOf q) → Raised (descSource (s.descOf q)) t)

/-- A packet waits in its queue (R432): it is kept, and STATE is 2. -/
def Holds (q : Nat) (p : List Byte) (t : State) : Prop := (t.queue q).waiting = some p ∧ t.qState q = 2

/-- A queue has stopped (R431). -/
def Stops (q code : Nat) (s t : State) : Prop :=
  t.reg (.qst q) = BitVec.ofNat 64 (4 * 2 ^ 61 + code * 2 ^ 48 + s.qHead q) ∧ (t.queue q).waiting = none

/-- Entry `i` of a fence packet is satisfied (R435). -/
def FenceMet (s : State) (p : List Byte) (i : Nat) : Prop :=
  let e := (packetDw p (2 + i)).toNat
  e % 2 ^ 48 ≤ (s.ctr (e / 2 ^ 60) (e / 2 ^ 48 % 2 ^ 12)).toNat

/-- A mailbox command has ended (R444): its result and length stand in MBST, and its source is pending. -/
def MailEnds (port res len : Nat) (t : State) : Prop :=
  t.reg (.mbst port) = BitVec.ofNat 64 (res * 2 ^ 48 + len) ∧ Raised (259 + port) t ∧ look? t.mail port = none

/-- A die leads, and its lease has not run out (R445). -/
def Leads (s : State) (d : Nat) : Prop := s.leader = some d ∧ s.time < (s.light d).renewed + 1000000

/-- The leader runs a command of a mailbox (R444). -/
def Commands (s : State) (port op arg : Nat) : Prop :=
  s.mailOf port = some (op, arg) ∧ (s.light (8 + port)).outOfQuorum = false ∧ ∃ d, Leads s d

/-- The flit counter and the state that a port's register shows (R473). -/
def lnkShows (p : Nat) (t : State) : Prop :=
  let k := t.shumPort p
  (t.reg (lnkReg p)).toNat / 2 ^ 60 = k.up.toNat * 2 ^ 3 + k.width % 4 * 2 + k.kg.toNat

/-- A flit leaves on the port that an address selects, with what it carries, where its key has a SEQ left (R469, R470). -/
def Sends (addr : Nat) (body : List Byte) (s t : State) : Prop :=
  let live := (List.range 18).filter fun p => (s.shumPort p).up
  ∀ p, live[addr / 2 ^ 11 % 32 % live.length]? = some p → (s.shumPort p).sent + 1 < 2 ^ 48 →
    ∃ f, (t.shumPort p).replay = (s.shumPort p).replay ++ [f] ∧ f.pa = addr ∧ f.body = body ∧ f.seq = (s.shumPort p).sent ∧
      f.kg = (s.shumPort p).kg

/-- What an atomic of another device leaves, from the old doubleword and its operands (R146, R196, R472). -/
def remoteAtomics : List (RemoteKind × (Nat → Nat → Nat → Nat)) :=
  let sg (x : Nat) : Int := (BitVec.ofNat 64 x).toInt
  [(.atomicAdd, fun o a _ => (o + a) % 2 ^ 64), (.cas, fun o a b => if o = a then b else o), (.swap, fun _ a _ => a),
   (.aand, fun o a _ => o &&& a), (.aor, fun o a _ => o ||| a), (.amin, fun o a _ => if sg o < sg a then o else a),
   (.amax, fun o a _ => if sg o < sg a then a else o), (.aminu, fun o a _ => min o a), (.amaxu, fun o a _ => max o a)]

/-- Every context of a record's job is dead (R258). -/
def AllDead (r : Nat) (s t : State) : Prop :=
  (s.cores.map (·.1)).Nodup → ∀ p ∈ s.jobCores r, (t.coreAt p.1).ctx.map (·.dead) = some true

end Sys2Proof.Claims

open Sys2Proof Sys2Proof.Machine Sys2Proof.Claims

/-- R103 to R107: every operation of `ia` and `ib` gives the result of its table at latency 1, from latches `a` and `b` and the moved value:
arithmetic wraps modulo 2^64, comparisons give 1 or 0, `sel` chooses by all 64 bits of `t`, bit fields are clipped, word forms
sign-extend a 32-bit result; nothing but the unit's latches, `iret` and where execution goes on changes. -/
def Obligations.IntegerResults : Prop := IntegerRows (arithmeticTable ++ comparisonTable ++ fieldTable)

/-- R101, R109 to R115: an operation of `ag` answers the table's result at latency 1, or traps as the table says on the state before its
bundle, with the bundle's address. -/
def Obligations.AddressResults : Prop :=
  ∀ r ∈ addressTable, ∀ (h : Hdr) (s : State), Goes .ag r.1 h s →
    (∀ q, r.2.2 s.coreId.kind s.core (s.lat .ag).a (s.moved64 h) = .ok q →
      ∃ t, exec (r.2.1 h) s = .next t ∧ Answers .ag h q 0 s t) ∧
    (∀ code tval, r.2.2 s.coreId.kind s.core (s.lat .ag).a (s.moved64 h) = .error (code, tval) →
      exec (r.2.1 h) s = .next (enterTrap code tval s.sl.pc s))

/-- R49, R117 to R119: the multiply forms enter their unit with the product's bits, to answer after 3 core cycles; the divide forms with the
truncated quotient or the remainder, at the latency of R119. -/
def Obligations.MultiplyDivideResults : Prop :=
  (∀ r ∈ multiplyTable, ∀ (h : Hdr) (s : State), Goes .mu r.1 h s →
    ∃ t, exec (r.2.1 h) s = .next t ∧ Launches .mu r.1 h 3 3 (r.2.2 (s.lat .mu).a (s.moved64 h)) 0 s t) ∧
  (∀ r ∈ divideTable, ∀ (h : Hdr) (s : State), Goes .mu r.1 h s →
    let n := r.2.2.1
    let signed := r.2.2.2.1
    let x := operand n signed (s.lat .mu).a
    let y := operand n signed (s.moved64 h)
    let d := divided n x y
    let lat := divideCycles n signed x y
    ∃ t, exec (r.2.1 h) s = .next t ∧
      Launches .mu r.1 h lat lat (signedLow n (if r.2.2.2.2 then d.2 else d.1)) 0 s t)

/-- R32, R34, R123: a taken branch, jump or call to an aligned target goes on there after a bubble of two core cycles; `cf.q` receives 0,
and NEXT at a call; the loop levels whose body does not hold the target and repetition end. Nothing else changes, where no trace is
written. -/
def Obligations.BranchResults : Prop :=
  ∀ r ∈ branchTable, ∀ (h : Hdr) (s : State), Goes .cf r.1 h s → s.untraced → (r.2.2.1 s h).toNat % 4 = 0 →
    ∃ t, exec (r.2.1 h) s = .next t ∧ t.sl = afterBranch s h (r.2.2.1 s h) (r.2.2.2 s h) ∧ OnlySlot s t

/-- R124, R125, R127, R130: `loop0`, `loop1` and `rep` set their registers and the levels active; a count of zero skips the body at the cost
of the bubble, with the level 1 end check after `loop0`; `brk` completes its bundle and then raises BREAK with
NEXT, or halts the core where the debug module catches it. -/
def Obligations.LoopResults : Prop :=
  ∀ (h : Hdr) (s : State),
    (∀ level1 : Bool, Goes .cf (if level1 then 0x09 else 0x08) h s → loopTrap level1 s h = none →
      (((s.lat .cf).a ≠ 0 →
        ∃ t, exec (if level1 then .cfLoop1 h else .cfLoop0 h) s = .next t ∧ t.sl = afterLoop level1 s h ∧ OnlySlot s t) ∧
       ((s.lat .cf).a = 0 →
        let e := s.sl.pc + s.moved64 h
        let after := w64 ((s.latched .cf h).bundleAfter e.toNat)
        let x := if level1 then (afterLoop true s h, after) else (afterLoop false s h).endCheck1 e after
        ∃ t, exec (if level1 then .cfLoop1 h else .cfLoop0 h) s = .next t ∧ t.sl = { x.1 with npc := x.2, bubble := 2 } ∧
          OnlySlot s t))) ∧
    (Goes .cf 0x0A h s →
      repTrap s h ((s.latched .cf h).bundleAddrs ((s.moved64 h).toNat % 16 + 1) (s.nextPc h).toNat) = none →
      ∃ t, exec (.cfRep h) s = .next t ∧ t.sl = afterRep s h ∧ OnlySlot s t) ∧
    (Goes .cf 0x0F h s →
      if bit (s.reg (.dctl s.coreId)) 15 && bit (s.reg (.dctl s.coreId)) 14 then exec (.cfBrk h) s = .next (s.halt 3 s.core.cur)
      else
        let r := (s.setSl { s.ran .cf h (answered 0 0) with after := some (0x0E, s.moved64 h) }).count 1
        exec (.cfBrk h) s = .next (enterTrap 0x0E (s.moved64 h) (s.nextPc h) (if s.sl.repActive then r.repetitionEnd else r)))

/-- R101, R123, R124, R127: a target or an end that is not aligned raises MISALIGN, and a loop or repetition that breaks a rule ILLEGAL_OP,
each on the state before the bundle. -/
def Obligations.ControlTraps : Prop :=
  ∀ (h : Hdr) (s : State),
    (∀ r ∈ branchTable, Goes .cf r.1 h s → (r.2.2.1 s h).toNat % 4 ≠ 0 →
      exec (r.2.1 h) s = .next (enterTrap 0x06 (r.2.2.1 s h) s.sl.pc s)) ∧
    (∀ (level1 : Bool) (code : Nat) (tval : Word), Goes .cf (if level1 then 0x09 else 0x08) h s →
      loopTrap level1 s h = some (code, tval) →
      exec (if level1 then .cfLoop1 h else .cfLoop0 h) s = .next (enterTrap code tval s.sl.pc s)) ∧
    (∀ (code : Nat) (tval : Word), Goes .cf 0x0A h s →
      repTrap s h ((s.latched .cf h).bundleAddrs ((s.moved64 h).toNat % 16 + 1) (s.nextPc h).toNat) = some (code, tval) →
      exec (.cfRep h) s = .next (enterTrap code tval s.sl.pc s))

/-- R14, R17, R23, R24, R83: a move whose guard takes it writes its source's value to its destination, renamed; x0 discards it; a
guard receives whether the low 64 bits are nonzero; nothing else of the device changes. A move whose guard does not take it writes
nothing. -/
def Obligations.MoveResults : Prop :=
  ∀ (h : Hdr) (d : Dst) (s : State), Reads h s → movable d = true → carried s.coreId.kind (dstUnit d) = true →
    (s.sl.takes h = true → s.dstStall (renameDst s.sl.csr.rpc d) = false →
      ∃ t, exec (.move h d) s = .next t ∧
        t.sl = stepped s h (placed s.sl (renameDst s.sl.csr.rpc d) (s.moved h)) ∧ OnlySlot s t) ∧
    (s.sl.takes h = false → ∃ t, exec (.move h d) s = .next t ∧ t.sl = stepped s h s.sl ∧ OnlySlot s t)

/-- R17: a trigger whose guard does not take it starts nothing: its bundle retires, and every latch, register and result is as it was.
R18, R21, R22: a bundle that reads a result still in flight, a trigger of a unit that is not free, and a move into a latch that an
operation holds, stall: nothing is written. -/
def Obligations.TriggersThatDoNotStart : Prop :=
  (∀ (i : Instr) (u : FU) (opc : Nat) (h : Hdr) (s : State), triggerOf i = some (u, opc, h) → u.assigns opc = true →
    Reads h s → s.coreId.kind.carries u = true → s.sl.takes h = false →
    ∃ t, exec i s = .next t ∧ t.sl = stepped s h s.sl ∧ OnlySlot s t) ∧
  ((∀ (i : Instr) (u : FU) (opc : Nat) (h : Hdr) (s : State), triggerOf i = some (u, opc, h) → u.assigns opc = true →
    s.bus = none → s.coreId.kind.carries u = true → carried s.coreId.kind (srcUnit (s.srcOf h)) = true →
    s.validSrc (s.srcOf h) = true → s.srcStall (s.srcOf h) = true ∨ (s.sl.takes h = true ∧ s.unitStall u opc = true) →
    Stalls i s) ∧
  (∀ (h : Hdr) (d : Dst) (s : State), s.bus = none → carried s.coreId.kind (dstUnit d) = true →
    carried s.coreId.kind (srcUnit (s.srcOf h)) = true → s.validSrc (s.srcOf h) = true →
    s.srcStall (s.srcOf h) = true ∨ (s.sl.takes h = true ∧ s.dstStall (renameDst s.sl.csr.rpc d) = true) →
    Stalls (.move h d) s))

/-- R19, R92, R93: a move that names a unit the core does not carry raises ILLEGAL_MOVE with reason 8, and one that reads a result port of
a unit not triggered since the activation began with reason 13, on the state before its bundle and with the bundle's address. -/
def Obligations.UnitChecksTrap : Prop :=
  ∀ (i : Instr) (h : Hdr) (du : Option FU) (s : State), s.bus = none →
    ((∃ d, i = .move h d ∧ du = dstUnit d) ∨ (∃ u opc, triggerOf i = some (u, opc, h) ∧ u.assigns opc = true ∧ du = some u)) →
    (¬ (carried s.coreId.kind (srcUnit (s.srcOf h)) = true ∧ carried s.coreId.kind du = true) →
      exec i s = .next (enterTrap 0x01 (decodeInfo s 8 (headWord i)) s.sl.pc s)) ∧
    (carried s.coreId.kind (srcUnit (s.srcOf h)) = true → carried s.coreId.kind du = true → s.validSrc (s.srcOf h) = false →
      exec i s = .next (enterTrap 0x01 (decodeInfo s 13 (headWord i)) s.sl.pc s))

/-- R86, R87, R92, R93: a word whose opcode names no operation raises ILLEGAL_OP with reason 15; one that is illegal by itself raises
ILLEGAL_MOVE with its reason, reason 8 before reason 9 for a unit the core lacks; a line pad goes on at the next line and retires
nothing. -/
def Obligations.IllegalWordsTrap : Prop :=
  (∀ (h : Hdr) (u : FU) (opc : BitVec 8) (s : State), Reads h s → s.coreId.kind.carries u = true →
    exec (.illegalOp h u opc) s = .next (enterTrap 0x02 (decodeInfo s 15 (moveWord h (portCode u .t) opc.toNat)) s.sl.pc s)) ∧
  (∀ (w : HWord) (reason : Nat) (s : State), s.bus = none → reason ≠ 9 →
    exec (.illegalMove w reason) s = .next (enterTrap 0x01 (decodeInfo s reason w) s.sl.pc s)) ∧
  (∀ (w : HWord) (s : State), s.bus = none →
    let ok := carried s.coreId.kind (unitOfCode (fieldSrc w)) && carried s.coreId.kind (unitOfCode (fieldDst w))
    exec (.illegalMove w 9) s = .next (enterTrap 0x01 (decodeInfo s (if ok then 9 else 8) w) s.sl.pc s)) ∧
  (∀ s : State, s.sl.pc.toNat < 2 ^ 52 - 64 →
    let next := BitVec.ofNat 64 (s.sl.pc.toNat / 64 * 64 + 64)
    exec .linePad s = .next (s.setSl { s.sl with pc := next, npc := next, flow := .entered }))

/-- R17: the moves of one bundle to destinations other than trigger ports all take their guards and their values from the state before it, and
only then does any of them write: one after another, where its guard took it, each writes the value that its source had then. `mv` is what the
words of a bundle of several moves decode to. -/
def Obligations.BundleReadsBeforeItWrites : Prop :=
  ∀ (s : State) (ms : List (HWord × List HWord)) (mv : List (Hdr × Dst)) (n : Nat), 2 ≤ ms.length → s.bus = none →
    (ms.map fun m => decodeMove m.1 m.2) = mv.map (fun m => .move m.1 m.2) →
    s.bundleFault (ms.map fun m => (renameWord s.sl.csr.rpc m.1, m.2)) = none →
    (∀ m ∈ mv, movable m.2 = true ∧ s.srcStall (s.srcOf m.1) = false ∧
      (s.sl.takes m.1 = true → s.dstStall (renameDst s.sl.csr.rpc m.2) = false)) →
    let next := s.sl.pc + w64 (4 * n)
    let k := mv.foldl (fun k m => if s.sl.takes m.1 then placed k (renameDst s.sl.csr.rpc m.2) (s.moved m.1) else k) s.sl
    ∃ t, s.issueMoves ms n = .next t ∧ OnlySlot s t ∧
      t.sl = { k with csr := { k.csr with iret := k.csr.iret + 1 }, npc := next, next := next, flow := .seq, after := none, csrw := none,
                      seedw := none, stall := 0 }

/-- R27, R81: a core that issues from a slot whose next bundle holds one move runs the instruction that the decoder reads from it; the end
checks, the repetition buffer, the other slots and the device's own bookkeeping follow. -/
def Obligations.StepRunsTheDecodedMove : Prop :=
  ∀ (s s1 : State) (m : HWord × List HWord) (n : Nat), s.inbox = [] →
    let c := s.toIssue
    c.core.dbg.halted = false → c.core.dbg.step = false → c.still c.core = false → c.core.swap = 0 →
    (c.sl.run = .ready ∨ c.sl.run = .issuing) → c.sl.bubble = 0 → c.sl.reissue = [] →
    c.nextBundle = (s1, .bundle [m] n) → s1.standing.breaks = none →
    step s = onNext (onNext (onNext (exec (decodeMove m.1 m.2) s1.standing) fun s3 => (s3.keepBody [m] n).bundleDone c.sl.inh)
      State.finishCycle) State.afterStep

/-- R240, R243, R246 to R249: a first-level trap whose vector is enabled saves the image of the slot with a right TAG, records cause, `tval`
and `epc`, and goes on at the handler at its level, loops and repetition inactive and every valid bit clear. -/
def Obligations.FirstLevelTrapEntry : Prop :=
  ∀ (s : State) (code : Nat) (tval epc : Word), s.sl.inh = false → code < 256 →
    (trapLevel s code ≠ 0 → bit s.sl.csr.svec 0 = true) →
    EntersTrap code (trapLevel s code) tval (bundleAddr epc) s (enterTrap code tval epc s)

/-- R244, R246: in a user handler a trap is taken nested: no image is written, and the handler starts at `svec` at supervisor level with
`estat` {INH 1, HLVL 1, NEST 1, PPRIV 0}; the registers keep their values. R244, R258 to R260: a synchronous trap in a supervisor or
machine handler other than CTX_INTEGRITY marks the context dead: every slot of the core becomes Free, its queued activations go, and its
context ID is refused from then on. -/
def Obligations.TrapsInHandlers : Prop :=
  (∀ (s : State) (code : Nat) (tval epc : Word), s.sl.inh = true → s.sl.hlvl = 0 → bit s.sl.csr.svec 0 = true → s.core.locks = [] →
    s.sl.wait = none →
    let t := enterTrap code tval epc s
    t.sl.csr.cause = w64 code ∧ t.sl.csr.tval = tval ∧ t.sl.csr.epc = bundleAddr epc ∧ t.sl.csr.estat = 0x501 ∧ t.sl.priv = 1 ∧
      t.sl.pc = bundleAddr s.sl.csr.svec ∧ (∀ u : FU, (t.lat u).valid = false) ∧ t.sl.x = s.sl.x ∧ t.sl.g = s.sl.g ∧
      ∀ a, t.core.mem.byte a = s.core.mem.byte a) ∧
  (∀ (s : State) (code : Nat) (tval epc : Word) (x : Ctx), s.sl.inh = true → s.sl.hlvl ≠ 0 → code ≠ 0x15 → s.core.ctx = some x →
    let t := enterTrap code tval epc s
    t.core.ctx = some { x with dead := true } ∧ (∀ n : Fin 4, t.core.slots[n].run = .free) ∧ t.core.actq = [] ∧ t.core.vq = [] ∧
      x.cid ∈ t.deadIds ∧ ∀ m ∈ t.msgs, m.src ≠ s.coreId)

/-- R233, R251, R252, R255: `sy.tret` of a handler whose image passes the checks restores the interrupted program at the live `epc`, with
`estat` 0; after a nested entry it runs the user handler again; with PARK it leaves the slot Free with its image as it stands. R251, R253:
`sy.tret` outside a handler raises ILLEGAL_OP; a TAG that does not match, or a save area with an error that was not corrected, raises
CTX_INTEGRITY with the area's address; a field of the
image that breaks a check raises ILLEGAL_OP with the offset of its doubleword. -/
def Obligations.TrapReturn : Prop :=
  (∀ (h : Hdr) (s : State), Goes .sy 0x25 h s → s.untraced → s.sl.inh = true → Restorable s → ¬ (s.sl.kind = 3 ∧ s.sl.key = none) →
    let img := imageOf s
    (bit s.sl.csr.estat 11 = false → bit s.sl.csr.estat 10 = false →
      ∃ t, exec (.syTret h) s = .next t ∧ t.sl.pc = s.sl.csr.epc ∧ t.sl.csr.estat = 0 ∧ t.sl.csr.epc = s.sl.csr.epc ∧
        t.sl.csr.cause = s.sl.csr.cause ∧ t.sl.csr.tval = s.sl.csr.tval ∧ t.sl.csr.iret = dwordAt img 239 + 1 ∧
        (∀ n : Fin 32, n ≠ 0 → t.sl.x[n] = dwordAt img n) ∧ (∀ n : Fin 4, n ≠ 0 → t.sl.g[n] = bit (dwordAt img 186) n) ∧
        (∀ u : FU, (t.lat u).valid = bit (dwordAt img 186) (16 + u.number)) ∧ t.sl.reissue = imageReissue img) ∧
    (bit s.sl.csr.estat 11 = false → bit s.sl.csr.estat 10 = true →
      ∃ t, exec (.syTret h) s = .next t ∧ t.sl.pc = bundleAddr (dwordAt img 253) ∧ t.sl.priv = 0 ∧
        t.sl.csr.estat = dwordAt img 249 ∧ (∀ n : Fin 32, n ≠ 0 → t.sl.x[n] = dwordAt img n) ∧ ∀ u : FU, (t.lat u).valid = false) ∧
    (bit s.sl.csr.estat 11 = true → s.core.ctx = none →
      ∃ t, exec (.syTret h) s = .next t ∧ t.sl.run = .free ∧ t.sl.parked = true ∧ t.sl.x = s.sl.x ∧
        (bit s.sl.csr.estat 10 = false → t.core.mem.dword (0x2D000 + 0x800 * s.core.cur + 0x7D0) = s.sl.csr.epc))) ∧
  (∀ (h : Hdr) (s : State), Goes .sy 0x25 h s →
    (s.sl.inh = false → exec (.syTret h) s = .next (enterTrap 0x02 0 s.sl.pc s)) ∧
    (s.sl.inh = true → ImageBad s →
      exec (.syTret h) s = .next (enterTrap 0x15 (BitVec.ofNat 64 (0x4000000 + (0x2D000 + 0x800 * s.core.cur))) s.sl.pc s)) ∧
    (s.sl.inh = true → ¬ ImageBad s →
      ∀ off, imageFault s.coreId.kind (imageOf s) s.sl.hlvl = some off →
        exec (.syTret h) s = .next (enterTrap 0x02 (BitVec.ofNat 64 off) s.sl.pc s)))

/-- R135, R136: the address checks of `ls`, `vp` and `mx` operands come in this order, and the first that fails names the trap. R101,
R133, R135: a load, a store, a release or an atomic whose address fails a check traps on the state before its bundle, with the address in
`tval`. -/
def Obligations.AddressChecks : Prop :=
  (∀ (s : State) (t : Word) (n : Nat) (writes : Bool), s.spa t n writes = accessPlace s t n writes) ∧
  (∀ (h : Hdr) (s : State) (e : Nat),
    (∀ r ∈ loadTable, Goes .ls r.1 h s → accessPlace s (s.moved64 h) r.2.2.1 false = .error e →
      exec (r.2.1 h) s = .next (enterTrap e (s.moved64 h) s.sl.pc s)) ∧
    (∀ r ∈ storeTable, Goes .ls r.1 h s → accessPlace s (s.moved64 h) r.2.2.1 true = .error e →
      exec (r.2.1 h) s = .next (enterTrap e (s.moved64 h) s.sl.pc s)) ∧
    (∀ r ∈ atomicTable, Goes .ls r.1 h s → accessPlace s (s.moved64 h) 8 true = .error e →
      exec (r.2.1 h) s = .next (enterTrap e (s.moved64 h) s.sl.pc s)) ∧
    (Goes .ls 0x20 h s → s.sl.link.isSome = true → exec (.lsLla h) s = .next (enterTrap 0x02 (s.moved64 h) s.sl.pc s)) ∧
    (∀ c off, Goes .ls 0x21 h s → accessPlace s (s.moved64 h) 8 true = .ok (c, off) → s.sl.link.isSome = true →
      s.sl.link ≠ some (c, off) → exec (.lsSsu h) s = .next (enterTrap 0x02 (s.moved64 h) s.sl.pc s)))

/-- R134, R138, R140: a load whose address passes the checks answers after 2 core cycles from the core's own memory, after 18 to 40 from
another's, with the bytes that the slot sees there, sign- or zero-extended. R139: a load returns, for each byte, the slot's youngest
earlier store to it, buffered or not: right after a store it returns the bytes stored, and with nothing buffered the bytes of memory. -/
def Obligations.LoadResults : Prop :=
  (∀ r ∈ loadTable, ∀ (h : Hdr) (s : State) (c : CoreId) (off : Nat), Goes .ls r.1 h s →
    accessPlace s (s.moved64 h) r.2.2.1 false = .ok (c, off) →
    let n := r.2.2.1
    let x := leNat (s.loadHome (.core c off) n)
    let q := if r.2.2.2 then signedLow (8 * n) x else BitVec.ofNat 64 x
    let lat := accessCycles s c 2 18
    ∃ t, exec (r.2.1 h) s = .next t ∧ Launches .ls r.1 h lat.1 lat.2 q 0 s t) ∧
  (∀ (s : State) (c : CoreId) (off n : Nat) (a : Word) (sc : Option Nat) (qm : Bool) (va : Word),
    (s.sl.sb = [] → s.loadHome (.core c off) n = (List.range n).map fun i => (s.coreAt c).mem.byte (off + i)) ∧
    (s.buffer ⟨.core c off, leBytes n a.toNat, sc, qm, va, false⟩).loadHome (.core c off) n = leBytes n a.toNat ∧
    (∀ b m, b + m ≤ off ∨ off + n ≤ b →
      (s.buffer ⟨.core c off, leBytes n a.toNat, sc, qm, va, false⟩).loadHome (.core c b) m = s.loadHome (.core c b) m))

/-- R138 to R140, R149: a store, a release and `fput` complete on entry to the slot's FIFO, behind its earlier stores, with zero in both
result ports; no byte of memory changes until the store is performed. A release waits for the slot's pushes and for notices outside the
buffer, and comes after its pulls (R198, R214, R335). -/
def Obligations.StoreResults : Prop :=
  ∀ r ∈ storeTable, ∀ (h : Hdr) (s : State) (c : CoreId) (off : Nat), Goes .ls r.1 h s →
    accessPlace s (s.moved64 h) r.2.2.1 true = .ok (c, off) →
    (r.2.2.2.isSome = true → s.core.outside = [] ∧ (∀ p ∈ s.pushes, s.isMine p = false) ∧ ∀ p ∈ s.pulls, s.isMine p = false) →
    ∃ t, exec (r.2.1 h) s = .next t ∧
      t.sl = { s.ran .ls h (answered 0 0) with
        sb := s.sl.sb ++ [⟨.core c off, leBytes r.2.2.1 (s.lat .ls).a.toNat, r.2.2.2, false, s.moved64 h, false⟩] } ∧ OnlySlot s t

/-- R134, R145, R146: an atomic on a doubleword whose lock is open reads and writes it at one instant and answers the old value; `cas` stores
where the old value is `a`. No other byte changes but the TAG of a save area written to, and no register. -/
def Obligations.AtomicResults : Prop :=
  ∀ r ∈ atomicTable, ∀ (h : Hdr) (s : State) (c : CoreId) (off : Nat), Goes .ls r.1 h s → Settled s →
    accessPlace s (s.moved64 h) 8 true = .ok (c, off) → LockOpen s c off →
    let old := (s.coreAt c).mem.dword off
    let new := r.2.2 old (s.lat .ls).a (s.lat .ls).b
    let lat := accessCycles s c 3 20
    ∃ t, exec (r.2.1 h) s = .next t ∧
      t.lat .ls = entered r.1 lat.1 lat.2 old (if r.1 = 0x22 ∧ new.isSome then 1 else 0) { s.lat .ls with t := s.moved64 h } ∧
      (t.coreAt c).mem.dword off = new.getD old ∧ WritesOnly c off 8 s t ∧ SameRegs s t ∧ t.sl.link = s.sl.link ∧
      (new.isSome = true → (t.coreAt c).full off = true)

/-- R141 to R144, R150: `lla` reads a doubleword and takes its lock; `ssu` stores to the doubleword held and unlocks it, or stores nothing
where the lock is lost; `fclr` reads a doubleword and empties its tag. -/
def Obligations.LockResults : Prop :=
  ∀ (h : Hdr) (s : State) (c : CoreId) (off : Nat), Settled s → accessPlace s (s.moved64 h) 8 true = .ok (c, off) →
    let old := (s.coreAt c).mem.dword off
    (Goes .ls 0x20 h s → LockOpen s c off → s.sl.link = none →
      let lat := accessCycles s c 3 20
      ∃ t, exec (.lsLla h) s = .next t ∧ t.lat .ls = entered 0x20 lat.1 lat.2 old 0 { s.lat .ls with t := s.moved64 h } ∧
        t.sl.link = some (c, off) ∧ (t.coreAt c).holder (lockBit off) = some (me s) ∧ SameRegs s t ∧ SameMemory s t) ∧
    (Goes .ls 0x21 h s → s.sl.link = none →
      let lat := accessCycles s c 2 18
      ∃ t, exec (.lsSsu h) s = .next t ∧ Launches .ls 0x21 h lat.1 lat.2 0 0 s t) ∧
    (Goes .ls 0x21 h s → s.sl.link = some (c, off) →
      let lat := accessCycles s c 2 18
      ∃ t, exec (.lsSsu h) s = .next t ∧ t.lat .ls = entered 0x21 lat.1 lat.2 1 0 { s.lat .ls with t := s.moved64 h } ∧
        t.sl.link = none ∧ (∀ l ∈ (t.coreAt c).locks, l.2 ≠ me s) ∧ (t.coreAt c).mem.dword off = (s.lat .ls).a ∧
        (t.coreAt c).full off = true ∧ WritesOnly c off 8 s t ∧ SameRegs s t) ∧
    (Goes .ls 0x32 h s → LockOpen s c off →
      let lat := accessCycles s c 3 20
      ∃ t, exec (.lsFclr h) s = .next t ∧
        t.lat .ls = entered 0x32 lat.1 lat.2 old (if (s.coreAt c).full off then 1 else 0) { s.lat .ls with t := s.moved64 h } ∧
        (t.coreAt c).full off = false ∧ SameRegs s t ∧ SameMemory s t)

/-- R148: `fget` of a full doubleword answers its data and leaves it full; an empty one raises FUTURE_EMPTY, or is waited for with the reason
that `c` gives. -/
def Obligations.FutureResults : Prop :=
  ∀ (h : Hdr) (s : State) (c : CoreId) (off : Nat), Goes .ls 0x30 h s → s.sl.sb = [] → s.sl.wait = none →
    accessPlace s (s.moved64 h) 8 false = .ok (c, off) →
    let w := (s.lat .ls).c
    let lat := accessCycles s c 2 18
    ((bit w 63 = false ∨ (w.toNat / 2 ^ 59 % 16 = 0 ∧ w.toNat / 2 ^ 48 % 256 = 0 ∧ w.toNat % 2 ^ 24 = 0 ∧ w.toNat / 2 ^ 56 % 8 ≤ 3)) →
      ((s.coreAt c).full off = true →
        ∃ t, exec (.lsFget h) s = .next t ∧ Launches .ls 0x30 h lat.1 lat.2 ((s.coreAt c).mem.dword off) 0 s t) ∧
      ((s.coreAt c).full off = false → bit w 63 = false →
        exec (.lsFget h) s = .next (enterTrap 0x0C (s.moved64 h) s.sl.pc s)) ∧
      ((s.coreAt c).full off = false → bit w 63 = true → s.untraced → MayWait s →
        ∃ t, exec (.lsFget h) s = .next t ∧ OnlySlot s t ∧
          t.sl = waiting s .ls 0x30 h 7 (w.toNat / 2 ^ 56 % 8) (w.toNat / 2 ^ 24 % 2 ^ 24) ((s.moved64 h).toNat % 2 ^ 24) []))

/-- R151 to R153: `bwait` answers the slot's address and the count once enough slots are filled, or free, and otherwise waits for the other
end; `badv` and `bpush` move their index; `bstat` reads both. -/
def Obligations.BerthResults : Prop :=
  ∀ (h : Hdr) (s : State) (c : CoreId) (d : Berth), s.sl.sb = [] → s.sl.wait = none →
    let a := (s.lat .ls).a.toNat
    let n := a % 2 ^ 16
    let b := (s.moved64 h).toNat % 16
    let filled := (d.pi + 2 ^ 32 - d.ci) % 2 ^ 32
    let object := (s.coreAt c).cidx * 2 ^ 8 + b
    let lat := accessCycles s c 2 18
    (∀ dir : Bool, Goes .ls 0x40 h s → BerthOpen s h true true (some dir) c d → a / 2 ^ 16 % 2 = dir.toNat →
      let have_ := if dir then d.n - filled else filled
      (n ≤ have_ → ∃ t, exec (.lsBwait h) s = .next t ∧
        Launches .ls 0x40 h lat.1 lat.2 (slotAddress (s.moved64 h) d (if dir then d.pi else d.ci)) (BitVec.ofNat 64 have_) s t) ∧
      (have_ < n → s.untraced → MayWait s → ∃ t, exec (.lsBwait h) s = .next t ∧ OnlySlot s t ∧
        t.sl = waiting s .ls 0x40 h (if dir then 3 else 2) 0 (if dir then d.cons else d.prod) object [])) ∧
    (Goes .ls 0x41 h s → BerthOpen s h true false (some false) c d →
      (n ≤ filled → ∃ t, exec (.lsBadv h) s = .next t ∧ t.berthAt c b = some { d with ci := (d.ci + n) % 2 ^ 32 } ∧
        t.lat .ls = entered 0x41 lat.1 lat.2 0 0 { s.lat .ls with t := s.moved64 h } ∧ SameRegs s t) ∧
      (filled < n → exec (.lsBadv h) s = .next (enterTrap 0x0D (s.lat .ls).a s.sl.pc s))) ∧
    (Goes .ls 0x42 h s → BerthOpen s h true false (some true) c d →
      (n ≤ d.n - filled → ∃ t, exec (.lsBpush h) s = .next t ∧ t.berthAt c b = some { d with pi := (d.pi + n) % 2 ^ 32 } ∧
        t.lat .ls = entered 0x42 lat.1 lat.2 0 0 { s.lat .ls with t := s.moved64 h } ∧ SameRegs s t) ∧
      (d.n - filled < n → exec (.lsBpush h) s = .next (enterTrap 0x0D (s.lat .ls).a s.sl.pc s))) ∧
    (Goes .ls 0x43 h s → BerthOpen s h false false none c d →
      ∃ t, exec (.lsBstat h) s = .next t ∧
        Launches .ls 0x43 h lat.1 lat.2 (BitVec.ofNat 64 (d.pi * 2 ^ 32 + d.ci)) (BitVec.ofNat 64 filled) s t)

/-- R142, R145, R154: an operation that finds the lock of its doubleword held by another slot waits for it, kind 13, with the lock's
identity as object and the holder as releaser. -/
def Obligations.LockWaits : Prop :=
  ∀ (h : Hdr) (s : State) (c : CoreId) (off : Nat) (hid : CoreId) (hslot : Nat), Settled s → s.untraced → MayWait s →
    accessPlace s (s.moved64 h) 8 true = .ok (c, off) → (s.coreAt c).holder (lockBit off) = some (hid, hslot) →
    (hid, hslot) ≠ me s →
    let lock := lockBit off
    let object := (s.coreAt c).cidx * 2 ^ 16 + lock / 64 * 2 ^ 8 + lock % 64
    let releaser := partyOf hid (s.coreAt hid) hslot
    (∀ r ∈ atomicTable, Goes .ls r.1 h s → ∃ t, exec (r.2.1 h) s = .next t ∧ t.sl = waiting s .ls r.1 h 13 0 releaser object [] ∧
      SameMemory s t) ∧
    (Goes .ls 0x20 h s → s.sl.link = none → ∃ t, exec (.lsLla h) s = .next t ∧
      t.sl = waiting s .ls 0x20 h 13 0 releaser object [] ∧ SameMemory s t) ∧
    (Goes .ls 0x32 h s → ∃ t, exec (.lsFclr h) s = .next t ∧ t.sl = waiting s .ls 0x32 h 13 0 releaser object [] ∧
      SameMemory s t)


/-- R155, R156, R160, R162, R164: a computing operation whose control word passes the checks copies its latches and control word into an
entry at the tail of the core's vector queue and goes on; no result port, register or memory changes, but `srseed` steps under `rsr`. The
operations that `vpCompute` gives, each by its own constructor: vpBcast, vpDq, vpAdd, vpSub, vpMul, vpFma, vpFnma, vpMin, vpMax, vpMinu,
vpMaxu, vpAbs, vpNeg, vpCeq, vpCne, vpClt, vpCle, vpCltu, vpCleu, vpSel, vpAnd, vpOr, vpXor, vpAndn, vpSll, vpSrl, vpSra, vpCvtRne,
vpCvtRtz, vpCvtRup, vpCvtRdn, vpCvtRsr, vpCvtDyn, vpCvtSatRne, vpCvtSatRtz, vpCvtSatRup, vpCvtSatRdn, vpCvtSatRsr, vpCvtSatDyn, vpRadd,
vpRmin, vpRmax, vpRminu, vpRmaxu, vpPerm, vpShuf, vpZiplo, vpZiphi, vpUnzipe, vpUnzipo, vpExt, vpIns, vpDot8, vpDot8u, vpDot8su, vpExp2,
vpLog2, vpRcp, vpRsqrt, vpNrcp, vpNrsq. -/
def Obligations.VectorOperationsEnterTheQueue : Prop :=
  ∀ (i : Instr) (h : Hdr) (opc : Nat) (o : VOp) (s : State), triggerOf i = some (.vp, opc, h) → vpCompute opc = some o →
    Goes .vp opc h s → vectorTrap s o (s.moved64 h) = none →
    let ctl := s.moved64 h
    let r := o.run (vectorIn s o ctl)
    let k := s.ran .vp h id
    ∃ t, exec i s = .next t ∧ t.sl = { k with csr := { k.csr with srseed := seedAfter s o ctl } } ∧
      Apart (withEntry s opc (o.lat ctl) 0 0 r.q r.q2 r.flags) t ∧ SameMemory s t

/-- R52 to R69, R161, R170 to R181: what each computing operation puts in each lane of the result, and which flags it sets: integer
arithmetic, shifts, bit operations and lane choices; floating-point arithmetic, conversions and functions, the exact value rounded once by the
mode in force (of `exp2` the special operands and the integers, of `log2` the special operands and the powers of two); comparisons, whose `q2`
has a bit for each true lane; reductions, dot products, `ext` and `dq`. Under M an inactive lane keeps the lane of `a` and sets no flag. -/
def Obligations.VectorLaneResults : Prop :=
  ∀ (h : Hdr) (s : State),
    let ctl := s.moved64 h
    let f := ctl.toNat % 32
    let lanes := 256 / laneBits f
    let lane := ctl.toNat / 2 ^ 24 % 64
    let masked := ctl.toNat / 2 ^ 8 % 2 = 1
    let off := fun n => masked ∧ laneAt f s.sl.vc n / 2 ^ (laneBits f - 1) = 0
    let sat := bit ctl 9
    let passes := fun opc => ∀ o, vpCompute opc = some o → vectorTrap s o ctl = none
    (∀ r ∈ laneTable, Goes .vp r.1 h s → f ∈ r.2.2.1 → passes r.1 →
      ∃ t, exec (r.2.1 h) s = .next t ∧ QueuedResult s t r.1 fun e => e.q2 = 0 ∧ e.flags = 0 ∧
        ∀ n < lanes, laneAt f e.q n =
          if off n then laneAt f s.sl.va n else r.2.2.2 f sat (laneAt f s.sl.va n) (laneAt f s.sl.vb n)) ∧
    (∀ r ∈ floatTable, Goes .vp r.1 h s → f ∈ r.2.2.1 → passes r.1 →
      let mode := modeInForce s (bits ctl 7 5)
      ∃ t fl, exec (r.2.1 h) s = .next t ∧ QueuedResult s t r.1 fun e => e.q2 = 0 ∧ e.flags = together lanes fl ∧
        ∀ n < lanes, (off n → laneAt f e.q n = laneAt f s.sl.va n ∧ fl n = 0) ∧
          (¬ off n → r.2.2.2 f mode (randomOf s n) (laneAt f s.sl.va n) (laneAt f s.sl.vb n) (laneAt f s.sl.vc n) (laneAt f e.q n) (fl n))) ∧
    (∀ r ∈ laneCompareTable, Goes .vp r.1 h s → f ∈ [1, 2, 3, 4, 5] → ctl.toNat = f →
      ∃ t, exec (r.2.1 h) s = .next t ∧ QueuedResult s t r.1 fun e => e.flags = 0 ∧
        ∀ n < lanes,
          let true_ := r.2.2 f (laneAt f s.sl.va n) (laneAt f s.sl.vb n)
          laneAt f e.q n = (if true_ then 2 ^ laneBits f - 1 else 0) ∧ bit e.q2 n = true_) ∧
    (∀ r ∈ floatCompareTable, Goes .vp r.1 h s → f ∈ [6, 7, 8] → ctl.toNat = f →
      let x := fun n => r.2.2 (number f (laneAt f s.sl.va n)) (number f (laneAt f s.sl.vb n))
      ∃ t, exec (r.2.1 h) s = .next t ∧ QueuedResult s t r.1 fun e =>
        e.flags = together lanes (fun n => if (x n).2 then 16 else 0) ∧
          ∀ n < lanes, laneAt f e.q n = (if (x n).1 then 2 ^ laneBits f - 1 else 0) ∧ bit e.q2 n = (x n).1) ∧
    (∀ r ∈ laneChoiceTable, Goes .vp r.1 h s → f ∈ [1, 2, 3, 4, 5, 6, 7, 8] →
      (if r.1 = 0x4F then ctl.toNat % 2 ^ 24 = f ∧ ctl.toNat / 2 ^ 24 < lanes else ctl.toNat = f) →
      ∃ t, exec (r.2.1 h) s = .next t ∧ QueuedResult s t r.1 fun e => e.q2 = 0 ∧ e.flags = 0 ∧
        ∀ n < lanes, laneAt f e.q n = r.2.2 s f lane n) ∧
    (Goes .vp 0x4E h s → f ∈ [1, 2, 3, 4, 5, 6, 7, 8] → ctl.toNat % 2 ^ 24 = f → ctl.toNat / 2 ^ 24 < lanes →
      ∃ t, exec (.vpExt h) s = .next t ∧ QueuedResult s t 0x4E fun e =>
        e.q2 = scalarOf f false (laneAt f s.sl.va lane) ∧ e.q = e.q2.setWidth 256 ∧ e.flags = 0) ∧
    (∀ r ∈ convertTable, ∀ sat : Bool, let opc := 0x30 + (if sat then 8 else 0) + r.1
      Goes .vp opc h s → passes opc →
      let g := ctl.toNat / 2 ^ 16 % 32
      let n := min lanes (256 / laneBits g)
      let from_ := if 256 / laneBits g < lanes then lane * n else 0
      let to_ := if lanes < 256 / laneBits g then lane * n else 0
      ∃ t fl, exec (if sat then r.2.2 h else r.2.1 h) s = .next t ∧ QueuedResult s t opc fun e => e.q2 = 0 ∧ e.flags = together n fl ∧
        (∀ k < n, ConvertsTo f g (modeInForce s r.1) sat (randomOf s k) (laneAt f s.sl.va (from_ + k)) (laneAt g e.q (to_ + k)) (fl k)) ∧
        ∀ k < 256 / laneBits g, k < to_ ∨ to_ + n ≤ k → laneAt g e.q k = 0) ∧
    (∀ r ∈ reductionTable, Goes .vp r.1 h s → f ∈ r.2.2.1 → passes r.1 →
      let mode := modeInForce s (bits ctl 7 5)
      ∃ (t : State) (fl part : Nat → Nat), exec (r.2.1 h) s = .next t ∧ part 0 = laneAt f s.sl.va 0 ∧
        (∀ n < lanes - 1, r.2.2.2 f mode (randomOf s n) (part n) (laneAt f s.sl.va (n + 1)) (part (n + 1)) (fl n)) ∧
        QueuedResult s t r.1 fun e => e.q2 = scalarOf f (decide (0x43 ≤ r.1)) (part (lanes - 1)) ∧ e.q = e.q2.setWidth 256 ∧
          e.flags = together (lanes - 1) fl) ∧
    (∀ r ∈ dotTable, Goes .vp r.1 h s → passes r.1 →
      let byte := fun (signed : Bool) (v : VWord) (n : Nat) => laneValue (if signed then 1 else 2) (laneAt 1 v n)
      ∃ t, exec (r.2.1 h) s = .next t ∧ QueuedResult s t r.1 fun e => e.q2 = 0 ∧ e.flags = 0 ∧
        ∀ j < 8, laneAt 4 e.q j = laneResult 4 sat (laneValue 4 (laneAt 4 s.sl.vc j) +
          byte r.2.2.1 s.sl.va (4 * j) * byte r.2.2.2 s.sl.vb (4 * j) +
          byte r.2.2.1 s.sl.va (4 * j + 1) * byte r.2.2.2 s.sl.vb (4 * j + 1) +
          byte r.2.2.1 s.sl.va (4 * j + 2) * byte r.2.2.2 s.sl.vb (4 * j + 2) +
          byte r.2.2.1 s.sl.va (4 * j + 3) * byte r.2.2.2 s.sl.vb (4 * j + 3))) ∧
    (Goes .vp 0x07 h s → passes 0x07 →
      let kb := fun i => codebook.getD (s.sl.va.toNat / 16 ^ (8 * lane + i) % 16) 0 * (s.sl.vb.toNat % 256 : Nat)
      ∃ t fl, exec (.vpDq h) s = .next t ∧ QueuedResult s t 0x07 fun e => e.q2 = 0 ∧ e.flags = together 8 fl ∧
        ∀ i < 8, match number 8 (s.sl.vb.toNat / 2 ^ 32 % 2 ^ 32) with
          | .nan signalling => DeliversNan 8 signalling (laneAt 8 e.q i) (fl i)
          | .inf negative =>
            if kb i = 0 then DeliversNan 8 true (laneAt 8 e.q i) (fl i)
            else laneAt 8 e.q i = signBit 8 (decide (kb i < 0) != negative) + 0x7F800000 ∧ fl i = 0
          | .fin _ v => Delivers 8 0 false 0 false (kb i * v / 2 ^ 18) (laneAt 8 e.q i) (fl i))

/-- R101, R158, R160: a computing operation whose control word breaks a check traps at its trigger, ILLEGAL_OP or FORMAT by the first check
broken, with the control word in `tval`, on the state before its bundle. -/
def Obligations.VectorTraps : Prop :=
  ∀ (i : Instr) (h : Hdr) (opc : Nat) (o : VOp) (s : State) (e : Nat), triggerOf i = some (.vp, opc, h) → vpCompute opc = some o →
    Goes .vp opc h s → vectorTrap s o (s.moved64 h) = some e →
    exec i s = .next (enterTrap e (s.moved64 h) s.sl.pc s)

/-- R162, R164, R166 to R169: the vector loads queue the bytes that the slot sees, widened element by element, or one element in every lane;
the stores enter the lanes' bytes into the store buffer, narrowed by the mode in force, with no change of memory; `vld` and `vst` whose
address, `vldx` and `vstx` whose tag, and `vstm` whose lane format breaks a check trap. -/
def Obligations.VectorMemoryResults : Prop :=
  ∀ (h : Hdr) (s : State),
    let t := s.moved64 h
    let ctl := (s.sl.vb.setWidth 64 : Word)
    let f := ctl.toNat % 32
    let m := t.toNat / 2 ^ 59
    (∀ c off, Goes .vp 0x01 h s → accessPlace s t 32 false = .ok (c, off) →
      ∃ t', exec (.vpVld h) s = .next t' ∧ t'.sl = s.ran .vp h id ∧
        Apart (withEntry s 0x01 (if c = s.coreId then 4 else 20) (if c = s.coreId then 0 else 16) (if c = s.coreId then 0 else 38)
          (BitVec.ofNat 256 (leNat (s.loadHome (.core c off) 32))) 0 0) t') ∧
    (∀ c off, Goes .vp 0x03 h s → accessPlace s t 32 true = .ok (c, off) →
      ∃ t', exec (.vpVst h) s = .next t' ∧ Apart (withEntry s 0x03 2 0 0 0 0 0) t' ∧
        t'.sl = { s.ran .vp h id with sb := s.sl.sb ++ (List.range 4).map fun i =>
          ⟨.core c (off + 8 * i), leBytes 8 (s.sl.va.toNat / 2 ^ (64 * i)), none, false, t, false⟩ }) ∧
    (∀ r ∈ [(0x01, Instr.vpVld h, false), (0x03, Instr.vpVst h, true)], ∀ e, Goes .vp r.1 h s → accessPlace s t 32 r.2.2 = .error e →
      exec r.2.1 s = .next (enterTrap e t s.sl.pc s)) ∧
    (∀ r ∈ [(0x02, Instr.vpVldx h, false), (0x08, Instr.vpVldb h, true)], ∀ c off, Goes .vp r.1 h s → ctl.toNat = f → f ∈ fmtsCvt →
      let count := if r.2.2 then 1 else 256 / laneBits f
      let n := max 1 (count * widths.getD m 0 / 8)
      tagBad t f count false = false → accessPlace s t n false = .ok (c, off) →
      ∃ t', exec r.2.1 s = .next t' ∧ t'.sl = s.ran .vp h id ∧ QueuedResult s t' r.1 fun e => e.q2 = 0 ∧
        ∀ i < 256 / laneBits f, laneAt f e.q i =
          (widenElement m f (leNat (s.loadHome (.core c off) n) / 2 ^ (widths.getD m 0 * (if r.2.2 then 0 else i)) %
            2 ^ widths.getD m 0)).1) ∧
    (∀ c off, Goes .vp 0x04 h s → ctl.toNat < 0x400 → f ∈ fmtsCvt → tagBad t f (256 / laneBits f) true = false →
      let mode := modeInForce s (ctl.toNat / 2 ^ 5 % 8)
      let n := 256 / laneBits f * widths.getD m 0 / 8
      mode < 4 → ctl.toNat / 2 ^ 5 % 8 ∉ [5, 6] → (f ≤ 5 → ctl.toNat / 2 ^ 5 % 8 = 0) → ctl.toNat / 2 ^ 8 % 2 = 0 →
      accessPlace s t n true = .ok (c, off) →
      ∃ t', exec (.vpVstx h) s = .next t' ∧ SameMemory s t' ∧ SameRegs s t' ∧
        leNat (t'.loadHome (.core c off) n) = packFields (widths.getD m 0) ((List.range (256 / laneBits f)).map fun i =>
          (narrowLane m f ((rmodeOf mode).getD .rne) (bit ctl 9) 0 (laneAt f s.sl.va i)).1)) ∧
    (∀ c off, Goes .vp 0x05 h s → f ∈ fmtsAll → ctl.toNat = f + 0x100 → accessPlace s t 32 true = .ok (c, off) →
      ∃ t', exec (.vpVstm h) s = .next t' ∧ SameMemory s t' ∧ SameRegs s t' ∧
        ∀ i < 32, t'.loadHome (.core c (off + i)) 1 =
          if laneAt f s.sl.vc (8 * i / laneBits f) / 2 ^ (laneBits f - 1) = 1 then [BitVec.ofNat 8 (s.sl.va.toNat / 2 ^ (8 * i))]
          else s.loadHome (.core c (off + i)) 1) ∧
    (Goes .vp 0x05 h s → f ∉ fmtsAll → ctl.toNat = f + 0x100 → exec (.vpVstm h) s = .next (enterTrap 0x0A ctl s.sl.pc s)) ∧
    (∀ r ∈ [(0x02, Instr.vpVldx h, false), (0x04, Instr.vpVstx h, true)], Goes .vp r.1 h s → ctl.toNat = f → f ∈ fmtsCvt →
      tagBad t f (256 / laneBits f) r.2.2 = true → exec r.2.1 s = .next (enterTrap 0x0A t s.sl.pc s))

/-- R91, R183, R187: a command that passes the checks, finds a place in its core's queue and room in the lock tables is accepted: `mx.q`
receives its sequence number, it stands last in the queue, and its ranges are locked in their scratchpads behind the older ones. -/
def Obligations.MatrixCommandsAreAccepted : Prop :=
  ∀ r ∈ matrixTable, ∀ (h : Hdr) (s : State), Goes .mx r.1 h s → s.sl.sb = [] → s.core.mq.waiting = [] →
    s.core.mq.cmds.length < 4 →
    let m := offered s r.1 h
    s.mxFault m = none → (∀ c, (s.coreAt c).ranges.length + ((m.ranges s.coreId).filter fun x => x.1 = c).length ≤ 64) →
    let n := s.core.mq.next
    ∃ t, exec (r.2 h) s = .next t ∧ t.sl = s.ran .mx h (answered (BitVec.ofNat 64 n) 0) ∧
      (∃ m', t.core.mq.cmds = s.core.mq.cmds ++ [m'] ∧ m'.seq = n ∧ { m' with seq := 0, before := [] } = m) ∧
      t.core.mq.next = (n + 1) % 2 ^ 32 ∧ SameMemory s t ∧
      ∀ c, (t.coreAt c).ranges = (s.coreAt c).ranges ++ ((m.ranges s.coreId).filter fun x => x.1 = c).map fun x =>
        ⟨x.2.1, x.2.2.1, x.2.2.2.1, myQueue s, n⟩

/-- R91, R185, R186, R187: a command that fails a check traps by the first check failed and is not queued: zero fields, unused bits, K of
zero and rounding codes above 3 raise ILLEGAL_OP with the part that holds them; a command that finds the queue full waits, kind 11,
for its own queue. -/
def Obligations.MatrixCommandsTrapOrWait : Prop :=
  ∀ r ∈ matrixTable, ∀ (h : Hdr) (s : State), Goes .mx r.1 h s →
    let m := offered s r.1 h
    let bad := fun (u : MUse) (w : Word) =>
      (u = .no ∧ w ≠ 0) ∨ (u = .operand ∧ w.toNat / 2 ^ 48 % 256 ≠ 0) ∨ (u = .mask ∧ w.toNat / 2 ^ 8 ≠ 0)
    let badP := bad (mxUse r.1).1 m.p
    let badQ := bad (mxUse r.1).2 m.q
    let badC := m.c &&& ~~~ BitVec.ofNat 64 (usedC r.1 (m.q.toNat / 2 ^ 59 = 13)) ≠ 0 ∨
      (r.1 ∈ [1, 2, 3, 7] ∧ m.c.toNat / 2 ^ 48 = 0) ∨ (r.1 = 6 ∧ m.c.toNat % 8 ∉ [0, 1, 2, 3])
    let badT := m.t &&& ~~~ BitVec.ofNat 64
      (if r.1 ≤ 3 then 0xFFFFFFFF0D000FFF else if r.1 = 5 ∨ r.1 = 6 then 0x05000FFF else 0x01000FFF) ≠ 0
    (badP → exec (r.2 h) s = .next (enterTrap 0x02 m.p s.sl.pc s)) ∧
    (¬ badP → badQ → exec (r.2 h) s = .next (enterTrap 0x02 m.q s.sl.pc s)) ∧
    (¬ badP → ¬ badQ → badC → exec (r.2 h) s = .next (enterTrap 0x02 m.c s.sl.pc s)) ∧
    (¬ badP → ¬ badQ → ¬ badC → badT → exec (r.2 h) s = .next (enterTrap 0x02 m.t s.sl.pc s)) ∧
    (∀ code tval, s.mxFault m = some (code, tval) → exec (r.2 h) s = .next (enterTrap code tval s.sl.pc s)) ∧
    (s.mxFault m = none → 4 ≤ s.core.mq.cmds.length → s.sl.wait = none → s.untraced → MayWait s →
      ∃ t, exec (r.2 h) s = .next t ∧ t.sl = waiting s .mx r.1 h 11 0 (myQueue s) 0 [] ∧ SameMemory s t ∧
        t.core.mq.cmds = s.core.mq.cmds)

/-- R101, R195, R196: `qm` loads enter their unit with the bytes that the slot sees at the translated address, sign- or zero-extended, to
answer within the time of its home, and change nothing but that another device's refusal is counted; stores and releases enter the slot's FIFO with zero results; an address that fails a check traps. -/
def Obligations.DeviceMemoryResults : Prop :=
  ∀ (h : Hdr) (s : State),
    (∀ r ∈ deviceLoadTable, ∀ p, Goes .qm r.1 h s → devicePlace s (s.moved64 h) r.2.2.1 .read = .ok p →
      let n := r.2.2.1
      let x := leNat (s.loadFar p n)
      ∃ t, exec (r.2.1 h) s = .next t ∧
        Launches .qm r.1 h (s.cycles (deviceTime s p).1) (s.cycles (deviceTime s p).2)
          (if r.2.2.2 then signedLow (8 * n) x else BitVec.ofNat 64 x) 0 (s.asked p) t ∧
        ((∀ dev a k, p ≠ .remote dev a k) → s.asked p = s) ∧ (s.unseen = [] → s.loadFar p n = s.loadHome p n)) ∧
    (∀ r ∈ deviceStoreTable, ∀ p, Goes .qm r.1 h s → devicePlace s (s.moved64 h) r.2.2.1 .write = .ok p →
      (r.2.2.2.isSome = true → s.core.outside = [] ∧ (∀ x ∈ s.pushes, s.isMine x = false) ∧ ∀ x ∈ s.pulls, s.isMine x = false) →
      ∃ t, exec (r.2.1 h) s = .next t ∧ OnlySlot s t ∧
        t.sl = { s.ran .qm h (answered 0 0) with
          sb := s.sl.sb ++ [⟨p, leBytes r.2.2.1 (s.lat .qm).a.toNat, r.2.2.2, true, s.moved64 h, false⟩] }) ∧
    (∀ r ∈ deviceLoadTable, ∀ e, Goes .qm r.1 h s → devicePlace s (s.moved64 h) r.2.2.1 .read = .error e →
      exec (r.2.1 h) s = .next (enterTrap e (s.moved64 h) s.sl.pc s)) ∧
    (∀ r ∈ deviceStoreTable, ∀ e, Goes .qm r.1 h s → devicePlace s (s.moved64 h) r.2.2.1 .write = .error e →
      exec (r.2.1 h) s = .next (enterTrap e (s.moved64 h) s.sl.pc s)) ∧
    (∀ r ∈ deviceAtomicTable, ∀ e, Goes .qm r.1 h s → devicePlace s (s.moved64 h) 8 .atomic = .error e →
      exec (r.2.1 h) s = .next (enterTrap e (s.moved64 h) s.sl.pc s))

/-- R145, R196, R197, R467, R471: a `qm` atomic on device or host memory reads and writes its doubleword at one instant and answers the old
value, and no other byte of any memory changes, as bytes are read under the page's key slot; one on another device's memory sends its request
out and changes no byte here; a fence that finds nothing of its slot outstanding completes at once. -/
def Obligations.DeviceAtomicResults : Prop :=
  ∀ (h : Hdr) (s : State), Settled s →
    (∀ r ∈ deviceAtomicTable, ∀ p, Goes .qm r.1 h s → devicePlace s (s.moved64 h) 8 .atomic = .ok p →
      let old := BitVec.ofNat 64 (leNat (s.readHome p 8))
      let new := r.2.2 old (s.lat .qm).a (s.lat .qm).b
      ∃ t, exec (r.2.1 h) s = .next t ∧ SameRegs s t ∧
        t.lat .qm = entered r.1 (s.cycles (deviceTime s p).1) (s.cycles (deviceTime s p).2) old
          (if r.1 = 0x22 ∧ new.isSome then 1 else 0) { s.lat .qm with t := s.moved64 h } ∧
        (new = none → SameMemory s t ∧ t.shum = (s.asked p).shum) ∧
        (∀ w, new = some w → match p with
          | .host a k => Becomes k a w s.hm t.hm s t ∧ (∀ b, t.dm.byte b = s.dm.byte b) ∧ SameCores s t
          | .device a k => Becomes k a w s.dm t.dm s t ∧ (∀ b, t.hm.byte b = s.hm.byte b) ∧ SameCores s t
          | .remote _ _ _ => SameMemory s t ∧ t.shum = (s.writeHome p (leBytes 8 w.toNat)).shum
          | .core _ _ => False)) ∧
    (∀ r ∈ deviceFenceTable, Goes .qm r.1 h s → ∃ t, exec (r.2 h) s = .next t ∧ Answers .qm h 0 0 s t)

/-- R198: a push copies its staging bytes, a pull the far end's, when its trigger completes, and answers after 4 cycles and one for each 64
bytes; the bytes are then on their way, and no byte of memory has changed; a berth with no place, or nothing filled, and a locked slot of a
berth are waited for. -/
def Obligations.CopyResults : Prop :=
  ∀ (h : Hdr) (s : State) (push : Bool), Goes .qm (if push then 0x30 else 0x31) h s → Settled s → s.sl.wait = none →
    let i := if push then Instr.qmPush h else .qmPull h
    let u := s.latched .qm h
    let len := (s.lat .qm).b.toNat
    let near := (s.lat .qm).a.toNat % 2 ^ 26
    let ctr := if bit (s.lat .qm).c 15 then some ((s.lat .qm).c.toNat % 2 ^ 12) else none
    (∀ code tval, u.copyFault push = some (code, tval) → exec i s = .next (enterTrap code tval s.sl.pc s)) ∧
    (u.copyFault push = none → ∀ far off berth, farEnd s push (s.moved64 h) = some (far, off, berth) →
      (push = true → ∀ l ∈ (s.coreAt far).ranges, ¬ (l.start < off + len ∧ off ≤ l.stop)) →
      let c : Copy := if push then ⟨s.coreId, s.core.cur, far, off, s.core.mem.bytes near len, berth, ctr⟩
        else ⟨s.coreId, s.core.cur, s.coreId, near, (s.coreAt far).mem.bytes off len, berth, ctr⟩
      ∃ t, exec i s = .next t ∧ t.sl = s.ran .qm h (entered (if push then 0x30 else 0x31) (4 + len / 64) (4 + len / 64) 0 0) ∧
        Apart (if push then { s with pushes := s.pushes ++ [c] } else { s with pulls := s.pulls ++ [c] }) t) ∧
    (u.copyFault push = none → push = true → ∀ far off b k, farEnd s push (s.moved64 h) = some (far, off, some b) → s.untraced → MayWait s →
      (s.coreAt far).conflict off len true = some k →
      ∃ t, exec i s = .next t ∧ OnlySlot s t ∧
        t.sl = waiting s .qm 0x30 h 8 0 k.queue ((s.moved64 h).toNat / 2 ^ 18 % 2 ^ 8 * 2 ^ 8) []) ∧
    (u.copyFault push = none → farEnd s push (s.moved64 h) = none → s.untraced → MayWait s →
      ∀ d, s.berthAt (s.farCore ((s.moved64 h).toNat / 2 ^ 30 % 4) ((s.moved64 h).toNat / 2 ^ 18 % 256)) ((s.moved64 h).toNat % 16) =
          some d →
        ∃ t, exec i s = .next t ∧ OnlySlot s t ∧
          t.sl = waiting s .qm (if push then 0x30 else 0x31) h (if push then 3 else 2) 0 (if push then d.cons else d.prod)
            ((s.moved64 h).toNat / 2 ^ 18 % 2 ^ 8 * 2 ^ 8 + (s.moved64 h).toNat % 16) [])

/-- R101, R202, R203: `qs.run` reads and checks its record and takes the next place of the run queue, its number in `qs.q`; a record that
fails a check traps; behind four records it waits, kind 11, for the engine; `stat` packs the engine's state; `cancel` stops the running
record at once at a slot boundary, and else when its slot is complete, clears an error, and with `t` = 1 empties the run queue; its `q` is
the number of records dropped. -/
def Obligations.StreamResults : Prop :=
  ∀ (h : Hdr) (s : State),
    let e := s.core.stream
    (∀ c off, Goes .qs 0x01 h s → s.sl.wait = none → accessPlace s (s.moved64 h) 64 false = .ok (c, off) →
      let bs := s.loadHome (.core c off) 64
      (s.streamFault bs = none → e.queue.length < 4 → e.waiting = [] →
        ∃ t, exec (.qsRun h) s = .next t ∧ t.sl = s.ran .qs h (answered (BitVec.ofNat 64 e.next) 0) ∧ SameMemory s t ∧
          t.core.stream.queue = e.queue ++ [(e.next, bs)] ∧ t.core.stream.next = (e.next + 1) % 2 ^ 32) ∧
      (s.streamFault bs = none → 4 ≤ e.queue.length → s.untraced → MayWait s →
        ∃ t, exec (.qsRun h) s = .next t ∧ t.core.stream.queue = e.queue ∧
          t.sl = waiting s .qs 0x01 h 11 0 (streamParty s.core) 0 []) ∧
      (∀ code, s.streamFault bs = some code → exec (.qsRun h) s = .next (enterTrap code (s.moved64 h) s.sl.pc s))) ∧
    (∀ code, Goes .qs 0x01 h s → s.sl.wait = none → accessPlace s (s.moved64 h) 64 false = .error code →
      exec (.qsRun h) s = .next (enterTrap code (s.moved64 h) s.sl.pc s)) ∧
    (Goes .qs 0x02 h s →
      ∃ t, exec (.qsStat h) s = .next t ∧ Answers .qs h
        (BitVec.ofNat 64 (s.streamState * 2 ^ 61 + e.err.getD 0 * 2 ^ 48 + e.queue.length * 2 ^ 40 + e.seq)) 0 s t) ∧
    (Goes .qs 0x03 h s → (s.moved64 h).toNat ≤ 1 →
      let n := (e.run.any fun r => !r.ending).toNat + if s.moved64 h = 1 then e.queue.length else 0
      ∃ t, exec (.qsCancel h) s = .next t ∧ t.sl = s.ran .qs h (answered (BitVec.ofNat 64 n) 0) ∧ SameMemory s t ∧
        t.core.stream.err = none ∧ (t.core.stream.queue = if s.moved64 h = 1 then [] else e.queue) ∧
        ((∀ r, e.run = some r → r.wrote = 0) → engineIdle t.core.stream) ∧
        ∀ r, e.run = some r → r.wrote ≠ 0 → t.core.stream.run = some { r with ending := true }) ∧
    (Goes .qs 0x03 h s → 1 < (s.moved64 h).toNat → exec (.qsCancel h) s = .next (enterTrap 0x02 (s.moved64 h) s.sl.pc s))

/-- R208 to R210, R212: `send` and `sendm` to a channel that takes their messages reserve its lowest free entry, by the next reservation
number, and the message is on its way with its header; they answer after 2 cycles and one for each 32 bytes of `sendm`. Where the
core holds no context of the job, or the channel does not take the sender, the message is on its way with no entry. A full channel is
waited for, kind 9, behind earlier senders; so is a channel of another device, which is the model's choice (log 8). A word, length or
address that fails a check traps: the zero fields of the word come first, then the length, then KIND. -/
def Obligations.SendResults : Prop :=
  ∀ (h : Hdr) (s : State) (many : Bool), Goes .ch (if many then 0x02 else 0x01) h s → s.sl.wait = none →
    let i := if many then Instr.chSendm h else .chSend h
    let t := s.moved64 h
    let n := t.toNat / 2 ^ 44 % 16
    let lat := if many then 2 + (s.lat .ch).b.toNat / 32 else 2
    (sendZeroBad t → exec i s = .next (enterTrap 0x02 t s.sl.pc s)) ∧
    (¬ sendZeroBad t → ¬ lengthOk many (s.lat .ch).b → exec i s = .next (enterTrap 0x02 (s.lat .ch).b s.sl.pc s)) ∧
    (¬ sendZeroBad t → lengthOk many (s.lat .ch).b → t.toNat / 2 ^ 42 % 4 = 3 → exec i s = .next (enterTrap 0x02 t s.sl.pc s)) ∧
    (¬ sendWordBad t → lengthOk many (s.lat .ch).b →
      (s.destCore t = none → exec i s = .next (enterTrap 0x07 t s.sl.pc s)) ∧
      (∀ d, s.destCore t = some d → n = 15 → s.sl.priv = 0 → exec i s = .next (enterTrap 0x03 t s.sl.pc s))) ∧
    (∀ dst pay, ¬ sendWordBad t → s.destCore t = some dst → (n = 15 → s.sl.priv ≠ 0) → sendPayload s many = .ok pay → Settled s →
      let opc := if many then 2 else 1
      let taken := (s.coreAt dst).takesFor s.record? = true ∧ s.accepts ((s.coreAt dst).chan n) (s.record?.getD 0) s.party = true
      let turn := ((s.coreAt dst).chan n).queue = [] ∨ ((s.coreAt dst).chan n).queue.head? = some (me s)
      (∀ k, s.leavesDevice t = false → taken → (s.coreAt dst).sendable n = some k → turn →
        ∃ u, exec i s = .next u ∧ SameRegs s u ∧ SameMemory s u ∧
          u.lat .ch = entered opc lat lat 0 0 { s.lat .ch with t := t } ∧
          u.msgs = s.msgs ++ [sentMessage s h dst (some k) pay] ∧
          (((u.coreAt dst).chan n).entries[k]?.map (·.state)) = some .reserved ∧
          ((u.coreAt dst).chan n).next = ((s.coreAt dst).chan n).next + 1) ∧
      (s.leavesDevice t = false → ¬ taken →
        ∃ u, exec i s = .next u ∧ SameRegs s u ∧ SameMemory s u ∧
          u.lat .ch = entered opc lat lat 0 0 { s.lat .ch with t := t } ∧ u.msgs = s.msgs ++ [sentMessage s h dst none pay]) ∧
      (s.leavesDevice t = false → taken → (s.coreAt dst).sendable n = none ∨ ¬ turn → s.untraced → MayWait s →
        ∃ u, exec i s = .next u ∧ u.msgs = s.msgs ∧ SameMemory s u ∧
          u.sl = waiting s .ch opc h 9 0 (chanParty dst (s.coreAt dst) n) n pay) ∧
      (∀ r, s.record? = some r → s.leavesDevice t = true → s.untraced → MayWait s →
        ∃ u, exec i s = .next u ∧ u.msgs = s.msgs ∧ SameMemory s u ∧
          u.sl = waiting s .ch opc h 9 0 (externalParty (s.destDev r t)) n pay)) ∧
    (∀ e, ¬ sendWordBad t → (s.destCore t).isSome = true → (n = 15 → s.sl.priv ≠ 0) → sendPayload s many = .error e → s.core.outside = [] →
      exec i s = .next (enterTrap e.1 e.2 s.sl.pc s))

/-- R209, R213 to R215: `recv` and `poll` take the arrived entry of the oldest reservation, its address and header the results, or answer
zero, or wait, kind 1; `free` frees a taken entry; `match` and `unmatch` set and clear an entry of the match table; a channel that is
not declared or is fed to the engine, and an address of no taken entry, raise ILLEGAL_OP. -/
def Obligations.ChannelResults : Prop :=
  ∀ (h : Hdr) (s : State),
    let t := s.moved64 h
    let n := t.toNat % 16
    let ch := s.core.chan n
    (∀ i, t.toNat < 16 → takable s n → oldestArrived ch i →
      let adr := BitVec.ofNat 64 (0x4000000 + (ch.base + 256 * i))
      let header := s.core.mem.dword (ch.base + 256 * i)
      (Goes .ch 0x03 h s → ch.recvq = [] →
        ∃ u, exec (.chRecv h) s = .next u ∧ u.sl = s.ran .ch h (entered 3 2 2 adr header) ∧ SameMemory s u ∧
          ((u.core.chan n).entries[i]?.map (·.state)) = some .taken) ∧
      (Goes .ch 0x04 h s →
        ∃ u, exec (.chPoll h) s = .next u ∧ u.sl = s.ran .ch h (answered adr header) ∧ SameMemory s u ∧
          ((u.core.chan n).entries[i]?.map (·.state)) = some .taken)) ∧
    (t.toNat < 16 → takable s n → noneArrived ch →
      (Goes .ch 0x04 h s → ∃ u, exec (.chPoll h) s = .next u ∧ Answers .ch h 0 0 s u) ∧
      (Goes .ch 0x03 h s → s.sl.wait = none → s.untraced → MayWait s →
        ∃ u, exec (.chRecv h) s = .next u ∧ u.sl = waiting s .ch 3 h 1 ch.smode ch.sender n [] ∧ SameMemory s u)) ∧
    (¬ (t.toNat < 16 ∧ takable s n) →
      (Goes .ch 0x03 h s → exec (.chRecv h) s = .next (enterTrap 0x02 t s.sl.pc s)) ∧
      (Goes .ch 0x04 h s → exec (.chPoll h) s = .next (enterTrap 0x02 t s.sl.pc s))) ∧
    (Goes .ch 0x05 h s → s.core.takenAt t = none → exec (.chFree h) s = .next (enterTrap 0x02 t s.sl.pc s)) ∧
    (∀ m i, Goes .ch 0x05 h s → s.core.takenAt t = some (m, i) → Settled s → s.core.notices = [] → (s.core.chan m).queue = [] →
      ∃ u, exec (.chFree h) s = .next u ∧ u.sl = s.ran .ch h (answered 0 0) ∧ SameMemory s u ∧
        ((u.core.chan m).entries[i]?.map (·.state)) = some .free) ∧
    (Goes .ch 0x06 h s → t.toNat / 2 ^ 20 % 16 = 0 → t.toNat / 2 ^ 4 % 2 ^ 12 = 0 → takable s (t.toNat / 2 ^ 16 % 16) →
      (s.lat .ch).a.toNat < 2 ^ 52 → (s.lat .ch).a.toNat % 4 = 0 →
      ∃ u, exec (.chMatch h) s = .next u ∧ u.sl = s.ran .ch h (answered 0 0) ∧ SameMemory s u ∧
        u.core.matchTab[Fin.ofNat 16 n] = some ⟨t, (s.lat .ch).a, (s.lat .ch).b⟩ ∧
        ∀ k : Fin 16, k ≠ Fin.ofNat 16 n → u.core.matchTab[k] = s.core.matchTab[k]) ∧
    (Goes .ch 0x07 h s → t.toNat < 16 → (∀ c, (s.core.chan c).recvq = []) →
      ∃ u, exec (.chUnmatch h) s = .next u ∧ u.sl = s.ran .ch h (answered 0 0) ∧ SameMemory s u ∧
        u.core.matchTab[Fin.ofNat 16 n] = none ∧
        (∀ k : Fin 16, k ≠ Fin.ofNat 16 n → u.core.matchTab[k] = s.core.matchTab[k]) ∧
        ∀ m, s.core.matchTab[Fin.ofNat 16 n] = some m → ∀ c < 16, ∀ e ∈ (u.core.chan c).entries, e.mark ≠ some (n, m)) ∧
    (Goes .ch 0x07 h s → 16 ≤ t.toNat → exec (.chUnmatch h) s = .next (enterTrap 0x02 t s.sl.pc s))

/-- R223, R225, R226: `wait` and `cwait` answer the word or the counter once it satisfies them, else wait, kinds 4 and 5; `cinc` adds and
answers the old count; `bar` waits for its group, kind 6, until the last member arrives; controls, groups and counters that fail their
checks trap. -/
def Obligations.WaitResults : Prop :=
  ∀ (h : Hdr) (s : State), s.sl.wait = none → s.sl.sb = [] →
    let t := s.moved64 h
    let a := (s.lat .sy).a
    let b := (s.lat .sy).b
    let mode := b.toNat / 2 ^ 56 % 8
    let releaser := b.toNat / 2 ^ 24 % 2 ^ 24
    (∀ c off, Goes .sy 0x03 h s → ¬ waitControlBad b false → accessPlace s t 8 false = .ok (c, off) →
      let w := (s.coreAt c).mem.dword off
      (waitHolds (b.toNat / 2 ^ 61) w a → ∃ u, exec (.syWait h) s = .next u ∧ Launches .sy 0x03 h 2 2 w 0 s u) ∧
      (¬ waitHolds (b.toNat / 2 ^ 61) w a → s.untraced → MayWait s →
        ∃ u, exec (.syWait h) s = .next u ∧ OnlySlot s u ∧ u.sl = waiting s .sy 3 h 4 mode releaser (t.toNat % 2 ^ 24) [])) ∧
    (Goes .sy 0x04 h s → ¬ waitControlBad b true → t.toNat < 2 ^ 12 → counterGranted s t.toNat →
      let w := s.ctr s.coreId.die t.toNat
      (a.toNat ≤ w.toNat → ∃ u, exec (.syCwait h) s = .next u ∧ Launches .sy 0x04 h 2 2 w 0 s u) ∧
      (w.toNat < a.toNat → s.untraced → MayWait s →
        ∃ u, exec (.syCwait h) s = .next u ∧ OnlySlot s u ∧ u.sl = waiting s .sy 4 h 5 mode releaser t.toNat [])) ∧
    (Goes .sy 0x05 h s → Settled s → t.toNat < 2 ^ 12 → counterGranted s t.toNat →
      let w := s.ctr s.coreId.die t.toNat
      ∃ u, exec (.syCinc h) s = .next u ∧ u.ctr s.coreId.die t.toNat = w + a ∧ u.lat .sy = answered w 0 { s.lat .sy with t := t } ∧
        SameRegs s u ∧ SameMemory s u ∧ ∀ die n, die * 4096 + n ≠ s.coreId.die * 4096 + t.toNat → u.ctr die n = s.ctr die n) ∧
    (Goes .sy 0x02 h s → Settled s → s.untraced → MayWait s → t.toNat < 256 → ∀ ms, s.myJob.barMembers t.toNat = some ms →
      s.record?.isSome = true → s.party ∈ ms → (∃ p ∈ ms, p ≠ s.party ∧ ∀ k, s.slotOf s.myJob p = some k → k.atBar t.toNat = false) →
      (∀ p ∈ ms, s.slotOf s.myJob p = some s.sl → p = s.party) →
      ∃ u, exec (.syBar h) s = .next u ∧ OnlySlot s u ∧ u.sl = waiting s .sy 2 h 6 2 (5 * 2 ^ 16 + t.toNat) t.toNat []) ∧
    (Goes .sy 0x02 h s → 256 ≤ t.toNat ∨ (∀ ms, s.myJob.barMembers t.toNat = some ms → s.party ∉ ms) →
      exec (.syBar h) s = .next (enterTrap 0x02 t s.sl.pc s)) ∧
    (Goes .sy 0x03 h s → waitControlBad b false → exec (.syWait h) s = .next (enterTrap 0x02 b s.sl.pc s)) ∧
    (Goes .sy 0x04 h s → waitControlBad b true → exec (.syCwait h) s = .next (enterTrap 0x02 b s.sl.pc s)) ∧
    (∀ r ∈ [(0x04, Instr.syCwait h), (0x05, .syCinc h)], Goes .sy r.1 h s → (r.1 = 0x04 → ¬ waitControlBad b true) →
      (2 ^ 12 ≤ t.toNat → exec r.2 s = .next (enterTrap 0x02 t s.sl.pc s)) ∧
      (t.toNat < 2 ^ 12 → ¬ counterGranted s t.toNat → exec r.2 s = .next (enterTrap 0x07 t s.sl.pc s)))

/-- R222, R227 to R230: `yield` marks the slot; `hstart` gives the lowest free helper ID and queues the helper; `hjoin` answers the exit value
of an ended helper, whose stores it performs, and frees its ID, or waits, kind 6; `tend` frees the slot, and changes no memory where the core or
its job goes on; `dreq` empties its future word and queues a request;
`slack` waits for its group; each outside its slot or its range traps, `hstart` in the order of its checks. An ID above 15 is no helper ID, which
is the model's choice (log 124). -/
def Obligations.ActivationResults : Prop :=
  ∀ (h : Hdr) (s : State), s.sl.wait = none →
    let t := s.moved64 h
    let a := (s.lat .sy).a
    (Goes .sy 0x06 h s → ∃ u, exec (.syYield h) s = .next u ∧ OnlySlot s u ∧
      u.sl = { s.ran .sy h (answered 0 0) with yielded := true }) ∧
    (∀ n, Goes .sy 0x07 h s → s.core.cur = 0 → t.toNat % 4 = 0 → t.toNat < s.sl.csr.codelim.toNat → freeHelper s n →
      s.core.actq.length < 16 →
      ∃ u, exec (.syHstart h) s = .next u ∧ u.sl = s.ran .sy h (answered (BitVec.ofNat 64 n) 0) ∧
        Apart (s.onCore fun c => { c with helpers := c.helpers.set n ⟨true, true, none, 0⟩,
                                          actq := c.actq ++ [⟨1, t, a, BitVec.ofNat 64 n, 0, some n.val, none⟩] }) u) ∧
    (Goes .sy 0x07 h s →
      (s.core.cur ≠ 0 → exec (.syHstart h) s = .next (enterTrap 0x02 t s.sl.pc s)) ∧
      (s.core.cur = 0 → t.toNat % 4 ≠ 0 → exec (.syHstart h) s = .next (enterTrap 0x06 t s.sl.pc s)) ∧
      (s.core.cur = 0 → t.toNat % 4 = 0 → s.sl.csr.codelim.toNat ≤ t.toNat →
        exec (.syHstart h) s = .next (enterTrap 0x02 t s.sl.pc s)) ∧
      (s.core.cur = 0 → t.toNat % 4 = 0 → t.toNat < s.sl.csr.codelim.toNat →
        (∀ n : Fin 10, s.core.helpers[n].held = true) ∨ 16 ≤ s.core.actq.length →
        exec (.syHstart h) s = .next (enterTrap 0x0D t s.sl.pc s))) ∧
    (Goes .sy 0x08 h s → s.core.cur ≠ 0 ∨ 10 ≤ t.toNat ∨ (∀ n : Fin 10, t.toNat = n.val → s.core.helpers[n].held = false) →
      exec (.syHjoin h) s = .next (enterTrap 0x02 t s.sl.pc s)) ∧
    (∀ n : Fin 10, Goes .sy 0x08 h s → s.core.cur = 0 → t.toNat = n.val → s.core.helpers[n].held = true →
      (s.core.helpers[n].live = false →
        ∃ u, exec (.syHjoin h) s = .next u ∧ SameRegs s u ∧ u.core.helpers[n].held = false ∧
          u.lat .sy = entered 8 2 2 s.core.helpers[n].exit 0 { s.lat .sy with t := t } ∧
          (∀ k, s.core.helpers[n].slot = some k → (u.core.slot k).sb = []) ∧
          ((∀ k, s.core.helpers[n].slot = some k → (s.core.slot k).sb = [] ∧ ∀ p, p ∈ s.pushes ∨ p ∈ s.pulls →
              ¬ (p.src = s.coreId ∧ p.slot = k)) →
            u.sl = s.ran .sy h (entered 8 2 2 s.core.helpers[n].exit 0) ∧ SameMemory s u)) ∧
      (s.core.helpers[n].live = true → s.untraced → MayWait s →
        ∃ u, exec (.syHjoin h) s = .next u ∧ OnlySlot s u ∧
          u.sl = match s.core.helpers[n].slot with
            | some k => waiting s .sy 8 h 6 0 (partyOf s.coreId s.core k) n []
            | none => waiting s .sy 8 h 6 3 0 n [])) ∧
    (Goes .sy 0x09 h s → s.sl.kind ≠ 3 → s.sl.badImage = none →
      ∃ u, exec (.syTend h) s = .next u ∧ u.sl.run = .free ∧ u.sl.x = s.sl.x ∧
        (∀ n, s.sl.helper = some n → n < 10 → u.core.helpers[Fin.ofNat 10 n] = ⟨true, false, some s.core.cur.val, t⟩) ∧
        ((∀ r, s.record? = some r → s.recState r = 2 ∧ ((∃ n : Fin 4, n ≠ s.core.cur ∧ s.core.slots[n].occupied = true) ∨ s.core.actq ≠ [])) →
          SameMemory s u)) ∧
    (Goes .sy 0x09 h s → s.sl.kind = 3 → exec (.syTend h) s = .next (enterTrap 0x02 t s.sl.pc s)) ∧
    (∀ c off r, Goes .sy 0x0A h s → a.toNat < 8 → accessPlace s t 8 true = .ok (c, off) → s.sl.sb = [] → s.record? = some r →
      (s.dw r (13 + a.toNat)).toNat / 2 ^ 60 % 4 ≠ 0 → s.core.dreqs < 8 →
      ∃ u, exec (.syDreq h) s = .next u ∧ u.sl = s.ran .sy h (answered 0 0) ∧ SameMemory s u ∧ (u.coreAt c).full off = false ∧
        u.core.dreqs = s.core.dreqs + 1 ∧ (u.job r).dreqs = (s.job r).dreqs ++ [⟨s.coreId, s.core.cur, a.toNat, c, off⟩]) ∧
    (Goes .sy 0x0A h s → 8 ≤ a.toNat → exec (.syDreq h) s = .next (enterTrap 0x02 a s.sl.pc s)) ∧
    (∀ x adr bs, Goes .sy 0x01 h s → Settled s → s.untraced → MayWait s → s.core.ctx = some x → s.core.cur = 0 → t.toNat < 16 →
      s.recSS x.record = true → s.planAddr x.record x.role t.toNat = .ok (some adr) → s.planBytes x.record adr 1024 0 0 = some bs →
      (∀ m ∈ s.msgs, ¬ (m.src = s.coreId ∧ m.slot = s.core.cur.val)) → (∀ m ∈ s.core.mq.cmds, m.cls ≠ 6) →
      ∃ u, exec (.sySlack h) s = .next u ∧ OnlySlot s u ∧ u.sl = waiting s .sy 1 h 6 2 slackParty 0xFF bs) ∧
    (Goes .sy 0x01 h s → s.core.cur ≠ 0 ∨ 16 ≤ t.toNat → exec (.sySlack h) s = .next (enterTrap 0x02 t s.sl.pc s))

/-- R38, R41, R45, R165, R232: the CSR instructions answer the old value; a write takes effect at the end of the bundle, RO fields as they
were and every other CSR too; unknown numbers and refused values raise ILLEGAL_OP, a user's write of a register that users only read
PRIV. -/
def Obligations.CsrResults : Prop :=
  ∀ r ∈ csrTable, ∀ (h : Hdr) (s : State), Goes .sy r.1 h s →
    let t := s.moved64 h
    let n := t.toNat
    let old := s.csr n
    let w := r.2.2 old (s.lat .sy).a
    (n ∉ csrNumbers s.coreId.kind → exec (r.2.1 h) s = .next (enterTrap 0x02 t s.sl.pc s)) ∧
    (n ∈ csrNumbers s.coreId.kind → ¬ (n = 1 ∧ s.core.hasVector s.core.cur = true) →
      (w = none → ∃ u, exec (r.2.1 h) s = .next u ∧ Answers .sy h old 0 s u) ∧
      (∀ x, w = some x → s.sl.priv = 0 → n ∉ userCsrs → exec (r.2.1 h) s = .next (enterTrap 0x03 t s.sl.pc s)) ∧
      (∀ x, w = some x → ¬ (s.sl.priv = 0 ∧ n ∉ userCsrs) → csrRejects n x →
        exec (r.2.1 h) s = .next (enterTrap 0x02 x s.sl.pc s)) ∧
      (∀ x, w = some x → ¬ (s.sl.priv = 0 ∧ n ∉ userCsrs) → ¬ csrRejects n x →
        ∃ u, exec (r.2.1 h) s = .next u ∧ u.lat .sy = answered old 0 { s.lat .sy with t := t } ∧ u.sl.npc = s.nextPc h ∧
          (∀ m, u.csr m = if m = 7 then s.csr 7 + 1 else if m = n then csrWritten n old x else s.csr m) ∧
          u.sl.x = s.sl.x ∧ u.sl.v = s.sl.v ∧ u.sl.o = s.sl.o ∧ u.sl.g = s.sl.g ∧ SameMemory s u))

/-- R224, R231, R233 to R236: a fence with nothing outstanding completes; a flush drops the lines in its scope and range; `launch` arms a
complete idle record that the job owns, `lpatch` changes the granted bits of one, `submit` moves a queue's write index; `trap` raises
SYSCALL after its bundle; `halt` stops the core at machine level and raises PRIV below it. -/
def Obligations.SystemResults : Prop :=
  ∀ (h : Hdr) (s : State),
    let t := s.moved64 h
    let a := (s.lat .sy).a
    let b := (s.lat .sy).b
    (∀ r ∈ systemFenceTable, Goes .sy r.1 h s → (∀ p ∈ s.pushes, s.isMine p = false) → (∀ p ∈ s.pulls, s.isMine p = false) →
      (∀ m ∈ s.msgs, ¬ (m.src = s.coreId ∧ m.slot = s.core.cur.val)) → (∀ m ∈ s.emits, ¬ (m.src = s.coreId ∧ m.slot = s.core.cur.val)) →
      ∃ u, exec (r.2 h) s = .next u ∧ SameRegs s u ∧ u.sl.sb = [] ∧ SameMemory s.drain u ∧
        u.lat .sy = answered 0 0 { s.lat .sy with t := t } ∧ (s.sl.sb = [] → s.unseen = [] → Answers .sy h 0 0 s u)) ∧
    (∀ r ∈ flushTable, Goes .sy r.1 h s →
      let named := fun (l : CodeLine) => l.asid = s.asid ∧ (a = 0 ∨ (t.toNat < l.va + 64 ∧ l.va < t.toNat + a.toNat))
      ∃ u, exec (r.2.1 h) s = .next u ∧ u.sl = s.ran .sy h (answered 0 0) ∧ SameMemory s u ∧
        (∀ c, (c = s.coreId ∨ c ∈ s.others.map (·.1)) → ∀ l,
          l ∈ (u.coreAt c).icache ↔ l ∈ (s.coreAt c).icache ∧ ¬ (r.2.2.1 s.coreId c = true ∧ named l)) ∧
        ∀ n, ∀ l, l ∈ look [] u.ccache n ↔ l ∈ look [] s.ccache n ∧ ¬ (r.2.2.2 s.coreId n = true ∧ named l)) ∧
    (Goes .sy 0x0B h s →
      let rec_ := t.toNat
      (4096 ≤ rec_ → exec (.syLaunch h) s = .next (enterTrap 0x02 t s.sl.pc s)) ∧
      (rec_ < 4096 → s.owns rec_ = false → exec (.syLaunch h) s = .next (enterTrap 0x07 t s.sl.pc s)) ∧
      (rec_ < 4096 → s.owns rec_ = true → s.recState rec_ ≠ 0 ∨ s.complete? rec_ = false ∨ s.feSet = false →
        exec (.syLaunch h) s = .next (enterTrap 0x02 t s.sl.pc s)) ∧
      (rec_ < 4096 → s.owns rec_ = true → s.recState rec_ = 0 → s.complete? rec_ = true → s.feSet = true → Settled s →
        let written := (s.setRecState rec_ 1).writeRec rec_ ((s.setRecState rec_ 1).faultBase rec_) faultHeader
        ∃ u, exec (.syLaunch h) s = .next u ∧ SameRegs s u ∧ SameMemory written u ∧ rec_ ∈ u.armed ∧
          u.lat .sy = entered 0x0B 20 60 (BitVec.ofNat 64 rec_) 0 { s.lat .sy with t := t } ∧
          (s.setRecState rec_ 1).recState rec_ = 1)) ∧
    (Goes .sy 0x0C h s → t.toNat < 2 ^ 21 → t.toNat / 2 ^ 12 % 16 = 0 →
      let rec_ := t.toNat % 2 ^ 12
      let i := t.toNat / 2 ^ 16
      let w := (s.dw rec_ i &&& ~~~ b) ||| (a &&& b)
      (s.owns rec_ = true → bit (s.dw rec_ 1) (32 + i) = true → s.recState rec_ = 0 →
        ∃ u, exec (.syLpatch h) s = .next u ∧ u.sl = s.ran .sy h (entered 0x0C 20 60 w 0) ∧ u.dw rec_ i = w ∧ SameRegs s u ∧
          u.hm = s.hm ∧ u.core.mem = s.core.mem) ∧
      (¬ (s.owns rec_ = true ∧ bit (s.dw rec_ 1) (32 + i) = true) → exec (.syLpatch h) s = .next (enterTrap 0x07 t s.sl.pc s))) ∧
    (Goes .sy 0x40 h s →
      let q := t.toNat
      let old := s.qTail q
      (s.coreId.kind ≠ .harbour ∨ 4096 ≤ q → exec (.sySubmit h) s = .next (enterTrap 0x02 t s.sl.pc s)) ∧
      (s.coreId.kind = .harbour → q < 4096 → 2 ^ 32 ≤ a.toNat → exec (.sySubmit h) s = .next (enterTrap 0x02 a s.sl.pc s)) ∧
      (s.coreId.kind = .harbour → q < 4096 → a.toNat < 2 ^ 32 →
        (descAsid (s.queueDesc q) ≠ s.asid → exec (.sySubmit h) s = .next (enterTrap 0x07 t s.sl.pc s)) ∧
        (descAsid (s.queueDesc q) = s.asid → descSize (s.queueDesc q) < (a.toNat + 2 ^ 32 - old) % 2 ^ 32 →
          exec (.sySubmit h) s = .next (enterTrap 0x0D a s.sl.pc s)) ∧
        (descAsid (s.queueDesc q) = s.asid → (a.toNat + 2 ^ 32 - old) % 2 ^ 32 ≤ descSize (s.queueDesc q) → Settled s →
          ∃ u, exec (.sySubmit h) s = .next u ∧ u.sl = s.ran .sy h (entered 0x40 20 60 (BitVec.ofNat 64 old) 0) ∧
            u.qTail q = a.toNat))) ∧
    (Goes .sy 0x24 h s →
      let r := (s.setSl { s.ran .sy h (answered 0 0) with after := some (0x0F, t) }).count 1
      exec (.syTrap h) s = .next (enterTrap 0x0F t (s.nextPc h) (if s.sl.repActive then r.repetitionEnd else r))) ∧
    (Goes .sy 0x41 h s → s.sl.priv = 3 → s.sl.sb = [] →
      ∃ u, exec (.syHalt h) s = .next u ∧ u.sl = s.ran .sy h (answered 0 0) ∧ Apart (s.onCore fun c => { c with stopped := true }) u) ∧
    (Goes .sy 0x41 h s → s.sl.priv ≠ 3 → exec (.syHalt h) s = .next (enterTrap 0x03 t s.sl.pc s))

/-- R41, R237: `cyc` and `perf` answer the cycle count and a counter; `psel` selects a counter's event and slot and clears it; `mark` does
nothing where no trace is written; reserved bits and events above 15 raise ILLEGAL_OP. -/
def Obligations.DebugUnitResults : Prop :=
  ∀ (h : Hdr) (s : State),
    let t := s.moved64 h
    (Goes .db 0x01 h s → ∃ u, exec (.dbCyc h) s = .next u ∧ Answers .db h s.core.cycle 0 s u) ∧
    (∀ n : Fin 8, Goes .db 0x02 h s → t.toNat = n.val →
      ∃ u, exec (.dbPerf h) s = .next u ∧ Answers .db h s.core.perf[n].count 0 s u) ∧
    (Goes .db 0x02 h s → 8 ≤ t.toNat → exec (.dbPerf h) s = .next (enterTrap 0x02 t s.sl.pc s)) ∧
    (∀ n : Fin 8, Goes .db 0x03 h s → t.toNat % 256 = n.val → t.toNat / 2 ^ 13 % 8 = 0 → t.toNat < 2 ^ 19 →
      t.toNat / 2 ^ 8 % 32 ≤ 15 →
      ∃ u, exec (.dbPsel h) s = .next u ∧ u.sl = s.ran .db h (answered 0 0) ∧ SameMemory s u ∧
        u.core.perf[n].event = t.toNat / 2 ^ 8 % 32 ∧ u.core.perf[n].all = bit t 16 ∧ u.core.perf[n].slot = t.toNat / 2 ^ 17 % 4 ∧
        ((t.toNat / 2 ^ 8 % 32 = 1 → False) → u.core.perf[n].count = 0)) ∧
    (Goes .db 0x03 h s → t.toNat / 2 ^ 13 % 8 ≠ 0 ∨ t.toNat / 2 ^ 3 % 32 ≠ 0 ∨ 2 ^ 19 ≤ t.toNat ∨ 15 < t.toNat / 2 ^ 8 % 32 →
      exec (.dbPsel h) s = .next (enterTrap 0x02 t s.sl.pc s)) ∧
    (Goes .db 0x04 h s → t.toNat < 2 ^ 32 → s.untraced → ∃ u, exec (.dbMark h) s = .next u ∧ Answers .db h 0 0 s u) ∧
    (Goes .db 0x04 h s → 2 ^ 32 ≤ t.toNat → exec (.dbMark h) s = .next (enterTrap 0x02 t s.sl.pc s))

/-- R218: `emit` with a free credit and nobody waiting before it takes a credit of the stage in the key's cluster and sends its record, its
unit to answer after 2 cycles and one for each 32 bytes; with no credit, or behind another, it waits, kind 10; zero fields and undeclared stages trap. -/
def Obligations.EmitResults : Prop :=
  ∀ (h : Hdr) (s : State), Goes .ks 0x03 h s → s.sl.wait = none →
    let t := s.moved64 h
    let a := (s.lat .ks).a
    let b := (s.lat .ks).b
    let n := b.toNat / 2 ^ 32
    (248 < n ∨ n % 8 ≠ 0 → exec (.ksEmit h) s = .next (enterTrap 0x02 b s.sl.pc s)) ∧
    (n ≤ 248 → n % 8 = 0 → 64 ≤ t.toNat → exec (.ksEmit h) s = .next (enterTrap 0x02 t s.sl.pc s)) ∧
    (∀ r, n ≤ 248 → n % 8 = 0 → t.toNat < 64 → s.record? = some r →
      (s.stage r t.toNat = none → s.stageLost r t.toNat = false → exec (.ksEmit h) s = .next (enterTrap 0x02 t s.sl.pc s)) ∧
      (∀ d pay, s.stage r t.toNat = some d → Settled s →
        (if n = 0 then pay = []
         else ∃ c off, s.spaTarget (BitVec.ofNat 64 (b.toNat % 2 ^ 32)) = .ok (c, off) ∧ s.spaOffset c off n 8 false = none ∧
           pay = s.loadHome (.core c off) n) →
        let p := keyCluster d a
        let hk := (s.job r).hamperOf p
        let rec_ : KRec := ⟨t.toNat, a, BitVec.ofNat 64 (t.toNat * 2 ^ 48 + n * 2 ^ 40 + s.party), pay⟩
        (look 0 (s.hamper hk).credits t.toNat ≠ 0 → (∀ q, (s.hamper hk).waiter t.toNat = some q → q = me s) →
          ∃ u, exec (.ksEmit h) s = .next u ∧ SameMemory s u ∧ u.sl = s.ran .ks h (entered 3 (2 + n / 32) (2 + n / 32) 0 0) ∧
            u.emits = s.emits ++ [⟨s.coreId, s.core.cur, hk / 4, hk % 4, rec_⟩] ∧
            look 0 (u.hamper hk).credits t.toNat = look 0 (s.hamper hk).credits t.toNat - 1) ∧
        (look 0 (s.hamper hk).credits t.toNat = 0 ∨ (∃ q, (s.hamper hk).waiter t.toNat = some q ∧ q ≠ me s) → s.untraced → MayWait s →
          ∃ u, exec (.ksEmit h) s = .next u ∧ SameMemory s u ∧ u.emits = s.emits ∧
            u.sl = waiting s .ks 3 h 10 0 (stageParty t.toNat p) t.toNat pay)))

/-- R219, R220: a coroutine's `yield` leaves its key idle with x24 to x31, the key window and the address of the next bundle, or queued
where records wait, and then the oldest of them is the record of its next activation; `end` frees it, or leaves a new instance of its stage where
records wait; both free the slot; a retirement's `yield` frees the entry and raises STAGE_RETIRE_YIELD; `drain`
completes and retires the idle keys of the stage that are no victims; `stat` counts; each traps where it may not run. -/
def Obligations.KeyedUnitResults : Prop :=
  ∀ (h : Hdr) (s : State),
    let t := s.moved64 h
    let a := (s.lat .ks).a
    let hk := hamperKey s.coreId
    (∀ r ∈ [(0x01, Instr.ksYield h), (0x02, .ksEnd h)], Goes .ks r.1 h s → s.sl.kind ≠ 3 →
      exec r.2 s = .next (enterTrap 0x02 t s.sl.pc s)) ∧
    (∀ k e r, s.sl.kind = 3 → s.sl.key = some k → look? (s.hamper hk).ways (8 * k.set + k.way) = some e → s.record? = some r →
      Settled s → s.sl.badImage = none →
      let way := 8 * k.set + k.way
      let left := { e with core := none, rpc := s.nextPc h, loc := s.core.mem.bytes (0x2C000 + 0x200 * s.core.cur) 160,
                           carry := (List.range 8).map fun i => s.sl.x[Fin.ofNat 32 (24 + i)] }
      (∀ (i : Nat) (q : KRec) (d : List Byte), oldestBehind (s.hamper hk).recs e i q → s.stage r e.stage = some d → s.carryLost r d = false →
        (s.job r).drains = [] →
        (Goes .ks 0x01 h s → k.retire = false → s.core.vq = [] →
          ∃ u, exec (.ksYield h) s = .next u ∧ u.sl.run = .free ∧ Queues (s.hamper hk) (u.hamper hk) way left false ∧
            (u.hamper hk).recs = (s.hamper hk).recs.set i (q, .active)) ∧
        (Goes .ks 0x02 h s →
          ∃ u, exec (.ksEnd h) s = .next u ∧ u.sl.run = .free ∧
            Queues (s.hamper hk) (u.hamper hk) way (s.template r d e.stage e.key) false ∧
            (u.hamper hk).recs = (s.hamper hk).recs.set i (q, .active))) ∧
      ((s.hamper hk).fifo e = 0 →
      (Goes .ks 0x01 h s → k.retire = false → s.core.vq = [] →
        ∃ u, exec (.ksYield h) s = .next u ∧ u.sl.run = .free ∧
          look? (u.hamper hk).ways way = some { left with st := .idle, tidle := s.time }) ∧
      (Goes .ks 0x02 h s →
        ∃ u, exec (.ksEnd h) s = .next u ∧ u.sl.run = .free ∧ look? (u.hamper hk).ways way = none) ∧
      (Goes .ks 0x01 h s → k.retire = true → s.sl.inh = false → (s.job r).drains = [] →
        ∃ u, exec (.ksYield h) s = .next u ∧ look? (u.hamper hk).ways way = none ∧
          (bit s.sl.csr.svec 0 = true → u.sl.csr.cause = 0x13 ∧ u.sl.csr.tval = k.key ∧ u.sl.csr.epc = bundleAddr (s.nextPc h))))) ∧
    (Goes .ks 0x04 h s →
      (s.sl.kind = 3 → exec (.ksDrain h) s = .next (enterTrap 0x02 t s.sl.pc s)) ∧
      (s.sl.kind ≠ 3 → 2 ^ 16 ≤ a.toNat ∨ a.toNat / 2 ^ 12 % 8 ≠ 0 → exec (.ksDrain h) s = .next (enterTrap 0x02 a s.sl.pc s)) ∧
      (s.sl.kind ≠ 3 → a.toNat < 2 ^ 16 → a.toNat / 2 ^ 12 % 8 = 0 →
        (64 ≤ t.toNat → exec (.ksDrain h) s = .next (enterTrap 0x02 t s.sl.pc s)) ∧
        (∀ r d, t.toNat < 64 → s.record? = some r → s.stage r t.toNat = some d → (bit a 15 = true → counterGranted s (a.toNat % 2 ^ 12)) →
          (s.job r).drains = [] → s.spillLost r t.toNat = false →
          ∃ u, exec (.ksDrain h) s = .next u ∧ SameRegs s u ∧ SameMemory s u ∧ u.lat .ks = answered 0 0 { s.lat .ks with t := t } ∧
            ∀ p ∈ stClusters d, ∀ way e, look? (u.hamper ((s.job r).hamperOf p)).ways way = some e → e.stage = t.toNat → e.st = .idle →
              (u.hamper ((s.job r).hamperOf p)).isVictim way = true))) ∧
    (Goes .ks 0x05 h s →
      (64 ≤ t.toNat → exec (.ksStat h) s = .next (enterTrap 0x02 t s.sl.pc s)) ∧
      (t.toNat < 64 →
        let ways := (s.hamper hk).ways.filter fun w => w.2.stage = t.toNat
        let recs := (s.hamper hk).recs.filter fun x => x.1.stage = t.toNat
        let idle := (ways.filter fun w => w.2.st = .idle).length
        let running := (ways.filter fun w => w.2.st = .running ∨ w.2.st = .retiring).length
        let queued := (recs.filter fun x => x.2 = .active ∨ x.2 = .behind).length
        let ovf := (recs.filter fun x => x.2 = .overflow).length
        idle < 2 ^ 16 → running < 2 ^ 16 → queued < 2 ^ 16 → ovf < 2 ^ 16 →
        ∃ u, exec (.ksStat h) s = .next u ∧
          Answers .ks h (BitVec.ofNat 64 (ovf * 2 ^ 48 + queued * 2 ^ 32 + running * 2 ^ 16 + idle)) 0 s u))

/-- R18, R27, R31, R128, R163, R164, R246, R315, R332, R381: what each event of a core does: a result lands, the core switches slot, the end
checks and the repetition state move on, a line arrives, a store is performed, a satisfied wait completes, a pending trap is taken,
the vector arbiter binds a head, and a bound entry completes. -/
def Obligations.CoreEvents : Prop :=
  ∀ s : State,
    (∀ (u : FU) (f : Flight), (s.lat u).fly = some f → f.lo ≤ f.age → ¬ (u = .qm ∧ f.opc = 0x31) →
      ∃ t, exec (.resultComplete u) s = .next t ∧ Apart s t ∧
        t.sl = s.sl.onLat u (fun l => { l with q := f.q, q2 := f.q2, valid := true, fly := none })) ∧
    (∀ n : Fin 4, Awake s → s.sl.run = .blocked ∨ s.sl.run = .free → n ≠ s.core.cur → s.core.slots[n].run = .ready →
      (∀ m : Fin 4, m ≠ n → m ≠ s.core.cur → s.core.slots[m].run ≠ .ready) →
      ∃ t, exec .stallSwitch s = .next t ∧ t.core.cur = n ∧ t.sl.run = .issuing ∧ t.core.swap = 1 ∧ SameMemory s t) ∧
    (s.sl.flow = .seq → s.sl.repActive = false →
      ∃ t, exec .loopEndCheck s = .next t ∧ SlotBecomes (fun k => { afterEndChecks k k.pc k.npc with flow := .loopSet }) s t) ∧
    (s.sl.repActive = true → s.sl.flow = .seq →
      let w := s.sl.csr.rpc.toNat
      let pos := w / 2 ^ 40 % 16
      let pass := w % 2 ^ 12
      let last := w / 2 ^ 24 % 2 ^ 12
      (pos ≠ w / 2 ^ 44 % 16 → ∃ t, exec .repetitionEnd s = .next t ∧
        SlotBecomes (fun k => { k with csr := { k.csr with rpc := setBits k.csr.rpc 43 40 (pos + 1) }, flow := .loopSet }) s t) ∧
      (pos = w / 2 ^ 44 % 16 → pass ≠ last → ∃ t, exec .repetitionEnd s = .next t ∧
        SlotBecomes (fun k => { k with csr := { k.csr with rpc := setBits (setBits k.csr.rpc 43 40 0) 11 0 (pass + 1) }, npc := k.csr.rpb,
                                       flow := .loopSet }) s t) ∧
      (pos = w / 2 ^ 44 % 16 → pass = last → ∃ t, exec .repetitionEnd s = .next t ∧
        SlotBecomes (fun k => { k with csr := { k.csr with rpc := setBits k.csr.rpc 63 63 0 }, flow := .loopSet }) s t)) ∧
    (∀ (line : Word) (p : Home), Awake s → s.sl.occupied = true → s.sl.run = .blocked → line.toNat % 64 = 0 → s.record?.isSome = true →
      s.beyond line.toNat = false → findLine s.core.icache s.asid line.toNat = none → s.clusterLine line.toNat = none →
      s.fetchHome line.toNat = .ok p →
      ∃ t, exec (.fetchLineFill line) s = .next t ∧ SameMemory s t ∧
        findLine t.core.icache s.asid line.toNat = some ⟨s.asid, line.toNat, s.lineWords p⟩) ∧
    (∀ k e, Awake s → k < 2 ^ 16 → s.sl.sb[k]? = some e → e.more = false → MayLeave s k e →
      (∀ off, e.home = .core s.coreId off →
        ∃ t, exec (.storePerformed k) s = .next t ∧ t.sl.sb = s.sl.sb.eraseIdx k ∧ t.core.mem.bytes off e.bytes.length = e.bytes ∧
          WritesOnly s.coreId off e.bytes.length s t ∧ (e.scope.isSome = true → t.unseen = [])) ∧
      (∀ a, e.home = .device a 0 → e.scope = none → a + e.bytes.length ≤ Config.deviceBytes →
        ∃ t, exec (.storePerformed k) s = .next t ∧ t.sl.sb = s.sl.sb.eraseIdx k ∧ t.dm.bytes a e.bytes.length = e.bytes ∧
          DeviceWritesOnly a e.bytes.length s t) ∧
      (∀ a, e.home = .host a 0 → e.scope = none →
        ∃ t, exec (.storePerformed k) s = .next t ∧ t.sl.sb = s.sl.sb.eraseIdx k ∧ t.hm.bytes a e.bytes.length = e.bytes ∧
          (∀ b, b < a ∨ a + e.bytes.length ≤ b → t.hm.byte b = s.hm.byte b) ∧ t.dm = s.dm ∧ SameCores s t)) ∧
    (∀ v held, Awake s → s.sl.run = .blocked → s.sl.wait = some ⟨.sy, 4, some v, held⟩ → ¬ waitControlBad (s.lat .sy).b true →
      (s.lat .sy).t.toNat < 2 ^ 12 → counterGranted s (s.lat .sy).t.toNat →
      ∃ t, exec .waitReleased s = .next t ∧ t.sl.run = .ready ∧ t.sl.wait = none ∧ bit t.sl.csr.wrr 63 = false ∧
        (t.lat .sy).fly = some ⟨4, 0, 2, 2, v, 0⟩ ∧ SameMemory s t) ∧
    (∀ opc ∈ [1, 2, 3], ∀ v held, Awake s → s.bus = none → s.sl.run = .blocked → s.sl.wait = some ⟨.sy, BitVec.ofNat 8 opc, some v, held⟩ →
      ∃ t, exec .waitReleased s = .next t ∧ t.sl.run = .ready ∧ t.sl.wait = none ∧ bit t.sl.csr.wrr 63 = false ∧
        (t.lat .sy).fly = some ⟨opc, 0, 2, 2, v, 0⟩ ∧ SameMemory s t) ∧
    (∀ v held, Awake s → s.bus = none → s.sl.run = .blocked → s.sl.sb = [] → s.sl.wait = some ⟨.ls, 0x30, some v, held⟩ →
      let lat := accessCycles s (placeOf s.coreId (s.lat .ls).t).1 2 18
      ∃ t, exec .waitReleased s = .next t ∧ t.sl.run = .ready ∧ t.sl.wait = none ∧ bit t.sl.csr.wrr 63 = false ∧
        (t.lat .ls).fly = some ⟨0x30, 0, lat.1, lat.2, v, 0⟩ ∧ SameMemory s t) ∧
    (∀ i held, Awake s → s.bus = none → s.sl.run = .blocked → s.sl.wait = some ⟨.ch, 3, none, held⟩ →
      let n := (s.lat .ch).t.toNat % 16
      let ch := s.core.chan n
      oldestArrived ch i → ch.recvq = [] ∨ ch.recvq.head? = some s.core.cur.val →
      ∃ t, exec .waitReleased s = .next t ∧ t.sl.run = .ready ∧ t.sl.wait = none ∧ bit t.sl.csr.wrr 63 = false ∧
        (t.lat .ch).fly = some ⟨3, 0, 2, 2, BitVec.ofNat 64 (0x4000000 + (ch.base + 256 * i)), s.core.mem.dword (ch.base + 256 * i)⟩ ∧
        ((t.core.chan n).entries[i]?.map (·.state)) = some .taken ∧ SameMemory s t) ∧
    (∀ w, s.sl.wait = some w → w.value = none → (w.unit = .sy ∧ w.opc ∈ [1, 2, 3, 4]) ∨ (w.unit = .ls ∧ w.opc ∈ [0x30, 0x40]) →
      exec .waitReleased s = .next s) ∧
    (∀ code tval, Awake s → s.sl.occupied = true → s.sl.inh = false → s.sl.wait.bind (·.value) = none → code < 256 →
      PendingTrap s.sl code tval → (trapLevel s code ≠ 0 → bit s.sl.csr.svec 0 = true) →
      ∃ t, exec .trapEntry s = .next t ∧ EntersTrap code (trapLevel s code) tval (bundleAddr s.sl.pc) s t ∧
        (code = 0x21 → t.sl.pend.debugHalt = none) ∧ (code = 0x20 → t.sl.pend.preempt = false) ∧
        (code = 0x22 → t.sl.pend.timer = 0) ∧ (code = 0x23 → t.sl.pend.signals = s.sl.pend.signals.tail)) ∧
    (∀ e rest, s.core.vq = e :: rest → e.bound = false → 1 + e.ready ≤ e.age → s.core.arb = false →
      (∀ id ∈ quadOf s.coreId, id ≠ s.coreId → (s.coreAt id).vq = []) → s.coreId ∈ quadOf s.coreId →
      ∃ t, exec .vectorBind s = .next t ∧ t.core.vq = { e with bound := true, lat := e.lat + (e.age - 1 - e.ready) } :: rest ∧
        SameMemory s t) ∧
    (∀ e rest, s.core.vq = e :: rest → e.bound = true → e.done = false → e.void = false → e.lat ≤ e.age → e.slot = s.core.cur.val →
      (∀ o ∈ rest, o.slot = s.core.cur.val → o.done = false) →
      ∃ t, exec .vectorComplete s = .next t ∧ t.core.vq = rest.dropWhile (·.done) ∧ t.sl.vq = e.q ∧ (t.lat .vp).q2 = e.q2 ∧ (t.lat .vp).valid = true ∧
        t.sl.csr.fflags = s.sl.csr.fflags ||| BitVec.ofNat 64 e.flags ∧ SameMemory s t)

/-- R187, R191 to R193, R341 to R350: a command that waits is accepted; the operands of the next step are fetched, and with the last of them
the command's read locks go; a step makes of each accumulator element of its region, and of no other, what R73 to R75 make of it, and moves the
command on: `mmac`, `mlut`, `msemi`, `mload`, `mzero`; at completion `mdrain` has converted its region into memory and `mscale` has filled scale
memory; at
completion its locks go, and the queue's last sequence number and flags are set; an `mbar` whose commands have completed completes before
earlier ones of its queue; `mstat` writes the sequence number and the flags. -/
def Obligations.MatrixEvents : Prop :=
  ∀ s : State,
    (∀ cls layout held, s.bus = none → 1 ≤ cls → cls ≤ 9 → s.sl.run = .blocked → s.sl.wait = some ⟨.mx, BitVec.ofNat 8 cls, none, held⟩ →
      s.core.mq.waiting = [(s.core.cur.val, layout)] → s.core.mq.cmds.length < 4 → s.sl.sb = [] →
      let m : MCmd := ⟨cls, (s.lat .mx).a, (s.lat .mx).b, (s.lat .mx).c, (s.lat .mx).t, 0, layout, [], [], 0, none, false, 0⟩
      (∀ c, (s.coreAt c).ranges.length + ((m.ranges s.coreId).filter fun x => x.1 = c).length ≤ 64) →
      ∃ t, exec .matrixAccept s = .next t ∧ t.sl.run = .ready ∧ t.sl.wait = none ∧
        (t.lat .mx).q = BitVec.ofNat 64 s.core.mq.next ∧ (t.lat .mx).valid = true ∧ t.core.mq.waiting = [] ∧
        (∃ m', t.core.mq.cmds = s.core.mq.cmds ++ [m'] ∧ m'.seq = s.core.mq.next ∧ { m' with seq := 0, before := [] } = m) ∧
        SameMemory s t) ∧
    (∀ m rest, s.core.mq.cmds = m :: rest → m.fetches = true → m.buf = none → m.ended = false → s.matrixWait = none →
      m.lastStep = false →
      ∃ t, exec .matrixFetchDone s = .next t ∧ t.core.mq.cmds = { m with buf := some (s.fetchStep m) } :: rest ∧ SameMemory s t) ∧
    (∀ m rest, s.core.mq.cmds = m :: rest → m.fetches = true → m.buf = none → m.ended = false → s.matrixWait = none →
      m.lastStep = true →
      ∃ t, exec .matrixFetchDone s = .next t ∧ t.core.mq.cmds = { m with buf := some (s.fetchStep m) } :: rest ∧
        ∀ c, c.die = s.coreId.die → ∀ l ∈ (t.coreAt c).ranges, ¬ (l.queue = myQueue s ∧ l.seq = m.seq ∧ l.write = false)) ∧
    (∀ m rest, s.core.mq.cmds = m :: rest → m.fetches = true → m.buf = none → m.ended = false → s.matrixWait = none → m.cls ≤ 3 →
      m.kdone % 64 = 0 →
      ∃ t f, exec .matrixFetchDone s = .next t ∧ t.core.mq.cmds = { m with buf := some f } :: rest ∧
        ∀ k < min 64 (m.inner - m.kdone),
          (bit m.t 26 = false → m.fmtP ∈ [1, 2, 6, 7, 8, 9, 10, 11, 12, 14] → ∀ i < m.rows,
            (f.a.getD i []).getD k 0 = codeAt s m.p m.fmtP i (m.kdone + k)) ∧
          (bit m.t 27 = false → m.fmtQ ∈ [1, 2, 6, 7, 8, 9, 10, 11, 12, 13, 14, 15] → ∀ j < m.cols,
            (f.b.getD j []).getD k 0 = codeAt s m.q m.fmtQ j (m.kdone + k))) ∧
    (∀ m rest, s.core.mq.cmds = m :: rest → s.matrixReady = true → s.coreId ∈ octetCores s.coreId.die (octetOf s.coreId.idx) →
      (∀ id ∈ octetCores s.coreId.die (octetOf s.coreId.idx), id ≠ s.coreId → (s.coreAt id).mq.cmds = []) →
      s.coreId.kind = .compute →
      ∃ t, exec .matrixStepStart s = .next t ∧ SameMemory s t ∧
        (∃ m', t.core.mq.cmds = m' :: rest ∧ m'.ended = m.lastStep ∧ m'.kdone = m.kdone + if m.cls ≤ 3 then min 64 (m.inner - m.kdone) else 0) ∧
        (∀ f, m.buf = some f → Feeds m f → ∃ fl : Nat → Nat → Nat,
          (∀ i j, i < m.rows → j < m.cols →
            ElementBecomes m f i j ((s.octet s.coreId).elem m.accSlot i j) ((t.octet s.coreId).elem m.accSlot i j) (fl i j)) ∧
          (m.rows ≤ 128 → ∀ slot i j, i < 128 → j < 64 → slot ≠ m.accSlot ∨ m.rows ≤ i ∨ m.cols ≤ j →
            (t.octet s.coreId).elem slot i j = (s.octet s.coreId).elem slot i j) ∧
          (t.core.mq.cmds.head?.map (·.flags)) = some (m.flags ||| together (m.rows * m.cols) fun n => fl (n / m.cols) (n % m.cols))) ∧
        (m.cls = 4 → ∀ i j, j < 64 → (t.octet s.coreId).elem m.accSlot i j =
          if i < m.rows ∧ j < m.cols then 0 else (s.octet s.coreId).elem m.accSlot i j)) ∧
    (∀ m rest, s.core.mq.cmds = m :: rest → m.ended = true → m.cls ∉ [6, 7, 9] → m.ce = false →
      (∀ o ∈ m.operands, o.2.2.2.2.2 = false) →
      ∃ t, exec .matrixCommandComplete s = .next t ∧ t.core.mq.cmds = rest ∧ t.core.mq.last = m.seq ∧
        t.core.mq.flags = s.core.mq.flags ||| m.flags ∧ SameMemory s t ∧
        ∀ c, c.die = s.coreId.die → ∀ l ∈ (t.coreAt c).ranges, ¬ (l.queue = myQueue s ∧ l.seq = m.seq)) ∧
    (∀ m rest, s.core.mq.cmds = m :: rest → m.ended = true → m.cls = 6 → (∀ o ∈ m.operands, o.2.2.2.2.2 = false) →
      m.fmtP ∈ [1, 4, 6, 7, 8, 9, 10] → m.c.toNat % 8 ≤ 3 →
      let w := laneBits m.fmtP / 8
      let stride := m.p.toNat / 2 ^ 32 % 2 ^ 16
      let p := placeOf s.coreId (BitVec.ofNat 64 (m.p.toNat % 2 ^ 32))
      m.cols * w ≤ stride ∨ m.rows = 1 → p.2 + (m.rows - 1) * stride + m.cols * w ≤ 0x2C800 →
      ∃ (t : State) (fl : Nat → Nat → Nat), exec .matrixCommandComplete s = .next t ∧ t.core.mq.cmds = rest ∧ t.core.mq.last = m.seq ∧
        (∀ i j, i < m.rows → j < m.cols →
          let old := (s.octet s.coreId).elem m.accSlot i j
          let new := (t.coreAt p.1).mem.nat (p.2 + i * stride + j * w) w
          (if m.fmtP = 8 then new = old ∧ fl i j = 0 else ConvertsTo 8 m.fmtP (m.c.toNat % 8) (bit m.c 3) 0 old new (fl i j)) ∧
            (t.octet s.coreId).elem m.accSlot i j = if m.clr then 0 else old) ∧
        t.core.mq.flags = s.core.mq.flags ||| m.flags ||| together (m.rows * m.cols) fun n => fl (n / m.cols) (n % m.cols)) ∧
    (∀ m rest f, s.core.mq.cmds = m :: rest → m.ended = true → m.cls = 7 → m.buf = some f →
      let at_ := m.sbase + 4 * ((m.cols * m.inner + 255) / 256)
      let bs := f.a.headD []
      let ss := f.b.headD []
      m.sbase + bs.length ≤ at_ →
      ∃ t, exec .matrixCommandComplete s = .next t ∧ t.core.mq.cmds = rest ∧ t.core.mq.last = m.seq ∧ SameMemory s t ∧
        let new := (t.octet s.coreId).scale
        (∀ i < bs.length, new.byte (m.sbase + i) = BitVec.ofNat 8 (bs.getD i 0)) ∧
        (∀ i < ss.length, new.byte (at_ + i) = BitVec.ofNat 8 (ss.getD i 0)) ∧
        ∀ a, a < m.sbase ∨ (m.sbase + bs.length ≤ a ∧ a < at_) ∨ at_ + ss.length ≤ a → new.byte a = (s.octet s.coreId).scale.byte a) ∧
    (∀ m rest b, s.core.mq.cmds = m :: rest → m.ended = false → s.openBar = some b → b.seq ≠ m.seq → b.ce = false → b.owed = [] →
      ∃ t, exec .matrixCommandComplete s = .next t ∧ t.core.mq.cmds = m :: rest.filter (fun k => k.seq != b.seq) ∧
        t.core.mq.last = b.seq ∧ SameMemory s t) ∧
    (∀ m rest, s.core.mq.cmds = m :: rest → m.ended = true → m.cls = 9 → m.ce = false →
      ∃ t, exec .matrixCommandComplete s = .next t ∧ t.core.mq.cmds = rest ∧ t.core.mq.last = m.seq ∧
        let p := s.operandAt m.p false (bit m.t 26)
        (t.coreAt p.1).mem.nat p.2 4 = s.core.mq.last % 2 ^ 32 ∧ (t.coreAt p.1).mem.nat (p.2 + 4) 4 = s.core.mq.flags % 2 ^ 32)

/-- R198, R201, R204, R318: a stream engine takes a queued record, starts once its counter allows, writes bytes of a slot as they arrive with
the target's PI as it was, moves PI on with the last of them, and ends with its counter incremented; a push or a pull on its way writes its bytes, and its counter goes on. -/
def Obligations.StreamEvents : Prop :=
  ∀ s : State,
    let e := s.core.stream
    (∀ seq bs rest q, e.run = none → e.err = none → e.order = none :: rest → e.queue = (seq, bs) :: q →
      ∃ t, exec .streamRecordTake s = .next t ∧ t.core.stream.queue = q ∧ t.core.stream.seq = seq ∧
        t.core.stream.run = some ⟨bs, seq, !bit (BitVec.ofNat 64 (recField bs 60 2)) 15, [], [], 0, 0, false⟩ ∧ SameMemory s t ∧ t.sl = s.sl) ∧
    (∀ r, e.run = some r → r.started = false →
      (recField r.bytes 60 2 / 2 ^ 15 = 1 → recField r.bytes 52 4 ≤ (s.ctr s.coreId.die (recField r.bytes 60 2 % 2 ^ 12)).toNat) →
      ∃ t, exec .streamStart s = .next t ∧ t.core.stream.run = some { r with started := true } ∧ SameMemory s t ∧ t.sl = s.sl) ∧
    (∀ r rs r1 i d stop, e.run = some r → r.started = true → s.core.prq = none → s.nextSlot r = some (i, d, stop) →
      s.streamWait = none →
      let dst := s.target r.bytes i
      let b := recField r.bytes 44 4 % 16
      let at_ := d.slotOff d.pi + r.wrote
      (r.wrote < d.slotb → s.readOn r stop = .ok (rs, r1) → s.berthAt dst b = some d → d.slotOff d.pi + d.slotb ≤ 0x2C000 →
        let bs := (r1.buf.drop (stop - d.slotb + r.wrote - r1.first)).take (d.slotb - r.wrote)
        bs.length = d.slotb - r.wrote →
        ∃ t, exec .streamSlotCommit s = .next t ∧ (t.coreAt dst).mem.bytes at_ (d.slotb - r.wrote) = bs ∧
          t.berthAt dst b = some { d with pi := (d.pi + 1) % 2 ^ 32 } ∧ (r.ending = true → t.core.stream.run = none)) ∧
      (r.wrote + 8 < d.slotb → s.readOn r (stop - d.slotb + r.wrote + 8) = .ok (rs, r1) →
        let bs := (r1.buf.drop (stop - d.slotb + r.wrote - r1.first)).take 8
        bs.length = 8 →
        ∃ t, exec .streamStart s = .next t ∧ (t.coreAt dst).mem.bytes at_ 8 = bs ∧
          t.core.stream.run = some { r1 with wrote := r.wrote + 8 } ∧ t.berthAt dst b = s.berthAt dst b)) ∧
    (∀ r, e.run = some r → r.started = true → s.nextSlot r = none →
      let w := recField r.bytes 62 2
      ∃ t, exec .streamRecordEnd s = .next t ∧ t.core.stream.run = none ∧ SameMemory s t ∧
        (w / 2 ^ 15 = 1 → t.ctr s.coreId.die (w % 2 ^ 12) = s.ctr s.coreId.die (w % 2 ^ 12) + 1)) ∧
    (∀ p, s.pushes.find? s.isMine = some p → p.berth = none →
      ∃ t, exec .pushWriteDone s = .next t ∧ (t.coreAt p.dst).mem.bytes p.off p.bytes.length = p.bytes ∧ t.pushes = s.pushes.erase p ∧
        WritesOnly p.dst p.off p.bytes.length s t ∧ ∀ n, p.ctr = some n → t.ctr p.src.die n = s.ctr p.src.die n + 1) ∧
    (∀ p, s.pulls.find? s.isMine = some p → p.berth = none →
      ∃ t, exec .pullWriteDone s = .next t ∧ (t.coreAt p.dst).mem.bytes p.off p.bytes.length = p.bytes ∧ t.pulls = s.pulls.erase p ∧
        WritesOnly p.dst p.off p.bytes.length s t ∧ ∀ n, p.ctr = some n → t.ctr p.src.die n = s.ctr p.src.die n + 1)

/-- R209, R213 to R215, R228, R290, R292: a message lands in its reserved entry, a matched one releases its task, a notice enters channel 15,
and the oldest queued activation fills the lowest Free slot of 1 to 3 from its role's image. -/
def Obligations.MessageEvents : Prop :=
  ∀ s : State,
    (∀ m rest i, s.msgs = m :: rest → m.entry = some i → m.chan < 16 → (∀ r, m.job = some r → m.dst ∉ (s.job r).parkedCores) →
      let ch := (s.coreAt m.dst).chan m.chan
      i < ch.entries.length → ch.eng = false → ch.recvq = [] → (∀ k : Fin 16, (s.coreAt m.dst).matchTab[k] = none) →
      (s.coreAt m.dst).landLock m.chan i m.payload.length = none → (∀ n : Fin 16, ∀ x ∈ ((s.coreAt m.dst).chan n).entries, x.mark = none) →
      ∃ t, exec (.messageLand 0) s = .next t ∧ t.msgs = rest ∧
        ((((t.coreAt m.dst).chan m.chan).entries[i]?).map (·.state)) = some .arrived ∧
        (t.coreAt m.dst).mem.bytes (ch.base + 256 * i) (8 + m.payload.length) = leBytes 8 m.header.toNat ++ m.payload ∧
        WritesOnly m.dst (ch.base + 256 * i) (8 + m.payload.length) s t) ∧
    (∀ c i x k m, s.core.actq.length < 16 → s.core.nextTask = some (c, i, x) → x.mark = some (k, m) →
      let off := (s.core.chan c).base + 256 * i
      ∃ t, exec .taskRelease s = .next t ∧ t.sl = s.sl ∧ SameMemory s t ∧
        t.core.actq = s.core.actq ++ [⟨2, BitVec.ofNat 64 (m.a.toNat % 2 ^ 52 / 4 * 4), m.b, s.core.mem.dword off,
          BitVec.ofNat 64 (0x4000000 + off), none, none⟩] ∧
        (∀ e, (s.core.chan c).entries[i]? = some e → (((t.core.chan c).entries[i]?).map (·.state)) = some .taken)) ∧
    (∀ n i, s.core.outside = [n] → s.core.sendable 15 = some i → s.core.landLock 15 i 16 = none → (s.core.chan 15).eng = false → (s.core.chan 15).recvq = [] →
      (∀ k : Fin 16, s.core.matchTab[k] = none) → (∀ c : Fin 16, ∀ x ∈ (s.core.chan c).entries, x.mark = none) →
      ∃ t, exec .scopeMiss s = .next t ∧ t.core.outside = [] ∧ (((t.core.chan 15).entries[i]?).map (·.state)) = some .arrived ∧
        t.core.mem.bytes ((s.core.chan 15).base + 256 * i) 24 =
          leBytes 8 n.header.toNat ++ leBytes 8 n.p0.toNat ++ leBytes 8 n.p1.toNat) ∧
    (∀ x a rest img, s.core.ctx = some x → x.dead = false → x.preempting = false → s.core.actq = a :: rest → a.kind = 1 → a.helper = none →
      s.core.slots[(1 : Fin 4)].run = .free → s.core.slots[(1 : Fin 4)].parked = false →
      s.roleImage x.record x.role = some img → imageTag (img.take 255) = dwordAt img 255 → imageFault s.coreId.kind img 1 = none →
      ∃ t, exec .activationFill s = .next t ∧ t.core.actq = rest ∧ SameMemory s t ∧
        let k := t.core.slots[(1 : Fin 4)]
        k.run = .ready ∧ k.pc = a.entry ∧ k.x[(21 : Fin 32)] = a.a1 ∧ k.x[(22 : Fin 32)] = a.a2 ∧ k.kind = 1 ∧ k.csr.iret = 0 ∧
          ∀ n : Fin 32, n ≠ 0 → n ≠ 21 → n ≠ 22 → k.x[n] = dwordAt img n)

/-- R218, R360, R364 to R371: what each event of a Hamper does: a credit is granted to the first waiter; a record arrives and finds its key
idle, busy, spilled, absent, its set held or overflowing; a victim is spilled; a bucket is fetched; an overflow record, or a drained key that waits
before it, is served; the first activation that a stage core has room for is handed to it; an idle entry that is no victim retires. -/
def Obligations.HamperEvents : Prop :=
  ∀ (s : State) (r : Nat), Serves s r →
    let hk := hamperKey s.coreId
    let h := s.hamper hk
    (∀ stage id slot held, h.waiter stage = some (id, slot) → look 0 h.credits stage ≠ 0 → s.still (s.coreAt id) = false →
      (slotOf s id slot).run = .blocked → (slotOf s id slot).wait = some ⟨.ks, 3, none, held⟩ →
      ((slotOf s id slot).lat .ks).t.toNat % 64 = stage →
      ∃ t, exec (.creditGrant stage) s = .next t ∧ look 0 (t.hamper hk).credits stage = look 0 h.credits stage - 1 ∧ SameMemory s t ∧
        (∃ e, t.emits = s.emits ++ [e] ∧ e.krec.stage = stage ∧ e.krec.key = ((slotOf s id slot).lat .ks).a ∧ e.krec.payload = held) ∧
        (slotOf t id slot).run = .ready ∧ (slotOf t id slot).wait = none ∧
        ((slotOf t id slot).lat .ks).fly = some ⟨3, 0, 2 + held.length / 32, 2 + held.length / 32, 0, 0⟩) ∧
    (∀ k e d, s.emits[k]? = some e → (∀ x ∈ s.emits.take k, x.sameWay e = false) → e.die * 4 + e.cluster = hk →
      s.stage r e.krec.stage = some d →
      let set := keySet e.krec.key
      let spilled := look 0 h.filters set / 2 ^ keyFilter e.krec.key % 2 = 1
      (h.freeWay set = none → s.victimLost r hk set = false) → (h.freeWay set ≠ none → s.carryLost r d = false) →
      let waits := h.overflows set = true ∨ (s.lateDrain r hk set).isSome = true
      ∃ t p, exec (.hamperArrival k) s = .next t ∧ t.emits = s.emits.eraseIdx k ∧ SameMemory s t ∧
        (t.hamper hk).recs = h.recs ++ [(e.krec, p)] ∧
        (∀ x, h.hold set = some x → p = .heldSet ∧ (t.hamper hk).ways = h.ways) ∧
        (h.hold set = none → ∀ w x, h.find e.krec.stage e.krec.key = some (w, x) →
          (x.st = .idle → p = .active ∧ Queues h (t.hamper hk) w x false) ∧
          (x.st ≠ .idle → p = .behind ∧ (t.hamper hk).ways = h.ways)) ∧
        (h.hold set = none → h.find e.krec.stage e.krec.key = none → (waits → p = .overflow ∧ (t.hamper hk).ways = h.ways) ∧
          (¬ waits →
            (spilled → p = .heldSet ∧ (t.hamper hk).holds = h.holds ++ [(set, .fetch e.krec.stage e.krec.key false)]) ∧
            (¬ spilled → ∀ w, h.freeWay set = some w → p = .active ∧
              Queues h (t.hamper hk) (8 * set + w) (s.template r d e.krec.stage e.krec.key) false) ∧
            (¬ spilled → h.freeWay set = none → ∀ w, s.victim r hk set = some w →
              p = .heldSet ∧ (t.hamper hk).holds = h.holds ++ [(set, .victim w)]) ∧
            (¬ spilled → h.freeWay set = none → s.victim r hk set = none → p = .overflow ∧ (t.hamper hk).ways = h.ways)))) ∧
    (∀ set w e d bs i rs, h.hold set = some (.victim w) → look? h.ways (8 * set + w) = some e → e.st = .idle → s.stage r e.stage = some d →
      s.bucket r hk d set = some bs → bucketFree bs (stSpw d) = some i → s.bucketRuns r hk d set .write = some rs →
      (∀ x ∈ h.recs, x.2 = .heldSet → keySet x.1.key ≠ set) →
      ∃ t, exec (.spillVictimWrite set) s = .next t ∧ look? (t.hamper hk).ways (8 * set + w) = none ∧
        look 0 (t.hamper hk).scount set = look 0 h.scount set + 1 ∧ look 0 (t.hamper hk).filters set / 2 ^ keyFilter e.key % 2 = 1 ∧
        SameMemory (s.writeRuns rs (bs.take (256 * i) ++ e.bytes 0 4 ++ bs.drop (256 * i + 256))) t) ∧
    (∀ set stage key d bs w n, h.hold set = some (.fetch stage key false) → s.stage r stage = some d → h.find stage key = none →
      s.bucket r hk d set = some bs → h.freeWay set = some w → h.fetchedFor stage key = some n →
      (∀ i x, h.recs[i]? = some x → x.2 = .heldSet → keySet x.1.key = set → i = n) →
      (∀ i rs, bucketFind bs (stSpw d) key = some i → s.bucketRuns r hk d set .write = some rs →
        ∃ u, exec (.bucketFetch set) s = .next ((u.checkDrains r).checkJob r) ∧ (((u.hamper hk).recs[n]?).map (·.2)) = some .active ∧
          Queues h (u.hamper hk) (8 * set + w) (entryOf ((bs.drop (256 * i)).take 256) .idle) false ∧
          look 0 (u.hamper hk).scount set = look 0 h.scount set - 1 ∧
          SameMemory (s.writeRuns rs (bs.take (256 * i) ++ List.replicate 256 0 ++ bs.drop (256 * i + 256))) u) ∧
      (bucketFind bs (stSpw d) key = none → s.carryLost r d = false →
        ∃ u, exec (.bucketFetch set) s = .next ((u.checkDrains r).checkJob r) ∧ (((u.hamper hk).recs[n]?).map (·.2)) = some .active ∧
          Queues h (u.hamper hk) (8 * set + w) (s.template r d stage key) false ∧ SameMemory s u)) ∧
    (∀ set k i d w, h.hold set = none → h.firstAt .overflow (fun k => keySet k.key == set) = some i → h.recs[i]? = some (k, .overflow) →
      s.stage r k.stage = some d → h.find k.stage k.key = none → look 0 h.filters set / 2 ^ keyFilter k.key % 2 = 0 →
      h.freeWay set = some w → s.lateDrain r hk set = none → s.carryLost r d = false →
      ∃ t, exec (.overflowServe set) s = .next t ∧ ((t.hamper hk).recs[i]?) = some (k, .active) ∧
        Queues h (t.hamper hk) (8 * set + w) (s.template r d k.stage k.key) false ∧ SameMemory s t) ∧
    (∀ set i g key ahead, h.hold set = none → s.lateDrain r hk set = some (i, g, key, ahead) → h.overflows set = false ∨ ahead = 0 →
      h.freeWay set ≠ none →
      ∃ t, exec (.overflowServe set) s = .next t ∧ (t.hamper hk).holds = h.holds ++ [(set, .fetch g key true)] ∧
        (t.job r).late = (s.job r).late.eraseIdx i ∧ (t.hamper hk).recs = h.recs ∧ SameMemory s t) ∧
    (∀ i w retire e d id, h.kept[i]? = some (w, retire) → (∀ j < i, ∀ k, h.kept[j]? = some k → s.takerOf r hk k = none) →
      look? h.ways w = some e → s.stage r e.stage = some d → s.stageCore r hk (stRole d) = some id →
      ∃ t, exec .activationHandoff s = .next t ∧ (t.hamper hk).kept = h.kept.eraseIdx i ∧
        look? (t.hamper hk).ways w = some { e with core := some id } ∧ SameMemory s t ∧
        (t.coreAt id).actq = (s.coreAt id).actq ++ [⟨3, e.rpc, 0, 0, 0, none, some ⟨e.stage, e.key, w / 8, w % 8, retire⟩⟩]) ∧
    (∀ set way e d, look? h.ways (8 * set + way) = some e → e.st = .idle → s.stage r e.stage = some d → h.isVictim (8 * set + way) = false →
      stTimeout d ≠ 2 ^ 32 - 1 → e.tidle + 100 * stTimeout d ≤ s.time →
      ∃ t, exec (.idleTimeout set way) s = .next t ∧ Queues h (t.hamper hk) (8 * set + way) e true ∧ SameMemory s t)

/-- R222, R296 to R301: the exchange starts when every member has arrived, with its transfers in the order of R297; a due transfer whose
route is free writes its bytes whole at its destination and holds its links until it ends; after the last the superstep is one higher,
and every slack receives its number; the dispenser answers a request with the next item, or the end-of-work token. -/
def Obligations.ExchangeEvents : Prop :=
  ∀ (s : State) (r : Nat),
    let j := s.job r
    (s.recState r = 2 → j.phase = none → j.release = false → s.allAtSlack r = true →
      ∃ t ts, exec (.exchangeStart r) s = .next t ∧ (t.job r).phase = some ts ∧ (t.job r).fabric = 0 ∧ SameMemory s t ∧
        ts.Perm (j.cores.flatMap fun c => (List.range (s.spanDevs r)).flatMap fun d => s.transfersOf r c d) ∧ ts.Pairwise StartsBefore) ∧
    (∀ ts i x, j.phase = some ts → startable j.fabric ts (s.busyLinks r ts j.fabric) 0 = some i → ts[i]? = some x →
      x.srcDev = s.myDev r → x.dstDev = s.myDev r → ((s.coreAt x.dst).conflict x.doff (32 * x.len) true) = none →
      ∃ t, exec (.transferStart r) s = .next t ∧ WritesOnly x.dst x.doff (32 * x.len) s t ∧
        (t.coreAt x.dst).mem.bytes x.doff (32 * x.len) = (s.coreAt x.src).mem.bytes x.soff (32 * x.len) ∧
        (t.job r).phase.bind (fun us => us[i]?) = some { x with state := .active, stop := j.fabric + x.len, units := [] }) ∧
    (∀ ts i e x, j.phase = some ts → firstToEnd ts = some (i, e) → ts[i]? = some x → x.units = [] →
      startable j.fabric ts (s.busyLinks r ts j.fabric) 0 = none → (∀ n, nextSlotAt ts j.fabric = some n → max j.fabric e ≤ n) →
      ∃ t, exec (.transferEnd r) s = .next t ∧ SameMemory s t ∧ (t.job r).fabric = max j.fabric e ∧
        ((t.job r).phase.bind (fun us => us[i]?)).map (·.state) = some .done) ∧
    (∀ ts, j.phase = some ts → (∀ x ∈ ts, x.state = .done) →
      ∃ t, exec (.exchangePhaseEnd r) s = .next t ∧ SameMemory s t ∧ (t.job r).phase = none ∧
        (t.job r).superstep = j.superstep + 1 ∧ (t.job r).release = true) ∧
    (j.release = true → s.allAtSlack r = true →
      ∃ t, exec (.slackRelease r) s = .next t ∧ SameMemory s t ∧ (t.job r).release = false ∧
        ∀ c ∈ j.cores, (slotOf t c 0).wait.bind (·.value) = some (BitVec.ofNat 64 j.superstep)) ∧
    (∀ k d, j.dreqs[k]? = some d → (∀ e ∈ j.dreqs.take k, e.core ≠ d.core ∨ e.slot ≠ d.slot) → (∀ e ∈ j.dreqs.take k, e.grid ≠ d.grid) →
      ∃ t, exec (.dispenserAnswer r k) s = .next t ∧ (t.job r).dreqs = j.dreqs.eraseIdx k ∧
        WritesOnly d.tgt d.off 8 s t ∧ (t.coreAt d.tgt).mem.nat d.off 8 = workItem (s.dw r (13 + d.grid)) (j.grids.getD d.grid 0))

/-- R254, R257, R289 to R291, R301, R385 to R397, R442, R466: an armed record that fits is placed and its control contexts start; a running job is
asked to park, a core at rest is copied to its frame, and a parked job comes back from its frames; a time slice ends; a context ID is
free again; a waiting party is chased, and a confirmed chain is reported to its elected party. -/
def Obligations.JobEvents : Prop :=
  ∀ s : State,
    (∀ r dies clusters, s.armed.contains r = true → s.recState r = 1 → s.mappingOk r dies clusters = true →
      dies.all (s.openDies r).contains = true → s.firstArmed r = true →
      let j := { s.job r with dies := dies, clusters := clusters }
      let u := s.setRecState r 2
      s.seatsFree r j = true → ((s.seats r j).map (·.id)).Nodup → (s.roles r).isSome = true → s.stagesRead r = true →
      (∀ p ∈ s.seats r j, s.seatReadable r p.entry = true) →
      (∀ p ∈ s.seats r j, ∃ img, u.roleImage r p.role = some img ∧ GoodImage p.id.kind img) →
      ∃ t, exec (.recordPlace r dies clusters) s = .next t ∧ t.recState r = 2 ∧ r ∉ t.armed ∧
        (t.job r).cores = (s.seats r j).map (·.id) ∧
        ∀ p ∈ s.seats r j, (t.coreAt p.id).ctx.map (fun x => (x.record, x.role, x.dead)) = some (r, p.role, false) ∧
          ∀ img, u.roleImage r p.role = some img → StartsControl s r img (slotOf t p.id 0)) ∧
    (∀ x, s.core.ctx = some x → x.dead = false → x.preempting = false → s.mayPark x.record = true →
      ∃ t, exec .preempt s = .next t ∧ SameMemory s t ∧ t.core.ctx = some { x with preempting := true } ∧ (t.job x.record).parking = true ∧
        ∀ n : Fin 4, t.core.slots[n].pend.preempt = (s.core.slots[n].pend.preempt || s.core.slots[n].occupied)) ∧
    (∀ x rs c, s.core.ctx = some x → x.preempting = true → x.dead = false → s.atRest = true →
      let j := s.job x.record
      let frame := s.core.frame s.coreId
      j.parkedCores.contains s.coreId = false → (∀ h ∈ s.hampers, h.2.record = some x.record → h.2.holds = []) → c ∈ j.cores → c ∉ j.parkedCores →
      c ≠ s.coreId → s.coreId.kind ≠ .compute → s.core.dbg.trace = [] →
      s.recRuns x.record (s.frameOf x.record s.coreId s.core) frame.length = some rs → (s.writeRuns rs frame).recState x.record = 2 →
      ∃ t, exec .contextCopyOut s = .next t ∧ SameMemory (s.writeRuns rs frame) t ∧ t.core.ctx = none ∧
        (t.job x.record).parkedCores = j.parkedCores ++ [s.coreId]) ∧
    (∀ r dies clusters, s.recState r = 3 → s.mappingOk r dies clusters = true →
      let old := s.job r
      let j := { old with dies := dies, clusters := clusters }
      (old.dies = dies ∧ old.clusters = clusters) ∨ s.mayRemap r = true → s.seatsFree r j = true → old.parked = [] → old.spilled = [] →
      old.held = [] → s.stages r = [] → ((s.seats r j).map (·.id)).Nodup → (s.roles r).isSome = true → s.stagesRead r = true →
      (∀ l o, l < s.spanDies r → o < 128 → (s.readRec r (s.octetFrameAt r l o + 0x90000) 128).isSome = true) →
      (∀ p ∈ s.seats r j, (seatFrame s r p).isSome = true ∧ OctetReadable s r p) →
      ∃ u : State, exec (.jobResume r dies clusters) s = .next (u.checkJob r) ∧ u.recState r = 2 ∧ (u.job r).cores = (s.seats r j).map (·.id) ∧
        ∀ p ∈ s.seats r j, (u.coreAt p.id).ctx.map (fun x => (x.record, x.role, x.dead)) = some (r, p.role, false) ∧
          ∀ bs, seatFrame s r p = some bs → (u.coreAt p.id).mem.bytes 0 p.id.kind.limit = bs.take p.id.kind.limit) ∧
    (∀ r, s.recState r = 2 →
      let n := (s.reg .fetslc).toNat / 2 ^ (8 * s.recQos r) % 2 ^ 8
      let due := (s.job r).armedAt + (((s.job r).sliced - (s.job r).armedAt) / (n * 10000) + 1) * (n * 10000)
      n ≠ 0 → due ≤ s.time → ((s.jobCores r).map (·.1)).Nodup →
      ∃ t, exec (.timer r) s = .next t ∧ SameMemory s t ∧ (t.job r).sliced = due ∧
        ∀ p ∈ s.jobCores r, (slotOf s p.1 0).occupied = true →
          (slotOf t p.1 0).pend.timer = (slotOf s p.1 0).pend.timer + 1) ∧
    (∀ cid, s.deadIds.contains cid = true → (∀ p ∈ s.cores, p.2.ctx.map (·.cid) = some cid → p.2.dbg.trace = []) →
      ∃ t, exec (.contextIdRecycle cid) s = .next t ∧ SameMemory s t ∧ cid ∉ t.deadIds ∧
        ∀ id, (s.coreAt id).ctx.map (·.cid) = some cid → (t.coreAt id).ctx = none ∧ ∀ n : Fin 4, (t.coreAt id).slots[n].run = .free) ∧
    (∀ die c rest, (s.reg .udctl).toNat / 2 ^ 31 % 2 = 1 → die < Config.dies → (s.undertow die).chase = none → s.candidates die = c :: rest →
      let s1 := (s.takeUp die).onUndertow die fun u => { u with cands := rest }
      let found := (s1.follow 32 [c.1] Tracks.none c.1).1
      ∃ t, exec (.undertowCandidate die) s = .next t ∧ SameMemory s t ∧ (t.undertow die).cands = rest ∧
        (found = .opn → (t.undertow die).chase = none ∧ t.reg (.udcnt die 0) = s.reg (.udcnt die 0) + 1 ∧
          t.reg (.udcnt die 5) = s.reg (.udcnt die 5) + 1) ∧
        (∀ i, found = .abort i → i ≠ 0 → (t.undertow die).chase = none ∧ t.reg (.udcnt die 0) = s.reg (.udcnt die 0) + 1 ∧
          t.reg (.udcnt die i) = s.reg (.udcnt die i) + 1) ∧
        (∀ x, found = .stuck x → t.reg (.udcnt die 0) = s.reg (.udcnt die 0) + 1 ∧
          (t.undertow die).chase.map (fun k => (k.links, k.kind, k.target, k.since)) = some (x.links, x.kind, x.target, s.time))) ∧
    (∀ die ch, (s.undertow die).chase = some ch → (∀ e ∈ ch.read, s.outbound e.1 = false) →
      let u := s.onUndertow die fun u => { u with chase := none }
      let x := ch.report
      let init := (ch.links.head?.map (·.who)).getD noParty
      let bs := x.bytes init s.time (s.namingJob init % 4096)
      (s.confirmed ch = false → ∃ t, exec (.undertowConfirm die) s = .next t ∧ SameMemory s t ∧ (t.undertow die).chase = none ∧
        t.reg (.udcnt die 8) = s.reg (.udcnt die 8) + 1) ∧
      (s.confirmed ch = true → s.suppressed ch = true → ∃ t, exec (.undertowConfirm die) s = .next t ∧ SameMemory s t ∧
        (t.undertow die).chase = none ∧ t.reg (.udcnt die 9) = s.reg (.udcnt die 9) + 1) ∧
      (s.confirmed ch = true → s.suppressed ch = false → ∀ p id c y gen, x.elected = some p → s.coreOf p = some (id, c, y) →
        c.recordInUse = false → (ch.read.find? fun e => decide (e.1 = p)).map (·.2) = some gen →
        ((u.writeCore id 0x2CA00 bs).appendFault p.job x.code false bs).sameWait p gen = true →
        (c.slot (p.pid % 4)).pend.undertow = none →
        ∃ t, exec (.undertowConfirm die) s = .next t ∧ (t.undertow die).chase = none ∧ (t.coreAt id).mem.bytes 0x2CA00 512 = bs ∧
          (slotOf t id (p.pid % 4)).pend.undertow = some ⟨x.code, 0x402CA00, die, gen⟩))

/-- R401 to R422, R496: requests of a host take their places at the ordering point, leave piece by piece and are performed in order, or are
refused; ports, functions, semaphores and messages; the package's reset; and the rings of the DMA engines, from a new tail to a
descriptor's end. -/
def Obligations.HostEvents : Prop :=
  ∀ (s : State) (p : Nat), p < 2 →
    (∀ dst bytes ro ido rid poisoned, (s.port p).up = true → (s.port p).writes.length < 512 → bytes ≠ [] →
      (dst.isMem = true → (s.port p).cxl = true) → (s.reg (.iotctl p)).toNat % 2 = 0 →
      let placed (void : Bool) : HostWrite := ⟨(s.port p).wid, ro, ido, rid, dst.isMem, void, s.pieces p dst bytes⟩
      (s.refusal dst bytes.length poisoned = none →
        ∃ t, exec (.inboundWrite p dst bytes ro ido rid poisoned) s = .next t ∧ SameMemory s t ∧
          (t.port p).writes = (s.port p).writes ++ [placed false]) ∧
      (∀ kind addr, s.refusal dst bytes.length poisoned = some (kind, addr) →
        ∃ t, exec (.inboundWrite p dst bytes ro ido rid poisoned) s = .next t ∧ SameMemory s t ∧
          (t.port p).writes = (s.port p).writes ++ [placed true] ∧
          t.reg (.ioperr p) = BitVec.ofNat 64 (kind * 2 ^ 56 + addr % 2 ^ 52) ∧ Raised 128 t)) ∧
    (∀ wid piece w k, (s.port p).piece wid piece = some (w, k) → (s.reg (.iotctl p)).toNat % 2 = 0 →
      (k.stage = 0 → mayLeave (s.port p) w k.route = true →
        (∀ a, k.addr = .bar2 a ∨ k.addr = .mem a → s.heldBack a k.bytes.length = false) →
        ∃ t, exec (.pieceLeave p wid piece) s = .next t ∧ SameMemory s t ∧ PieceAt t p wid piece 1) ∧
      (k.stage = 1 → (s.port p).inTurn k = true → (∀ a, k.addr = .bar2 a ∨ k.addr = .mem a → s.heldBack a k.bytes.length = false) →
        (w.void = true → ∃ t, exec (.pieceAck p wid piece) s = .next t ∧ SameMemory s t ∧ PieceAt t p wid piece 2) ∧
        (∀ a, w.void = false → k.addr = .bar2 a ∨ k.addr = .mem a → s.headersIn a k.bytes.length = [] →
          ∃ t, exec (.pieceAck p wid piece) s = .next t ∧ t.dm.bytes a k.bytes.length = k.bytes ∧
            DeviceWritesOnly a k.bytes.length s t ∧ PieceAt t p wid piece 2))) ∧
    (∀ a len ro ido rid, (s.port p).up = true → s.heldBack a len = false →
      (s.port p).writes.any (follows false ro ido rid) = false → (s.reg (.iotctl p)).toNat % 2 = 0 →
      let pieces := s.readPieces a len
      (s.refusal (.bar2 a) len false = none → ∃ t, exec (.inboundRead p (.bar2 a) len ro ido rid false) s = .next t ∧ SameMemory s t ∧
        (pieces.length < 2 → (t.port p).reply = some (.data (s.dm.bytes a len))) ∧
        (2 ≤ pieces.length → (t.port p).reply = (s.port p).reply ∧ (t.port p).reads = (s.port p).reads ++ [((s.port p).wid, pieces)])) ∧
      (s.refusal (.bar2 a) len false ≠ none → ∃ t, exec (.inboundRead p (.bar2 a) len ro ido rid false) s = .next t ∧ SameMemory s t ∧
        (t.port p).reply = some .unsupported ∧ Raised 128 t)) ∧
    (∀ wid piece ks k, (s.port p).piece wid piece = none → look? (s.port p).reads wid = some ks →
      ks.find? (fun x => x.num == piece && x.got.isNone) = some k → s.heldBack k.addr k.len = false → (s.reg (.iotctl p)).toNat % 2 = 0 →
      let done := ks.map fun x => if x.num == piece then { x with got := some (s.dm.bytes x.addr x.len) } else x
      ∃ t, exec (.pieceAck p wid piece) s = .next t ∧ SameMemory s t ∧
        ((∀ x ∈ done, x.got.isSome = true) → (t.port p).reply = some (.data (done.flatMap fun x => x.got.getD []))) ∧
        ((∃ x ∈ done, x.got = none) → look? (t.port p).reads wid = some done ∧ (t.port p).reply = (s.port p).reply)) ∧
    (∀ n, (s.port p).up = true → s.sourceQuiet n = false →
      let w := s.reg (.irqsrc n)
      w.toNat / 2 ^ 60 % 2 = 1 → w.toNat / 2 ^ 63 = 1 → s.irqPorts n = [p] → s.vectorOpen p (w.toNat / 2 ^ 32 % 2 ^ 11) = true →
      ∃ t, exec (.msixMessage n) s = .next t ∧ t.msix = (p, w.toNat / 2 ^ 32 % 2 ^ 11) :: s.msix ∧ ¬ Raised n t ∧ OnlyReg (.irqsrc n) s t) ∧
    (∀ n, ∃ t, exec (.vfEnable p n) s = .next t ∧ SameMemory s t ∧
      (t.port p).numVfs = if n + (s.port (1 - p)).numVfs ≤ 63 then n else 0) ∧
    (∀ flr n, n < 64 → s.holds (.port p) n = true →
      ∃ t, exec (.portLinkDown p flr) s = .next t ∧ SameMemory s t ∧ t.reg (.hsem n) = 0 ∧ (t.reg .hsemst).toNat % 2 = 1 ∧ Raised 129 t ∧
        (t.port p).up = (flr && (s.port p).up) ∧ (t.port p).writes = (s.port p).writes) ∧
    (∀ cxl, (s.port p).up = false →
      (cxl = Config.cxlStrap p ∨ 2 ^ 63 ≤ (s.reg (.hsem 2)).toNat →
        ∃ t, exec (.hostLinkUp p cxl) s = .next t ∧ SameMemory s t ∧ (t.port p).up = true ∧ (t.port p).cxl = cxl) ∧
      (cxl ≠ Config.cxlStrap p → (s.reg (.hsem 2)).toNat < 2 ^ 63 →
        ∃ t, exec (.hostLinkUp p cxl) s = .next t ∧ OnlyReg .hsemst s t ∧ (t.reg .hsemst).toNat / 2 % 2 = 1 ∧ (t.port p).up = false)) ∧
    (∀ (src : RegSource) (n : Nat) (tag : HWord), n < 64 → tag ≠ 0 →
      ((s.reg (.hsem n)).toNat < 2 ^ 63 → ∃ t, exec (.hsemAcquire src n tag) s = .next t ∧ OnlyReg (.hsem n) s t ∧
        t.reg (.hsem n) = BitVec.ofNat 64 (2 ^ 63 + sourceCode src * 2 ^ 56 + tag.toNat)) ∧
      (s.reg (.hsem n) = BitVec.ofNat 64 (2 ^ 63 + sourceCode src * 2 ^ 56 + tag.toNat) →
        ∃ t, exec (.hsemRelease src n tag) s = .next t ∧ OnlyReg (.hsem n) s t ∧ t.reg (.hsem n) = 0)) ∧
    (∀ t, (∃ thermal strap bist, exec (.packageReset thermal strap bist) s = .next t) ∨
        (∃ src, s.holds src 0 = true ∧ exec (.devrst src) s = .next t) →
      (∀ id, t.coreAt id = Core.reset id) ∧ t.jobs = [] ∧ t.armed = [] ∧ t.msgs = [] ∧ t.queues = [] ∧ t.dm = s.dm ∧ t.hm = s.hm) ∧
    (∀ thermal strap bist, ∃ t, exec (.packageReset thermal strap bist) s = .next t) ∧
    (∀ src, s.holds src 0 = true → ∃ t, exec (.devrst src) s = .next t) ∧
    (∀ src, s.holds src 0 = false → ∃ t, exec (.devrst src) s = .next t ∧ OnlyReg .hsemst s t ∧ (t.reg .hsemst).toNat / 2 % 2 = 1) ∧
    (∀ die e : Nat, die = 8 + p → e < 64 →
      let head := (s.reg (.drhead die e)).toNat % 2 ^ 32
      let size := 2 ^ ((s.reg (.drcfg die e)).toNat / 2 ^ 40 % 16 + 4)
      let d := s.deviceRead (s.dmaAt die e) 64
      let st := ringState (s.reg (.dmast die e))
      let cfg := s.reg (.drcfg die e)
      (∀ tail : HWord, (tail.toNat + 2 ^ 32 - head) % 2 ^ 32 ≤ size →
        ∃ t, exec (.drtailWrite die e tail) s = .next t ∧ SameMemory s t ∧ t.reg (.drtail die e) = BitVec.ofNat 64 tail.toNat) ∧
      (∀ tail : HWord, size < (tail.toNat + 2 ^ 32 - head) % 2 ^ 32 →
        ∃ t, exec (.drtailWrite die e tail) s = .next t ∧ t.reg (.drtail die e) = s.reg (.drtail die e) ∧
          t.reg (.dmast die e) = BitVec.ofNat 64 (3 * 2 ^ 61 + 0x0D * 2 ^ 48 + head) ∧ Raised ((die - 8) * 64 + e) t) ∧
      (∀ v : Word, ¬ (2 ^ 63 ≤ cfg.toNat ∧ 2 ^ 63 ≤ v.toNat) →
        ∃ t, exec (.drcfgWrite die e v) s = .next t ∧ SameMemory s t ∧ t.reg (.drcfg die e) = setBits v 19 16 0) ∧
      (∃ t, exec (.dmaAbort die e) s = .next t ∧ SameMemory s t ∧ t.reg (.drhead die e) = s.reg (.drtail die e) ∧
        ringState (t.reg (.dmast die e)) = 0 ∧ (t.engine die e).run = none) ∧
      (st = 3 → ∃ t, exec (.dmaResume die e) s = .next t ∧ SameMemory s t ∧
        t.reg (.drhead die e) = BitVec.ofNat 64 (((s.reg (.dmast die e)).toNat % 2 ^ 32 + 1) % 2 ^ 32)) ∧
      (2 ^ 63 ≤ cfg.toNat → st ≠ 3 → (s.engine die e).run = none → head ≠ (s.reg (.drtail die e)).toNat % 2 ^ 32 →
        (s.dmaOk die e d = true → dmaTagBad d = false → ∃ t, exec (.dmaDescriptorStart die e) s = .next t ∧ SameMemory s t ∧ (t.engine die e).run = some d) ∧
        (s.dmaOk die e d = false → ∃ t, exec (.dmaDescriptorStart die e) s = .next t ∧
          t.reg (.dmast die e) = BitVec.ofNat 64 (3 * 2 ^ 61 + 0x02 * 2 ^ 48 + head) ∧ Raised ((die - 8) * 64 + e) t)) ∧
      (∀ x rs ws, (s.engine die e).run = some x → (s.engine die e).prq = none → (s.engine die e).off = 0 → (s.engine die e).before = [] →
        dmaOp x = 0 → s.dmaRuns die e .read (dmaFlag x 0) (BitVec.ofNat 64 (descNat x 0 8)) (dmaLen x) = .ok rs →
        s.dmaRuns die e .write (dmaFlag x 1) (BitVec.ofNat 64 (descNat x 8 8)) (dmaLen x) = .ok ws →
        ∃ t, exec (.dmaDescriptorDone die e) s = .next t ∧ (t.engine die e).run = none ∧
          SameMemory ((s.writeRuns ws ((s.readRuns rs).take (dmaLen x))).deviceWrite (s.dmaAt die e + 56) (leBytes 8 (2 ^ 63))) t ∧
          t.reg (.drhead die e) = BitVec.ofNat 64 ((head + 1) % 2 ^ 32) ∧
          (dmaFlag x 3 = true → Raised ((die - 8) * 64 + e) t)))

/-- R423 to R441: a queue's new tail, reset, resident slot and what gives it up; and each packet, which completes, waits, or stops its queue:
no-op, launch, fence, wait, signals, leg. -/
def Obligations.QueueEvents : Prop :=
  ∀ (s : State) (q : Nat), q < 4096 →
    (∀ tail : HWord, s.qState q ≠ 4 → s.sideRuns (queueDie q) = true →
      ((tail.toNat + 2 ^ 32 - s.qHead q) % 2 ^ 32 ≤ descSize (s.descOf q) →
        ∃ t, exec (.qtailWrite q tail) s = .next t ∧ SameMemory s t ∧ t.reg (.qtail q) = BitVec.ofNat 64 tail.toNat ∧
          ((s.queue q).resident = false ∨ (s.queue q).waiting.isSome = true ∨ tail.toNat ≠ s.qHead q → OnlyReg (.qtail q) s t) ∧
          ((s.queue q).resident = true → (s.queue q).waiting = none → tail.toNat = s.qHead q →
            (t.queue q).resident = false ∧ t.qState q = 0)) ∧
      (descSize (s.descOf q) < (tail.toNat + 2 ^ 32 - s.qHead q) % 2 ^ 32 →
        ∃ t, exec (.qtailWrite q tail) s = .next t ∧ SameMemory s t ∧ Stops q 0x0D s t ∧ t.reg (.qtail q) = s.reg (.qtail q))) ∧
    (∃ t, exec (.qctlReset q) s = .next t ∧ SameMemory s t ∧ t.qHead q = s.qTail q ∧ t.reg (.qst q) = 0 ∧
      (t.queue q).resident = false ∧ (t.queue q).waiting = none ∧ ∀ leg, leg < 1024 → look? t.legs (q * 1024 + leg) = none) ∧
    (s.residents (queueDie q) < 64 → s.sideRuns (queueDie q) = true → s.nextQueue (queueDie q) = some q →
      queueDescOk (s.queueDesc q) = true → (s.queue q).waiting = none →
      ∃ t, exec (.queueResident (queueDie q)) s = .next t ∧ SameMemory s t ∧ (t.queue q).resident = true ∧
        (t.queue q).desc = s.queueDesc q ∧ t.qState q = 1) ∧
    (∀ p, (s.queue q).waiting = some p → (packetDw p 0).toNat % 2 ^ 8 = 2 ∨ (packetDw p 0).toNat % 2 ^ 8 = 3 → (s.queue q).resident = true →
      (s.queue q).prq = none → 2 ^ 63 ≤ (s.queue q).wrr.toNat → (s.queue q).since + 100000 ≤ s.time → 64 ≤ s.residents (queueDie q) →
      (∃ o ∈ s.queues, queueDie o.1 = queueDie q ∧ s.qPending o.1 = true ∧ descPrio (s.queue q).desc ≤ descPrio (s.queueDesc o.1)) →
      ∃ t, exec (.queueSlotYield q) s = .next t ∧ SameMemory s t ∧ (t.queue q).resident = false ∧ t.qState q = 3 ∧
        (t.queue q).waiting = some p) ∧
    (∀ p, Takes s q 0 p → ∃ t, exec (.pktNoop q) s = .next t ∧ SameMemory s t ∧ Completes q p s t) ∧
    (∀ p, Takes s q 1 p →
      let w := packetDw p 1
      let r := w.toNat % 2 ^ 12
      w.toNat < 2 ^ 12 → dwsZero p 2 7 = true → s.recVf r = descVf (s.descOf q) → s.recState r = 0 → s.complete? r = true →
      ∃ t, exec (.pktLaunch q) s = .next t ∧ r ∈ t.armed ∧
        ((packetDw p 0).toNat / 2 ^ 10 % 2 = 0 → Completes q p s t) ∧ ((packetDw p 0).toNat / 2 ^ 10 % 2 = 1 → Holds q p t)) ∧
    (∀ p, Takes s q 2 p → fenceOk p = true →
      ((∀ i, i < (packetDw p 0).toNat / 2 ^ 16 % 2 ^ 4 → FenceMet s p i) →
        ∃ t, exec (.pktFence q) s = .next t ∧ SameMemory s t ∧ Completes q p s t) ∧
      (∀ i, i < (packetDw p 0).toNat / 2 ^ 16 % 2 ^ 4 → ¬ FenceMet s p i → i ∉ (s.queue q).marks →
        ∃ t, exec (.pktFence q) s = .next t ∧ SameMemory s t ∧ Holds q p t ∧ 2 ^ 63 ≤ (t.queue q).wrr.toNat)) ∧
    (∀ p h, Takes s q 3 p → packetAddrOk (packetDw p 1) = true → waitControlOk (packetDw p 3) 4 = true → dwsZero p 4 7 = true →
      s.packetHome q (packetDw p 1) .read = .ok h →
      let met := condHolds ((packetDw p 3).toNat / 2 ^ 61) (BitVec.ofNat 64 (leNat (s.readHome h 8))) (packetDw p 2)
      (met = true → ∃ t, exec (.pktWait q) s = .next t ∧ SameMemory s t ∧ Completes q p s t) ∧
      (met = false → (s.queue q).hit = false →
        ∃ t, exec (.pktWait q) s = .next t ∧ SameMemory s t ∧ Holds q p t ∧ 2 ^ 63 ≤ (t.queue q).wrr.toNat)) ∧
    (∀ p h, Takes s q 4 p → (packetDw p 0).toNat / 2 ^ 16 % 2 ^ 4 = 0 → dwsZero p 3 7 = true → packetAddrOk (packetDw p 1) = true →
      s.packetHome q (packetDw p 1) .write = .ok h →
      ∃ t, exec (.pktSignalStore q) s = .next t ∧ SameMemory (s.writeHome h (leBytes 8 (packetDw p 2).toNat)) t ∧ Completes q p s t) ∧
    (∀ p, Takes s q 4 p → (packetDw p 0).toNat / 2 ^ 16 % 2 ^ 4 = 1 → dwsZero p 3 7 = true → (packetDw p 1).toNat < 2 ^ 12 →
      let r := (packetDw p 1).toNat % 2 ^ 12
      s.recVf r = descVf (s.descOf q) → s.recState r = 2 → ((s.jobCores r).map (·.1)).Nodup →
      ∃ t, exec (.pktSignalHost q) s = .next t ∧ SameMemory s t ∧ Completes q p s t ∧
        ∀ c ∈ s.jobCores r, (slotOf s c.1 0).occupied = true →
          (slotOf t c.1 0).pend.signals = (slotOf s c.1 0).pend.signals ++ [packetDw p 2]) ∧
    (∀ p, Takes s q 5 p →
      let w := (packetDw p 1).toNat
      let r := w / 2 ^ 16 % 2 ^ 12
      let leg := w % 2 ^ 10
      let old := look (Leg.empty 0) s.legs (q * 1024 + leg)
      let legt := (packetDw (s.queueDesc q) 3).toNat / 2 ^ 16 % 2 ^ 36 * 2 ^ 16
      legOk p = true → (packetDw (s.descOf q) 3).toNat / 2 ^ 16 % 2 ^ 36 ≠ 0 → s.spanDies r = 1 → s.spanDevs r = 1 →
      s.recVf r = descVf (s.descOf q) →
      ∃ t l, exec (.pktLeg q) s = .next t ∧ DeviceWritesOnly (legt + 64 * leg) 64 s t ∧ look? t.legs (q * 1024 + leg) = some l ∧
        l.stored = true ∧ l.fired = false ∧ l.record = r ∧ l.count = (w / 2 ^ 32 % 2 ^ 8 : Nat) + old.pend ∧
        ((packetDw p 0).toNat / 2 ^ 10 % 2 = 0 → Completes q p s t) ∧ ((packetDw p 0).toNat / 2 ^ 10 % 2 = 1 → Holds q p t)) ∧
    (∀ leg l d, look? s.legs (q * 1024 + leg) = some l → l.stored = true → l.fired = false → l.count ≤ 0 →
      s.sideRuns (queueDie q) = true → s.feSet = true → s.recVf l.record = descVf (s.descOf q) → s.recState l.record = 0 → s.complete? l.record = true → s.legDie q l = some d →
      ∃ t, exec (.legFire q leg) s = .next t ∧ look? t.legs (q * 1024 + leg) = some { l with fired := true } ∧
        l.record ∈ t.armed ∧ (t.job l.record).dies = [d]) ∧
    (∀ p, (s.queue q).waiting = some p → (s.queue q).resident = true → (s.queue q).prq = none → s.sideRuns (queueDie q) = true →
      ((packetDw p 0).toNat % 2 ^ 8 = 1 → s.recState ((packetDw p 1).toNat % 2 ^ 12) = 0 ∨ s.recState ((packetDw p 1).toNat % 2 ^ 12) = 4 →
        ∃ t, exec (.packetComplete q) s = .next t ∧ SameMemory s t ∧ Completes q p s t) ∧
      ((packetDw p 0).toNat % 2 ^ 8 = 2 →
        (∀ i, i < (packetDw p 0).toNat / 2 ^ 16 % 2 ^ 4 → i ∈ (s.queue q).marks ∨ FenceMet s p i) →
        ∃ t, exec (.packetComplete q) s = .next t ∧ SameMemory s t ∧ Completes q p s t))

/-- R258, R444 to R452: the lease is renewed, lapses and is voted for; the package divides; the mailbox commands end with what they give; and
a fatal error kills its context and dumps its job. -/
def Obligations.FirmwareEvents : Prop :=
  ∀ s : State,
    (∀ d acks, Leads s d → (s.light d).sent + 200000 ≤ s.time →
      let heard := acks.filter fun a => (s.sideOf d).contains a && a != d
      (6 ≤ weightOf (d :: heard) → ∃ t, exec (.leaseRenewal acks) s = .next t ∧ SameMemory s t ∧ t.leader = some d ∧
        ∀ a ∈ d :: heard, (t.light a).renewed = s.time ∧ (t.light a).lapsed = false) ∧
      (weightOf (d :: heard) < 6 → ∃ t, exec (.leaseRenewal acks) s = .next t ∧ SameMemory s t ∧ t.leader = some d ∧
        (t.light d).sent = s.time ∧ ∀ a, (t.light a).renewed = (s.light a).renewed)) ∧
    (∀ die, die < Config.dies → s.dieHeld die = false → (s.light die).lapsed = false → (s.light die).renewed + 1000000 ≤ s.time →
      (6 ≤ weightOf (s.sideOf die) → ∃ t, exec (.leaseLapse die) s = .next t ∧ SameMemory s t ∧ (t.light die).lapsed = true ∧
        t.leader = if s.leader = some die then none else s.leader) ∧
      (weightOf (s.sideOf die) < 6 → ∃ t, exec (.leaseLapse die) s = .next t ∧ (t.light die).lapsed = true ∧
        (t.light die).outOfQuorum = true ∧ (t.leader = if s.leader = some die then none else s.leader) ∧ (8 ≤ die → Raised 257 t))) ∧
    (∀ die votes, die < Config.dies → s.dieHeld die = false → (s.light die).lapsed = true →
      let l := s.light die
      (if l.renewed < l.asked then l.asked + 1000000 else l.renewed + 1100000 + 10000 * lightRank die) ≤ s.time → s.split = none →
      let got := (die :: votes).filter (s.grants die (l.epoch + 1))
      ∃ t, exec (.voteRequest die votes) s = .next t ∧ SameMemory s t ∧ (t.light die).asked = s.time ∧ (t.light die).epoch = l.epoch + 1 ∧
        (6 ≤ weightOf got → t.leader = some die ∧ Raised 256 t ∧ (t.light die).lapsed = false) ∧
        (weightOf got < 6 → t.leader = s.leader)) ∧
    (∀ side, s.split = none →
      let mine := (side.filter fun d => decide (d < Config.dies)).foldl insertNat []
      mine ≠ [] → mine.length ≠ Config.dies →
      ∃ t, exec (.mgmtLinkFail side) s = .next t ∧ t.split = some mine ∧ t.leader = s.leader ∧
        (∀ d, s.leader = some d → 6 ≤ weightOf (t.sideOf d) → 8 ∈ t.sideOf d ∨ 9 ∈ t.sideOf d → Raised 257 t)) ∧
    (∀ (port : Nat) (addr : Word) (d : Nat), port < 2 → Commands s port 1 (addr.toNat % 2 ^ 52) → Leads s d →
      let a := addr.toNat % 2 ^ 52
      let size := (s.reg (.mbarg port)).toNat % 2 ^ 32
      let all := summary (s.resyncHead d) s.resyncSections
      a % 64 = 0 → a + (all.take size).length ≤ Config.deviceBytes →
      ∃ t, exec (.mbResync port addr) s = .next t ∧ t.dm.bytes a (all.take size).length = all.take size ∧
        DeviceWritesOnly a (all.take size).length s t ∧ MailEnds port (if size < all.length then 3 else 0) (all.take size).length t) ∧
    (∀ port rec arg, port < 2 → Commands s port 2 arg → arg % 4096 = rec →
      ∃ t, exec (.mbKill port rec) s = .next t ∧ MailEnds port 0 0 t ∧
        (1 ≤ s.recState rec → s.recState rec ≤ 3 → t.recState rec = 4) ∧
        AllDead rec s t) ∧
    (∀ port op arg, port < 2 → Commands s port op arg → op = 0 ∨ 3 < op →
      ∃ t, exec (.mbBadCommand port) s = .next t ∧ SameMemory s t ∧ MailEnds port 1 0 t) ∧
    (∀ port rec arg, port < 2 → Commands s port 3 arg → arg % 4096 = rec → 1 ≤ s.recState rec → s.recState rec ≤ 3 →
      (s.reg .fedump).toNat / 2 ^ 52 ≠ 0 →
      ∃ t, exec (.mbKillDump port rec) s = .next t ∧ MailEnds port 0 0 t ∧ Raised 258 t ∧
        AllDead rec s t) ∧
    (∀ x, s.core.ctx = some x →
      ∃ t, exec .fatalEcc s = .next t ∧ t.core.ctx.map (·.dead) = some true ∧
        ((s.reg .fedump).toNat / 2 ^ 52 ≠ 0 → (∃ d, Leads s d) → Raised 258 t))

/-- R453 to R466: an invalidation starts and completes; a walk fills the TLBs; a page request is answered; regions are committed and cleared;
a virtual function is reset. -/
def Obligations.VirtualisationEvents : Prop :=
  ∀ s : State,
    ((s.reg .tlbst).toNat < 2 ^ 63 →
      (∃ t, exec .tlbinvAll s = .next t ∧ OnlyReg .tlbst s t ∧ t.inval = some (1, 0, 0, 0) ∧ t.reg .tlbst = BitVec.ofNat 64 (2 ^ 63)) ∧
      ∀ asid, asid < 2 ^ 16 →
        (∃ t, exec (.tlbinvAsid asid) s = .next t ∧ OnlyReg .tlbst s t ∧ t.inval = some (2, asid, 0, 0)) ∧
        (∃ t, exec (.tlbinvRange asid) s = .next t ∧ OnlyReg .tlbst s t ∧
          t.inval = some (3, asid, (s.reg .tlbinva).toNat / 2 ^ 16 % 2 ^ 36, (s.reg .tlbinva).toNat % 2 ^ 12 + 1))) ∧
    (2 ^ 63 ≤ (s.reg .tlbst).toNat → exec .tlbinvAll s = .next s ∧ ∀ asid, exec (.tlbinvAsid asid) s = .next s ∧ exec (.tlbinvRange asid) s = .next s) ∧
    (∀ x, s.inval = some x → (∀ p ∈ s.cores, s.frozenCore p.2 = false) →
      ∃ t, exec .tlbinvComplete s = .next t ∧ t.inval = none ∧ t.reg .tlbst = 0 ∧
        (∀ c, ∀ e ∈ (t.coreAt c).tlb, e.matches x = false) ∧ ∀ k ∈ t.tlbs, ∀ e ∈ k.2, e.matches x = false) ∧
    (∀ die asid vf va access user party e, tlbHit (s.dieTlb die) asid vf (va.toNat % 2 ^ 52) = none → s.walk asid vf (va.toNat % 2 ^ 52) = .ok e →
      ∃ t, exec (.tlbWalk die asid vf va access user party) s = .next t ∧ SameMemory s t ∧
        t.dieTlb die = (e :: s.dieTlb die).take 8192 ∧
        (party.toNat / 2 ^ 16 % 16 = 1 → e ∈ (t.coreAt ⟨.quay, die, party.toNat / 4 % 64⟩).tlb)) ∧
    (∀ tag who, look? s.prqs tag = some who →
      (∃ t, exec (.prqRetry tag) s = .next t ∧ SameMemory s t ∧ look? t.prqs tag = none ∧
        (∀ c, who = .stream c → (t.coreAt c).prq = none) ∧ (∀ die e, who = .dma die e → (t.engine die e).prq = none) ∧
        (∀ q, who = .queue q → (t.queue q).prq = none) ∧ ∀ die, who = .coll die → (t.collEngine die).prq = none) ∧
      (∃ t, exec (.prqFail tag) s = .next t ∧ look? t.prqs tag = none ∧
        (∀ c, who = .stream c → (t.coreAt c).stream.err = some 8) ∧
        (∀ die e, who = .dma die e → t.reg (.dmast die e) = BitVec.ofNat 64 (3 * 2 ^ 61 + 8 * 2 ^ 48 + s.dmaHead die e)) ∧
        (∀ q, who = .queue q → Stops q 8 s t) ∧
        ∀ die, who = .coll die → t.reg (.crst die) = BitVec.ofNat 64 (3 * 2 ^ 61 + 8 * 2 ^ 48 + s.crHead die))) ∧
    ((s.reg .regcmt).toNat < 2 ^ 63 →
      (s.commitOk = true → ∃ t, exec .regcmtGo s = .next t ∧ SameMemory s t ∧ t.reg .regcmt = BitVec.ofNat 64 (2 ^ 63) ∧
        ∀ r, r < 256 → t.regionAttr r = (s.reg (.region r)).toNat % 2 ^ 8 ∧
          (r ∈ t.clearing ↔ (s.reg (.region r)).toNat % 2 ^ 8 ≠ s.regionAttr r)) ∧
      (s.commitOk = false → ∃ t, exec .regcmtGo s = .next t ∧ OnlyReg .regcmt s t ∧ (t.reg .regcmt).toNat / 2 ^ 62 % 2 = 1 ∧
        ∀ r, t.regionAttr r = s.regionAttr r)) ∧
    (2 ^ 63 ≤ (s.reg .regcmt).toNat → ∃ t, exec .regionClearDone s = .next t ∧ t.reg .regcmt = 0 ∧ t.clearing = [] ∧
      (∀ a, a / 2 ^ 32 ∈ s.clearing → t.dm.byte a = 0) ∧ ∀ a, a / 2 ^ 32 ∉ s.clearing → t.dm.byte a = s.dm.byte a) ∧
    (∀ v, 1 ≤ v → v < 64 → s.vfState v = 0 →
      ∃ t, exec (.vfctlReset v) s = .next t ∧ t.reg (.vfctl v) = BitVec.ofNat 64 (2 * 2 ^ 62) ∧ (∀ r ∈ s.vfRecords v, AllDead r s t) ∧
        (s.vfRecords v = [] → (∀ q ∈ s.vfQueues v, t.qHead q = s.qTail q ∧ t.reg (.qst q) = 0) ∧
          ∀ die e, (die = 8 ∨ die = 9) → e < 64 → (s.reg (.drcfg die e)).toNat / 2 ^ 56 % 2 ^ 6 = v →
            t.reg (.drhead die e) = s.reg (.drtail die e) ∧ (t.engine die e).run = none)) ∧
    (∀ v, s.vfState v = 2 → s.vfDraining v = false →
      ∃ t, exec (.vfResetDrained v) s = .next t ∧ SameMemory s t ∧ t.reg (.vfctl v) = 0 ∧
        ∀ n, n < 1024 → s.sourceOf n v = true → ¬ Raised n t)

/-- R469 to R480: ports train and fall, flits and keys; a remote access is performed where the table admits it, else refused; a lost device fails
the jobs that span devices; and the rings of the collective engines. -/
def Obligations.ScaleupEvents : Prop :=
  ∀ s : State,
    (∀ port two, port < 18 → (s.reg .domid).toNat / 2 ^ 8 % 2 = 1 →
      ∃ t, exec (.shumbiviaPortUp port two) s = .next t ∧ OnlyReg (lnkReg port) s t ∧ (t.shumPort port).up = true ∧
        (t.shumPort port).width = (if two || s.laneOut port then 1 else 2) ∧ lnkShows port t) ∧
    (∀ port, port < 18 → (s.shumPort port).up = true → (∃ p, p < 18 ∧ p ≠ port ∧ (s.shumPort p).up = true) →
      let live := (List.range 18).filter fun p => p != port && (s.shumPort p).up
      let kept (p : Nat) := (s.shumPort p).replay.map fun f => (f.pa, f.body)
      let out := kept port ++ (s.shumPort port).held
      (∀ p, (s.shumPort p).sent + out.length < 2 ^ 48) →
      ∃ t, exec (.shumbiviaPortDown port) s = .next t ∧ OnlyReg (lnkReg port) s t ∧ (t.shumPort port).up = false ∧
        (t.reg (lnkReg port)).toNat < 2 ^ 63 ∧ (t.shumPort port).replay = [] ∧
        ∀ p, p ≠ port → (t.shumPort p).replay.map (fun f => (f.pa, f.body)) =
          kept p ++ out.filter fun f => live[f.1 / 2 ^ 11 % 32 % live.length]? == some p) ∧
    (∀ port, port < 18 → (s.shumPort port).up = true → (∀ p, p ≠ port → (s.shumPort p).up = false) → s.jobs = [] →
      ∃ t, exec (.shumbiviaPortDown port) s = .next t ∧ (t.shumPort port).up = false ∧
        ∀ die, die = 8 ∨ die = 9 → s.collOn die = true → t.reg (.crst die) = BitVec.ofNat 64 (3 * 2 ^ 61 + 7 * 2 ^ 48 + s.crHead die)) ∧
    (∀ port seq kg tagOk, port < 18 → (s.shumPort port).up = true →
      let k := s.shumPort port
      (tagOk = false ∨ k.rkeys.getD kg.toNat none = none →
        (∃ t, exec (.flitReceive port seq kg tagOk false) s = .next t ∧ OnlyReg (lnkReg port) s t ∧
          (t.reg (lnkReg port)).toNat % 2 ^ 32 = ((s.reg (lnkReg port)).toNat + 1) % 2 ^ 32 ∧ (t.shumPort port).expect = k.expect) ∧
        (k.tries = 7 → (∃ p, p < 18 ∧ p ≠ port ∧ (s.shumPort p).up = true) →
          ∃ t, exec (.flitReceive port seq kg tagOk true) s = .next t ∧ OnlyReg (lnkReg port) s t ∧ (t.shumPort port).up = false)) ∧
      (tagOk = true → k.rkeys.getD kg.toNat none ≠ none →
        (seq ≠ k.expect.getD kg.toNat 0 → exec (.flitReceive port seq kg tagOk false) s = .next s) ∧
        (seq = k.expect.getD kg.toNat 0 → k.expect.length = 2 →
          ∃ t, exec (.flitReceive port seq kg tagOk false) s = .next t ∧ (Config.replayAsked port s.time = none → SameMemory s t) ∧
            (t.shumPort port).expect.getD kg.toNat 0 = seq + 1 ∧ (t.shumPort port).rkg = kg))) ∧
    (∀ port key, port < 18 → (∃ d, Leads s d) →
      let k := s.shumPort port
      k.keys.getD (!k.kg).toNat none = none → k.keys.length = 2 → k.width < 4 →
      ∃ t, exec (.keyRollover port key) s = .next t ∧ OnlyReg (lnkReg port) s t ∧ (t.shumPort port).kg = !k.kg ∧ (k.held = [] → (t.shumPort port).sent = 0) ∧
        (t.shumPort port).keys.getD (!k.kg).toNat none = some key ∧ lnkShows port t) ∧
    (∀ port, port < 18 →
      let k := s.shumPort port
      k.confirmed = true → (∀ f ∈ k.replay, f.kg = k.kg) →
      ∃ t, exec (.keyRetire port) s = .next t ∧ SameMemory s t ∧ (t.shumPort port).keys.getD (!k.kg).toNat none = none ∧
        (t.shumPort port).keys.getD k.kg.toNat none = k.keys.getD k.kg.toNat none) ∧
    (∀ dev addr len data, s.portsUp ≠ [] →
      (∀ n, 0 < n → addr + n ≤ Config.deviceBytes → s.admits dev (addr / 2 ^ 32) = true → s.admits dev ((addr + n - 1) / 2 ^ 32) = true →
        (n = len → ∃ t, exec (.remoteAccessArrival dev addr .read len data) s = .next t ∧ SameMemory s t ∧ Sends addr (s.dm.bytes addr n) s t) ∧
        (n = data.length → ∃ t, exec (.remoteAccessArrival dev addr .write len data) s = .next t ∧ t.dm.bytes addr n = data ∧
          DeviceWritesOnly addr n s t) ∧
        (n = 8 → ∀ k ∈ remoteAtomics, ∃ t, exec (.remoteAccessArrival dev addr k.1 len data) s = .next t ∧ DeviceWritesOnly addr 8 s t ∧
          t.dm.nat addr 8 = k.2 (s.dm.nat addr 8) (leNat (data.take 8)) (leNat ((data.drop 8).take 8)) ∧
          Sends addr (s.dm.bytes addr 8) s t)) ∧
      (s.admits dev (addr / 2 ^ 32) = false →
        (0 < len → ∃ t, exec (.remoteAccessArrival dev addr .read len data) s = .next t ∧ SameMemory s t ∧
          (∃ die, t.reg (.drefuse die) = s.reg (.drefuse die) + 1) ∧ Sends addr (List.replicate len 0) s t) ∧
        (data ≠ [] → ∃ t, exec (.remoteAccessArrival dev addr .write len data) s = .next t ∧ SameMemory s t ∧
          ∃ die, t.reg (.drefuse die) = s.reg (.drefuse die) + 1))) ∧
    (∀ dev r word sender pay addr len, s.portsUp ≠ [] → s.recState r = 2 → dev < s.spanDevs r → dev < 2 ^ 8 → dev ≠ s.myDev r →
      s.destDev r word = s.myDev r → s.destInSpan r (s.myDev r) word = true → pay.length % 8 = 0 → pay.length ≤ 248 →
      ∃ t m, exec (.remoteAccessArrival dev addr (.message r word sender) len pay) s = .next t ∧ SameMemory s t ∧ t.msgs = s.msgs ++ [m] ∧
        m.job = some r ∧ m.dst = (s.job r).destOf word ∧ m.payload = pay ∧
        m.header.toNat = word.toNat / 2 ^ 48 * 2 ^ 48 + pay.length * 2 ^ 40 + dev * 2 ^ 24 + sender % 2 ^ 24) ∧
    (∀ dev r, dev ≠ (s.reg .domid).toNat % 2 ^ 8 → r ∈ s.jobs.map (·.1) → dev < s.spanDevs r → dev ≠ s.myDev r → s.recState r = 2 →
      ∃ t, exec (.remoteTimeout dev) s = .next t ∧ AllDead r s t) ∧
    (∀ die : Nat, die = 8 ∨ die = 9 →
      let head := s.crHead die
      let st := ringState (s.reg (.crst die))
      let d := s.deviceRead (s.crAt die) 64
      let g := s.collEngine die
      (∀ tail : HWord, (tail.toNat + 2 ^ 32 - head) % 2 ^ 32 ≤ s.crSize die →
        ∃ t, exec (.crtailWrite die tail) s = .next t ∧ SameMemory s t ∧ t.reg (.crtail die) = BitVec.ofNat 64 tail.toNat) ∧
      (∀ tail : HWord, s.crSize die < (tail.toNat + 2 ^ 32 - head) % 2 ^ 32 →
        ∃ t, exec (.crtailWrite die tail) s = .next t ∧ t.reg (.crtail die) = s.reg (.crtail die) ∧
          t.reg (.crst die) = BitVec.ofNat 64 (3 * 2 ^ 61 + 0x0D * 2 ^ 48 + head)) ∧
      (∃ t, exec (.crAbort die) s = .next t ∧ SameMemory s t ∧ t.reg (.crhead die) = s.reg (.crtail die) ∧
        ringState (t.reg (.crst die)) = 0 ∧ (t.collEngine die).run = none) ∧
      (st = 3 → ∃ t, exec (.crResume die) s = .next t ∧ SameMemory s t ∧
        t.reg (.crhead die) = BitVec.ofNat 64 (((s.reg (.crst die)).toNat % 2 ^ 32 + 1) % 2 ^ 32)) ∧
      (2 ^ 63 ≤ (s.reg (.crcfg die)).toNat → st ≠ 3 → g.run = none → head ≠ s.crTail die →
        (s.collOk die d = true → ∃ t, exec (.collectiveStart die) s = .next t ∧ SameMemory s t ∧ (t.collEngine die).run = some d ∧
          ringState (t.reg (.crst die)) = 2) ∧
        (s.collOk die d = false → ∃ t, exec (.collectiveStart die) s = .next t ∧
          t.reg (.crst die) = BitVec.ofNat 64 (3 * 2 ^ 61 + 2 * 2 ^ 48 + head))) ∧
      (∀ x peers src dst, g.run = some x → g.prq = none →
        let me := (s.reg .domid).toNat % 2 ^ 8
        let ms := s.collMembers (collGrp x)
        let es := collBytes (collFmt x)
        let n := collCount x
        (∀ m ∈ ms, m ≠ me → (look [] peers m).take 7 = (x.drop 16).take 7 ∧ (look [] peers m).length = 7 + es * n) →
        x.length = 64 → s.collRuns die .read (descNat x 0 8) (es * n) = .ok src → s.collRuns die .write (descNat x 8 8) (es * n) = .ok dst →
        let cols := ms.map fun m => collElements es n (if m = me then s.readRuns src else (look [] peers m).drop 7)
        let rs := (List.range n).map fun i => collElement (collFmt x) (collOp x) (cols.map fun c => c.getD i 0)
        ∃ t, exec (.collectiveComplete die peers) s = .next t ∧ (t.collEngine die).run = none ∧
          t.reg (.crhead die) = BitVec.ofNat 64 ((head + 1) % 2 ^ 32) ∧
          SameMemory ((s.writeRuns dst (rs.flatMap fun r => leBytes es r.1)).deviceWrite (s.crAt die + 56)
            (leBytes 8 (2 ^ 63 + joinFlags (rs.map (·.2))))) t) ∧
      (∀ x peers m, g.run = some x → g.prq = none →
        let me := (s.reg .domid).toNat % 2 ^ 8
        (∀ k ∈ s.collMembers (collGrp x), k ≠ me → 7 ≤ (look [] peers k).length) → m ∈ s.collMembers (collGrp x) → m ≠ me →
        (look [] peers m).take 7 ≠ (x.drop 16).take 7 →
        ∃ t, exec (.collectiveComplete die peers) s = .next t ∧ (t.collEngine die).run = none ∧
          t.reg (.crst die) = BitVec.ofNat 64 (3 * 2 ^ 61 + 2 * 2 ^ 48 + head)))

/-- R481 to R495: a core halts, steps and resumes, alone or with its halt group; its live state is read and written; the freeze wire, the end of
a trace, and a pulse of Tidemark. -/
def Obligations.DebugEvents : Prop :=
  ∀ s : State,
    let d := s.core.dbg
    let ctl := (s.reg (.dctl s.coreId)).toNat
    let trap := ctl / 2 ^ 13 % 2
    (∀ cause slot e, (e = Instr.dcmdHalt ∧ cause = 1 ∧ slot = 0 ∧ d.halted = false) ∨
        (e = Instr.breakpointMatch ∧ cause = 2 ∧ slot = s.core.cur.val ∧ s.breaks.isSome = true) ∨
        (e = Instr.crossTriggerHalt ∧ cause = 4 ∧ slot = 0 ∧ d.cross = true ∧ d.halted = false ∧ ctl / 2 ^ 15 % 2 = 1 ∧ ctl / 2 ^ 12 % 2 = 1) →
      (trap = 0 → ∃ t, exec e s = .next t ∧ t.core.dbg.halted = true ∧ t.core.dbg.cause = cause ∧ t.core.dbg.slot = slot ∧
        t.core.slots = s.core.slots ∧ (s.untraced → SameMemory s t)) ∧
      (trap = 1 → ∃ t, exec e s = .next t ∧ t.core.dbg.halted = d.halted ∧ SameMemory s t ∧
        ∀ n : Fin 4, s.core.slots[n].occupied = true → t.core.slots[n].pend.debugHalt = some (BitVec.ofNat 64 (ctl % 2 ^ 6)))) ∧
    (d.halted = true → d.slot < 4 →
      (∃ t, exec .dcmdResume s = .next t ∧ t.core.dbg.halted = false ∧ t.core.slots = s.core.slots ∧ (s.untraced → SameMemory s t)) ∧
      (∃ t, exec .dcmdStep s = .next t ∧ t.core.dbg.halted = false ∧ t.core.dbg.step = true ∧ t.core.cur.val = d.slot ∧
        t.core.slots = s.core.slots)) ∧
    (∀ grp c, grp < 64 → c ∈ s.groupCores grp → ∃ t, exec (.dgrpResume grp) s = .next t ∧ (t.coreAt c).dbg.halted = false ∧
      (t.coreAt c).slots = (s.coreAt c).slots) ∧
    (let sel := (s.reg (.dsel s.coreId)).toNat
     let n := sel / 2 ^ 12 % 4
     let off := sel / 2 ^ 3 % 2 ^ 9
     let k := s.core.slot n
     (d.halted = true → off ≤ 0x100 → ∃ t, exec .ddataRead s = .next t ∧ SameMemory s t ∧ t.core = s.core ∧
       t.ddata = if off = 0x100 then k.pc else if off = 0xFF then imageTag (liveWords s.coreId.kind k) else (liveWords s.coreId.kind k).getD off 0) ∧
     (d.halted = false ∨ 0x100 < off → ∃ t, exec .ddataRead s = .next t ∧ t.ddata = 0 ∧ t.core.dbg.err = true ∧ t.core.slots = s.core.slots) ∧
     (∀ v, d.halted = true → off = 0x100 ∨ off = 250 → ∃ t, exec (.ddataWrite v) s = .next t ∧ SameMemory s t ∧
       (t.core.slot n).pc = bundleAddr v) ∧
     (∀ v (i : Fin 32), d.halted = true → i ≠ 0 → off = i.val → imageFault s.coreId.kind ((liveWords s.coreId.kind k).set off v) (if s.coreId.kind = .lighthouse then 3 else 1) = none →
       ∃ t, exec (.ddataWrite v) s = .next t ∧ SameMemory s t ∧ (t.core.slot n).x[i] = v ∧ (t.core.slot n).pc = k.pc ∧
         ∀ j : Fin 32, j ≠ 0 → j ≠ i → (t.core.slot n).x[j] = k.x[j]) ∧
     (∀ v, d.halted = false ∨ 0x100 < off → ∃ t, exec (.ddataWrite v) s = .next t ∧ t.core.dbg.err = true ∧ t.core.slots = s.core.slots)) ∧
    (∀ rec, rec < 4096 →
      (∃ t, exec (.frzctlAssert rec) s = .next t ∧ OnlyReg .frzctl s t ∧ t.wire rec = true ∧
        (∀ r, r < 4096 → r ≠ rec → (s.job r).frozen = false → t.wire r = false) ∧ t.reg .frzctl = BitVec.ofNat 64 (2 ^ 63 + rec)) ∧
      (∃ t, exec (.frzctlRelease rec) s = .next t ∧ OnlyReg .frzctl s t ∧ (∀ r, r < 4096 → (s.job r).frozen = false → t.wire r = false) ∧
        t.reg .frzctl = BitVec.ofNat 64 rec)) ∧
    ((s.reg (.trctl s.coreId)).toNat % 2 = 1 → ∃ t, exec .traceStop s = .next t ∧ (t.reg (.trctl s.coreId)).toNat % 2 = 0 ∧
      (d.trace = [] → OnlyReg (.trctl s.coreId) s t)) ∧
    (let period := (s.reg .tmctl).toNat / 2 % 2 ^ 24 * 100
     let past := (s.time - s.tmStart) / period
     let r := tidemarkRecord (past - 1) s.time (scanOrder.map fun id => s.sample (s.coreAt id))
     let idx := (s.reg .tmidx).toNat
     let off := if (s.reg .tmsize).toNat % 2 ^ 32 * 2 ^ 20 < idx + r.length then 0 else idx
     let a := (s.reg .tmbase).toNat / 2 ^ 6 % 2 ^ 46 * 2 ^ 6 + off
     (s.reg .tmctl).toNat % 2 = 1 → s.tmPulse < past → a + r.length ≤ Config.deviceBytes →
       ∃ t, exec .tidemarkPulse s = .next t ∧ t.tmPulse = past ∧ t.reg .tmidx = BitVec.ofNat 64 (off + r.length) ∧
         t.dm.bytes a r.length = r ∧ DeviceWritesOnly a r.length s t)

/-- R6, R405, R422, R496 to R507: BOOTCTL's operations burn fuses or choose images for the holder of semaphore 1; the attestation report and the key
slots; islands' clocks, capping and heat; errors; and a plain register takes what a write brings in its RW fields. -/
def Obligations.BootEvents : Prop :=
  ∀ s : State,
    (∀ (src : RegSource) (e : Instr), s.holds src 1 = false →
        (e = .bootctlRecovery src ∨ e = .bootctlMain src ∨ e = .bootctlRaiseSvn src ∨ (∃ slot addr, e = .bootctlFuseOwner src slot addr) ∨
          (∃ slot, e = .bootctlRevokeOwner src slot) ∨ ∃ mode, e = .bootctlSetOwnmode src mode) →
      ∃ t, exec e s = .next t ∧ OnlyReg .hsemst s t ∧ (t.reg .hsemst).toNat / 2 % 2 = 1 ∧ t.flash = s.flash) ∧
    (∀ src : RegSource, s.holds src 1 = true →
      (∃ t, exec (.bootctlRecovery src) s = .next t ∧ OnlyReg .bootst s t ∧ t.flash = { s.flash with recoveryNext := true }) ∧
      (∃ t, exec (.bootctlMain src) s = .next t ∧ OnlyReg .bootst s t ∧ t.flash = { s.flash with recoveryNext := false }) ∧
      (∃ t, exec (.bootctlRaiseSvn src) s = .next t ∧ OnlyReg .bootst s t ∧
        t.flash = { s.flash with svnFloor := max s.flash.svnFloor s.image.svn } ∧
        (t.reg .bootst).toNat % 2 ^ 32 = max s.flash.svnFloor s.image.svn % 2 ^ 32) ∧
      (∀ slot addr, 1 ≤ slot → slot ≤ 4 →
        (addr / 256 * 256 + 64 ≤ Config.deviceBytes → s.flash.owners.getD (slot - 1) none = none → ∃ t, exec (.bootctlFuseOwner src slot addr) s = .next t ∧ OnlyReg .bootst s t ∧
          t.flash.owners.getD (slot - 1) none = some (s.dm.bytes (addr / 256 * 256) 64) ∧
          ∀ i, i < 4 → i + 1 ≠ slot → t.flash.owners.getD i none = s.flash.owners.getD i none) ∧
        (s.flash.owners.getD (slot - 1) none ≠ none → ∃ t, exec (.bootctlFuseOwner src slot addr) s = .next t ∧ OnlyReg .bootst s t ∧
          t.flash = s.flash ∧ (t.reg .bootst).toNat / 2 ^ 32 % 2 ^ 8 = 6)) ∧
      (∀ slot, 1 ≤ slot → slot ≤ 4 → s.flash.ownMode ≠ 2 → ∃ t, exec (.bootctlRevokeOwner src slot) s = .next t ∧ OnlyReg .bootst s t ∧
        slot ∈ t.flash.revoked ∧ ∀ i ∈ s.flash.revoked, i ∈ t.flash.revoked) ∧
      (∀ mode, s.flash.ownMode ≤ mode → mode ≤ 2 → ∃ t, exec (.bootctlSetOwnmode src mode) s = .next t ∧ OnlyReg .bootst s t ∧
        t.flash = { s.flash with ownMode := mode } ∧ (t.reg .bootst).toNat / 2 ^ 58 % 4 = mode) ∧
      (∀ mode, mode < s.flash.ownMode → ∃ t, exec (.bootctlSetOwnmode src mode) s = .next t ∧ t.flash = s.flash ∧
        (t.reg .bootst).toNat / 2 ^ 32 % 2 ^ 8 = 6)) ∧
    (∀ addr, (∃ d, Leads s d) → addr % 64 = 0 → addr + 370 ≤ Config.deviceBytes →
      ∃ t, exec (.attcmdGo addr) s = .next t ∧ t.reg .attst = BitVec.ofNat 64 (2 ^ 63) ∧ t.dm.bytes addr 32 = s.dm.bytes addr 32 ∧
        DeviceWritesOnly addr 370 s t) ∧
    (∀ slot key, 1 ≤ slot → slot < 256 → s.keyWaits = [] →
      (s.keyInUse slot = false → ∃ t, exec (.keySlotWrite slot key) s = .next t ∧ look? t.keySlots slot = some key ∧ t.keyWaits = []) ∧
      (s.keyInUse slot = true → ∃ t, exec (.keySlotWrite slot key) s = .next t ∧ t.keySlots = s.keySlots ∧ t.keyWaits = [(slot, key)])) ∧
    (∀ slot key, 256 ≤ slot → slot < 292 → (s.shumPort ((slot - 256) / 2)).keys.length = 2 →
      (s.shumPort ((slot - 256) / 2)).rkeys.length = 2 → ∃ t, exec (.keySlotWrite slot key) s = .next t ∧ SameMemory s t ∧
        (t.shumPort ((slot - 256) / 2)).keys.getD ((slot - 256) % 2) none = some key ∧
        (t.shumPort ((slot - 256) / 2)).rkeys.getD ((slot - 256) % 2) none = some key) ∧
    (∀ n, n < 528 → ∃ t, exec (.islandClockChange n) s = .next t ∧ OnlyReg (.isl n) s t ∧
      t.act n = if s.hot n then 470 else if (s.reg .pcap).toNat % 2 ^ 13 ≠ 0 then min (s.act n) (s.tgt n) else s.tgt n) ∧
    (let cap := (s.reg .pcap).toNat % 2 ^ 13 * 10
     let power := ((List.range 528).map s.islandPower).sum
     cap ≠ 0 → (∃ d, Leads s d) → s.capped + 10000 ≤ s.time →
       ∃ t, exec .cappingCheck s = .next t ∧ SameMemory s t ∧ t.capped = s.time ∧
         (cap < power → ∀ n, n < 528 → t.act n = if 470 < s.act n then max 470 (s.act n - 10) else s.act n) ∧
         (power ≤ cap → power * 100 < cap * 98 → ∀ n, n < 528 →
           t.act n = if s.act n < s.tgt n ∧ s.hot n = false then min (s.tgt n) (s.act n + 10) else s.act n) ∧
         (power ≤ cap → cap * 98 ≤ power * 100 → ∀ n, t.act n = s.act n)) ∧
    (∀ n temp, n < 528 → temp < 920 → ∃ t, exec (.thermalTrip n temp) s = .next t ∧ OnlyReg (.isl n) s t ∧
      (t.reg (.isl n)).toNat / 2 ^ 16 % 2 ^ 15 = temp ∧ t.act n = if 840 ≤ temp then 470 else s.act n) ∧
    (∀ n temp, n < 528 → 920 ≤ temp → exec (.thermalTrip n temp) s = exec (.packageReset true s.strap s.unfit) s) ∧
    (∀ u, dataError u = false → ∃ t, exec (.eccError u true) s = .next t ∧ u.whole ∈ t.oos) ∧
    (∀ u, u.kind = .saveArea →
      ∃ t, exec (.eccError u true) s = .next t ∧ SameMemory s t ∧ t.oos = s.oos ∧ u.row % 4 ∈ t.core.badAreas) ∧
    (∀ u, u.kind = .codeLine →
      ∃ t, exec (.eccError u true) s = .next t ∧ SameMemory s t ∧ t.oos = s.oos ∧ (s.asid, 64 * u.row) ∈ t.core.badLines) ∧
    (∀ u, u.kind = .dmaData → (s.engine u.die u.row).run.isSome = true →
      ∃ t, exec (.eccError u true) s = .next t ∧ t.oos = s.oos ∧ (t.reg (.dmast u.die u.row)).toNat / 2 ^ 61 = 3 ∧
        (t.reg (.dmast u.die u.row)).toNat / 2 ^ 48 % 2 ^ 8 = 0x3F) ∧
    (∀ u, u.kind = .dmaData → ∃ t, exec (.eccError u false) s = .next t ∧ SameMemory s t ∧ t.oos = s.oos ∧ t.core = s.core) ∧
    (∀ u, u.kind ≠ .dmaData →
      let v := if u.kind = .saveArea ∨ u.kind = .codeLine then coreUnit s.coreId u.part else u
      let n := ((s.corrected.filter fun e => decide (s.time < e.2 + 360000000000)).filter fun e => decide (e.1 = v)).length
      (n < 16 → ∃ t, exec (.eccError u false) s = .next t ∧ SameMemory s t ∧ t.oos = s.oos ∧ (v, s.time) ∈ t.corrected) ∧
      (16 ≤ n → ∃ t, exec (.eccError u false) s = .next t ∧ v.whole ∈ t.oos)) ∧
    (∀ r m v src, plainMask r = some m → (∀ p, src = .port p → managed r = false) → (∀ p high, src ≠ .config p high) →
      ∃ t, exec (.registerWrite r v src) s = .next t ∧ t.reg r = (v &&& m) ||| (s.reg r &&& ~~~m) ∧ OnlyReg r s t) ∧
    (∀ r v p, managed r = true → exec (.registerWrite r v (.port p)) s = .next s) ∧
    (∀ r m v p high, plainMask r = some m → inCapability r = true → (∀ k, r ≠ .region k) →
      let n := v.toNat % 2 ^ 32
      let w := (s.reg r).toNat
      exec (.registerWrite r v (.config p high)) s =
        exec (.registerWrite r (BitVec.ofNat 64 (if high then n * 2 ^ 32 + w % 2 ^ 32 else w / 2 ^ 32 * 2 ^ 32 + n)) (.port p)) s)

/-- R80 to R87, R92, R95, R122: words that the spec writes out decode to the moves that it says they are, and the words it calls illegal to their
reasons. -/
def Obligations.WordsDecodeAsTheSpecWritesThem : Prop :=
  decodeFirst [0x82AC0507] = some (.lsLd64 ⟨true, false, 0, .x 5⟩, []) ∧
    decodeFirst [0x82CE0810] = some (.vpAdd ⟨true, false, 0, .imm8 8⟩, []) ∧
    decodeFirst [0x834E0009] = some (.syTend ⟨true, false, 0, .imm8 0⟩, []) ∧
    decodeFirst [0x836C0507] = some (.qmLd64 ⟨true, false, 0, .x 5⟩, []) ∧
    decodeFirst [0x838C0501] = some (.qsRun ⟨true, false, 0, .x 5⟩, []) ∧
    decodeFirst [0x80000000] = some (.move ⟨true, false, 0, .x 0⟩ (.x 0), []) ∧
    decodeFirst [0x8088B400] = some (.move ⟨true, false, 0, .port .vp .q⟩ (.v 2), []) ∧
    decodeFirst [0x0283FE00, 0x0003040A] = some (.move ⟨false, false, 0, .imm32 0x0003040A⟩ (.port .cf .a), []) ∧
    decodeFirst [0xD28EE801] = some (.cfBr ⟨true, true, 1, .imm8 0xE8⟩, []) ∧
    decodeFirst [0x828E000F] = some (.cfBrk ⟨true, false, 0, .imm8 0⟩, []) ∧
    decodeFirst [0xFFFFFFFF] = some (.linePad, []) ∧
    decodeFirst [0x820E0000] = some (.illegalOp ⟨true, false, 0, .imm8 0⟩ .ia 0, []) ∧
    decodeFirst [0x40000000] = some (.illegalMove 0x40000000 6, []) ∧
    decodeFirst [0x80000005] = some (.illegalMove 0x80000005 7, []) ∧
    decodeFirst [0x80104D00] = some (.illegalMove 0x80104D00 4, []) ∧
    decodeFirst [0x82640100] = some (.illegalMove 0x82640100 9, [])

/-- R80, R81, R83, R87: whatever its operands, a well-formed instruction that has words is what the decoder reads from them, and it takes no word
more; a word that is no legal move is left out, since it stands for itself. -/
def Obligations.EncodeThenDecode : Prop :=
  ∀ (i : Instr) (rest : List HWord), i.wf = true → encode i ≠ [] → (∀ w r, i ≠ .illegalMove w r) →
    decodeFirst (encode i ++ rest) = some (i, rest)

/-- R4, R6, R39 to R45, R187, R453, R496, R505: right after reset every slot is Free, no record is armed, every memory is in its canonical form, and what
the Reset columns give stands. -/
def Obligations.ResetLeavesWhatTheSpecGives : Prop :=
  State.reset.MemoryForm ∧ State.reset.jobs = [] ∧ State.reset.armed = [] ∧ State.reset.time = 0 ∧
    (∀ (c : CoreId) (n : Fin 4), let k := (State.reset.coreAt c).slots[n]
      k.run = .free ∧ k.csr.srseed = 1 ∧ k.csr.iret = 0 ∧ k.csr.fflags = 0 ∧ k.csr.frm = 0 ∧
        k.csr.xstat = BitVec.ofNat 64 (c.kind.role * 2 ^ 8 + if c.kind = .lighthouse then 3 * 2 ^ 4 else 0)) ∧
    (∀ c : CoreId, (State.reset.coreAt c).vqw = 0xF01 ∧ (State.reset.coreAt c).mqw = 0xF01 ∧ (State.reset.coreAt c).mq.next = 1 ∧
      (State.reset.coreAt c).ctx = none ∧ (State.reset.coreAt c).cycle = 0) ∧
    (State.reset.reg .udctl).toNat = 2 ^ 31 + 50 ∧ (∀ r, (State.reset.reg (.region r)).toNat = 2) ∧
    (State.reset.reg .clsceil).toNat = 0xFFFFFFFF ∧ (∀ n, (State.reset.reg (.isl n)).toNat = 940 * 2 ^ 42 + 940 * 2 ^ 31) ∧
    State.reset.reg .tlbst = 0 ∧ State.reset.reg .frzctl = 0

/-- The canonical form of every memory is an invariant (R4; the form itself is the model's): a step from a state in which every memory has it leads
to one in which every memory has it, whatever the step was. -/
def Obligations.MemoryFormIsKept : Prop :=
  ∀ s t : State, s.MemoryForm → step s = .next t → t.MemoryForm
end

