-- ==== Sys2Proof/Laws/State.lean ====
section
/-! SUPPORT. What each accessor leaves of the state: one lemma per field and update. -/

set_option autoImplicit false
set_option Elab.async false

namespace Sys2Proof.Machine

/-! ## The slot in focus -/

@[simp] theorem State.sl_setSl (s : State) (t : Slot) : (s.setSl t).sl = t := by simp [State.sl, State.setSl]

@[simp] theorem State.sl_onSl (s : State) (f : Slot → Slot) : (s.onSl f).sl = f s.sl := by simp [State.onSl]

@[simp] theorem State.lat_onSl (s : State) (f : Slot → Slot) (u : FU) : (s.onSl f).lat u = (f s.sl).lat u := by simp [State.lat]

@[simp] theorem State.cur_onSl (s : State) (f : Slot → Slot) : (s.onSl f).core.cur = s.core.cur := rfl

@[simp] theorem State.onSl_onSl (s : State) (f g : Slot → Slot) : (s.onSl f).onSl g = s.onSl fun t => g (f t) := by
  simp [State.onSl, State.setSl, State.sl]

theorem State.slots_onSl_ne (s : State) (f : Slot → Slot) (n : Fin 4) (h : n ≠ s.core.cur) :
    (s.onSl f).core.slots[n] = s.core.slots[n] := by
  have h2 : s.core.cur.val ≠ n.val := fun e => h (Fin.ext e.symm)
  simp [State.onSl, State.setSl, h2]

/-! ## Fields of the state -/

@[simp] theorem State.coreId_onSl (s : State) (f : Slot → Slot) : (s.onSl f).coreId = s.coreId := (rfl)

@[simp] theorem State.coreId_onCore (s : State) (f : Core → Core) : (s.onCore f).coreId = s.coreId := (rfl)

@[simp] theorem State.others_onSl (s : State) (f : Slot → Slot) : (s.onSl f).others = s.others := (rfl)

@[simp] theorem State.others_onCore (s : State) (f : Core → Core) : (s.onCore f).others = s.others := (rfl)

@[simp] theorem State.time_onSl (s : State) (f : Slot → Slot) : (s.onSl f).time = s.time := (rfl)

@[simp] theorem State.time_onCore (s : State) (f : Core → Core) : (s.onCore f).time = s.time := (rfl)

@[simp] theorem State.subtick_onSl (s : State) (f : Slot → Slot) : (s.onSl f).subtick = s.subtick := (rfl)

@[simp] theorem State.subden_onSl (s : State) (f : Slot → Slot) : (s.onSl f).subden = s.subden := (rfl)

@[simp] theorem State.subtick_onCore (s : State) (f : Core → Core) : (s.onCore f).subtick = s.subtick := (rfl)

@[simp] theorem State.subden_onCore (s : State) (f : Core → Core) : (s.onCore f).subden = s.subden := (rfl)

@[simp] theorem State.regs_onSl (s : State) (f : Slot → Slot) : (s.onSl f).regs = s.regs := (rfl)

@[simp] theorem State.regs_onCore (s : State) (f : Core → Core) : (s.onCore f).regs = s.regs := (rfl)

@[simp] theorem State.dm_onSl (s : State) (f : Slot → Slot) : (s.onSl f).dm = s.dm := (rfl)

@[simp] theorem State.dm_onCore (s : State) (f : Core → Core) : (s.onCore f).dm = s.dm := (rfl)

@[simp] theorem State.hm_onSl (s : State) (f : Slot → Slot) : (s.onSl f).hm = s.hm := (rfl)

@[simp] theorem State.hm_onCore (s : State) (f : Core → Core) : (s.onCore f).hm = s.hm := (rfl)

@[simp] theorem State.ctrs_onSl (s : State) (f : Slot → Slot) : (s.onSl f).ctrs = s.ctrs := (rfl)

@[simp] theorem State.ctrs_onCore (s : State) (f : Core → Core) : (s.onCore f).ctrs = s.ctrs := (rfl)

@[simp] theorem State.octets_onSl (s : State) (f : Slot → Slot) : (s.onSl f).octets = s.octets := (rfl)

@[simp] theorem State.octets_onCore (s : State) (f : Core → Core) : (s.onCore f).octets = s.octets := (rfl)

@[simp] theorem State.hampers_onSl (s : State) (f : Slot → Slot) : (s.onSl f).hampers = s.hampers := (rfl)

@[simp] theorem State.hampers_onCore (s : State) (f : Core → Core) : (s.onCore f).hampers = s.hampers := (rfl)

@[simp] theorem State.ccache_onSl (s : State) (f : Slot → Slot) : (s.onSl f).ccache = s.ccache := (rfl)

@[simp] theorem State.ccache_onCore (s : State) (f : Core → Core) : (s.onCore f).ccache = s.ccache := (rfl)

@[simp] theorem State.jobs_onSl (s : State) (f : Slot → Slot) : (s.onSl f).jobs = s.jobs := (rfl)

@[simp] theorem State.jobs_onCore (s : State) (f : Core → Core) : (s.onCore f).jobs = s.jobs := (rfl)

@[simp] theorem State.armed_onSl (s : State) (f : Slot → Slot) : (s.onSl f).armed = s.armed := (rfl)

@[simp] theorem State.armed_onCore (s : State) (f : Core → Core) : (s.onCore f).armed = s.armed := (rfl)

@[simp] theorem State.epochs_onSl (s : State) (f : Slot → Slot) : (s.onSl f).epochs = s.epochs := (rfl)

@[simp] theorem State.epochs_onCore (s : State) (f : Core → Core) : (s.onCore f).epochs = s.epochs := (rfl)

@[simp] theorem State.msgs_onSl (s : State) (f : Slot → Slot) : (s.onSl f).msgs = s.msgs := (rfl)

@[simp] theorem State.msgs_onCore (s : State) (f : Core → Core) : (s.onCore f).msgs = s.msgs := (rfl)

@[simp] theorem State.emits_onSl (s : State) (f : Slot → Slot) : (s.onSl f).emits = s.emits := (rfl)

@[simp] theorem State.emits_onCore (s : State) (f : Core → Core) : (s.onCore f).emits = s.emits := (rfl)

@[simp] theorem State.pushes_onSl (s : State) (f : Slot → Slot) : (s.onSl f).pushes = s.pushes := (rfl)

@[simp] theorem State.pushes_onCore (s : State) (f : Core → Core) : (s.onCore f).pushes = s.pushes := (rfl)

@[simp] theorem State.pulls_onSl (s : State) (f : Slot → Slot) : (s.onSl f).pulls = s.pulls := (rfl)

@[simp] theorem State.unseen_onSl (s : State) (f : Slot → Slot) : (s.onSl f).unseen = s.unseen := (rfl)

@[simp] theorem State.pulls_onCore (s : State) (f : Core → Core) : (s.onCore f).pulls = s.pulls := (rfl)

@[simp] theorem State.unseen_onCore (s : State) (f : Core → Core) : (s.onCore f).unseen = s.unseen := (rfl)

@[simp] theorem State.undertows_onSl (s : State) (f : Slot → Slot) : (s.onSl f).undertows = s.undertows := (rfl)

@[simp] theorem State.undertows_onCore (s : State) (f : Core → Core) : (s.onCore f).undertows = s.undertows := (rfl)

@[simp] theorem State.lights_onSl (s : State) (f : Slot → Slot) : (s.onSl f).lights = s.lights := (rfl)

@[simp] theorem State.lights_onCore (s : State) (f : Core → Core) : (s.onCore f).lights = s.lights := (rfl)

@[simp] theorem State.leader_onSl (s : State) (f : Slot → Slot) : (s.onSl f).leader = s.leader := (rfl)

@[simp] theorem State.leader_onCore (s : State) (f : Core → Core) : (s.onCore f).leader = s.leader := (rfl)

@[simp] theorem State.split_onSl (s : State) (f : Slot → Slot) : (s.onSl f).split = s.split := (rfl)

@[simp] theorem State.split_onCore (s : State) (f : Core → Core) : (s.onCore f).split = s.split := (rfl)

@[simp] theorem State.ports_onSl (s : State) (f : Slot → Slot) : (s.onSl f).ports = s.ports := (rfl)

@[simp] theorem State.ports_onCore (s : State) (f : Core → Core) : (s.onCore f).ports = s.ports := (rfl)

@[simp] theorem State.queues_onSl (s : State) (f : Slot → Slot) : (s.onSl f).queues = s.queues := (rfl)

@[simp] theorem State.queues_onCore (s : State) (f : Core → Core) : (s.onCore f).queues = s.queues := (rfl)

@[simp] theorem State.legs_onSl (s : State) (f : Slot → Slot) : (s.onSl f).legs = s.legs := (rfl)

@[simp] theorem State.legs_onCore (s : State) (f : Core → Core) : (s.onCore f).legs = s.legs := (rfl)

@[simp] theorem State.dma_onSl (s : State) (f : Slot → Slot) : (s.onSl f).dma = s.dma := (rfl)

@[simp] theorem State.dma_onCore (s : State) (f : Core → Core) : (s.onCore f).dma = s.dma := (rfl)

@[simp] theorem State.coll_onSl (s : State) (f : Slot → Slot) : (s.onSl f).coll = s.coll := (rfl)

@[simp] theorem State.coll_onCore (s : State) (f : Core → Core) : (s.onCore f).coll = s.coll := (rfl)

@[simp] theorem State.tlbs_onSl (s : State) (f : Slot → Slot) : (s.onSl f).tlbs = s.tlbs := (rfl)

@[simp] theorem State.tlbs_onCore (s : State) (f : Core → Core) : (s.onCore f).tlbs = s.tlbs := (rfl)

@[simp] theorem State.inval_onSl (s : State) (f : Slot → Slot) : (s.onSl f).inval = s.inval := (rfl)

@[simp] theorem State.inval_onCore (s : State) (f : Core → Core) : (s.onCore f).inval = s.inval := (rfl)

@[simp] theorem State.prqs_onSl (s : State) (f : Slot → Slot) : (s.onSl f).prqs = s.prqs := (rfl)

@[simp] theorem State.prqs_onCore (s : State) (f : Core → Core) : (s.onCore f).prqs = s.prqs := (rfl)

@[simp] theorem State.prqNext_onSl (s : State) (f : Slot → Slot) : (s.onSl f).prqNext = s.prqNext := (rfl)

@[simp] theorem State.prqNext_onCore (s : State) (f : Core → Core) : (s.onCore f).prqNext = s.prqNext := (rfl)

@[simp] theorem State.regions_onSl (s : State) (f : Slot → Slot) : (s.onSl f).regions = s.regions := (rfl)

@[simp] theorem State.regions_onCore (s : State) (f : Core → Core) : (s.onCore f).regions = s.regions := (rfl)

@[simp] theorem State.clearing_onSl (s : State) (f : Slot → Slot) : (s.onSl f).clearing = s.clearing := (rfl)

@[simp] theorem State.clearing_onCore (s : State) (f : Core → Core) : (s.onCore f).clearing = s.clearing := (rfl)

@[simp] theorem State.deadIds_onSl (s : State) (f : Slot → Slot) : (s.onSl f).deadIds = s.deadIds := (rfl)

@[simp] theorem State.deadIds_onCore (s : State) (f : Core → Core) : (s.onCore f).deadIds = s.deadIds := (rfl)

@[simp] theorem State.cidNext_onSl (s : State) (f : Slot → Slot) : (s.onSl f).cidNext = s.cidNext := (rfl)

@[simp] theorem State.cidNext_onCore (s : State) (f : Core → Core) : (s.onCore f).cidNext = s.cidNext := (rfl)

@[simp] theorem State.shum_onSl (s : State) (f : Slot → Slot) : (s.onSl f).shum = s.shum := (rfl)

@[simp] theorem State.shum_onCore (s : State) (f : Core → Core) : (s.onCore f).shum = s.shum := (rfl)

@[simp] theorem State.keySlots_onSl (s : State) (f : Slot → Slot) : (s.onSl f).keySlots = s.keySlots := (rfl)

@[simp] theorem State.keySlots_onCore (s : State) (f : Core → Core) : (s.onCore f).keySlots = s.keySlots := (rfl)

@[simp] theorem State.keyWaits_onSl (s : State) (f : Slot → Slot) : (s.onSl f).keyWaits = s.keyWaits := (rfl)

@[simp] theorem State.keyWaits_onCore (s : State) (f : Core → Core) : (s.onCore f).keyWaits = s.keyWaits := (rfl)

@[simp] theorem State.flash_onSl (s : State) (f : Slot → Slot) : (s.onSl f).flash = s.flash := (rfl)

@[simp] theorem State.strap_onSl (s : State) (f : Slot → Slot) : (s.onSl f).strap = s.strap := (rfl)

@[simp] theorem State.unfit_onSl (s : State) (f : Slot → Slot) : (s.onSl f).unfit = s.unfit := (rfl)

@[simp] theorem State.flash_onCore (s : State) (f : Core → Core) : (s.onCore f).flash = s.flash := (rfl)

@[simp] theorem State.strap_onCore (s : State) (f : Core → Core) : (s.onCore f).strap = s.strap := (rfl)

@[simp] theorem State.unfit_onCore (s : State) (f : Core → Core) : (s.onCore f).unfit = s.unfit := (rfl)

@[simp] theorem State.image_onSl (s : State) (f : Slot → Slot) : (s.onSl f).image = s.image := (rfl)

@[simp] theorem State.image_onCore (s : State) (f : Core → Core) : (s.onCore f).image = s.image := (rfl)

@[simp] theorem State.bist_onSl (s : State) (f : Slot → Slot) : (s.onSl f).bist = s.bist := (rfl)

@[simp] theorem State.bist_onCore (s : State) (f : Core → Core) : (s.onCore f).bist = s.bist := (rfl)

@[simp] theorem State.corrected_onSl (s : State) (f : Slot → Slot) : (s.onSl f).corrected = s.corrected := (rfl)

@[simp] theorem State.corrected_onCore (s : State) (f : Core → Core) : (s.onCore f).corrected = s.corrected := (rfl)

@[simp] theorem State.capped_onSl (s : State) (f : Slot → Slot) : (s.onSl f).capped = s.capped := (rfl)

@[simp] theorem State.capped_onCore (s : State) (f : Core → Core) : (s.onCore f).capped = s.capped := (rfl)

@[simp] theorem State.errs_onSl (s : State) (f : Slot → Slot) : (s.onSl f).errs = s.errs := (rfl)

@[simp] theorem State.errs_onCore (s : State) (f : Core → Core) : (s.onCore f).errs = s.errs := (rfl)

@[simp] theorem State.oos_onSl (s : State) (f : Slot → Slot) : (s.onSl f).oos = s.oos := (rfl)

@[simp] theorem State.oos_onCore (s : State) (f : Core → Core) : (s.onCore f).oos = s.oos := (rfl)

@[simp] theorem State.faults_onSl (s : State) (f : Slot → Slot) : (s.onSl f).faults = s.faults := (rfl)

@[simp] theorem State.faults_onCore (s : State) (f : Core → Core) : (s.onCore f).faults = s.faults := (rfl)

@[simp] theorem State.msix_onSl (s : State) (f : Slot → Slot) : (s.onSl f).msix = s.msix := (rfl)

@[simp] theorem State.portIrqs_onSl (s : State) (f : Slot → Slot) : (s.onSl f).portIrqs = s.portIrqs := (rfl)

@[simp] theorem State.lows_onSl (s : State) (f : Slot → Slot) : (s.onSl f).lows = s.lows := (rfl)

@[simp] theorem State.msix_onCore (s : State) (f : Core → Core) : (s.onCore f).msix = s.msix := (rfl)

@[simp] theorem State.portIrqs_onCore (s : State) (f : Core → Core) : (s.onCore f).portIrqs = s.portIrqs := (rfl)

@[simp] theorem State.lows_onCore (s : State) (f : Core → Core) : (s.onCore f).lows = s.lows := (rfl)

@[simp] theorem State.tmPulse_onSl (s : State) (f : Slot → Slot) : (s.onSl f).tmPulse = s.tmPulse := (rfl)

@[simp] theorem State.tmPulse_onCore (s : State) (f : Core → Core) : (s.onCore f).tmPulse = s.tmPulse := (rfl)

@[simp] theorem State.tmStart_onSl (s : State) (f : Slot → Slot) : (s.onSl f).tmStart = s.tmStart := (rfl)

@[simp] theorem State.tmStart_onCore (s : State) (f : Core → Core) : (s.onCore f).tmStart = s.tmStart := (rfl)

@[simp] theorem State.mail_onSl (s : State) (f : Slot → Slot) : (s.onSl f).mail = s.mail := (rfl)

@[simp] theorem State.mail_onCore (s : State) (f : Core → Core) : (s.onCore f).mail = s.mail := (rfl)

@[simp] theorem State.ddata_onSl (s : State) (f : Slot → Slot) : (s.onSl f).ddata = s.ddata := (rfl)

@[simp] theorem State.ddata_onCore (s : State) (f : Core → Core) : (s.onCore f).ddata = s.ddata := (rfl)

@[simp] theorem State.inbox_onSl (s : State) (f : Slot → Slot) : (s.onSl f).inbox = s.inbox := (rfl)

@[simp] theorem State.inbox_onCore (s : State) (f : Core → Core) : (s.onCore f).inbox = s.inbox := (rfl)

@[simp] theorem State.bus_onSl (s : State) (f : Slot → Slot) : (s.onSl f).bus = s.bus := (rfl)

@[simp] theorem State.bus_onCore (s : State) (f : Core → Core) : (s.onCore f).bus = s.bus := (rfl)

@[simp] theorem State.core_onCore (s : State) (f : Core → Core) : (s.onCore f).core = f s.core := (rfl)

/-! ## Fields of the core -/

@[simp] theorem State.core_cycle_onSl (s : State) (f : Slot → Slot) : (s.onSl f).core.cycle = s.core.cycle := (rfl)

@[simp] theorem State.core_vqw_onSl (s : State) (f : Slot → Slot) : (s.onSl f).core.vqw = s.core.vqw := (rfl)

@[simp] theorem State.core_mqw_onSl (s : State) (f : Slot → Slot) : (s.onSl f).core.mqw = s.core.mqw := (rfl)

@[simp] theorem State.core_coord_onSl (s : State) (f : Slot → Slot) : (s.onSl f).core.coord = s.core.coord := (rfl)

@[simp] theorem State.core_actq_onSl (s : State) (f : Slot → Slot) : (s.onSl f).core.actq = s.core.actq := (rfl)

@[simp] theorem State.core_helpers_onSl (s : State) (f : Slot → Slot) : (s.onSl f).core.helpers = s.core.helpers := (rfl)

@[simp] theorem State.core_vq_onSl (s : State) (f : Slot → Slot) : (s.onSl f).core.vq = s.core.vq := (rfl)

@[simp] theorem State.core_vcur_onSl (s : State) (f : Slot → Slot) : (s.onSl f).core.vcur = s.core.vcur := (rfl)

@[simp] theorem State.core_arb_onSl (s : State) (f : Slot → Slot) : (s.onSl f).core.arb = s.core.arb := (rfl)

@[simp] theorem State.core_chans_onSl (s : State) (f : Slot → Slot) : (s.onSl f).core.chans = s.core.chans := (rfl)

@[simp] theorem State.core_matchTab_onSl (s : State) (f : Slot → Slot) : (s.onSl f).core.matchTab = s.core.matchTab := (rfl)

@[simp] theorem State.core_notices_onSl (s : State) (f : Slot → Slot) : (s.onSl f).core.notices = s.core.notices := (rfl)

@[simp] theorem State.core_outside_onSl (s : State) (f : Slot → Slot) : (s.onSl f).core.outside = s.core.outside := (rfl)

@[simp] theorem State.core_berths_onSl (s : State) (f : Slot → Slot) : (s.onSl f).core.berths = s.core.berths := (rfl)

@[simp] theorem State.core_mem_onSl (s : State) (f : Slot → Slot) : (s.onSl f).core.mem = s.core.mem := (rfl)

@[simp] theorem State.core_tags_onSl (s : State) (f : Slot → Slot) : (s.onSl f).core.tags = s.core.tags := (rfl)

@[simp] theorem State.core_locks_onSl (s : State) (f : Slot → Slot) : (s.onSl f).core.locks = s.core.locks := (rfl)

@[simp] theorem State.core_lockq_onSl (s : State) (f : Slot → Slot) : (s.onSl f).core.lockq = s.core.lockq := (rfl)

@[simp] theorem State.core_ranges_onSl (s : State) (f : Slot → Slot) : (s.onSl f).core.ranges = s.core.ranges := (rfl)

@[simp] theorem State.core_icache_onSl (s : State) (f : Slot → Slot) : (s.onSl f).core.icache = s.core.icache := (rfl)

@[simp] theorem State.core_badLines_onSl (s : State) (f : Slot → Slot) : (s.onSl f).core.badLines = s.core.badLines := (rfl)

@[simp] theorem State.core_badAreas_onSl (s : State) (f : Slot → Slot) : (s.onSl f).core.badAreas = s.core.badAreas := (rfl)

@[simp] theorem State.core_perf_onSl (s : State) (f : Slot → Slot) : (s.onSl f).core.perf = s.core.perf := (rfl)

@[simp] theorem State.core_dreqs_onSl (s : State) (f : Slot → Slot) : (s.onSl f).core.dreqs = s.core.dreqs := (rfl)

@[simp] theorem State.core_ctx_onSl (s : State) (f : Slot → Slot) : (s.onSl f).core.ctx = s.core.ctx := (rfl)

@[simp] theorem State.core_mq_onSl (s : State) (f : Slot → Slot) : (s.onSl f).core.mq = s.core.mq := (rfl)

@[simp] theorem State.core_stream_onSl (s : State) (f : Slot → Slot) : (s.onSl f).core.stream = s.core.stream := (rfl)

@[simp] theorem State.core_tlb_onSl (s : State) (f : Slot → Slot) : (s.onSl f).core.tlb = s.core.tlb := (rfl)

@[simp] theorem State.core_dbg_onSl (s : State) (f : Slot → Slot) : (s.onSl f).core.dbg = s.core.dbg := (rfl)

@[simp] theorem State.core_stopped_onSl (s : State) (f : Slot → Slot) : (s.onSl f).core.stopped = s.core.stopped := (rfl)

@[simp] theorem State.core_swap_onSl (s : State) (f : Slot → Slot) : (s.onSl f).core.swap = s.core.swap := (rfl)

@[simp] theorem State.core_prq_onSl (s : State) (f : Slot → Slot) : (s.onSl f).core.prq = s.core.prq := (rfl)

@[simp] theorem Core.cur_onSlot (c : Core) (n : Nat) (f : Slot → Slot) : (c.onSlot n f).cur = c.cur := (rfl)

@[simp] theorem Core.cycle_onSlot (c : Core) (n : Nat) (f : Slot → Slot) : (c.onSlot n f).cycle = c.cycle := (rfl)

@[simp] theorem Core.vqw_onSlot (c : Core) (n : Nat) (f : Slot → Slot) : (c.onSlot n f).vqw = c.vqw := (rfl)

@[simp] theorem Core.mqw_onSlot (c : Core) (n : Nat) (f : Slot → Slot) : (c.onSlot n f).mqw = c.mqw := (rfl)

@[simp] theorem Core.coord_onSlot (c : Core) (n : Nat) (f : Slot → Slot) : (c.onSlot n f).coord = c.coord := (rfl)

@[simp] theorem Core.actq_onSlot (c : Core) (n : Nat) (f : Slot → Slot) : (c.onSlot n f).actq = c.actq := (rfl)

@[simp] theorem Core.helpers_onSlot (c : Core) (n : Nat) (f : Slot → Slot) : (c.onSlot n f).helpers = c.helpers := (rfl)

@[simp] theorem Core.vq_onSlot (c : Core) (n : Nat) (f : Slot → Slot) : (c.onSlot n f).vq = c.vq := (rfl)

@[simp] theorem Core.vcur_onSlot (c : Core) (n : Nat) (f : Slot → Slot) : (c.onSlot n f).vcur = c.vcur := (rfl)

@[simp] theorem Core.arb_onSlot (c : Core) (n : Nat) (f : Slot → Slot) : (c.onSlot n f).arb = c.arb := (rfl)

@[simp] theorem Core.chans_onSlot (c : Core) (n : Nat) (f : Slot → Slot) : (c.onSlot n f).chans = c.chans := (rfl)

@[simp] theorem Core.matchTab_onSlot (c : Core) (n : Nat) (f : Slot → Slot) : (c.onSlot n f).matchTab = c.matchTab := (rfl)

@[simp] theorem Core.notices_onSlot (c : Core) (n : Nat) (f : Slot → Slot) : (c.onSlot n f).notices = c.notices := (rfl)

@[simp] theorem Core.outside_onSlot (c : Core) (n : Nat) (f : Slot → Slot) : (c.onSlot n f).outside = c.outside := (rfl)

@[simp] theorem Core.berths_onSlot (c : Core) (n : Nat) (f : Slot → Slot) : (c.onSlot n f).berths = c.berths := (rfl)

@[simp] theorem Core.mem_onSlot (c : Core) (n : Nat) (f : Slot → Slot) : (c.onSlot n f).mem = c.mem := (rfl)

@[simp] theorem Core.tags_onSlot (c : Core) (n : Nat) (f : Slot → Slot) : (c.onSlot n f).tags = c.tags := (rfl)

@[simp] theorem Core.locks_onSlot (c : Core) (n : Nat) (f : Slot → Slot) : (c.onSlot n f).locks = c.locks := (rfl)

@[simp] theorem Core.lockq_onSlot (c : Core) (n : Nat) (f : Slot → Slot) : (c.onSlot n f).lockq = c.lockq := (rfl)

@[simp] theorem Core.ranges_onSlot (c : Core) (n : Nat) (f : Slot → Slot) : (c.onSlot n f).ranges = c.ranges := (rfl)

@[simp] theorem Core.icache_onSlot (c : Core) (n : Nat) (f : Slot → Slot) : (c.onSlot n f).icache = c.icache := (rfl)

@[simp] theorem Core.badLines_onSlot (c : Core) (n : Nat) (f : Slot → Slot) : (c.onSlot n f).badLines = c.badLines := (rfl)

@[simp] theorem Core.badAreas_onSlot (c : Core) (n : Nat) (f : Slot → Slot) : (c.onSlot n f).badAreas = c.badAreas := (rfl)

@[simp] theorem Core.perf_onSlot (c : Core) (n : Nat) (f : Slot → Slot) : (c.onSlot n f).perf = c.perf := (rfl)

@[simp] theorem Core.dreqs_onSlot (c : Core) (n : Nat) (f : Slot → Slot) : (c.onSlot n f).dreqs = c.dreqs := (rfl)

@[simp] theorem Core.ctx_onSlot (c : Core) (n : Nat) (f : Slot → Slot) : (c.onSlot n f).ctx = c.ctx := (rfl)

@[simp] theorem Core.mq_onSlot (c : Core) (n : Nat) (f : Slot → Slot) : (c.onSlot n f).mq = c.mq := (rfl)

@[simp] theorem Core.stream_onSlot (c : Core) (n : Nat) (f : Slot → Slot) : (c.onSlot n f).stream = c.stream := (rfl)

@[simp] theorem Core.tlb_onSlot (c : Core) (n : Nat) (f : Slot → Slot) : (c.onSlot n f).tlb = c.tlb := (rfl)

@[simp] theorem Core.dbg_onSlot (c : Core) (n : Nat) (f : Slot → Slot) : (c.onSlot n f).dbg = c.dbg := (rfl)

@[simp] theorem Core.stopped_onSlot (c : Core) (n : Nat) (f : Slot → Slot) : (c.onSlot n f).stopped = c.stopped := (rfl)

@[simp] theorem Core.swap_onSlot (c : Core) (n : Nat) (f : Slot → Slot) : (c.onSlot n f).swap = c.swap := (rfl)

@[simp] theorem Core.prq_onSlot (c : Core) (n : Nat) (f : Slot → Slot) : (c.onSlot n f).prq = c.prq := (rfl)

/-! ## Latches -/

@[simp] theorem Slot.lat_onLat (t : Slot) (u : FU) (f : Lat → Lat) : (t.onLat u f).lat u = f (t.lat u) := by
  simp [Slot.onLat, Slot.lat]

theorem Slot.lat_onLat_ne (t : Slot) (u w : FU) (f : Lat → Lat) (h : w ≠ u) : (t.onLat u f).lat w = t.lat w := by
  cases u <;> cases w <;> first | exact absurd rfl h | simp [Slot.onLat, Slot.lat, FU.number, Fin.ofNat]

@[simp] theorem Slot.onLat_onLat (t : Slot) (u : FU) (f g : Lat → Lat) : (t.onLat u f).onLat u g = t.onLat u fun l => g (f l) := by
  simp [Slot.onLat, Slot.lat]

@[simp] theorem Slot.x_onLat (t : Slot) (u : FU) (f : Lat → Lat) : (t.onLat u f).x = t.x := (rfl)

@[simp] theorem Slot.v_onLat (t : Slot) (u : FU) (f : Lat → Lat) : (t.onLat u f).v = t.v := (rfl)

@[simp] theorem Slot.o_onLat (t : Slot) (u : FU) (f : Lat → Lat) : (t.onLat u f).o = t.o := (rfl)

@[simp] theorem Slot.g_onLat (t : Slot) (u : FU) (f : Lat → Lat) : (t.onLat u f).g = t.g := (rfl)

@[simp] theorem Slot.va_onLat (t : Slot) (u : FU) (f : Lat → Lat) : (t.onLat u f).va = t.va := (rfl)

@[simp] theorem Slot.vb_onLat (t : Slot) (u : FU) (f : Lat → Lat) : (t.onLat u f).vb = t.vb := (rfl)

@[simp] theorem Slot.vc_onLat (t : Slot) (u : FU) (f : Lat → Lat) : (t.onLat u f).vc = t.vc := (rfl)

@[simp] theorem Slot.vq_onLat (t : Slot) (u : FU) (f : Lat → Lat) : (t.onLat u f).vq = t.vq := (rfl)

@[simp] theorem Slot.csr_onLat (t : Slot) (u : FU) (f : Lat → Lat) : (t.onLat u f).csr = t.csr := (rfl)

@[simp] theorem Slot.run_onLat (t : Slot) (u : FU) (f : Lat → Lat) : (t.onLat u f).run = t.run := (rfl)

@[simp] theorem Slot.pc_onLat (t : Slot) (u : FU) (f : Lat → Lat) : (t.onLat u f).pc = t.pc := (rfl)

@[simp] theorem Slot.npc_onLat (t : Slot) (u : FU) (f : Lat → Lat) : (t.onLat u f).npc = t.npc := (rfl)

@[simp] theorem Slot.next_onLat (t : Slot) (u : FU) (f : Lat → Lat) : (t.onLat u f).next = t.next := (rfl)

@[simp] theorem Slot.flow_onLat (t : Slot) (u : FU) (f : Lat → Lat) : (t.onLat u f).flow = t.flow := (rfl)

@[simp] theorem Slot.after_onLat (t : Slot) (u : FU) (f : Lat → Lat) : (t.onLat u f).after = t.after := (rfl)

@[simp] theorem Slot.csrw_onLat (t : Slot) (u : FU) (f : Lat → Lat) : (t.onLat u f).csrw = t.csrw := (rfl)

@[simp] theorem Slot.seedw_onLat (t : Slot) (u : FU) (f : Lat → Lat) : (t.onLat u f).seedw = t.seedw := (rfl)

@[simp] theorem Slot.reissue_onLat (t : Slot) (u : FU) (f : Lat → Lat) : (t.onLat u f).reissue = t.reissue := (rfl)

@[simp] theorem Slot.wait_onLat (t : Slot) (u : FU) (f : Lat → Lat) : (t.onLat u f).wait = t.wait := (rfl)

@[simp] theorem Slot.since_onLat (t : Slot) (u : FU) (f : Lat → Lat) : (t.onLat u f).since = t.since := (rfl)

@[simp] theorem Slot.link_onLat (t : Slot) (u : FU) (f : Lat → Lat) : (t.onLat u f).link = t.link := (rfl)

@[simp] theorem Slot.sb_onLat (t : Slot) (u : FU) (f : Lat → Lat) : (t.onLat u f).sb = t.sb := (rfl)

@[simp] theorem Slot.rep_onLat (t : Slot) (u : FU) (f : Lat → Lat) : (t.onLat u f).rep = t.rep := (rfl)

@[simp] theorem Slot.stall_onLat (t : Slot) (u : FU) (f : Lat → Lat) : (t.onLat u f).stall = t.stall := (rfl)

@[simp] theorem Slot.issued_onLat (t : Slot) (u : FU) (f : Lat → Lat) : (t.onLat u f).issued = t.issued := (rfl)

@[simp] theorem Slot.bubble_onLat (t : Slot) (u : FU) (f : Lat → Lat) : (t.onLat u f).bubble = t.bubble := (rfl)

@[simp] theorem Slot.yielded_onLat (t : Slot) (u : FU) (f : Lat → Lat) : (t.onLat u f).yielded = t.yielded := (rfl)

@[simp] theorem Slot.pend_onLat (t : Slot) (u : FU) (f : Lat → Lat) : (t.onLat u f).pend = t.pend := (rfl)

@[simp] theorem Slot.key_onLat (t : Slot) (u : FU) (f : Lat → Lat) : (t.onLat u f).key = t.key := (rfl)

@[simp] theorem Slot.helper_onLat (t : Slot) (u : FU) (f : Lat → Lat) : (t.onLat u f).helper = t.helper := (rfl)

@[simp] theorem Slot.parked_onLat (t : Slot) (u : FU) (f : Lat → Lat) : (t.onLat u f).parked = t.parked := (rfl)

@[simp] theorem Slot.badImage_onLat (t : Slot) (u : FU) (f : Lat → Lat) : (t.onLat u f).badImage = t.badImage := (rfl)

/-! ## CSRs -/

@[simp] theorem Slot.x_onCsr (t : Slot) (f : Csrs → Csrs) : (t.onCsr f).x = t.x := (rfl)

@[simp] theorem Slot.v_onCsr (t : Slot) (f : Csrs → Csrs) : (t.onCsr f).v = t.v := (rfl)

@[simp] theorem Slot.o_onCsr (t : Slot) (f : Csrs → Csrs) : (t.onCsr f).o = t.o := (rfl)

@[simp] theorem Slot.g_onCsr (t : Slot) (f : Csrs → Csrs) : (t.onCsr f).g = t.g := (rfl)

@[simp] theorem Slot.lats_onCsr (t : Slot) (f : Csrs → Csrs) : (t.onCsr f).lats = t.lats := (rfl)

@[simp] theorem Slot.va_onCsr (t : Slot) (f : Csrs → Csrs) : (t.onCsr f).va = t.va := (rfl)

@[simp] theorem Slot.vb_onCsr (t : Slot) (f : Csrs → Csrs) : (t.onCsr f).vb = t.vb := (rfl)

@[simp] theorem Slot.vc_onCsr (t : Slot) (f : Csrs → Csrs) : (t.onCsr f).vc = t.vc := (rfl)

@[simp] theorem Slot.vq_onCsr (t : Slot) (f : Csrs → Csrs) : (t.onCsr f).vq = t.vq := (rfl)

@[simp] theorem Slot.run_onCsr (t : Slot) (f : Csrs → Csrs) : (t.onCsr f).run = t.run := (rfl)

@[simp] theorem Slot.pc_onCsr (t : Slot) (f : Csrs → Csrs) : (t.onCsr f).pc = t.pc := (rfl)

@[simp] theorem Slot.npc_onCsr (t : Slot) (f : Csrs → Csrs) : (t.onCsr f).npc = t.npc := (rfl)

@[simp] theorem Slot.next_onCsr (t : Slot) (f : Csrs → Csrs) : (t.onCsr f).next = t.next := (rfl)

@[simp] theorem Slot.flow_onCsr (t : Slot) (f : Csrs → Csrs) : (t.onCsr f).flow = t.flow := (rfl)

@[simp] theorem Slot.after_onCsr (t : Slot) (f : Csrs → Csrs) : (t.onCsr f).after = t.after := (rfl)

@[simp] theorem Slot.csrw_onCsr (t : Slot) (f : Csrs → Csrs) : (t.onCsr f).csrw = t.csrw := (rfl)

@[simp] theorem Slot.seedw_onCsr (t : Slot) (f : Csrs → Csrs) : (t.onCsr f).seedw = t.seedw := (rfl)

@[simp] theorem Slot.reissue_onCsr (t : Slot) (f : Csrs → Csrs) : (t.onCsr f).reissue = t.reissue := (rfl)

@[simp] theorem Slot.wait_onCsr (t : Slot) (f : Csrs → Csrs) : (t.onCsr f).wait = t.wait := (rfl)

@[simp] theorem Slot.since_onCsr (t : Slot) (f : Csrs → Csrs) : (t.onCsr f).since = t.since := (rfl)

@[simp] theorem Slot.link_onCsr (t : Slot) (f : Csrs → Csrs) : (t.onCsr f).link = t.link := (rfl)

@[simp] theorem Slot.sb_onCsr (t : Slot) (f : Csrs → Csrs) : (t.onCsr f).sb = t.sb := (rfl)

@[simp] theorem Slot.rep_onCsr (t : Slot) (f : Csrs → Csrs) : (t.onCsr f).rep = t.rep := (rfl)

@[simp] theorem Slot.stall_onCsr (t : Slot) (f : Csrs → Csrs) : (t.onCsr f).stall = t.stall := (rfl)

@[simp] theorem Slot.issued_onCsr (t : Slot) (f : Csrs → Csrs) : (t.onCsr f).issued = t.issued := (rfl)

@[simp] theorem Slot.bubble_onCsr (t : Slot) (f : Csrs → Csrs) : (t.onCsr f).bubble = t.bubble := (rfl)

@[simp] theorem Slot.yielded_onCsr (t : Slot) (f : Csrs → Csrs) : (t.onCsr f).yielded = t.yielded := (rfl)

@[simp] theorem Slot.pend_onCsr (t : Slot) (f : Csrs → Csrs) : (t.onCsr f).pend = t.pend := (rfl)

@[simp] theorem Slot.key_onCsr (t : Slot) (f : Csrs → Csrs) : (t.onCsr f).key = t.key := (rfl)

@[simp] theorem Slot.helper_onCsr (t : Slot) (f : Csrs → Csrs) : (t.onCsr f).helper = t.helper := (rfl)

@[simp] theorem Slot.parked_onCsr (t : Slot) (f : Csrs → Csrs) : (t.onCsr f).parked = t.parked := (rfl)

@[simp] theorem Slot.badImage_onCsr (t : Slot) (f : Csrs → Csrs) : (t.onCsr f).badImage = t.badImage := (rfl)

@[simp] theorem Slot.csr_onCsr (t : Slot) (f : Csrs → Csrs) : (t.onCsr f).csr = f t.csr := (rfl)

@[simp] theorem Slot.x_setLA (t : Slot) (b c : Bool) : (t.setLA b c).x = t.x := Slot.x_onCsr t _

@[simp] theorem Slot.x_setAct (t : Slot) (b : Bool) : (t.setAct b).x = t.x := Slot.x_onCsr t _

@[simp] theorem Slot.v_setLA (t : Slot) (b c : Bool) : (t.setLA b c).v = t.v := Slot.v_onCsr t _

@[simp] theorem Slot.v_setAct (t : Slot) (b : Bool) : (t.setAct b).v = t.v := Slot.v_onCsr t _

@[simp] theorem Slot.o_setLA (t : Slot) (b c : Bool) : (t.setLA b c).o = t.o := Slot.o_onCsr t _

@[simp] theorem Slot.o_setAct (t : Slot) (b : Bool) : (t.setAct b).o = t.o := Slot.o_onCsr t _

@[simp] theorem Slot.g_setLA (t : Slot) (b c : Bool) : (t.setLA b c).g = t.g := Slot.g_onCsr t _

@[simp] theorem Slot.g_setAct (t : Slot) (b : Bool) : (t.setAct b).g = t.g := Slot.g_onCsr t _

@[simp] theorem Slot.lats_setLA (t : Slot) (b c : Bool) : (t.setLA b c).lats = t.lats := Slot.lats_onCsr t _

@[simp] theorem Slot.lats_setAct (t : Slot) (b : Bool) : (t.setAct b).lats = t.lats := Slot.lats_onCsr t _

@[simp] theorem Slot.va_setLA (t : Slot) (b c : Bool) : (t.setLA b c).va = t.va := Slot.va_onCsr t _

@[simp] theorem Slot.va_setAct (t : Slot) (b : Bool) : (t.setAct b).va = t.va := Slot.va_onCsr t _

@[simp] theorem Slot.vb_setLA (t : Slot) (b c : Bool) : (t.setLA b c).vb = t.vb := Slot.vb_onCsr t _

@[simp] theorem Slot.vb_setAct (t : Slot) (b : Bool) : (t.setAct b).vb = t.vb := Slot.vb_onCsr t _

@[simp] theorem Slot.vc_setLA (t : Slot) (b c : Bool) : (t.setLA b c).vc = t.vc := Slot.vc_onCsr t _

@[simp] theorem Slot.vc_setAct (t : Slot) (b : Bool) : (t.setAct b).vc = t.vc := Slot.vc_onCsr t _

@[simp] theorem Slot.vq_setLA (t : Slot) (b c : Bool) : (t.setLA b c).vq = t.vq := Slot.vq_onCsr t _

@[simp] theorem Slot.vq_setAct (t : Slot) (b : Bool) : (t.setAct b).vq = t.vq := Slot.vq_onCsr t _

@[simp] theorem Slot.run_setLA (t : Slot) (b c : Bool) : (t.setLA b c).run = t.run := Slot.run_onCsr t _

@[simp] theorem Slot.run_setAct (t : Slot) (b : Bool) : (t.setAct b).run = t.run := Slot.run_onCsr t _

@[simp] theorem Slot.pc_setLA (t : Slot) (b c : Bool) : (t.setLA b c).pc = t.pc := Slot.pc_onCsr t _

@[simp] theorem Slot.pc_setAct (t : Slot) (b : Bool) : (t.setAct b).pc = t.pc := Slot.pc_onCsr t _

@[simp] theorem Slot.npc_setLA (t : Slot) (b c : Bool) : (t.setLA b c).npc = t.npc := Slot.npc_onCsr t _

@[simp] theorem Slot.npc_setAct (t : Slot) (b : Bool) : (t.setAct b).npc = t.npc := Slot.npc_onCsr t _

@[simp] theorem Slot.next_setLA (t : Slot) (b c : Bool) : (t.setLA b c).next = t.next := Slot.next_onCsr t _

@[simp] theorem Slot.next_setAct (t : Slot) (b : Bool) : (t.setAct b).next = t.next := Slot.next_onCsr t _

@[simp] theorem Slot.flow_setLA (t : Slot) (b c : Bool) : (t.setLA b c).flow = t.flow := Slot.flow_onCsr t _

@[simp] theorem Slot.flow_setAct (t : Slot) (b : Bool) : (t.setAct b).flow = t.flow := Slot.flow_onCsr t _

@[simp] theorem Slot.after_setLA (t : Slot) (b c : Bool) : (t.setLA b c).after = t.after := Slot.after_onCsr t _

@[simp] theorem Slot.after_setAct (t : Slot) (b : Bool) : (t.setAct b).after = t.after := Slot.after_onCsr t _

@[simp] theorem Slot.csrw_setLA (t : Slot) (b c : Bool) : (t.setLA b c).csrw = t.csrw := Slot.csrw_onCsr t _

@[simp] theorem Slot.seedw_setLA (t : Slot) (b c : Bool) : (t.setLA b c).seedw = t.seedw := Slot.seedw_onCsr t _

@[simp] theorem Slot.csrw_setAct (t : Slot) (b : Bool) : (t.setAct b).csrw = t.csrw := Slot.csrw_onCsr t _

@[simp] theorem Slot.seedw_setAct (t : Slot) (b : Bool) : (t.setAct b).seedw = t.seedw := Slot.seedw_onCsr t _

@[simp] theorem Slot.reissue_setLA (t : Slot) (b c : Bool) : (t.setLA b c).reissue = t.reissue := Slot.reissue_onCsr t _

@[simp] theorem Slot.reissue_setAct (t : Slot) (b : Bool) : (t.setAct b).reissue = t.reissue := Slot.reissue_onCsr t _

@[simp] theorem Slot.wait_setLA (t : Slot) (b c : Bool) : (t.setLA b c).wait = t.wait := Slot.wait_onCsr t _

@[simp] theorem Slot.wait_setAct (t : Slot) (b : Bool) : (t.setAct b).wait = t.wait := Slot.wait_onCsr t _

@[simp] theorem Slot.since_setLA (t : Slot) (b c : Bool) : (t.setLA b c).since = t.since := Slot.since_onCsr t _

@[simp] theorem Slot.since_setAct (t : Slot) (b : Bool) : (t.setAct b).since = t.since := Slot.since_onCsr t _

@[simp] theorem Slot.link_setLA (t : Slot) (b c : Bool) : (t.setLA b c).link = t.link := Slot.link_onCsr t _

@[simp] theorem Slot.link_setAct (t : Slot) (b : Bool) : (t.setAct b).link = t.link := Slot.link_onCsr t _

@[simp] theorem Slot.sb_setLA (t : Slot) (b c : Bool) : (t.setLA b c).sb = t.sb := Slot.sb_onCsr t _

@[simp] theorem Slot.sb_setAct (t : Slot) (b : Bool) : (t.setAct b).sb = t.sb := Slot.sb_onCsr t _

@[simp] theorem Slot.rep_setLA (t : Slot) (b c : Bool) : (t.setLA b c).rep = t.rep := Slot.rep_onCsr t _

@[simp] theorem Slot.rep_setAct (t : Slot) (b : Bool) : (t.setAct b).rep = t.rep := Slot.rep_onCsr t _

@[simp] theorem Slot.stall_setLA (t : Slot) (b c : Bool) : (t.setLA b c).stall = t.stall := Slot.stall_onCsr t _

@[simp] theorem Slot.stall_setAct (t : Slot) (b : Bool) : (t.setAct b).stall = t.stall := Slot.stall_onCsr t _

@[simp] theorem Slot.issued_setLA (t : Slot) (b c : Bool) : (t.setLA b c).issued = t.issued := Slot.issued_onCsr t _

@[simp] theorem Slot.issued_setAct (t : Slot) (b : Bool) : (t.setAct b).issued = t.issued := Slot.issued_onCsr t _

@[simp] theorem Slot.bubble_setLA (t : Slot) (b c : Bool) : (t.setLA b c).bubble = t.bubble := Slot.bubble_onCsr t _

@[simp] theorem Slot.bubble_setAct (t : Slot) (b : Bool) : (t.setAct b).bubble = t.bubble := Slot.bubble_onCsr t _

@[simp] theorem Slot.yielded_setLA (t : Slot) (b c : Bool) : (t.setLA b c).yielded = t.yielded := Slot.yielded_onCsr t _

@[simp] theorem Slot.yielded_setAct (t : Slot) (b : Bool) : (t.setAct b).yielded = t.yielded := Slot.yielded_onCsr t _

@[simp] theorem Slot.pend_setLA (t : Slot) (b c : Bool) : (t.setLA b c).pend = t.pend := Slot.pend_onCsr t _

@[simp] theorem Slot.pend_setAct (t : Slot) (b : Bool) : (t.setAct b).pend = t.pend := Slot.pend_onCsr t _

@[simp] theorem Slot.key_setLA (t : Slot) (b c : Bool) : (t.setLA b c).key = t.key := Slot.key_onCsr t _

@[simp] theorem Slot.key_setAct (t : Slot) (b : Bool) : (t.setAct b).key = t.key := Slot.key_onCsr t _

@[simp] theorem Slot.helper_setLA (t : Slot) (b c : Bool) : (t.setLA b c).helper = t.helper := Slot.helper_onCsr t _

@[simp] theorem Slot.helper_setAct (t : Slot) (b : Bool) : (t.setAct b).helper = t.helper := Slot.helper_onCsr t _

@[simp] theorem Slot.parked_setLA (t : Slot) (b c : Bool) : (t.setLA b c).parked = t.parked := Slot.parked_onCsr t _

@[simp] theorem Slot.parked_setAct (t : Slot) (b : Bool) : (t.setAct b).parked = t.parked := Slot.parked_onCsr t _

@[simp] theorem Slot.badImage_setLA (t : Slot) (b c : Bool) : (t.setLA b c).badImage = t.badImage := Slot.badImage_onCsr t _

@[simp] theorem Slot.badImage_setAct (t : Slot) (b : Bool) : (t.setAct b).badImage = t.badImage := Slot.badImage_onCsr t _

@[simp] theorem Slot.csr_xstat_setAct (t : Slot) (b : Bool) : (t.setAct b).csr.xstat = t.csr.xstat := by rw [Slot.setAct, Slot.csr_onCsr]

@[simp] theorem Slot.csr_fflags_setLA (t : Slot) (b c : Bool) : (t.setLA b c).csr.fflags = t.csr.fflags := by rw [Slot.setLA, Slot.csr_onCsr]

@[simp] theorem Slot.csr_fflags_setAct (t : Slot) (b : Bool) : (t.setAct b).csr.fflags = t.csr.fflags := by rw [Slot.setAct, Slot.csr_onCsr]

@[simp] theorem Slot.csr_frm_setLA (t : Slot) (b c : Bool) : (t.setLA b c).csr.frm = t.csr.frm := by rw [Slot.setLA, Slot.csr_onCsr]

@[simp] theorem Slot.csr_frm_setAct (t : Slot) (b : Bool) : (t.setAct b).csr.frm = t.csr.frm := by rw [Slot.setAct, Slot.csr_onCsr]

@[simp] theorem Slot.csr_srseed_setLA (t : Slot) (b c : Bool) : (t.setLA b c).csr.srseed = t.csr.srseed := by rw [Slot.setLA, Slot.csr_onCsr]

@[simp] theorem Slot.csr_srseed_setAct (t : Slot) (b : Bool) : (t.setAct b).csr.srseed = t.csr.srseed := by rw [Slot.setAct, Slot.csr_onCsr]

@[simp] theorem Slot.csr_wrr_setLA (t : Slot) (b c : Bool) : (t.setLA b c).csr.wrr = t.csr.wrr := by rw [Slot.setLA, Slot.csr_onCsr]

@[simp] theorem Slot.csr_wrr_setAct (t : Slot) (b : Bool) : (t.setAct b).csr.wrr = t.csr.wrr := by rw [Slot.setAct, Slot.csr_onCsr]

@[simp] theorem Slot.csr_iret_setLA (t : Slot) (b c : Bool) : (t.setLA b c).csr.iret = t.csr.iret := by rw [Slot.setLA, Slot.csr_onCsr]

@[simp] theorem Slot.csr_iret_setAct (t : Slot) (b : Bool) : (t.setAct b).csr.iret = t.csr.iret := by rw [Slot.setAct, Slot.csr_onCsr]

@[simp] theorem Slot.csr_codelim_setLA (t : Slot) (b c : Bool) : (t.setLA b c).csr.codelim = t.csr.codelim := by rw [Slot.setLA, Slot.csr_onCsr]

@[simp] theorem Slot.csr_codelim_setAct (t : Slot) (b : Bool) : (t.setAct b).csr.codelim = t.csr.codelim := by rw [Slot.setAct, Slot.csr_onCsr]

@[simp] theorem Slot.csr_lc0_setLA (t : Slot) (b c : Bool) : (t.setLA b c).csr.lc0 = t.csr.lc0 := by rw [Slot.setLA, Slot.csr_onCsr]

@[simp] theorem Slot.csr_lc0_setAct (t : Slot) (b : Bool) : (t.setAct b).csr.lc0 = t.csr.lc0 := by rw [Slot.setAct, Slot.csr_onCsr]

@[simp] theorem Slot.csr_lb0_setLA (t : Slot) (b c : Bool) : (t.setLA b c).csr.lb0 = t.csr.lb0 := by rw [Slot.setLA, Slot.csr_onCsr]

@[simp] theorem Slot.csr_lb0_setAct (t : Slot) (b : Bool) : (t.setAct b).csr.lb0 = t.csr.lb0 := by rw [Slot.setAct, Slot.csr_onCsr]

@[simp] theorem Slot.csr_le0_setLA (t : Slot) (b c : Bool) : (t.setLA b c).csr.le0 = t.csr.le0 := by rw [Slot.setLA, Slot.csr_onCsr]

@[simp] theorem Slot.csr_le0_setAct (t : Slot) (b : Bool) : (t.setAct b).csr.le0 = t.csr.le0 := by rw [Slot.setAct, Slot.csr_onCsr]

@[simp] theorem Slot.csr_lc1_setLA (t : Slot) (b c : Bool) : (t.setLA b c).csr.lc1 = t.csr.lc1 := by rw [Slot.setLA, Slot.csr_onCsr]

@[simp] theorem Slot.csr_lc1_setAct (t : Slot) (b : Bool) : (t.setAct b).csr.lc1 = t.csr.lc1 := by rw [Slot.setAct, Slot.csr_onCsr]

@[simp] theorem Slot.csr_lb1_setLA (t : Slot) (b c : Bool) : (t.setLA b c).csr.lb1 = t.csr.lb1 := by rw [Slot.setLA, Slot.csr_onCsr]

@[simp] theorem Slot.csr_lb1_setAct (t : Slot) (b : Bool) : (t.setAct b).csr.lb1 = t.csr.lb1 := by rw [Slot.setAct, Slot.csr_onCsr]

@[simp] theorem Slot.csr_le1_setLA (t : Slot) (b c : Bool) : (t.setLA b c).csr.le1 = t.csr.le1 := by rw [Slot.setLA, Slot.csr_onCsr]

@[simp] theorem Slot.csr_le1_setAct (t : Slot) (b : Bool) : (t.setAct b).csr.le1 = t.csr.le1 := by rw [Slot.setAct, Slot.csr_onCsr]

@[simp] theorem Slot.csr_rpc_setLA (t : Slot) (b c : Bool) : (t.setLA b c).csr.rpc = t.csr.rpc := by rw [Slot.setLA, Slot.csr_onCsr]

@[simp] theorem Slot.csr_rpb_setLA (t : Slot) (b c : Bool) : (t.setLA b c).csr.rpb = t.csr.rpb := by rw [Slot.setLA, Slot.csr_onCsr]

@[simp] theorem Slot.csr_rpb_setAct (t : Slot) (b : Bool) : (t.setAct b).csr.rpb = t.csr.rpb := by rw [Slot.setAct, Slot.csr_onCsr]

@[simp] theorem Slot.csr_estat_setLA (t : Slot) (b c : Bool) : (t.setLA b c).csr.estat = t.csr.estat := by rw [Slot.setLA, Slot.csr_onCsr]

@[simp] theorem Slot.csr_estat_setAct (t : Slot) (b : Bool) : (t.setAct b).csr.estat = t.csr.estat := by rw [Slot.setAct, Slot.csr_onCsr]

@[simp] theorem Slot.csr_epc_setLA (t : Slot) (b c : Bool) : (t.setLA b c).csr.epc = t.csr.epc := by rw [Slot.setLA, Slot.csr_onCsr]

@[simp] theorem Slot.csr_epc_setAct (t : Slot) (b : Bool) : (t.setAct b).csr.epc = t.csr.epc := by rw [Slot.setAct, Slot.csr_onCsr]

@[simp] theorem Slot.csr_cause_setLA (t : Slot) (b c : Bool) : (t.setLA b c).csr.cause = t.csr.cause := by rw [Slot.setLA, Slot.csr_onCsr]

@[simp] theorem Slot.csr_cause_setAct (t : Slot) (b : Bool) : (t.setAct b).csr.cause = t.csr.cause := by rw [Slot.setAct, Slot.csr_onCsr]

@[simp] theorem Slot.csr_tval_setLA (t : Slot) (b c : Bool) : (t.setLA b c).csr.tval = t.csr.tval := by rw [Slot.setLA, Slot.csr_onCsr]

@[simp] theorem Slot.csr_tval_setAct (t : Slot) (b : Bool) : (t.setAct b).csr.tval = t.csr.tval := by rw [Slot.setAct, Slot.csr_onCsr]

@[simp] theorem Slot.csr_uvec_setLA (t : Slot) (b c : Bool) : (t.setLA b c).csr.uvec = t.csr.uvec := by rw [Slot.setLA, Slot.csr_onCsr]

@[simp] theorem Slot.csr_uvec_setAct (t : Slot) (b : Bool) : (t.setAct b).csr.uvec = t.csr.uvec := by rw [Slot.setAct, Slot.csr_onCsr]

@[simp] theorem Slot.csr_svec_setLA (t : Slot) (b c : Bool) : (t.setLA b c).csr.svec = t.csr.svec := by rw [Slot.setLA, Slot.csr_onCsr]

@[simp] theorem Slot.csr_svec_setAct (t : Slot) (b : Bool) : (t.setAct b).csr.svec = t.csr.svec := by rw [Slot.setAct, Slot.csr_onCsr]

/-! ## Device registers -/

@[simp] theorem State.core_setReg (s : State) (r : Reg) (w : Word) : (s.setReg r w).core = s.core := (rfl)

@[simp] theorem State.coreId_setReg (s : State) (r : Reg) (w : Word) : (s.setReg r w).coreId = s.coreId := (rfl)

@[simp] theorem State.others_setReg (s : State) (r : Reg) (w : Word) : (s.setReg r w).others = s.others := (rfl)

@[simp] theorem State.time_setReg (s : State) (r : Reg) (w : Word) : (s.setReg r w).time = s.time := (rfl)

@[simp] theorem State.subtick_setReg (s : State) (r : Reg) (w : Word) : (s.setReg r w).subtick = s.subtick := (rfl)

@[simp] theorem State.subden_setReg (s : State) (r : Reg) (w : Word) : (s.setReg r w).subden = s.subden := (rfl)

@[simp] theorem State.dm_setReg (s : State) (r : Reg) (w : Word) : (s.setReg r w).dm = s.dm := (rfl)

@[simp] theorem State.hm_setReg (s : State) (r : Reg) (w : Word) : (s.setReg r w).hm = s.hm := (rfl)

@[simp] theorem State.ctrs_setReg (s : State) (r : Reg) (w : Word) : (s.setReg r w).ctrs = s.ctrs := (rfl)

@[simp] theorem State.octets_setReg (s : State) (r : Reg) (w : Word) : (s.setReg r w).octets = s.octets := (rfl)

@[simp] theorem State.hampers_setReg (s : State) (r : Reg) (w : Word) : (s.setReg r w).hampers = s.hampers := (rfl)

@[simp] theorem State.ccache_setReg (s : State) (r : Reg) (w : Word) : (s.setReg r w).ccache = s.ccache := (rfl)

@[simp] theorem State.jobs_setReg (s : State) (r : Reg) (w : Word) : (s.setReg r w).jobs = s.jobs := (rfl)

@[simp] theorem State.armed_setReg (s : State) (r : Reg) (w : Word) : (s.setReg r w).armed = s.armed := (rfl)

@[simp] theorem State.epochs_setReg (s : State) (r : Reg) (w : Word) : (s.setReg r w).epochs = s.epochs := (rfl)

@[simp] theorem State.msgs_setReg (s : State) (r : Reg) (w : Word) : (s.setReg r w).msgs = s.msgs := (rfl)

@[simp] theorem State.emits_setReg (s : State) (r : Reg) (w : Word) : (s.setReg r w).emits = s.emits := (rfl)

@[simp] theorem State.pushes_setReg (s : State) (r : Reg) (w : Word) : (s.setReg r w).pushes = s.pushes := (rfl)

@[simp] theorem State.pulls_setReg (s : State) (r : Reg) (w : Word) : (s.setReg r w).pulls = s.pulls := (rfl)

@[simp] theorem State.unseen_setReg (s : State) (r : Reg) (w : Word) : (s.setReg r w).unseen = s.unseen := (rfl)

@[simp] theorem State.undertows_setReg (s : State) (r : Reg) (w : Word) : (s.setReg r w).undertows = s.undertows := (rfl)

@[simp] theorem State.lights_setReg (s : State) (r : Reg) (w : Word) : (s.setReg r w).lights = s.lights := (rfl)

@[simp] theorem State.leader_setReg (s : State) (r : Reg) (w : Word) : (s.setReg r w).leader = s.leader := (rfl)

@[simp] theorem State.split_setReg (s : State) (r : Reg) (w : Word) : (s.setReg r w).split = s.split := (rfl)

@[simp] theorem State.ports_setReg (s : State) (r : Reg) (w : Word) : (s.setReg r w).ports = s.ports := (rfl)

@[simp] theorem State.queues_setReg (s : State) (r : Reg) (w : Word) : (s.setReg r w).queues = s.queues := (rfl)

@[simp] theorem State.legs_setReg (s : State) (r : Reg) (w : Word) : (s.setReg r w).legs = s.legs := (rfl)

@[simp] theorem State.dma_setReg (s : State) (r : Reg) (w : Word) : (s.setReg r w).dma = s.dma := (rfl)

@[simp] theorem State.coll_setReg (s : State) (r : Reg) (w : Word) : (s.setReg r w).coll = s.coll := (rfl)

@[simp] theorem State.tlbs_setReg (s : State) (r : Reg) (w : Word) : (s.setReg r w).tlbs = s.tlbs := (rfl)

@[simp] theorem State.inval_setReg (s : State) (r : Reg) (w : Word) : (s.setReg r w).inval = s.inval := (rfl)

@[simp] theorem State.prqs_setReg (s : State) (r : Reg) (w : Word) : (s.setReg r w).prqs = s.prqs := (rfl)

@[simp] theorem State.prqNext_setReg (s : State) (r : Reg) (w : Word) : (s.setReg r w).prqNext = s.prqNext := (rfl)

@[simp] theorem State.regions_setReg (s : State) (r : Reg) (w : Word) : (s.setReg r w).regions = s.regions := (rfl)

@[simp] theorem State.clearing_setReg (s : State) (r : Reg) (w : Word) : (s.setReg r w).clearing = s.clearing := (rfl)

@[simp] theorem State.deadIds_setReg (s : State) (r : Reg) (w : Word) : (s.setReg r w).deadIds = s.deadIds := (rfl)

@[simp] theorem State.cidNext_setReg (s : State) (r : Reg) (w : Word) : (s.setReg r w).cidNext = s.cidNext := (rfl)

@[simp] theorem State.shum_setReg (s : State) (r : Reg) (w : Word) : (s.setReg r w).shum = s.shum := (rfl)

@[simp] theorem State.keySlots_setReg (s : State) (r : Reg) (w : Word) : (s.setReg r w).keySlots = s.keySlots := (rfl)

@[simp] theorem State.keyWaits_setReg (s : State) (r : Reg) (w : Word) : (s.setReg r w).keyWaits = s.keyWaits := (rfl)

@[simp] theorem State.flash_setReg (s : State) (r : Reg) (w : Word) : (s.setReg r w).flash = s.flash := (rfl)

@[simp] theorem State.strap_setReg (s : State) (r : Reg) (w : Word) : (s.setReg r w).strap = s.strap := (rfl)

@[simp] theorem State.unfit_setReg (s : State) (r : Reg) (w : Word) : (s.setReg r w).unfit = s.unfit := (rfl)

@[simp] theorem State.image_setReg (s : State) (r : Reg) (w : Word) : (s.setReg r w).image = s.image := (rfl)

@[simp] theorem State.bist_setReg (s : State) (r : Reg) (w : Word) : (s.setReg r w).bist = s.bist := (rfl)

@[simp] theorem State.corrected_setReg (s : State) (r : Reg) (w : Word) : (s.setReg r w).corrected = s.corrected := (rfl)

@[simp] theorem State.capped_setReg (s : State) (r : Reg) (w : Word) : (s.setReg r w).capped = s.capped := (rfl)

@[simp] theorem State.errs_setReg (s : State) (r : Reg) (w : Word) : (s.setReg r w).errs = s.errs := (rfl)

@[simp] theorem State.oos_setReg (s : State) (r : Reg) (w : Word) : (s.setReg r w).oos = s.oos := (rfl)

@[simp] theorem State.faults_setReg (s : State) (r : Reg) (w : Word) : (s.setReg r w).faults = s.faults := (rfl)

@[simp] theorem State.msix_setReg (s : State) (r : Reg) (w : Word) : (s.setReg r w).msix = s.msix := (rfl)

@[simp] theorem State.portIrqs_setReg (s : State) (r : Reg) (w : Word) : (s.setReg r w).portIrqs = s.portIrqs := (rfl)

@[simp] theorem State.lows_setReg (s : State) (r : Reg) (w : Word) : (s.setReg r w).lows = s.lows := (rfl)

@[simp] theorem State.tmPulse_setReg (s : State) (r : Reg) (w : Word) : (s.setReg r w).tmPulse = s.tmPulse := (rfl)

@[simp] theorem State.tmStart_setReg (s : State) (r : Reg) (w : Word) : (s.setReg r w).tmStart = s.tmStart := (rfl)

@[simp] theorem State.mail_setReg (s : State) (r : Reg) (w : Word) : (s.setReg r w).mail = s.mail := (rfl)

@[simp] theorem State.ddata_setReg (s : State) (r : Reg) (w : Word) : (s.setReg r w).ddata = s.ddata := (rfl)

@[simp] theorem State.inbox_setReg (s : State) (r : Reg) (w : Word) : (s.setReg r w).inbox = s.inbox := (rfl)

@[simp] theorem State.bus_setReg (s : State) (r : Reg) (w : Word) : (s.setReg r w).bus = s.bus := (rfl)

theorem lookReg_putReg (l : List (Reg × Word)) (r : Reg) (w : Word) : lookReg (putReg l r w) r = w := by
  induction l with
  | nil => simp [putReg, lookReg]
  | cons p l ih =>
    obtain ⟨k, v⟩ := p
    by_cases h : k = r <;> simp [putReg, lookReg, h, ih]

theorem lookReg_putReg_ne (l : List (Reg × Word)) (r k : Reg) (w : Word) (h : k ≠ r) :
    lookReg (putReg l r w) k = lookReg l k := by
  induction l with
  | nil => simp [putReg, lookReg, Ne.symm h]
  | cons p l ih =>
    obtain ⟨a, v⟩ := p
    by_cases ha : a = r
    · subst ha; simp [putReg, lookReg, Ne.symm h]
    · simp only [putReg, if_neg ha, lookReg, ih]

@[simp] theorem State.reg_setReg (s : State) (r : Reg) (w : Word) : (s.setReg r w).reg r = w := lookReg_putReg _ _ _

theorem State.reg_setReg_ne (s : State) (r k : Reg) (w : Word) (h : k ≠ r) : (s.setReg r w).reg k = s.reg k :=
  lookReg_putReg_ne _ _ _ _ h

/-! ## The other cores -/

theorem lookCore_putCore (l : List (CoreId × Core)) (id : CoreId) (c : Core) : lookCore (putCore l id c) id = c := by
  induction l with
  | nil => simp [putCore, lookCore]
  | cons p l ih =>
    obtain ⟨k, v⟩ := p
    by_cases h : k = id <;> simp [putCore, lookCore, h, ih]

theorem lookCore_putCore_ne (l : List (CoreId × Core)) (id k : CoreId) (c : Core) (h : k ≠ id) :
    lookCore (putCore l id c) k = lookCore l k := by
  induction l with
  | nil => simp [putCore, lookCore, Ne.symm h]
  | cons p l ih =>
    obtain ⟨a, v⟩ := p
    by_cases ha : a = id
    · subst ha; simp [putCore, lookCore, Ne.symm h]
    · simp only [putCore, if_neg ha, lookCore, ih]

@[simp] theorem State.coreAt_self (s : State) : s.coreAt s.coreId = s.core := by simp [State.coreAt]

@[simp] theorem State.coreAt_setCoreAt (s : State) (id : CoreId) (c : Core) : (s.setCoreAt id c).coreAt id = c := by
  by_cases h : id = s.coreId
  · subst h; simp [State.setCoreAt, State.coreAt]
  · simp [State.setCoreAt, State.coreAt, h, lookCore_putCore]

theorem State.coreAt_setCoreAt_ne (s : State) (id k : CoreId) (c : Core) (h : k ≠ id) :
    (s.setCoreAt id c).coreAt k = s.coreAt k := by
  by_cases hi : id = s.coreId
  · subst hi; simp [State.setCoreAt, State.coreAt, h]
  · by_cases hk : k = s.coreId <;> simp [State.setCoreAt, State.coreAt, hi, hk, lookCore_putCore_ne _ _ _ _ h]

@[simp] theorem State.coreAt_onCoreAt (s : State) (id : CoreId) (f : Core → Core) :
    (s.onCoreAt id f).coreAt id = f (s.coreAt id) := by simp [State.onCoreAt]

theorem State.coreAt_onCoreAt_ne (s : State) (id k : CoreId) (f : Core → Core) (h : k ≠ id) :
    (s.onCoreAt id f).coreAt k = s.coreAt k := State.coreAt_setCoreAt_ne _ _ _ _ h

theorem State.coreAt_onSl_ne (s : State) (f : Slot → Slot) (id : CoreId) (h : id ≠ s.coreId) :
    (s.onSl f).coreAt id = s.coreAt id := by simp [State.coreAt, h]

/-! ## The sparse maps -/

section Maps
variable {α : Type}

theorem look_put (d : α) (m : List (Nat × α)) (a : Nat) (x : α) : look d (put m a x) a = x := by
  induction m with
  | nil => simp [put, look]
  | cons p m ih =>
    obtain ⟨k, v⟩ := p
    by_cases h1 : a < k
    · simp [put, look, h1]
    · by_cases h2 : a = k
      · simp [put, look, h2]
      · simp [put, look, h1, h2, Ne.symm h2, ih]

theorem look?_put (m : List (Nat × α)) (a : Nat) (x : α) : look? (put m a x) a = some x := by
  induction m with
  | nil => simp [put, look?]
  | cons p m ih =>
    obtain ⟨k, v⟩ := p
    by_cases h1 : a < k
    · simp [put, look?, h1]
    · by_cases h2 : a = k
      · simp [put, look?, h2]
      · simp [put, look?, h1, h2, Ne.symm h2, ih]

theorem look?_put_ne (m : List (Nat × α)) (a b : Nat) (x : α) (h : b ≠ a) : look? (put m a x) b = look? m b := by
  induction m with
  | nil => simp [put, look?, Ne.symm h]
  | cons p m ih =>
    obtain ⟨k, v⟩ := p
    by_cases h1 : a < k
    · simp [put, look?, h1, Ne.symm h]
    · by_cases h2 : a = k
      · subst h2; simp [put, look?, Ne.symm h]
      · have h4 : (a == k) = false := by simpa using h2
        simp [put, if_neg h1, h4, look?, ih]

theorem look_put_ne (d : α) (m : List (Nat × α)) (a b : Nat) (x : α) (h : b ≠ a) : look d (put m a x) b = look d m b := by
  induction m with
  | nil => simp [put, look, Ne.symm h]
  | cons p m ih =>
    obtain ⟨k, v⟩ := p
    by_cases h1 : a < k
    · simp [put, look, h1, Ne.symm h]
    · by_cases h2 : a = k
      · subst h2; simp [put, look, Ne.symm h]
      · have h4 : (a == k) = false := by simpa using h2
        simp [put, if_neg h1, h4, look, ih]

theorem look?_del (m : List (Nat × α)) (a : Nat) : look? (del m a) a = none := by
  induction m with
  | nil => rfl
  | cons p m ih =>
    obtain ⟨k, v⟩ := p
    by_cases h : k = a
    · subst h; simpa [del] using ih
    · simp only [del] at ih; simp [del, look?, h, ih]

end Maps

end Sys2Proof.Machine
end

