-- ==== Sys2Proof/Laws/Bundle.lean ====
section
/-! SUPPORT. The course of a one-move bundle: what `execTrigger` and `execMoveTo` come to, by the outcome of the operation, and how a
bundle closes. -/

set_option autoImplicit false
set_option Elab.async false

namespace Sys2Proof.Machine

variable {u : FU} {opc : Nat} {h : Hdr} {s s2 : State} {op : State → Res}

@[simp] theorem srcWords_rename (rpc : Word) (x : Src) : srcWords (renameSrc rpc x) = srcWords x := by cases x <;> rfl

@[simp] theorem moveWords_rename (rpc : Word) (x : Src) : moveWords (renameSrc rpc x) = moveWords x := by
  simp [moveWords]

@[simp] theorem renameHdr_src (rpc : Word) (h : Hdr) : (renameHdr rpc h).src = renameSrc rpc h.src := rfl

@[simp] theorem takes_rename (t : Slot) (rpc : Word) (h : Hdr) : t.takes (renameHdr rpc h) = t.takes h := rfl

theorem Goes.noFault (g : Goes u opc h s) (w : HWord) : s.soloFault (renameSrc s.sl.csr.rpc h.src) (some u) w = none := by
  have h1 := g.source
  have h2 := g.valid
  have h3 := g.carries
  simp only [State.srcOf] at h1 h2
  have h4 : carried s.coreId.kind (some u) = true := h3
  simp [State.soloFault, h1, h2, h4]

/-- A trigger that goes out and whose operation completes closes its bundle. -/
theorem execTrigger_ok (g : Goes u opc h s) (ho : op (s.latched u h) = .ok s2) :
    execTrigger u opc h op s = .next s2.closeBundle := by
  have h1 := g.ready
  have h2 := g.free
  have h3 := g.taken
  simp only [State.srcOf] at h1
  simp only [State.latched, State.moved, State.srcOf] at ho
  simp [execTrigger, g.alone, soloTrigger, g.noFault, h1, h2, h3, ho]

/-- A trigger that goes out and whose operation traps is not issued: the trap is taken on the state before its bundle. -/
theorem execTrigger_trap (g : Goes u opc h s) {code : Nat} {tval : Word} (ho : op (s.latched u h) = .trap code tval) :
    execTrigger u opc h op s = .next (enterTrap code tval s.sl.pc s) := by
  have h1 := g.ready
  have h2 := g.free
  have h3 := g.taken
  simp only [State.srcOf] at h1
  simp only [State.latched, State.moved, State.srcOf] at ho
  simp [execTrigger, g.alone, soloTrigger, g.noFault, h1, h2, h3, ho]

/-- A trigger that goes out and whose operation has to wait for room stalls its bundle. -/
theorem execTrigger_stall (g : Goes u opc h s) (ho : op (s.latched u h) = .stall) :
    execTrigger u opc h op s = .next s.stallBundle := by
  have h1 := g.ready
  have h2 := g.free
  have h3 := g.taken
  simp only [State.srcOf] at h1
  simp only [State.latched, State.moved, State.srcOf] at ho
  simp [execTrigger, g.alone, soloTrigger, g.noFault, h1, h2, h3, ho]

/-- A bundle that rounds nothing, without a CSR write and without a trap of kind after, whose activation goes on, is retired and counted. -/
theorem closeBundle_plain (h0 : s.sl.seedw = none) (h1 : s.sl.csrw = none) (h2 : s.sl.after = none) (h3 : s.sl.flow ≠ .ended) :
    s.closeBundle = (s.onSl fun t => { t with csr := { t.csr with iret := t.csr.iret + 1 }, stall := 0 }).count 1 := by
  have e : ∀ (x : State) (n : Nat), (x.count n).sl = x.sl := by
    intro x n
    simp only [State.count, State.sl, State.onCore, Core.count]
    split <;> rfl
  simp [State.closeBundle, State.applyCsr, State.applySeed, e, h0, h1, h2, h3]

@[simp] theorem State.sl_count (s : State) (n : Nat) : (s.count n).sl = s.sl := by
  simp only [State.count, State.sl, State.onCore, Core.count]
  split <;> rfl

end Sys2Proof.Machine
end

