-- ==== Sys2Proof/Laws/Memory.lean ====
section
/-! SUPPORT. Byte memories: a write keeps the canonical form, a read of what was written gives it back, a write leaves every other byte alone,
and two memories in canonical form that read alike are equal. -/

set_option autoImplicit false
set_option Elab.async false

namespace Sys2Proof.Machine

/-! ## Entries of a run of bytes -/

/-- An entry made for a run lies in it, and differs from what an unlisted byte reads as. -/
theorem Memory.mem_cells {bs : List Byte} {a : Nat} {c : Host.Cell} (h : c ∈ Memory.cells a bs) :
    a ≤ c.1 ∧ c.1 < a + bs.length ∧ c.2 ≠ Memory.unlisted := by
  induction bs generalizing a with
  | nil => cases h
  | cons b bs ih =>
    rw [Memory.cells] at h
    split at h
    · have := ih h
      simp only [List.length_cons]
      exact ⟨by omega, by omega, this.2.2⟩
    · rename_i hb
      rcases List.mem_cons.mp h with rfl | h
      · simp only [List.length_cons]
        exact ⟨Nat.le_refl _, by omega, by simpa using hb⟩
      · have := ih h
        simp only [List.length_cons]
        exact ⟨by omega, by omega, this.2.2⟩

/-- Entries made for a run stand by rising address. -/
theorem Memory.cells_pairwise (a : Nat) (bs : List Byte) : (Memory.cells a bs).Pairwise fun c d => c.1 < d.1 := by
  induction bs generalizing a with
  | nil => exact List.Pairwise.nil
  | cons b bs ih =>
    rw [Memory.cells]
    split
    · exact ih _
    · exact List.Pairwise.cons (fun d hd => (Memory.mem_cells hd).1) (ih _)

/-! ## The canonical form -/

theorem Memory.wf_nil : Memory.wf [] := ⟨List.Pairwise.nil, fun _ h => by cases h⟩

/-- Leaving entries out keeps the form. -/
theorem Memory.wf_filter {m : Memory} (h : m.wf) (p : Host.Cell → Bool) : Memory.wf (m.filter p) :=
  ⟨h.1.filter p, fun c hc => h.2 c (List.mem_filter.mp hc).1⟩

/-- A write keeps the form. -/
theorem Memory.wf_write {m : Memory} (h : m.wf) (a : Nat) (bs : List Byte) : (m.write a bs).wf := by
  constructor
  · rw [Memory.write, List.pairwise_append, List.pairwise_append]
    refine ⟨⟨h.1.filter _, Memory.cells_pairwise a bs, ?_⟩, h.1.filter _, ?_⟩
    · intro c hc d hd
      have h1 := (List.mem_filter.mp hc).2
      have h2 := Memory.mem_cells hd
      simp only [decide_eq_true_eq] at h1
      omega
    · intro c hc d hd
      have h2 := (List.mem_filter.mp hd).2
      simp only [decide_eq_true_eq] at h2
      rcases List.mem_append.mp hc with hc | hc
      · have h1 := (List.mem_filter.mp hc).2
        simp only [decide_eq_true_eq] at h1
        omega
      · have h1 := Memory.mem_cells hc
        omega
  · intro c hc
    rw [Memory.write] at hc
    rcases List.mem_append.mp hc with hc | hc
    · rcases List.mem_append.mp hc with hc | hc
      · exact h.2 c (List.mem_filter.mp hc).1
      · exact (Memory.mem_cells hc).2.2
    · exact h.2 c (List.mem_filter.mp hc).1

theorem Memory.wf_writeNat {m : Memory} (h : m.wf) (a n x : Nat) : (m.writeNat a n x).wf := Memory.wf_write h a _

theorem Memory.wf_writeDword {m : Memory} (h : m.wf) (a : Nat) (w : Word) : (m.writeDword a w).wf := Memory.wf_writeNat h a 8 _

/-! ## Reading bytes -/

/-- A byte whose address heads no entry of the first part is read in the second. -/
theorem Memory.byte_append {m n : Memory} {a : Nat} (h : ∀ c ∈ m, c.1 ≠ a) : Memory.byte (m ++ n) a = Memory.byte n a := by
  induction m with
  | nil => rfl
  | cons c m ih =>
    have hc : (c.1 == a) = false := by simpa using h c List.mem_cons_self
    rw [List.cons_append, Memory.byte, hc]
    exact ih fun d hd => h d (List.mem_cons_of_mem _ hd)

/-- A byte that the second part does not list is read in the first. -/
theorem Memory.byte_append_left {m n : Memory} {a : Nat} (h : ∀ c ∈ n, c.1 ≠ a) : Memory.byte (m ++ n) a = Memory.byte m a := by
  induction m with
  | nil =>
    have := Memory.byte_append (m := n) (n := []) h
    rw [List.append_nil] at this
    exact this
  | cons c m ih =>
    rw [List.cons_append, Memory.byte, Memory.byte, ih]

/-- An address that no entry lists reads as an unlisted byte. -/
theorem Memory.byte_unlisted {m : Memory} {a : Nat} (h : ∀ c ∈ m, c.1 ≠ a) : m.byte a = Memory.unlisted := by
  have := Memory.byte_append (m := m) (n := []) h
  rw [List.append_nil] at this
  exact this

/-- Leaving out entries of other addresses changes no byte. -/
theorem Memory.byte_filter {m : Memory} {a : Nat} {p : Host.Cell → Bool} (h : ∀ c ∈ m, c.1 = a → p c = true) :
    Memory.byte (m.filter p) a = m.byte a := by
  induction m with
  | nil => rfl
  | cons c m ih =>
    have ih := ih fun d hd => h d (List.mem_cons_of_mem _ hd)
    by_cases hc : p c = true
    · rw [List.filter_cons_of_pos hc, Memory.byte, Memory.byte, ih]
    · rw [List.filter_cons_of_neg hc, ih, Memory.byte]
      have : (c.1 == a) = false := by
        rw [beq_eq_false_iff_ne]
        exact fun e => hc (h c List.mem_cons_self e)
      rw [this]
      rfl

/-- The entries of a run give its bytes back. -/
theorem Memory.byte_cells {bs : List Byte} {a i : Nat} (h : i < bs.length) : Memory.byte (Memory.cells a bs) (a + i) = bs[i] := by
  induction bs generalizing a i with
  | nil => cases h
  | cons b bs ih =>
    rw [Memory.cells]
    cases i with
    | zero =>
      split
      · rename_i hb
        rw [Memory.byte_unlisted fun c hc => by have := (Memory.mem_cells hc).1; omega]
        exact (eq_of_beq hb).symm
      · simp [Memory.byte]
    | succ i =>
      have k : i < bs.length := by simpa using h
      have e := ih (a := a + 1) k
      have s : a + 1 + i = a + (i + 1) := by omega
      rw [s] at e
      split
      · simpa using e
      · rw [Memory.byte]
        have : (a == a + (i + 1)) = false := by simp
        rw [this]
        simpa using e

/-- A byte that a write does not reach is as it was. -/
theorem Memory.byte_write_apart (m : Memory) {a x : Nat} {bs : List Byte} (h : x < a ∨ a + bs.length ≤ x) :
    (m.write a bs).byte x = m.byte x := by
  have cells : ∀ c ∈ Memory.cells a bs, c.1 ≠ x := fun c hc => by have := Memory.mem_cells hc; omega
  rw [Memory.write, List.append_assoc]
  rcases h with h | h
  · have late : ∀ c ∈ Memory.cells a bs ++ m.filter (fun c => decide (a + bs.length ≤ c.1)), c.1 ≠ x := by
      intro c hc
      rcases List.mem_append.mp hc with hc | hc
      · exact cells c hc
      · have := (List.mem_filter.mp hc).2
        simp only [decide_eq_true_eq] at this
        omega
    rw [Memory.byte_append_left late]
    exact Memory.byte_filter fun c _ e => by simp only [decide_eq_true_eq]; omega
  · rw [Memory.byte_append fun c hc => by
        have := (List.mem_filter.mp hc).2
        simp only [decide_eq_true_eq] at this
        omega, Memory.byte_append cells]
    exact Memory.byte_filter fun c _ e => by simp only [decide_eq_true_eq]; omega

/-- A byte that a write stores reads as stored. -/
theorem Memory.byte_write (m : Memory) {a i : Nat} {bs : List Byte} (h : i < bs.length) : (m.write a bs).byte (a + i) = bs[i] := by
  rw [Memory.write, List.append_assoc, Memory.byte_append fun c hc => by
      have := (List.mem_filter.mp hc).2
      simp only [decide_eq_true_eq] at this
      omega, Memory.byte_append_left fun c hc => by
      have := (List.mem_filter.mp hc).2
      simp only [decide_eq_true_eq] at this
      omega]
  exact Memory.byte_cells h

/-! ## Reading runs -/

@[simp] theorem Memory.length_bytes (m : Memory) (a n : Nat) : (m.bytes a n).length = n := by
  induction n generalizing a with
  | zero => rfl
  | succ n ih => simp [Memory.bytes, ih]

theorem Memory.getElem_bytes (m : Memory) (a n i : Nat) (h : i < (m.bytes a n).length) : (m.bytes a n)[i] = m.byte (a + i) := by
  induction n generalizing a i with
  | zero => simp at h
  | succ n ih =>
    cases i with
    | zero => rfl
    | succ i =>
      have k := ih (a + 1) i (by simpa using h)
      simpa [Memory.bytes, Nat.add_assoc, Nat.add_comm 1 i] using k

/-- A run that has been written reads as written. -/
theorem Memory.bytes_write (m : Memory) (a : Nat) (bs : List Byte) : (m.write a bs).bytes a bs.length = bs := by
  apply List.ext_getElem (Memory.length_bytes _ _ _)
  intro i h1 h2
  rw [Memory.getElem_bytes, Memory.byte_write m h2]

/-- A run that a write does not reach reads as before. -/
theorem Memory.bytes_write_apart (m : Memory) {a x n : Nat} {bs : List Byte} (h : x + n ≤ a ∨ a + bs.length ≤ x) :
    (m.write a bs).bytes x n = m.bytes x n := by
  apply List.ext_getElem (by simp)
  intro i h1 h2
  rw [Memory.getElem_bytes, Memory.getElem_bytes]
  apply Memory.byte_write_apart
  simp only [Memory.length_bytes] at h1
  omega

/-- Two memories in canonical form that read alike are equal. -/
theorem Memory.ext {m n : Memory} (hm : m.wf) (hn : n.wf) (h : ∀ a, m.byte a = n.byte a) : m = n := by
  induction m generalizing n with
  | nil =>
    cases n with
    | nil => rfl
    | cons d n =>
      have := h d.1
      simp only [Memory.byte, beq_self_eq_true] at this
      exact absurd this.symm (hn.2 d List.mem_cons_self)
  | cons c m ih =>
    have tail : ∀ {e : Host.Cell} {l : Memory}, Memory.wf (e :: l) → Memory.wf l ∧ ∀ a, a ≤ e.1 → Memory.byte l a = Memory.unlisted := by
      intro e l w
      have p := List.pairwise_cons.mp w.1
      exact ⟨⟨p.2, fun c hc => w.2 c (List.mem_cons_of_mem _ hc)⟩,
        fun a ha => Memory.byte_unlisted fun x hx => by have := p.1 x hx; omega⟩
    cases n with
    | nil =>
      have := h c.1
      simp only [Memory.byte, beq_self_eq_true] at this
      exact absurd this (hm.2 c List.mem_cons_self)
    | cons d n =>
      have tm := tail hm
      have tn := tail hn
      have hc := hm.2 c List.mem_cons_self
      have hd := hn.2 d List.mem_cons_self
      have head : c = d := by
        have e1 := h c.1
        have e2 := h d.1
        simp only [Memory.byte, beq_self_eq_true, if_true] at e1 e2
        rcases Nat.lt_trichotomy c.1 d.1 with l | l | l
        · have ne : (d.1 == c.1) = false := beq_false_of_ne (by omega)
          rw [ne] at e1
          have := tn.2 c.1 (by omega)
          exact absurd (e1.trans this) hc
        · rw [show (d.1 == c.1) = true from beq_iff_eq.mpr l.symm] at e1
          exact Prod.ext l e1
        · have ne : (c.1 == d.1) = false := beq_false_of_ne (by omega)
          rw [ne] at e2
          have := tm.2 d.1 (by omega)
          exact absurd (e2.symm.trans this) hd
      subst head
      congr 1
      apply ih tm.1 tn.1
      intro a
      by_cases ha : a ≤ c.1
      · rw [tm.2 a ha, tn.2 a ha]
      · have := h a
        have ne : (c.1 == a) = false := beq_false_of_ne (by omega)
        simpa only [Memory.byte, ne, Bool.false_eq_true, if_false] using this

/-! ## Little-endian numbers (R4) -/

@[simp] theorem length_leBytes (n x : Nat) : (leBytes n x).length = n := by
  induction n generalizing x with
  | zero => rfl
  | succ n ih => simp [leBytes, ih]

/-- The bytes of a number stand for its low bytes. -/
theorem leNat_leBytes (n x : Nat) : leNat (leBytes n x) = x % 256 ^ n := by
  induction n generalizing x with
  | zero => simp [leBytes, leNat, Nat.mod_one]
  | succ n ih =>
    have e : x % 256 ^ (n + 1) = x % 256 + 256 * (x / 256 % 256 ^ n) := by rw [Nat.pow_succ', Nat.mod_mul]
    rw [leBytes, leNat, ih, e, BitVec.toNat_ofNat]

/-- Bytes are the bytes of the number that they stand for. -/
theorem leBytes_leNat (bs : List Byte) : leBytes bs.length (leNat bs) = bs := by
  induction bs with
  | nil => rfl
  | cons b bs ih =>
    have hb := b.isLt
    rw [List.length_cons, leBytes, leNat]
    congr 1
    · apply BitVec.eq_of_toNat_eq
      rw [BitVec.toNat_ofNat]
      omega
    · rw [show (b.toNat + 256 * leNat bs) / 256 = leNat bs by omega]
      exact ih

theorem leNat_lt (bs : List Byte) : leNat bs < 256 ^ bs.length := by
  induction bs with
  | nil => simp [leNat]
  | cons b bs ih =>
    have hb := b.isLt
    rw [List.length_cons, leNat, Nat.pow_succ']
    omega

/-- A number that has been written reads as its low bytes. -/
theorem Memory.nat_writeNat (m : Memory) (a n x : Nat) : (m.writeNat a n x).nat a n = x % 256 ^ n := by
  have h := Memory.bytes_write m a (leBytes n x)
  rw [length_leBytes] at h
  rw [Memory.nat, Memory.writeNat, h, leNat_leBytes]

/-- A number that a write does not reach reads as before. -/
theorem Memory.nat_writeNat_apart (m : Memory) {a n x b k : Nat} (h : b + k ≤ a ∨ a + n ≤ b) :
    (m.writeNat a n x).nat b k = m.nat b k := by
  rw [Memory.nat, Memory.writeNat, Memory.bytes_write_apart m (by rw [length_leBytes]; exact h), Memory.nat]

end Sys2Proof.Machine
end

