-- ==== Sys2Proof/Laws/Homes.lean ====
section
/-! SUPPORT. Writes to homes of device memory: what they leave, and what is read of a record that they do not reach. -/

set_option autoImplicit false
set_option Elab.async false

namespace Sys2Proof.Machine

/-- A write of plain device bytes puts them at their address and changes no register. -/
theorem State.writeDevice_plain (s : State) (pa : Nat) (bs : List Byte) :
    (s.writeDevice pa 0 bs).dm = s.dm.write pa bs ∧ (s.writeDevice pa 0 bs).regs = s.regs := ⟨rfl, rfl⟩

/-- Runs of plain device bytes that lie above a place leave it, and every register, as they were. -/
theorem State.writeRuns_below (x n : Nat) (rs : List (Home × Nat)) :
    ∀ (s : State) (bs : List Byte), (∀ r ∈ rs, ∃ pa, r.1 = .device pa 0 ∧ x + n ≤ pa) →
      (s.writeRuns rs bs).dm.bytes x n = s.dm.bytes x n ∧ (s.writeRuns rs bs).regs = s.regs := by
  induction rs with
  | nil => exact fun s bs _ => ⟨rfl, rfl⟩
  | cons r rs ih =>
    intro s bs h
    obtain ⟨pa, e, le⟩ := h r List.mem_cons_self
    obtain ⟨home, len⟩ := r
    subst e
    have k := ih (s.writeDevice pa 0 (bs.take len)) (bs.drop len) fun r m => h r (List.mem_cons_of_mem _ m)
    have w := s.writeDevice_plain pa (bs.take len)
    rw [w.1, w.2, Memory.bytes_write_apart s.dm (.inl le)] at k
    exact k

/-- Runs of plain device bytes that lie above a record's first doubleword leave its state as it was. -/
theorem State.writeRuns_recState (s : State) (rs : List (Home × Nat)) (bs : List Byte) (r : Nat)
    (h : ∀ p ∈ rs, ∃ pa, p.1 = .device pa 0 ∧ s.recAddr r + 8 ≤ pa) : (s.writeRuns rs bs).recState r = s.recState r := by
  have k := State.writeRuns_below (s.recAddr r) 8 rs s bs h
  have e : (s.writeRuns rs bs).recAddr r = s.recAddr r := by rw [State.recAddr, State.recAddr, State.reg, State.reg, k.2]
  rw [State.recState, State.recState, State.dw, State.dw, e, Memory.dword, Memory.dword, Memory.nat, Memory.nat, Nat.mul_zero, Nat.add_zero, k.1]

end Sys2Proof.Machine
end

