-- ==== Sys2Proof/Laws/Unit.lean ====
section
/-! SUPPORT. What a trigger that goes out alone does, for the operations that write only latches of their own unit. -/

set_option autoImplicit false
set_option Elab.async false

namespace Sys2Proof.Machine

variable {u : FU} {opc : Nat} {h : Hdr} {s : State}

theorem setPort_trigger (t : Slot) (v : VWord) : t.setPort u .t v = t.onLat u fun l => { l with t := narrow v } := by
  cases u <;> rfl

theorem State.setSl_onSl (s : State) (t : Slot) (f : Slot → Slot) : (s.setSl t).onSl f = s.setSl (f t) := by
  simp [State.onSl, State.setSl, State.sl]

theorem unblock_issuing {t : Slot} (h : t.run = .issuing) : t.unblock = t := by simp [Slot.unblock, h]

/-- Counting an event changes only counts of event counters. -/
theorem State.count_perf (s : State) (n : Nat) : ∃ p, s.count n = s.onCore (fun c => { c with perf := p }) ∧
    p.map (fun q => ({ q with count := 0 } : Perf)) = s.core.perf.map fun q => { q with count := 0 } := by
  by_cases hh : s.core.dbg.halted
  · refine ⟨s.core.perf, ?_, rfl⟩
    simp [State.count, State.onCore, Core.count, hh]
  · refine ⟨_, by simp only [State.count, State.onCore, Core.count]; rw [if_neg hh], ?_⟩
    rw [Vector.map_map]
    apply Vector.map_congr_left
    intro q _
    simp only [Function.comp]
    split <;> rfl

/-- What a bundle that writes only latches of a unit leaves of the slot. -/
def Slot.retire (t : Slot) (u : FU) (f : Lat → Lat) (npc next : Word) (flow : Flow) : Slot :=
  { t.onLat u f with csr := { t.csr with iret := t.csr.iret + 1 }, npc := npc, next := next, flow := flow, after := none,
                     csrw := none, seedw := none, stall := 0 }

theorem sameMemory_of {s t : State} (h1 : t.coreId = s.coreId) (h2 : t.core.mem = s.core.mem) (h3 : t.others = s.others)
    (h4 : t.dm = s.dm) (h5 : t.keySlots = s.keySlots) (h6 : t.hm = s.hm) (h7 : t.time = s.time) : SameMemory s t := by
  intro a
  cases a with
  | core c off =>
    simp only [State.readHome, State.coreAt, h1, h3]
    split
    · rw [h2]
    · rfl
  | device pa key => simp only [State.readHome, State.readDevice, State.unseal, h4, h5]
  | host a key => simp only [State.readHome, State.unseal, h5, h6]
  | remote d a key => simp only [State.readHome, State.unseal, State.remoteBytes, h5, h7]

theorem onlyUnit_retire (s : State) (u : FU) (f : Lat → Lat) (npc next : Word) (flow : Flow) (p : Vector Perf 8)
    (hp : p.map (fun q => ({ q with count := 0 } : Perf)) = s.core.perf.map fun q => { q with count := 0 }) :
    OnlyUnit u s ((s.setSl (Slot.retire s.sl u f npc next flow)).onCore fun c => { c with perf := p }) := by
  have e : ((s.setSl (Slot.retire s.sl u f npc next flow)).onCore fun c => { c with perf := p }).sl = Slot.retire s.sl u f npc next flow := by
    simp [State.sl, State.setSl, State.onCore]
  constructor
  · constructor
    · rw [e]; rfl
    · rw [e]; rfl
    · rw [e]; rfl
    · rw [e]; rfl
    · intro n hn
      unfold State.csr
      rw [e]
      split <;> first | rfl | exact absurd rfl hn
    · show ((s.setSl (Slot.retire s.sl u f npc next flow)).onCore fun c => { c with perf := p }).sl.csr.iret = _
      rw [e]; rfl
  · intro w hw
    simp only [State.lat, e]
    exact Slot.lat_onLat_ne _ _ _ _ hw
  · intro n hn
    have h2 : s.core.cur.val ≠ n.val := fun e => hn (Fin.ext e.symm)
    simp [State.onCore, State.setSl, h2]
  · exact sameMemory_of rfl rfl rfl rfl rfl rfl rfl
  · simp only [State.without, State.blur, State.onSl, e]
    simp only [State.onCore, State.setSl, State.sl, Slot.retire, Slot.onLat, Slot.lat, Vector.set_set, Vector.getElem_set_self, hp,
      Fin.getElem_fin]

/-- A bundle whose trigger writes only latches of its unit. -/
theorem exec_onlyUnit (g : Goes u opc h s) {op : State → Res} (f : Lat → Lat)
    (ho : op (s.latched u h) = .ok ((s.latched u h).onSl fun t => t.onLat u f)) :
    ∃ t, execTrigger u opc h op s = .next t ∧ OnlyUnit u s t ∧ t.lat u = f { s.lat u with t := s.moved64 h } ∧
      t.sl.npc = s.nextPc h := by
  let f2 : Lat → Lat := fun l => f { l with t := s.moved64 h }
  have hl : ((s.latched u h).onSl fun t => t.onLat u f) = s.setSl { s.sl.onLat u f2 with
        npc := s.nextPc h, next := s.nextPc h, flow := .seq, after := none, csrw := none, seedw := none } := by
    simp only [State.latched, State.openBundle, State.onSl_onSl, setPort_trigger, Slot.onLat_onLat]
    rfl
  refine ⟨_, execTrigger_ok g ho, ?_⟩
  rw [hl, closeBundle_plain (by simp) (by simp) (by simp) (by simp)]
  have e2 : ((s.setSl { s.sl.onLat u f2 with
        npc := s.nextPc h, next := s.nextPc h, flow := .seq, after := none, csrw := none, seedw := none }).onSl fun t =>
          { t with csr := { t.csr with iret := t.csr.iret + 1 }, stall := 0 }) =
      s.setSl (s.sl.retire u f2 (s.nextPc h) (s.nextPc h) .seq) := by
    rw [State.setSl_onSl]
    rfl
  rw [e2]
  obtain ⟨p, hp1, hp2⟩ := State.count_perf (s.setSl (s.sl.retire u f2 (s.nextPc h) (s.nextPc h) .seq)) 1
  rw [hp1]
  refine ⟨onlyUnit_retire s u f2 (s.nextPc h) (s.nextPc h) .seq p hp2, ?_, ?_⟩
  · have : ((s.setSl (s.sl.retire u f2 (s.nextPc h) (s.nextPc h) .seq)).onCore fun c => { c with perf := p }).sl =
        s.sl.retire u f2 (s.nextPc h) (s.nextPc h) .seq := by simp [State.sl, State.setSl, State.onCore]
    simp only [State.lat, this]
    exact Slot.lat_onLat s.sl u f2
  · simp [State.sl, State.onCore, State.setSl, Slot.retire]

theorem latched_issuing (g : Goes u opc h s) : (s.latched u h).sl.run = .issuing := by
  simp [State.latched, State.openBundle, setPort_trigger, g.issuing]

/-- A trigger of latency 1 that answers from its unit's latches. -/
theorem answers_complete (g : Goes u opc h s) {q q2 : Word} {op : State → Res}
    (ho : op (s.latched u h) = .ok ((s.latched u h).complete u q q2)) :
    ∃ t, execTrigger u opc h op s = .next t ∧ Answers u h q q2 s t := by
  have hc : (s.latched u h).complete u q q2 =
      (s.latched u h).onSl fun t => t.onLat u fun l => { l with q := q, q2 := q2, valid := true, fly := none } := by
    simp only [State.complete, State.onSl, unblock_issuing (latched_issuing g)]
    rfl
  rw [hc] at ho
  obtain ⟨t, h1, h2, h3, h4⟩ := exec_onlyUnit g _ ho
  exact ⟨t, h1, ⟨h2, h3, h4⟩⟩

/-- A trigger that enters its unit from its latches. -/
theorem launches_launch (g : Goes u opc h s) {lo hi : Nat} {q q2 : Word} {op : State → Res}
    (ho : op (s.latched u h) = .ok ((s.latched u h).launch u opc lo hi q q2)) :
    ∃ t, execTrigger u opc h op s = .next t ∧ Launches u opc h lo hi q q2 s t := by
  have hc : (s.latched u h).launch u opc lo hi q q2 =
      (s.latched u h).onSl fun t => t.onLat u fun l => { l with fly := some ⟨opc, 0, lo, hi, q, q2⟩ } := by
    simp only [State.launch, State.onSl, unblock_issuing (latched_issuing g)]
  rw [hc] at ho
  obtain ⟨t, h1, h2, h3, h4⟩ := exec_onlyUnit g _ ho
  exact ⟨t, h1, ⟨h2, h3, h4⟩⟩

/-- The latches that the operation of a trigger finds. -/
theorem lat_latched (s : State) (u : FU) (h : Hdr) : (s.latched u h).lat u = { s.lat u with t := s.moved64 h } := by
  simp only [State.lat, State.latched, State.sl_onSl, setPort_trigger, Slot.lat_onLat, State.openBundle]
  rfl

/-- Event counts blanked out. -/
def blankPerf (p : Vector Perf 8) : Vector Perf 8 := p.map fun q => { q with count := 0 }

theorem onlySlot_mk (s : State) (t : Slot) (p : Vector Perf 8) (hp : blankPerf p = blankPerf s.core.perf) :
    OnlySlot s ((s.setSl t).onCore fun c => { c with perf := p }) := by
  refine ⟨?_, sameMemory_of rfl rfl rfl rfl rfl rfl rfl, ?_⟩
  · intro n hn
    have h2 : s.core.cur.val ≠ n.val := fun e => hn (Fin.ext e.symm)
    simp [State.onCore, State.setSl, h2]
  · simp only [blankPerf] at hp
    simp only [State.uncounted, State.onCore, State.setSl, State.sl, Vector.set_set, hp]
    simp

/-- A bundle whose trigger changes only the slot and counts events. -/
theorem exec_slot (g : Goes u opc h s) {op : State → Res} (F : Slot → Slot) (p : Vector Perf 8)
    (ho : op (s.latched u h) = .ok (((s.latched u h).onSl F).onCore fun c => { c with perf := p }))
    (hp : blankPerf p = blankPerf s.core.perf) (h0 : (F (s.latched u h).sl).seedw = none) (h1 : (F (s.latched u h).sl).csrw = none)
    (h2 : (F (s.latched u h).sl).after = none) (h3 : (F (s.latched u h).sl).flow ≠ .ended) :
    ∃ t, execTrigger u opc h op s = .next t ∧
      t.sl = { F (s.latched u h).sl with csr := { (F (s.latched u h).sl).csr with iret := (F (s.latched u h).sl).csr.iret + 1 },
                                         stall := 0 } ∧
      OnlySlot s t := by
  refine ⟨_, execTrigger_ok g ho, ?_⟩
  have e : ((s.latched u h).onSl F).onCore (fun c => { c with perf := p }) =
      (s.setSl (F (s.latched u h).sl)).onCore fun c => { c with perf := p } := by
    simp only [State.latched, State.openBundle, State.onSl, State.setSl, State.sl, State.onCore, Vector.set_set]
  have e1 : ((s.setSl (F (s.latched u h).sl)).onCore fun c => { c with perf := p }).sl = F (s.latched u h).sl := by
    simp [State.sl, State.setSl, State.onCore]
  rw [e, closeBundle_plain (by rw [e1]; exact h0) (by rw [e1]; exact h1) (by rw [e1]; exact h2) (by rw [e1]; exact h3)]
  obtain ⟨p2, hp1, hp2⟩ := State.count_perf (((s.setSl (F (s.latched u h).sl)).onCore fun c => { c with perf := p }).onSl fun t =>
          { t with csr := { t.csr with iret := t.csr.iret + 1 }, stall := 0 }) 1
  rw [hp1]
  have e2 : (((s.setSl (F (s.latched u h).sl)).onCore fun c => { c with perf := p }).onSl fun t =>
          { t with csr := { t.csr with iret := t.csr.iret + 1 }, stall := 0 }).onCore (fun c => { c with perf := p2 }) =
      (s.setSl { F (s.latched u h).sl with
          csr := { (F (s.latched u h).sl).csr with iret := (F (s.latched u h).sl).csr.iret + 1 }, stall := 0 }).onCore
        fun c => { c with perf := p2 } := by
    simp only [State.onSl, e1]
    simp only [State.setSl, State.onCore, Vector.set_set]
  rw [e2]
  refine ⟨by simp [State.sl, State.setSl, State.onCore], onlySlot_mk _ _ _ ?_⟩
  exact hp2.trans hp

/-- As `exec_slot`, for an operation that counts an event as well. -/
theorem exec_slot_count (g : Goes u opc h s) {op : State → Res} (F : Slot → Slot) (n : Nat)
    (ho : op (s.latched u h) = .ok (((s.latched u h).onSl F).count n)) (h0 : (F (s.latched u h).sl).seedw = none)
    (h1 : (F (s.latched u h).sl).csrw = none)
    (h2 : (F (s.latched u h).sl).after = none) (h3 : (F (s.latched u h).sl).flow ≠ .ended) :
    ∃ t, execTrigger u opc h op s = .next t ∧
      t.sl = { F (s.latched u h).sl with csr := { (F (s.latched u h).sl).csr with iret := (F (s.latched u h).sl).csr.iret + 1 },
                                         stall := 0 } ∧
      OnlySlot s t := by
  obtain ⟨p, hp1, hp2⟩ := State.count_perf ((s.latched u h).onSl F) n
  rw [hp1] at ho
  exact exec_slot g F p ho hp2 h0 h1 h2 h3

/-- As `exec_slot`, for an operation that counts nothing. -/
theorem exec_slot_plain (g : Goes u opc h s) {op : State → Res} (F : Slot → Slot)
    (ho : op (s.latched u h) = .ok ((s.latched u h).onSl F)) (h0 : (F (s.latched u h).sl).seedw = none) (h1 : (F (s.latched u h).sl).csrw = none)
    (h2 : (F (s.latched u h).sl).after = none) (h3 : (F (s.latched u h).sl).flow ≠ .ended) :
    ∃ t, execTrigger u opc h op s = .next t ∧
      t.sl = { F (s.latched u h).sl with csr := { (F (s.latched u h).sl).csr with iret := (F (s.latched u h).sl).csr.iret + 1 },
                                         stall := 0 } ∧
      OnlySlot s t :=
  exec_slot g F s.core.perf ho rfl h0 h1 h2 h3

/-- The slot in which the operation of a trigger begins. -/
theorem sl_latched (s : State) (u : FU) (h : Hdr) : (s.latched u h).sl =
    { s.sl.onLat u (fun l => { l with t := s.moved64 h }) with npc := s.nextPc h, next := s.nextPc h, flow := .seq, after := none,
                                                                csrw := none, seedw := none } := by
  simp only [State.latched, State.openBundle, State.onSl_onSl, State.sl_onSl, setPort_trigger]
  rfl

end Sys2Proof.Machine
end

