-- ==== Sys2Proof/Tests/States.lean ====
section
/-! SUPPORT. Tests: small states, built by helpers, that the tests and the witnesses use. -/

set_option autoImplicit false
set_option Elab.async false

namespace Sys2Proof.Tests

open Sys2Proof.Machine

/-! ## Small states -/

/-- A quay core. -/
def quay : CoreId := ⟨.quay, 0, 0⟩
/-- A harbour core. -/
def harbour : CoreId := ⟨.harbour, 8, 0⟩
/-- The core beside core zero. -/
def next : CoreId := ⟨.compute, 0, 1⟩

/-- Core `c` in focus, slot 0 issuing at 0x1000. -/
def on (c : CoreId) : State :=
  (State.reset.focus c).onSl fun t =>
    { t with run := .issuing, pc := 0x1000, npc := 0x1000, csr := { t.csr with codelim := 0xFFFFFFFFFFFFF } }

/-- Device memory with pieces of bytes written. -/
def dmOf (ps : List (Nat × List Byte)) : Memory := ps.foldl (fun m p => m.write p.1 p.2) []

/-- A doubleword at an address. -/
def dwAt (a v : Nat) : Nat × List Byte := (a, leBytes 8 v)

/-- ASID 1 maps the first 16 GiB of device memory to itself with every right (R453 to R456). -/
def identity : List (Nat × List Byte) := [dwAt 0x10 0x10001, dwAt 0x10000 0x11001, dwAt 0x11000 0xBF]

/-- Record 3, of ASID 1, in a state: a span of one die, counters 5 to 14 (R282). -/
def record (state : Nat) : List (Nat × List Byte) :=
  [dwAt 0x300 (state * 2 ^ 56 + 2 ^ 32), dwAt 0x318 0x1F1F0000, dwAt 0x340 (10 * 2 ^ 16 + 5)]

/-- A state with pieces of device memory. -/
def having (s : State) (ps : List (Nat × List Byte)) : State := { s with dm := dmOf ps }

/-- The core in focus holds a context of record 3. -/
def holding (s : State) : State := s.onCore fun c => { c with ctx := some ⟨3, 1, 0, false, false, false⟩ }

/-! ## Keyed stages and the exchange -/

/-- The descriptor of stage 0 of record 3: entry 0x4000, spill at 0x40000, two credits, eight entries a bucket, cluster 0 (R356). -/
def stageBytes : List Byte :=
  leBytes 8 0x4000 ++ leBytes 8 0 ++ leBytes 8 0x40000 ++ leBytes 4 10 ++ leBytes 2 2 ++ leBytes 2 0 ++ leBytes 2 0 ++ leBytes 1 8 ++
    leBytes 1 1 ++ leBytes 4 1 ++ List.replicate 24 0

/-- A key, and the set it stands in. -/
def key7 : Word := 7
/-- Its set. -/
def set7 : Nat := keySet key7
/-- A record of the key. -/
def rec7 : KRec := ⟨0, key7, 0, [1, 2, 3, 4, 5, 6, 7, 8]⟩
/-- An idle entry of the key. -/
def idle7 : HEntry := ⟨0, key7, 0x4000, .idle, List.replicate 8 0, List.replicate 160 0, 0, none⟩

/-- Core zero runs record 3, whose stage 0 the Hamper of its cluster serves. -/
def keyed (h : Hamper) : State :=
  { having (holding (on coreZero)) (identity ++ record 2 ++ [dwAt 0x328 (2 ^ 52 + 0x20000), (0x20000, stageBytes)]) with
    hampers := [(0, { h with record := some 3 })]
    jobs := [(3, { Job.empty with dies := [0], clusters := [0, 1, 2, 3], cores := [coreZero] })] }

/-- A core's slot 0 waits in an emit to stage 0. -/
def emitting (s : State) : State :=
  s.onCoreAt next fun c => c.onSlot 0 fun t =>
    { t.onLat .ks (fun l => { l with a := key7, t := 0 }) with run := .blocked, wait := some ⟨.ks, 3, none, [1, 2, 3, 4, 5, 6, 7, 8]⟩ }

/-- A Hamper whose first credit request waits. -/
def grantable : State := emitting (keyed { Hamper.empty with credits := [(0, 2)], requests := [(0, next, 0)] })

/-- The Hamper `h`, and a record of the key on its way to it. -/
def arriving (h : Hamper) : State := { keyed h with emits := [⟨next, 0, 0, 0, rec7⟩] }

/-- Eight busy entries of other keys in the key's set. -/
def full7 : List (Nat × HEntry) := (List.range 8).map fun w => (8 * set7 + w, { idle7 with key := BitVec.ofNat 64 (100 + w), st := .running })

/-- The set is held by the write of its victim, the idle entry. -/
def spilling : State := keyed { Hamper.empty with ways := [(8 * set7, idle7)], holds := [(set7, .victim 0)] }

/-- The set is held by a fetch for the key's record; the bucket holds `ps`. -/
def fetching (ps : List (Nat × List Byte)) : State :=
  let s := keyed { Hamper.empty with recs := [(rec7, .heldSet)], holds := [(set7, .fetch 0 key7 false)], scount := [(set7, 1)] }
  { s with dm := ps.foldl (fun m p => m.write p.1 p.2) s.dm }

/-- The bucket's first entry is the key's. -/
def refilling : State := fetching [(0x40000 + set7 * 8 * 256, idle7.bytes 0 4)]

/-- A record of the key waits in the overflow queue. -/
def overflowing : State := keyed { Hamper.empty with recs := [(rec7, .overflow)] }

/-- An activation of the key waits for a core. -/
def handing : State := keyed { Hamper.empty with ways := [(8 * set7, { idle7 with st := .queued })], kept := [(8 * set7, false)] }

/-- An entry has been idle for its stage's timeout. -/
def idling : State := { keyed { Hamper.empty with ways := [(8 * set7, idle7)] } with time := 1000 }

/-- A transfer of an exchange phase between core zero and the core beside it. -/
def transfer (st : TState) : Transfer := ⟨0, 0, 0, coreZero, 0, 0, coreZero, 0x100, next, 0x200, 2, [1], st, false, 5, []⟩

/-- Record 3 runs with what is given. -/
def running (j : Job) : State :=
  { having (holding (on coreZero)) (identity ++ record 2) with jobs := [(3, { j with dies := [0], clusters := [0, 1, 2, 3], cores := [coreZero] })] }

/-- Slot 0 of core zero waits in a slack whose plan holds one push. -/
def slacking (j : Job) : State :=
  (running j).onCore fun c => c.onSlot 0 fun t =>
    { t with run := .blocked, wait := some ⟨.sy, 1, none, leBytes 2 0 ++ [1, 0] ++ leBytes 4 (2 ^ 12) ++ leBytes 2 8 ++ leBytes 2 16 ++ leBytes 2 2 ++
      [0, 0]⟩ }

/-- An exchange phase with one transfer, core zero's bytes set. -/
def exchanging (st : TState) : State :=
  (running { Job.empty with phase := some [transfer st], fabric := 5 }).onCore fun c => { c with mem := c.mem.write 0x100 [1, 2, 3, 4] }

/-- A request to the dispenser, of core zero, for a grid word. -/
def asking (grid : Nat) (given : Nat) : State :=
  let s := running { Job.empty with grids := [given, 0, 0, 0, 0, 0, 0, 0], dreqs := [⟨coreZero, 0, 0, coreZero, 0x40⟩] }
  { s with dm := s.dm.write (0x300 + 8 * 13) (leBytes 8 grid) }

/-- A role table at 0x20000 whose one role has the image at 0x30000 and the place word `place`; the image's TAG is right. -/
def role (place : Nat) : List (Nat × List Byte) :=
  [dwAt 0x320 (2 ^ 52 + 0x20000), dwAt 0x20008 0x30000, dwAt 0x20010 place, dwAt 0x20018 0x40000, dwAt 0x305D0 1,
   dwAt 0x307F8 (imageTag ((List.range 255).map fun i => if i = 186 then 1 else 0)).toNat]

/-- Record 3 armed: it needs quay core 0. -/
def armed3 : State := { having State.reset (identity ++ record 1 ++ role 1 ++ [dwAt 0x3B8 7]) with armed := [3] }

/-- Record 3 runs on quay core 0, with a context buffer at 0x100000. -/
def quay3 : State :=
  { having (holding (on quay)) (identity ++ record 2 ++ role 1 ++ [dwAt 0x358 0x100000]) with
    jobs := [(3, { Job.empty with dies := [0], clusters := [0, 1, 2, 3], cores := [quay, harbour] })] }

/-- Its core is at rest. -/
def resting3 : State := quay3.onCore fun c =>
  { c.onSlot 0 fun t => { t with run := .free } with ctx := some ⟨3, 1, 0, false, true, false⟩, mem := c.mem.write 0x100 [1, 2, 3] }

/-- Record 3 parked: it needs quay core 0 again. -/
def parked3 : State :=
  { having State.reset (identity ++ record 3 ++ role 1 ++ [dwAt 0x358 0x100000, (0x100000 + 1024 * 0x34000 + 0x100, [1, 2, 3])]) with
    jobs := [(3, { Job.empty with dies := [0], clusters := [0, 1, 2, 3], cores := [quay] })] }

/-- Time slices of 100 microseconds for class 0, one of them over. -/
def slice3 : State := { quay3 with time := 10000, regs := [(.fetslc, 1)] }

/-- Context ID 1 belongs to the dead context of the core in focus. -/
def deadId : State := { (quay3.onCore fun c => { c with ctx := some ⟨3, 1, 0, true, false, false⟩ }) with deadIds := [1] }

/-- Slot 0 of core zero has waited since tick 0 for the slot with party ID `rel`; the Undertow is on, with a delay of one microsecond. -/
def waitsFor (rel : Nat) : State :=
  { (running Job.empty).onSl (fun t =>
      { t with run := .blocked, wait := some ⟨.sy, 3, none, []⟩, csr := { t.csr with wrr := wrrWord 0 4 0 rel 0x40 } }) with
    time := 100, regs := [(.udctl, BitVec.ofNat 64 (2 ^ 31 + 1))] }

/-- Slot 1 of core zero runs. -/
def chasesRunning : State := (waitsFor 1).onCore fun c => c.onSlot 1 fun t => { t with run := .ready }

/-- A chase of slot 0 that waits for itself. -/
def cycleChase : Chase :=
  ⟨[⟨⟨3, 0⟩, wrrWord 0 4 0 0 0x40, 1, ⟨3, 0⟩⟩], 1, ⟨3, 0⟩, [(⟨3, 0⟩, 1)], [], [], 0⟩

/-- Its confirmation is due. -/
def confirming (ch : Chase) : State := { waitsFor 0 with undertows := [(0, ⟨[], some ch, [], [], []⟩)] }

/-! ## Host ports and DMA engines -/

/-- Port 0's link is up. -/
def linked : State := State.reset.onPort 0 fun p => { p with up := true }

/-- A write of 8 bytes at 0x1000, refused or not, has its piece at a stage. -/
def posted (stage : Nat) (void : Bool) : State := linked.onPort 0 fun p => { p with writes := [⟨0, false, false, 5, false, void, [⟨0, 0, .bar2 0x1000, [1, 2, 3, 4, 5, 6, 7, 8], stage, 0⟩]⟩] }

/-- Source 7 is pending and enabled with vector 3, which port 0 does not mask. -/
def pendingIrq : State := { linked with regs := [(.irqsrc 7, BitVec.ofNat 64 (2 ^ 63 + 2 ^ 60 + 3 * 2 ^ 32)), (.msixMask 0 3, 0), (.msixCtl 0, 0x8000)] }

/-- Port 0 holds semaphore `n` with tag 9. -/
def semaphore (n : Nat) : State := { linked with regs := [(.hsem n, BitVec.ofNat 64 (2 ^ 63 + 9))] }

/-- A descriptor: source, destination, length, operation, flags. -/
def descBytes (a b n op fl : Nat) : List Byte := leBytes 8 a ++ leBytes 8 b ++ leBytes 4 n ++ [BitVec.ofNat 8 op, BitVec.ofNat 8 fl] ++ List.replicate 42 0

/-- Engine 0 of die 8 has its ring of sixteen at 0x8000, with `d` posted; EN and STATE as given. -/
def dmaRing (en st : Nat) (d : List Byte) : State :=
  { State.reset with
    dm := dmOf [(0x8000, d)]
    regs := [(.drbase 8 0, 0x8000), (.drcfg 8 0, BitVec.ofNat 64 (en * 2 ^ 63)), (.drtail 8 0, 1), (.dmast 8 0, BitVec.ofNat 64 (st * 2 ^ 61))] }

/-- A host to host copy of sixteen bytes, with an interrupt. -/
def hostCopy : List Byte := descBytes 0x100 0x200 16 0 11

/-- A copy of sixteen bytes within device memory, with an interrupt. -/
def deviceCopy : List Byte := descBytes 0x100 0x200 16 0 8

/-- It runs, for ASID 0, which maps the first 64 KiB to themselves. -/
def dmaRunning : State :=
  { (dmaRing 1 1 deviceCopy).onEngine 8 0 (fun g => { g with run := some deviceCopy }) with tlbs := [(8, [⟨0, 0, 0, 0xBF, 16⟩])] }

/-! ## Front-end queues -/

/-- A complete record 3 in the pool at 0x100000, in a state: one quay core, channel 15 declared, a fault area at 0x60000 (R282 to R287, R425). -/
def complete3 (state : Nat) : List (Nat × List Byte) :=
  [dwAt 0x100300 (state * 2 ^ 56 + 2 ^ 32 + 0x101), dwAt 0x100310 1, dwAt 0x100318 0, dwAt 0x100320 (2 ^ 52 + 0x20000), dwAt 0x100340 (10 * 2 ^ 16 + 5),
   dwAt 0x100350 (2 ^ 52 + 0x60000), dwAt 0x20008 0x30000, dwAt 0x20010 1, dwAt 0x20018 0x38000, dwAt 0x38000 0, dwAt 0x381E0 (2 ^ 48 + 2 ^ 32 + 0x8000), dwAt 0x381E8 (2 ^ 48),
   dwAt 0x50008 1]

/-- The descriptor of queue 0: its ring at 0x70000, sixteen entries, enabled, source 264, ASID 1, a leg table (R427). -/
def queueBytes : List Byte :=
  leBytes 8 0x70000 ++ [4, 0, 3, 0] ++ leBytes 2 1 ++ leBytes 2 (2 ^ 15 + 264) ++ leBytes 8 0 ++ leBytes 8 0x80000 ++ List.replicate 32 0

/-- A packet: its doublewords, padded to a number of entries. -/
def packetOf (n : Nat) (ws : List Nat) : List Byte := ws.flatMap (leBytes 8) ++ List.replicate (64 * n - 8 * ws.length) 0

/-- The front end is set up, queue 0 is resident and running with two entries posted, `p` at its head. -/
def queued (state : Nat) (p : List Byte) : State :=
  { having State.reset (identity ++ complete3 state ++ [(0x40000, queueBytes), (0x70000, p)]) with
    regs := [(.fepool, 0x100000), (.feqt, 0x40000), (.ferh, 0x50000), (.qtail 0, 2), (.qst 0, BitVec.ofNat 64 (2 ^ 61))]
    queues := [(0, { FQueue.reset with resident := true, desc := queueBytes })] }

/-- A header that asks for counter 5 of die 0 and an interrupt, of a kind, with an argument. -/
def headerOf (kind arg : Nat) : Nat := 2 ^ 63 + 5 * 2 ^ 32 + arg * 2 ^ 16 + 2 ^ 11 + kind

/-- A no-op packet. -/
def noopPacket : List Byte := packetOf 1 [headerOf 0 0]
/-- A launch packet of record 3. -/
def launchPacket (jw : Nat) : List Byte := packetOf 1 [headerOf 1 0 + jw * 2 ^ 10, 3]
/-- A fence packet whose entry asks for a count of counter 5 of die 0. -/
def fencePacket (n : Nat) : List Byte := packetOf 2 [headerOf 2 1 + 2 ^ 8, 0, 5 * 2 ^ 48 + n]
/-- A wait packet: the doubleword at virtual 0x90000 equals a value. -/
def waitPacket (v : Nat) : List Byte := packetOf 1 [headerOf 3 0, 0x90000, v, 0]
/-- A signal packet that stores. -/
def storePacket : List Byte := packetOf 1 [headerOf 4 0, 0x90000, 77]
/-- A signal packet to record 3. -/
def signalPacket : List Byte := packetOf 1 [headerOf 4 1, 3, 77]
/-- A leg packet of leg 6: record 3, count 1. -/
def legPacket : List Byte := packetOf 2 [headerOf 5 0 + 2 ^ 8, 2 ^ 32 + 3 * 2 ^ 16 + 6]

/-- Record 3 runs on the quay core beside the queue's packet. -/
def queuedBeside (p : List Byte) : State :=
  { queued 2 p with others := [(quay, { Core.reset quay with ctx := some ⟨3, 1, 0, false, false, false⟩ })]
                    jobs := [(3, { Job.empty with dies := [0], clusters := [0, 1, 2, 3], cores := [quay] })] }.onCoreAt quay
    fun c => c.onSlot 0 fun t => { t with run := .ready }

/-- A packet waits in queue 0. -/
def waitingIn (state : Nat) (p : List Byte) : State := (queued state p).onQueue 0 fun f => { f with waiting := some p, wrr := BitVec.ofNat 64 (2 ^ 63) }

/-- Queue 0 waits in a fence, every slot of its die is taken, and queue 1 is pending. -/
def crowded : State :=
  let s := { waitingIn 0 (fencePacket 1) with time := 100000 }
  let busy : List (Nat × FQueue) := (List.range 63).map fun i => (i + 2, { FQueue.reset with resident := true, desc := queueBytes })
  { s with queues := s.queues ++ [(1, FQueue.reset)] ++ busy, regs := (.qtail 1, 1) :: s.regs, dm := s.dm.write 0x40040 queueBytes }

/-- Leg 6 of queue 0 is stored with a count of zero. -/
def legStored : State := { queued 0 noopPacket with legs := [(6, ⟨0, 0, true, false, 3, [], []⟩)] }

/-- Queue 0 is pending. -/
def pendingQueue : State := { queued 0 noopPacket with queues := [(0, FQueue.reset)], regs := [(.feqt, 0x40000), (.qtail 0, 2), (.vfqos 0, 64)] }

/-! ## Lighthouses, mailboxes, virtualisation -/

/-- Die 8 leads and its renewal is due. -/
def leading : State := { State.reset with leader := some 8, time := 200000 }

/-- The lease of die `d` has run out, with the package divided or whole. -/
def lapsing (split : Option (List Nat)) (leader : Option Nat) : State := { State.reset with time := 1000000, split := split, leader := leader }

/-- Every lease has lapsed and the candidates' time has come. -/
def voting : State := { State.reset with time := 2000000, lights := (List.range 10).map fun d => (d, ⟨0, 0, 0, 0, 0, true, false, 0⟩) }

/-- Port 0's mailbox runs a command, with record 3 running on core zero; SIZE is 4 KiB and the dump buffer 1 MiB at 16 MiB. -/
def mailing (op arg : Nat) : State :=
  { running Job.empty with
    mail := [(0, BitVec.ofNat 64 (op * 2 ^ 56 + arg))], leader := some 8
    regs := [(.mbarg 0, 0x1000), (.fedump, BitVec.ofNat 64 (2 ^ 52 + 0x1000000))] }

/-- An invalidation of ASID 1 is in progress; core zero and die 0 hold entries of ASID 1 and 2. -/
def invalidating : State :=
  let e1 : TlbEntry := ⟨1, 0, 0x10000, 0xBF, 16⟩
  { (on quay).onCore fun c => { c with tlb := [e1, { e1 with asid := 2 }] } with
    inval := some (2, 1, 0, 0), tlbs := [(0, [e1, { e1 with asid := 2 }])], regs := [(.tlbst, BitVec.ofNat 64 (2 ^ 63))] }

/-- A page request of a requester is outstanding under tag 4. -/
def asked (who : Requester) : State := { on quay with prqs := [(4, who)] }

/-- The staged region table: regions 0 to 7 on a die each, region 9 with the attribute `b` (R454). -/
def staging (b : Nat) : State :=
  { State.reset with regs := (List.range 256).map fun r => (.region r, BitVec.ofNat 64 (if r < 8 then 4 * r else if r = 9 then b else 2)) }

/-- Regions 7 and 9 are to be cleared. -/
def clearing : State := { State.reset with clearing := [7, 9], dm := dmOf [(7 * 2 ^ 32, [1, 2]), (8 * 2 ^ 32, [3])], regs := [(.regcmt, BitVec.ofNat 64 (2 ^ 63))] }

/-- Function 5 owns queue 0 and DMA engine 0 of die 8, with work posted. -/
def function5 : State :=
  { State.reset with
    dm := dmOf [(0x40000, queueBytes.take 11 ++ [5] ++ queueBytes.drop 12)]
    queues := [(0, FQueue.reset)]
    regs := [(.feqt, 0x40000), (.qtail 0, 2), (.drcfg 8 0, BitVec.ofNat 64 (5 * 2 ^ 56)), (.drtail 8 0, 1)] }

/-- The reset of function 5 has been asked for and its source 264 is pending. -/
def draining : State :=
  { function5 with regs := [(.feqt, 0x40000), (.vfctl 5, BitVec.ofNat 64 (2 * 2 ^ 62)), (.irqsrc 264, BitVec.ofNat 64 (2 ^ 60))] }

/-! ## Scale-up, debug, boot -/

/-- A port that is up with a key, with the flits of its replay buffer. -/
def shumUp (replay : List Flit) : ShumPort :=
  ⟨true, 2, false, false, [some [1], none], [some [1], none], true, 2, [5, 0], replay, 0, none, (0, 0), []⟩

/-- A flit that was sent with one byte for an address. -/
def flitFor (pa : Nat) : Flit := ⟨0, false, pa, [1], []⟩

/-- Ports `ps` are up, in a domain whose device is 1, which device 2 may access everywhere. -/
def domain (ps : List Nat) : State :=
  { State.reset with
    shum := ps.map fun p => (p, shumUp [flitFor 0x800])
    dm := dmOf [(0x2040, List.replicate 32 0xFF)]
    leader := some 8
    regs := [(.domid, 0x101)] }

/-- Record 3 runs on core zero and spans two devices. -/
def spanning : State :=
  let s := running Job.empty
  { s with dm := s.dm.write 0x318 (leBytes 8 (0x1F1F0000 + 1)), regs := [(.domid, 0x101)] }

/-- A collective descriptor: a sum of two 64-bit integers over group 0, from 0x1000 to 0x2000. -/
def collDesc : List Byte := leBytes 8 0x1000 ++ leBytes 8 0x2000 ++ leBytes 4 2 ++ [0, 5, 0, 0] ++ List.replicate 40 0

/-- The collective ring of die 8 at 0x8000, with `d` posted; EN and STATE as given. Group 0 is devices 1 and 2. -/
def collRing (en st : Nat) (d : List Byte) : State :=
  { State.reset with
    dm := dmOf (identity ++ [(0x8000, d), (0x9200, [6]), dwAt 0x1000 5])
    regs := [(.domid, 0x101), (.grpb, 0x9200), (.crbase 8, 0x8000), (.crcfg 8, BitVec.ofNat 64 (en * 2 ^ 63 + 1)), (.crtail 8, 1),
      (.crst 8, BitVec.ofNat 64 (st * 2 ^ 61))] }

/-- It runs. -/
def collRunning : State := { collRing 1 2 collDesc with coll := [(8, { Engine.reset with run := some collDesc })] }

/-- The debug module of the core in focus is on, in halt group 1, in trap mode or not; breakpoint 0 stands at the slot's pc. -/
def debugging (trap : Nat) : State :=
  { (having (holding (on quay)) (identity ++ record 2)).onCore (fun c => { c with icache := [⟨1, 0x1000, [0x80000000]⟩] }) with
    regs := [(.dctl quay, BitVec.ofNat 64 (2 ^ 15 + trap * 2 ^ 13 + 2 ^ 12 + 1)), (.bp quay 0, BitVec.ofNat 64 (2 ^ 63 + 2 ^ 59 + 0x1000)), (.dsel quay, 0x800)] }

/-- It is halted. -/
def halted (sel : Nat) : State :=
  { (on quay).onCore (fun c => { c with dbg := { c.dbg with halted := true, cause := 1 } }) with
    regs := [(.dsel quay, BitVec.ofNat 64 sel), (.dctl quay, BitVec.ofNat 64 (2 ^ 15 + 2 ^ 12 + 1))] }

/-- A pulse of Tidemark is due. -/
def pulsing : State := { State.reset with time := 100, regs := [(.tmctl, 3), (.tmsize, 1), (.tmbase, 0x100000)] }

/-- Semaphore 1 is held by port 0. -/
def guarded : State := { semaphore 1 with leader := some 8 }

/-- Record 3 runs and its ASID names key slot 2. -/
def keyUser : State := let s := running Job.empty; { s with dm := s.dm.write 0x19 [2] }

/-! ## Matrix queues, streams, copies, channels -/

/-- A command of a class with a descriptor `c` for its `.c` word. -/
def mcmd (cls : Nat) (p q c : Word) : MCmd := ⟨cls, p, q, c, 0, 1, [], [], [], 0, none, false, 0⟩

/-- Core zero's queue holds a command. -/
def queueing (m : MCmd) : State := (on coreZero).onCore fun c => { c with mq := { c.mq with cmds := [m], next := 2 } }

/-- Operand words of ternary rows: format 9 at 0x100 and 0x200 of the core, row stride 32. -/
def operandWord (fmt off : Nat) : Word := BitVec.ofNat 64 (fmt * 2 ^ 59 + 32 * 2 ^ 32 + 0x4000000 + off)

/-- M 2, N 3, K 128, slot 0. -/
def shape : Word := BitVec.ofNat 64 (128 * 2 ^ 48 + 1 * 2 ^ 40 + 2 * 2 ^ 32)

/-- A multiply-accumulate of bytes. -/
def mmac2 : MCmd := mcmd 1 (operandWord 9 0x100) (operandWord 9 0x200) shape

/-- Slot 0 waits for a matrix command to be accepted. -/
def accepting : State :=
  (on coreZero).onCore fun c =>
    { c.onSlot 0 fun t => { t.onLat .mx (fun l => { l with c := shape }) with run := .blocked, wait := some ⟨.mx, 4, none, []⟩ } with
      mq := { c.mq with waiting := [(0, [])], accFirst := 0, accCount := 2 } }

/-- The head's operands have been fetched. -/
def fetched : State :=
  let s := (queueing mmac2).onCore fun c => { c with mem := (c.mem.write 0x100 [1, 2, 3]).write 0x200 [4, 5, 6] }
  s.onHead fun m => { m with buf := some (s.fetchStep m) }

/-- A head of a class whose steps have ended, with a lock of its own and one of another command. -/
def endedCmd (cls : Nat) : State :=
  (queueing { mcmd cls (operandWord 0 0x400) 0 shape with ended := true }).onCore fun c =>
    { c with ranges := [⟨0x400, 0x41F, true, queueParty c, 1⟩, ⟨0x500, 0x51F, false, queueParty c, 0⟩] }

/-- A stream record: one run of 32 bytes from 0x1000 to berth 2 of the core with logical index 0, completing counter 5. -/
def streamBytes (start : Nat) : List Byte :=
  leBytes 8 0x1000 ++ leBytes 8 0 ++ leBytes 4 32 ++ leBytes 2 1 ++ leBytes 2 1 ++ leBytes 2 1 ++ leBytes 2 1 ++ List.replicate 16 0 ++ leBytes 4 2 ++
    leBytes 4 0 ++ leBytes 4 0 ++ leBytes 4 0 ++ leBytes 2 start ++ leBytes 2 (2 ^ 15 + 5)

/-- The stream engine of quay core 0, whose job has core zero with a berth of 32-byte slots. -/
def streaming (e : Stream) : State :=
  { (having (holding (on quay)) (identity ++ record 2 ++ [(0x1000, [1, 2, 3])])).onCoreAt coreZero (fun c =>
      { c with berths := c.berths.set 2 (some ⟨0x100, 32, 4, 0, 0, 0x0C0000, 0x020000, 1⟩) }) with
    jobs := [(3, { Job.empty with dies := [0], clusters := [0, 1, 2, 3], cores := [quay, coreZero] })] }.onStream fun _ => e

/-- An idle engine. -/
def idleStream : Stream := ⟨[], none, none, 1, 0, 0, 0, [], []⟩

/-- A record runs. -/
def runStream (started : Bool) (start : Nat) (done : List (Nat × Nat)) : State :=
  streaming { idleStream with run := some ⟨streamBytes start, 0, started, done, [], 0, 0, false⟩ }

/-- A copy of quay core 0 on its way. -/
def copying : Copy := ⟨quay, 0, coreZero, 0x80, [1, 2, 3, 4], none, some 5⟩

/-- A channel with `n` entries of a state at 0x800. -/
def chanOf (n : Nat) (st : EntryState) (mark : Option (Nat × MatchEntry)) : Channel :=
  { Channel.reset with declared := true, base := 0x800, entries := List.replicate n ⟨st, 0, mark⟩ }

/-- Core zero has channel `i`. -/
def withChan (s : State) (i : Fin 16) (c : Channel) : State := s.onCore fun k => { k with chans := k.chans.set i c }

/-- A message to core zero's channel 3 on its way. -/
def messaging : State :=
  { withChan (on coreZero) 3 (chanOf 2 .reserved none) with msgs := [⟨none, quay, 0, coreZero, 3, some 1, 0, 0x1234, 0, [1, 2, 3, 4, 5, 6, 7, 8]⟩] }

/-- An entry of channel 3 that matched entry 2 of the match table. -/
def releasing : State :=
  (withChan (on coreZero) 3 (chanOf 1 .arrived (some (2, ⟨0, 0x4003, 7⟩)))).onCore fun c => { c with matchTab := c.matchTab.set 2 (some ⟨0, 0x4003, 7⟩) }

/-- A notice waits outside core zero. -/
def noticing : State := (withChan (on coreZero) 15 (chanOf 1 .free none)).onCore fun c => { c with outside := [⟨1, 2, 3⟩] }

/-- Quay core 0 holds record 3 and has an activation of a helper queued. -/
def activating : State := quay3.onCore fun c => { c with actq := [⟨1, 0x2000, 5, 6, 0, none, none⟩] }

end Sys2Proof.Tests
end

