-- ==== Sys2Proof/Tests/Decided.lean ====
section
/-! SUPPORT. Tests: the hypotheses of the statements of Certificates/Slice0/Obligations.lean, computed on a state. -/

set_option autoImplicit false
set_option Elab.async false

namespace Sys2Proof.Tests

open Sys2Proof.Machine Sys2Proof.Claims

/-! ## Hypotheses, decided -/

/-- `Reads`, computed. -/
def reads (h : Hdr) (s : State) : Bool :=
  s.bus.isNone && s.sl.run == .issuing && carried s.coreId.kind (srcUnit (s.srcOf h)) && s.validSrc (s.srcOf h) && !s.srcStall (s.srcOf h)

/-- `Goes`, computed. -/
def goes (u : FU) (opc : Nat) (h : Hdr) (s : State) : Bool :=
  reads h s && s.coreId.kind.carries u && !s.unitStall u opc && s.sl.takes h

theorem reads_of {h : Hdr} {s : State} (e : reads h s = true) : Reads h s := by
  simp only [reads, Bool.and_eq_true, Bool.not_eq_true', beq_iff_eq, Option.isNone_iff_eq_none] at e
  obtain ⟨⟨⟨⟨e1, e2⟩, e3⟩, e4⟩, e5⟩ := e
  exact ⟨e1, e2, e3, e4, e5⟩

theorem goes_of {u : FU} {opc : Nat} {h : Hdr} {s : State} (e : goes u opc h s = true) : Goes u opc h s := by
  simp only [goes, Bool.and_eq_true, Bool.not_eq_true'] at e
  obtain ⟨⟨⟨e1, e2⟩, e3⟩, e4⟩ := e
  exact ⟨reads_of e1, e2, e3, e4⟩

/-- What a computed test says of every row of a table. -/
theorem every {α : Type} {l : List α} {p : α → Bool} {P : α → Prop} (k : ∀ a, p a = true → P a) (h : l.all p = true) : ∀ a ∈ l, P a :=
  fun a m => k a (List.all_eq_true.mp h a m)

/-- `Settled`, computed. -/
def settled (s : State) : Bool :=
  decide (s.sl.sb = []) && s.pushes.all (fun p => !s.isMine p) && s.pulls.all (fun p => !s.isMine p) && decide (s.core.outside = []) &&
    decide (s.unseen = [])

theorem settled_of {s : State} (e : settled s = true) : Settled s := by
  simp only [settled, Bool.and_eq_true, List.all_eq_true, Bool.not_eq_true', decide_eq_true_eq] at e
  obtain ⟨⟨⟨⟨e1, e2⟩, e3⟩, e4⟩, e5⟩ := e
  exact ⟨e1, e2, e3, e4, e5⟩

/-- Nothing of the slot in focus holds back a wait: it runs no handler, and its core writes no trace. -/
def patient (s : State) : Bool := !s.sl.inh && !bit (s.reg (.trctl s.coreId)) 0 && s.sl.wait.isNone

theorem patient_of {s : State} (e : patient s = true) : s.untraced ∧ MayWait s ∧ s.sl.wait = none := by
  simp only [patient, Bool.and_eq_true, Bool.not_eq_true', Option.isNone_iff_eq_none] at e
  obtain ⟨⟨e1, e2⟩, e3⟩ := e
  exact ⟨e2, fun k => by rw [e1] at k; exact absurd k.1 (by decide), e3⟩

/-- A move of one word from an x register, its guard always taking it. -/
def hx (n : Fin 32) : Hdr := ⟨true, false, 0, .x n⟩

/-- Core zero with a value in x5 and operand latches of a unit. -/
def giving (u : FU) (a b t : Word) : State :=
  (on coreZero).onSl fun k => ({ k with x := k.x.set 5 t }).onLat u fun l => { l with a := a, b := b }

/-- An answer that is a value. -/
def fine {ε α : Type} : Except ε α → Bool
  | .ok _ => true
  | .error _ => false

theorem ok_of {ε α : Type} {e : Except ε α} (h : fine e = true) : ∃ a, e = .ok a := by
  cases e with
  | ok a => exact ⟨a, rfl⟩
  | error _ => cases h

theorem error_of {ε α : Type} {e : Except ε α} (h : fine e = false) : ∃ a, e = .error a := by
  cases e with
  | ok _ => cases h
  | error a => exact ⟨a, rfl⟩

end Sys2Proof.Tests
end

