-- ==== Sys2Proof/Tests/Meets1.lean ====
section
/-! SUPPORT. Tests: witnesses. Each theorem shows states and operands that meet the hypotheses of the statements on the scalar units, moves, bundles and traps. -/

set_option autoImplicit false
set_option Elab.async false

namespace Sys2Proof.Tests

open Sys2Proof.Machine Sys2Proof.Claims

/-! ## Statements about moves, traps and the integer units -/

/-- IntegerResults: every operation goes out on either unit. -/
theorem meets_integer : ∀ r ∈ arithmeticTable ++ comparisonTable ++ fieldTable,
    Goes .ia r.1 (hx 5) (giving .ia 7 8 9) ∧ Goes .ib r.1 (hx 5) (giving .ib 7 8 9) :=
  every (p := fun r => goes .ia r.1 (hx 5) (giving .ia 7 8 9) && goes .ib r.1 (hx 5) (giving .ib 7 8 9))
    (fun _ e => by rw [Bool.and_eq_true] at e; exact ⟨goes_of e.1, goes_of e.2⟩) (by decide +kernel)

/-- AddressResults: every operation has an answer. -/
theorem meets_address : ∀ r ∈ addressTable, let s := giving .ag 1 0 8
    Goes .ag r.1 (hx 5) s ∧ ∃ q, r.2.2 s.coreId.kind s.core (s.lat .ag).a (s.moved64 (hx 5)) = .ok q :=
  every (p := fun r => let s := giving .ag 1 0 8
      goes .ag r.1 (hx 5) s && fine (r.2.2 s.coreId.kind s.core (s.lat .ag).a (s.moved64 (hx 5))))
    (fun _ e => by simp only [Bool.and_eq_true] at e; exact ⟨goes_of e.1, ok_of e.2⟩) (by decide +kernel)

/-- Operands at which an address operation, named by its row, traps: the ends of 56 bits, codes 16 up, cores and coordinates out of
range. -/
def addressLimits : List (Nat × State) :=
  [(0, giving .ag 0 0 (-1)), (0, giving .ag 0xFFFFFFFFFFFFFF 0 1), (2, giving .ag 0 0 0x80), (6, giving .ag 0x8000000000000000 0 1),
   (6, giving .ag (0xB * 2 ^ 59) 0 1), (7, giving .ag 256 0 0), (7, giving .ag 0 0 0x30000), (8, giving .ag 0 0 0x30000), (9, giving .ag 0 0 16)]

/-- AddressResults: the traps. -/
theorem meets_address_traps : ∀ p ∈ addressLimits, ∃ r, addressTable[p.1]? = some r ∧ Goes .ag r.1 (hx 5) p.2 ∧
    ∃ x, r.2.2 p.2.coreId.kind p.2.core (p.2.lat .ag).a (p.2.moved64 (hx 5)) = .error x :=
  every (p := fun p => match addressTable[p.1]? with
      | some r => goes .ag r.1 (hx 5) p.2 && !fine (r.2.2 p.2.coreId.kind p.2.core (p.2.lat .ag).a (p.2.moved64 (hx 5)))
      | none => false)
    (fun p e => by
      revert e
      cases addressTable[p.1]? with
      | none => intro e; cases e
      | some r => intro e; simp only [Bool.and_eq_true, Bool.not_eq_true'] at e; exact ⟨r, rfl, goes_of e.1, error_of e.2⟩) (by decide +kernel)

/-- MultiplyDivideResults: every form goes out, with the operands of the overflow. -/
theorem meets_multiply :
    (∀ r ∈ multiplyTable, Goes .mu r.1 (hx 5) (giving .mu 0x8000000000000000 0 (-1))) ∧
      ∀ r ∈ divideTable, Goes .mu r.1 (hx 5) (giving .mu 0x8000000000000000 0 (-1)) :=
  ⟨every (p := fun r => goes .mu r.1 (hx 5) (giving .mu 0x8000000000000000 0 (-1))) (fun _ e => goes_of e) (by decide +kernel),
   every (p := fun r => goes .mu r.1 (hx 5) (giving .mu 0x8000000000000000 0 (-1))) (fun _ e => goes_of e) (by decide +kernel)⟩

/-- BranchResults and ControlTraps: branches to an aligned target and to one that is not. -/
theorem meets_branch : ∀ r ∈ branchTable,
    (Goes .cf r.1 (hx 5) (giving .cf 0 0 8) ∧ (giving .cf 0 0 8).untraced ∧ (r.2.2.1 (giving .cf 0 0 8) (hx 5)).toNat % 4 = 0) ∧
      Goes .cf r.1 (hx 5) (giving .cf 0 0 6) ∧ (r.2.2.1 (giving .cf 0 0 6) (hx 5)).toNat % 4 ≠ 0 :=
  every (p := fun r => goes .cf r.1 (hx 5) (giving .cf 0 0 8) && patient (giving .cf 0 0 8) &&
      decide ((r.2.2.1 (giving .cf 0 0 8) (hx 5)).toNat % 4 = 0) && goes .cf r.1 (hx 5) (giving .cf 0 0 6) &&
      decide ((r.2.2.1 (giving .cf 0 0 6) (hx 5)).toNat % 4 ≠ 0))
    (fun _ e => by
      simp only [Bool.and_eq_true, decide_eq_true_eq] at e
      obtain ⟨⟨⟨⟨e1, e2⟩, e3⟩, e4⟩, e5⟩ := e
      exact ⟨⟨goes_of e1, (patient_of e2).1, e3⟩, goes_of e4, e5⟩) (by decide +kernel)

/-- LoopResults: a loop that runs and one of no passes on either level, a repetition, and a break that is caught or not. -/
theorem meets_loops :
    (∀ level1 : Bool, Goes .cf (if level1 then 0x09 else 0x08) (hx 5) (giving .cf 2 0 4) ∧ loopTrap level1 (giving .cf 2 0 4) (hx 5) = none ∧
      ((giving .cf 2 0 4).lat .cf).a ≠ 0) ∧
    (∀ level1 : Bool, Goes .cf (if level1 then 0x09 else 0x08) (hx 5) (giving .cf 0 0 4) ∧ loopTrap level1 (giving .cf 0 0 4) (hx 5) = none ∧
      ((giving .cf 0 0 4).lat .cf).a = 0) ∧
    (let s := giving .cf 0x3040A 0 0x30001
     Goes .cf 0x0A (hx 5) s ∧
       repTrap s (hx 5) ((s.latched .cf (hx 5)).bundleAddrs ((s.moved64 (hx 5)).toNat % 16 + 1) (s.nextPc (hx 5)).toNat) = none) ∧
    Goes .cf 0x0F (hx 5) (giving .cf 0 0 4) :=
  ⟨by intro l; cases l <;> exact ⟨goes_of (by decide +kernel), by decide +kernel, by decide +kernel⟩,
   by intro l; cases l <;> exact ⟨goes_of (by decide +kernel), by decide +kernel, by decide +kernel⟩,
   ⟨goes_of (by decide +kernel), by decide +kernel⟩, goes_of (by decide +kernel)⟩

/-- ControlTraps: an end before the body, a count beyond 32 bits, and words of `rep` that break a rule. -/
theorem meets_control_traps :
    (∀ level1 : Bool, (Goes .cf (if level1 then 0x09 else 0x08) (hx 5) (giving .cf 2 0 0) ∧
        loopTrap level1 (giving .cf 2 0 0) (hx 5) = some (0x02, 0)) ∧
      Goes .cf (if level1 then 0x09 else 0x08) (hx 5) (giving .cf 0x100000000 0 4) ∧
        loopTrap level1 (giving .cf 0x100000000 0 4) (hx 5) = some (0x02, 0x100000000)) ∧
    (∀ s ∈ [giving .cf 0x80000 0 0, giving .cf 0x0100 0 0, giving .cf 0 0 0x10], Goes .cf 0x0A (hx 5) s ∧
      (repTrap s (hx 5) ((s.latched .cf (hx 5)).bundleAddrs ((s.moved64 (hx 5)).toNat % 16 + 1) (s.nextPc (hx 5)).toNat)).isSome = true) :=
  ⟨by intro l; cases l <;> exact ⟨⟨goes_of (by decide +kernel), by decide +kernel⟩, goes_of (by decide +kernel), by decide +kernel⟩,
   every (p := fun s => goes .cf 0x0A (hx 5) s &&
      (repTrap s (hx 5) ((s.latched .cf (hx 5)).bundleAddrs ((s.moved64 (hx 5)).toNat % 16 + 1) (s.nextPc (hx 5)).toNat)).isSome)
    (fun _ e => by simp only [Bool.and_eq_true] at e; exact ⟨goes_of e.1, e.2⟩) (by decide +kernel)⟩

/-- MoveResults: destinations of every kind, with a guard that takes the move and one that does not. -/
theorem meets_moves : ∀ d ∈ ([.x 0, .x 5, .v 31, .o 7, .g 3, .port .vp .a, .port .ia .b, .port .mx .c] : List Dst),
    let s := on coreZero
    (Reads (hx 5) s ∧ movable d = true ∧ carried s.coreId.kind (dstUnit d) = true ∧ s.sl.takes (hx 5) = true ∧
      s.dstStall (renameDst s.sl.csr.rpc d) = false) ∧
    Reads ⟨true, false, 1, .x 5⟩ s ∧ s.sl.takes ⟨true, false, 1, .x 5⟩ = false :=
  every (p := fun d => let s := on coreZero
      reads (hx 5) s && movable d && carried s.coreId.kind (dstUnit d) && s.sl.takes (hx 5) && !s.dstStall (renameDst s.sl.csr.rpc d) &&
        reads ⟨true, false, 1, .x 5⟩ s && !s.sl.takes ⟨true, false, 1, .x 5⟩)
    (fun _ e => by
      simp only [Bool.and_eq_true, Bool.not_eq_true'] at e
      obtain ⟨⟨⟨⟨⟨⟨e1, e2⟩, e3⟩, e4⟩, e5⟩, e6⟩, e7⟩ := e
      exact ⟨⟨reads_of e1, e2, e3, e4, e5⟩, reads_of e6, e7⟩) (by decide +kernel)

/-- A multiply is in flight in the slot in focus. -/
def multiplying : State :=
  (on coreZero).onSl fun t => t.onLat .mu fun l => { l with valid := true, fly := some ⟨1, 0, 3, 3, 0, 0⟩ }

/-- TriggersThatDoNotStart: a guard that does not take a trigger; a result in flight, a busy unit, and a latch that is held. -/
theorem meets_not_started :
    (triggerOf (.iaAdd ⟨true, false, 1, .x 5⟩) = some (.ia, 1, ⟨true, false, 1, .x 5⟩) ∧ FU.ia.assigns 1 = true ∧
      Reads ⟨true, false, 1, .x 5⟩ (on coreZero) ∧ (on coreZero).coreId.kind.carries .ia = true ∧
      (on coreZero).sl.takes ⟨true, false, 1, .x 5⟩ = false) ∧
    (let s := multiplying
     let h : Hdr := ⟨true, false, 0, .port .mu .q⟩
     s.bus = none ∧ s.coreId.kind.carries .ia = true ∧ carried s.coreId.kind (srcUnit (s.srcOf h)) = true ∧
       s.validSrc (s.srcOf h) = true ∧ s.srcStall (s.srcOf h) = true) ∧
    (let s := multiplying
     s.bus = none ∧ s.validSrc (s.srcOf (hx 5)) = true ∧ s.sl.takes (hx 5) = true ∧ s.unitStall .mu 1 = true ∧
       s.dstStall (renameDst s.sl.csr.rpc (.port .mu .a)) = true) := by
  refine ⟨⟨rfl, by decide +kernel, reads_of (by decide +kernel), by decide +kernel, by decide +kernel⟩, ?_, ?_⟩ <;> decide +kernel

/-- UnitChecksTrap: a unit that a quay core lacks, and a result that nothing has made. -/
theorem meets_unit_checks :
    (let s := on quay
     s.bus = none ∧ triggerOf (.vpAdd (hx 5)) = some (.vp, 0x10, hx 5) ∧ FU.vp.assigns 0x10 = true ∧
       ¬ (carried s.coreId.kind (srcUnit (s.srcOf (hx 5))) = true ∧ carried s.coreId.kind (some .vp) = true)) ∧
    (let s := on coreZero
     let h : Hdr := ⟨true, false, 0, .port .ia .q⟩
     s.bus = none ∧ carried s.coreId.kind (srcUnit (s.srcOf h)) = true ∧ carried s.coreId.kind (dstUnit (.x 5)) = true ∧
       s.validSrc (s.srcOf h) = false) := by
  refine ⟨⟨by decide +kernel, rfl, by decide +kernel, by decide +kernel⟩, by decide +kernel⟩

/-- IllegalWordsTrap. -/
theorem meets_illegal :
    (Reads (hx 5) (on coreZero) ∧ (on coreZero).coreId.kind.carries .ia = true) ∧ (on coreZero).bus = none ∧
      (on coreZero).sl.pc.toNat < 2 ^ 52 - 64 :=
  ⟨⟨reads_of (by decide +kernel), by decide +kernel⟩, by decide +kernel, by decide +kernel⟩

/-- BundleReadsBeforeItWrites: x5 and x6. -/
theorem meets_exchange :
    let ms : List (HWord × List HWord) := [(0x80180500, []), (0x80140600, [])]
    let mv : List (Hdr × Dst) := [(hx 5, .x 6), (hx 6, .x 5)]
    let s := on coreZero
    2 ≤ ms.length ∧ s.bus = none ∧ (ms.map fun m => decodeMove m.1 m.2) = mv.map (fun m => .move m.1 m.2) ∧
      s.bundleFault (ms.map fun m => (renameWord s.sl.csr.rpc m.1, m.2)) = none ∧
      ∀ m ∈ mv, movable m.2 = true ∧ s.srcStall (s.srcOf m.1) = false ∧
        (s.sl.takes m.1 = true → s.dstStall (renameDst s.sl.csr.rpc m.2) = false) := by
  decide +kernel

/-- Core zero with the line of its next bundle in its instruction cache. -/
def cached : State := (on coreZero).onCore fun c => { c with icache := [⟨0, 0x1000, [0x80000000]⟩] }

/-- StepRunsTheDecodedMove. -/
theorem meets_step :
    let c := cached.toIssue
    let s1 := c.nextBundle.1
    cached.inbox = [] ∧ c.core.dbg.halted = false ∧ c.core.dbg.step = false ∧ c.still c.core = false ∧ c.core.swap = 0 ∧
      (c.sl.run = .ready ∨ c.sl.run = .issuing) ∧ c.sl.bubble = 0 ∧ c.sl.reissue = [] ∧
      c.nextBundle = (s1, .bundle [(0x80000000, [])] 1) ∧ s1.standing.breaks = none := by
  decide +kernel

/-! ## Traps and returns -/

/-- An image whose guard 0 is set, all else zero, with its TAG, at an address. -/
def imagePieces (a : Nat) : List (Nat × List Byte) :=
  [dwAt (a + 0x5D0) 1, dwAt (a + 0x7F8) (imageTag ((List.range 255).map fun i => if i = 186 then 1 else 0)).toNat]

/-- Slot 0 of core zero in a handler, as `estat` says, both vectors on, with a good image of a program whose own `estat` was 0. -/
def handling (estat : Nat) : State :=
  ((on coreZero).onSl fun t =>
      { t with csr := { t.csr with estat := BitVec.ofNat 64 estat, svec := 0x2001, uvec := 0x3001, epc := 0x4000 } }).onCore fun c =>
    { c with mem := dmOf (imagePieces 0x2D000) }

/-- The same, its core holding a context. -/
def handlingJob (estat : Nat) : State := (handling estat).onCore fun c => { c with ctx := some ⟨3, 1, 0, false, false, false⟩ }

/-- FirstLevelTrapEntry: through `uvec`, and through `svec`. -/
theorem meets_trap_entry :
    let s := handling 0
    s.sl.inh = false ∧ trapLevel s 0x0B = 0 ∧ trapLevel s 0x07 = 1 ∧ bit s.sl.csr.svec 0 = true := by
  decide +kernel

/-- TrapsInHandlers: in a user handler, and in a supervisor handler. -/
theorem meets_nested :
    (let s := handling 1
     s.sl.inh = true ∧ s.sl.hlvl = 0 ∧ bit s.sl.csr.svec 0 = true ∧ s.core.locks = [] ∧ s.sl.wait = none) ∧
    (let s := handlingJob 0x101
     s.sl.inh = true ∧ s.sl.hlvl ≠ 0 ∧ s.core.ctx = some ⟨3, 1, 0, false, false, false⟩) := by
  decide +kernel

/-- The same, its image with a bit that must read 0. -/
def handlingBad : State := (handling 0x101).onCore fun c =>
  { c with mem := dmOf [dwAt 0x2D5D0 0x11, dwAt 0x2D7F8 (imageTag ((List.range 255).map fun i => if i = 186 then 0x11 else 0)).toNat] }

/-- Its save area holds an error that was not corrected. -/
def handlingSpoilt : State := (handling 0x101).onCore fun c => { c with badAreas := [0] }

/-- TrapReturn: from a first-level handler, from a nested one, with PARK; outside a handler; a TAG that does not match, and a field that breaks
a check. -/
theorem meets_return : ∀ e ∈ [0x101, 0x501, 0x901], let s := handling e
    Goes .sy 0x25 (hx 0) s ∧ s.untraced ∧ s.sl.inh = true ∧ Restorable s ∧ ¬ (s.sl.kind = 3 ∧ s.sl.key = none) ∧ s.core.ctx = none ∧
      bit s.sl.csr.estat 11 = decide (e = 0x901) ∧ bit s.sl.csr.estat 10 = decide (e = 0x501) := by
  intro e m
  have k : (([0x101, 0x501, 0x901] : List Nat).all fun e => let s := handling e
      goes .sy 0x25 (hx 0) s && !bit (s.reg (.trctl s.coreId)) 0 && s.sl.inh && s.sl.badImage.isNone &&
      !s.core.badAreas.contains s.core.cur.val && decide (imageTag ((imageOf s).take 255) = dwordAt (imageOf s) 255 ∧ imageFault s.coreId.kind (imageOf s) s.sl.hlvl = none) &&
      decide (s.sl.kind ≠ 3 ∧ s.core.ctx = none ∧
        bit s.sl.csr.estat 11 = decide (e = 0x901) ∧ bit s.sl.csr.estat 10 = decide (e = 0x501))) = true := by decide +kernel
  have := List.all_eq_true.mp k e m
  simp only [Bool.and_eq_true, Bool.not_eq_true', decide_eq_true_eq] at this
  obtain ⟨⟨⟨⟨⟨⟨k1, k2⟩, k3⟩, k4⟩, k4'⟩, k5, k6⟩, k7, k8, k9, k10⟩ := this
  exact ⟨goes_of k1, k2, k3, ⟨Option.isNone_iff_eq_none.mp k4, k4', k5, k6⟩, fun h => k7 h.1, k8, k9, k10⟩

theorem meets_no_return :
    (Goes .sy 0x25 (hx 0) (handling 0) ∧ (handling 0).sl.inh = false) ∧
    (let s := (handling 0x101).onCore fun c => { c with mem := [] }
     Goes .sy 0x25 (hx 0) s ∧ s.sl.inh = true ∧ ImageBad s) ∧
    (Goes .sy 0x25 (hx 0) handlingSpoilt ∧ handlingSpoilt.sl.inh = true ∧ ImageBad handlingSpoilt) ∧
    (let s := handlingBad
     Goes .sy 0x25 (hx 0) s ∧ s.sl.inh = true ∧ ¬ ImageBad s ∧ imageFault s.coreId.kind (imageOf s) s.sl.hlvl = some 0x5D0) := by
  refine ⟨⟨goes_of (by decide +kernel), by decide +kernel⟩,
    ⟨goes_of (by decide +kernel), by decide +kernel, .inr (.inr (by decide +kernel))⟩,
    ⟨goes_of (by decide +kernel), by decide +kernel, .inr (.inl (by decide +kernel))⟩, goes_of (by decide +kernel), by decide +kernel, ?_, by decide +kernel⟩
  have k : handlingBad.sl.badImage = none ∧ handlingBad.core.badAreas.contains handlingBad.core.cur.val = false ∧
      imageTag ((imageOf handlingBad).take 255) = dwordAt (imageOf handlingBad) 255 := by decide +kernel
  rintro (h | h | h)
  · rw [k.1] at h; cases h
  · rw [k.2.1] at h; cases h
  · exact h k.2.2

end Sys2Proof.Tests
end

