-- ==== Sys2Proof/Tests/Meets2.lean ====
section
/-! SUPPORT. Tests: witnesses. Each theorem shows states and operands that meet the hypotheses of the statements on the scratchpad and vector units. -/

set_option autoImplicit false
set_option Elab.async false

namespace Sys2Proof.Tests

open Sys2Proof.Machine Sys2Proof.Claims

/-! ## Scratchpad unit -/

/-- Core zero with x5 an address, its lock bits, tags and berths as given. -/
def padded (a b t : Word) (f : Core → Core) : State := (giving .ls a b t).onCore f

/-- A bit that nothing holds stands open. -/
theorem lockOpen_of {s : State} {c : CoreId} {off : Nat} (h : (s.coreAt c).holder (lockBit off) = none) : LockOpen s c off :=
  fun q e => by rw [h] at e; cases e

/-- AddressChecks: what each check stops, and, where it has a boundary, what it lets pass. -/
theorem meets_address_checks : ∀ x ∈ ([(0x8000000, 8, false, 0x07), (0x40000, 8, false, 0x07), (0x402FFF9, 8, false, 0x07), (0x402D000, 8, true, 0x03),
      (0x4000101, 2, false, 0x06), (0x402C840, 8, true, 0x07), (0x4000500, 8, false, 0x0B), (0x400051C, 4, true, 0x0B)] :
      List (Word × Nat × Bool × Nat)),
    accessPlace (padded 1 2 x.1 fun c => { c with berths := c.berths.set 2 (some ⟨0x100, 32, 4, 0, 0, 0, 0, 0⟩), ranges := [⟨0x500, 0x51F, true, 5, 0⟩] })
      x.1 x.2.1 x.2.2.1 = .error x.2.2.2 := by
  decide +kernel

/-- AddressChecks: every access with an address beyond the core, and the two orders of the lock that raise ILLEGAL_OP. -/
theorem meets_access_traps :
    (∀ r ∈ loadTable, Goes .ls r.1 (hx 5) (giving .ls 1 2 0x8000000) ∧
      accessPlace (giving .ls 1 2 0x8000000) ((giving .ls 1 2 0x8000000).moved64 (hx 5)) r.2.2.1 false = .error 0x07) ∧
    (∀ r ∈ storeTable, Goes .ls r.1 (hx 5) (giving .ls 1 2 0x8000000) ∧
      accessPlace (giving .ls 1 2 0x8000000) ((giving .ls 1 2 0x8000000).moved64 (hx 5)) r.2.2.1 true = .error 0x07) ∧
    (∀ r ∈ atomicTable, Goes .ls r.1 (hx 5) (giving .ls 1 2 0x8000000) ∧
      accessPlace (giving .ls 1 2 0x8000000) ((giving .ls 1 2 0x8000000).moved64 (hx 5)) 8 true = .error 0x07) ∧
    (let s := (giving .ls 1 2 0x4000100).onSl fun k => { k with link := some (coreZero, 0x108) }
     Goes .ls 0x20 (hx 5) s ∧ Goes .ls 0x21 (hx 5) s ∧ s.sl.link.isSome = true ∧
       accessPlace s (s.moved64 (hx 5)) 8 true = .ok (coreZero, 0x100) ∧ s.sl.link ≠ some (coreZero, 0x100)) := by
  refine ⟨every (p := fun r => goes .ls r.1 (hx 5) (giving .ls 1 2 0x8000000) &&
        decide (accessPlace (giving .ls 1 2 0x8000000) ((giving .ls 1 2 0x8000000).moved64 (hx 5)) r.2.2.1 false = .error 0x07))
      (fun _ e => ?_) (by decide +kernel),
    every (p := fun r => goes .ls r.1 (hx 5) (giving .ls 1 2 0x8000000) &&
        decide (accessPlace (giving .ls 1 2 0x8000000) ((giving .ls 1 2 0x8000000).moved64 (hx 5)) r.2.2.1 true = .error 0x07))
      (fun _ e => ?_) (by decide +kernel),
    every (p := fun r => goes .ls r.1 (hx 5) (giving .ls 1 2 0x8000000) &&
        decide (accessPlace (giving .ls 1 2 0x8000000) ((giving .ls 1 2 0x8000000).moved64 (hx 5)) 8 true = .error 0x07))
      (fun _ e => ?_) (by decide +kernel),
    goes_of (by decide +kernel), goes_of (by decide +kernel), by decide +kernel, by decide +kernel, by decide +kernel⟩ <;>
  · simp only [Bool.and_eq_true, decide_eq_true_eq] at e
    exact ⟨goes_of e.1, e.2⟩

/-- LoadResults, StoreResults and AtomicResults: accesses of the core's own memory. -/
theorem meets_access :
    (∀ r ∈ loadTable, Goes .ls r.1 (hx 5) (giving .ls 1 2 0x4000100) ∧
      accessPlace (giving .ls 1 2 0x4000100) ((giving .ls 1 2 0x4000100).moved64 (hx 5)) r.2.2.1 false = .ok (coreZero, 0x100)) ∧
    (∀ r ∈ storeTable, Goes .ls r.1 (hx 5) (giving .ls 1 2 0x4000100) ∧
      accessPlace (giving .ls 1 2 0x4000100) ((giving .ls 1 2 0x4000100).moved64 (hx 5)) r.2.2.1 true = .ok (coreZero, 0x100)) ∧
    (∀ r ∈ atomicTable, Goes .ls r.1 (hx 5) (giving .ls 1 2 0x4000100) ∧
      accessPlace (giving .ls 1 2 0x4000100) ((giving .ls 1 2 0x4000100).moved64 (hx 5)) 8 true = .ok (coreZero, 0x100)) ∧
    Settled (giving .ls 1 2 0x4000100) ∧ LockOpen (giving .ls 1 2 0x4000100) coreZero 0x100 ∧ (giving .ls 1 2 0x4000100).sl.sb = [] := by
  refine ⟨every (p := fun r => goes .ls r.1 (hx 5) (giving .ls 1 2 0x4000100) &&
        decide (accessPlace (giving .ls 1 2 0x4000100) ((giving .ls 1 2 0x4000100).moved64 (hx 5)) r.2.2.1 false = .ok (coreZero, 0x100)))
      (fun _ e => ?_) (by decide +kernel),
    every (p := fun r => goes .ls r.1 (hx 5) (giving .ls 1 2 0x4000100) &&
        decide (accessPlace (giving .ls 1 2 0x4000100) ((giving .ls 1 2 0x4000100).moved64 (hx 5)) r.2.2.1 true = .ok (coreZero, 0x100)))
      (fun _ e => ?_) (by decide +kernel),
    every (p := fun r => goes .ls r.1 (hx 5) (giving .ls 1 2 0x4000100) &&
        decide (accessPlace (giving .ls 1 2 0x4000100) ((giving .ls 1 2 0x4000100).moved64 (hx 5)) 8 true = .ok (coreZero, 0x100)))
      (fun _ e => ?_) (by decide +kernel), settled_of (by decide +kernel), lockOpen_of (by decide +kernel), by decide +kernel⟩ <;>
  · simp only [Bool.and_eq_true, decide_eq_true_eq] at e
    exact ⟨goes_of e.1, e.2⟩

/-- LockResults: with no lock held by the slot, and with the one of the doubleword. -/
theorem meets_locks :
    (let s := giving .ls 1 2 0x4000100
     Settled s ∧ accessPlace s (s.moved64 (hx 5)) 8 true = .ok (coreZero, 0x100) ∧ Goes .ls 0x20 (hx 5) s ∧ Goes .ls 0x21 (hx 5) s ∧
       Goes .ls 0x32 (hx 5) s ∧ LockOpen s coreZero 0x100 ∧ s.sl.link = none) ∧
    (let s := (padded 1 2 0x4000100 fun c => { c with locks := [(lockBit 0x100, coreZero, 0)] }).onSl fun k => { k with link := some (coreZero, 0x100) }
     Settled s ∧ accessPlace s (s.moved64 (hx 5)) 8 true = .ok (coreZero, 0x100) ∧ Goes .ls 0x21 (hx 5) s ∧
       s.sl.link = some (coreZero, 0x100)) :=
  ⟨⟨settled_of (by decide +kernel), by decide +kernel, goes_of (by decide +kernel), goes_of (by decide +kernel),
    goes_of (by decide +kernel), lockOpen_of (by decide +kernel), by decide +kernel⟩,
   settled_of (by decide +kernel), by decide +kernel, goes_of (by decide +kernel), by decide +kernel⟩

/-- A slot that reads a future word at 0x100, full or empty, with a wait control `w`. -/
def future (full : Bool) (w : Word) : State :=
  (padded 1 2 0x4000100 fun c => { c with tags := if full then [0x20] else [] }).onSl fun k => k.onLat .ls fun l => { l with c := w }

/-- FutureResults: full; empty, with a trap and with a wait. -/
theorem meets_future :
    (∀ x ∈ ([(true, 0), (false, 0), (true, 0x8300000005000000), (false, 0x8300000005000000)] : List (Bool × Word)), let s := future x.1 x.2
      Goes .ls 0x30 (hx 5) s ∧ s.sl.sb = [] ∧ s.sl.wait = none ∧ accessPlace s (s.moved64 (hx 5)) 8 false = .ok (coreZero, 0x100) ∧
      (s.coreAt coreZero).full 0x100 = x.1 ∧ (s.lat .ls).c = x.2 ∧ s.untraced ∧ MayWait s) ∧
    bit (0x8300000005000000 : Word) 63 = true ∧ (0x8300000005000000 : Word).toNat / 2 ^ 59 % 16 = 0 ∧
      (0x8300000005000000 : Word).toNat / 2 ^ 48 % 256 = 0 ∧ (0x8300000005000000 : Word).toNat % 2 ^ 24 = 0 ∧
      (0x8300000005000000 : Word).toNat / 2 ^ 56 % 8 ≤ 3 := by
  refine ⟨every (p := fun x => let s := future x.1 x.2
      goes .ls 0x30 (hx 5) s && patient s && decide (s.sl.sb = [] ∧ accessPlace s (s.moved64 (hx 5)) 8 false = .ok (coreZero, 0x100) ∧
        (s.coreAt coreZero).full 0x100 = x.1 ∧ (s.lat .ls).c = x.2)) (fun _ e => ?_) (by decide +kernel), by decide +kernel⟩
  simp only [Bool.and_eq_true, decide_eq_true_eq] at e
  obtain ⟨⟨e1, e2⟩, e3, e4, e5, e6⟩ := e
  obtain ⟨k1, k2, k3⟩ := patient_of e2
  exact ⟨goes_of e1, e3, k3, e4, e5, e6, k1, k2⟩

/-- Core zero's berth 2 of four slots with `pi` slots filled, named by x5, with a count and a direction in latch `a`. -/
def berthed (pi : Nat) (a : Word) : State :=
  padded a 0 2 fun c => { c with berths := c.berths.set 2 (some ⟨0x100, 32, 4, pi, 0, 0, 0, 0⟩) }

/-- The berth. -/
def berth2 (pi : Nat) : Berth := ⟨0x100, 32, 4, pi, 0, 0, 0, 0⟩

/-- `BerthOpen`, computed. -/
def berthOpen (s : State) (h : Hdr) (counted wide : Bool) (ends : Option Bool) (c : CoreId) (d : Berth) : Bool :=
  decide (s.coreId.kind = .compute ∧
    ((s.moved64 h).toNat / 2 ^ 24 = 0 ∧ (s.moved64 h).toNat / 2 ^ 9 % 2 ^ 7 = 0 ∧ (s.moved64 h).toNat / 2 ^ 4 % 16 = 0) ∧
    (counted = true → (s.lat .ls).a.toNat % 2 ^ 16 ≠ 0 ∧ (s.lat .ls).a.toNat / 2 ^ (if wide then 17 else 16) = 0) ∧
    (bit (s.moved64 h) 8 = true → s.clusterInSpan ((s.moved64 h).toNat / 2 ^ 16 % 256) = true) ∧
    c = (if bit (s.moved64 h) 8 then s.clusterCore ((s.moved64 h).toNat / 2 ^ 16 % 256) else s.coreId) ∧
    s.berthAt c ((s.moved64 h).toNat % 16) = some d ∧ (∀ e ∈ ends, (if e then d.prod else d.cons) / 4 = s.party / 4) ∧
    (wide = true → (s.lat .ls).a.toNat % 2 ^ 16 ≤ d.n))

theorem berthOpen_of {s : State} {h : Hdr} {counted wide : Bool} {ends : Option Bool} {c : CoreId} {d : Berth}
    (e : berthOpen s h counted wide ends c d = true) : BerthOpen s h counted wide ends c d := by
  simp only [berthOpen, decide_eq_true_eq] at e
  obtain ⟨e1, e2, e3, e4, e5, e6, e7, e8⟩ := e
  exact ⟨e1, e2, e3, e4, e5, e6, fun x k => e7 x k, e8⟩

/-- BerthResults: one slot or four of a berth with none, one or four filled, from either end. -/
theorem meets_berths :
    (∀ x ∈ ([(0, 0x10001), (1, 1), (4, 0x10001), (0, 4), (4, 4), (0, 0x10004)] : List (Nat × Word)), let s := berthed x.1 x.2
      s.sl.sb = [] ∧ s.sl.wait = none ∧ s.untraced ∧ MayWait s ∧ Goes .ls 0x40 (hx 5) s ∧
        BerthOpen s (hx 5) true true (some (bit x.2 16)) coreZero (berth2 x.1) ∧ (s.lat .ls).a.toNat / 2 ^ 16 % 2 = (bit x.2 16).toNat) ∧
    (∀ x ∈ ([(0, 1), (1, 1), (4, 4), (0, 4)] : List (Nat × Word)), let s := berthed x.1 x.2
      s.sl.sb = [] ∧ s.sl.wait = none ∧ Goes .ls 0x41 (hx 5) s ∧ Goes .ls 0x42 (hx 5) s ∧ Goes .ls 0x43 (hx 5) s ∧
        BerthOpen s (hx 5) true false (some false) coreZero (berth2 x.1) ∧ BerthOpen s (hx 5) true false (some true) coreZero (berth2 x.1) ∧
        BerthOpen s (hx 5) false false none coreZero (berth2 x.1)) := by
  refine ⟨every (p := fun x => let s := berthed x.1 x.2
      patient s && goes .ls 0x40 (hx 5) s && berthOpen s (hx 5) true true (some (bit x.2 16)) coreZero (berth2 x.1) &&
        decide (s.sl.sb = [] ∧ (s.lat .ls).a.toNat / 2 ^ 16 % 2 = (bit x.2 16).toNat)) (fun _ e => ?_) (by decide +kernel),
    every (p := fun x => let s := berthed x.1 x.2
      patient s && goes .ls 0x41 (hx 5) s && goes .ls 0x42 (hx 5) s && goes .ls 0x43 (hx 5) s &&
        berthOpen s (hx 5) true false (some false) coreZero (berth2 x.1) && berthOpen s (hx 5) true false (some true) coreZero (berth2 x.1) &&
        berthOpen s (hx 5) false false none coreZero (berth2 x.1) && decide (s.sl.sb = [])) (fun _ e => ?_) (by decide +kernel)⟩ <;>
    simp only [Bool.and_eq_true, decide_eq_true_eq] at e
  · obtain ⟨⟨⟨e1, e2⟩, e3⟩, e4, e5⟩ := e
    obtain ⟨k1, k2, k3⟩ := patient_of e1
    exact ⟨e4, k3, k1, k2, goes_of e2, berthOpen_of e3, e5⟩
  · obtain ⟨⟨⟨⟨⟨⟨⟨e1, e2⟩, e3⟩, e4⟩, e5⟩, e6⟩, e7⟩, e8⟩ := e
    exact ⟨e8, (patient_of e1).2.2, goes_of e2, goes_of e3, goes_of e4, berthOpen_of e5, berthOpen_of e6, berthOpen_of e7⟩

/-- LockWaits: another core holds the lock. -/
theorem meets_lock_waits :
    let s := padded 1 2 0x4000100 fun c => { c with locks := [(lockBit 0x100, next, 0)] }
    (Settled s ∧ s.untraced ∧ MayWait s ∧ accessPlace s (s.moved64 (hx 5)) 8 true = .ok (coreZero, 0x100) ∧
      (s.coreAt coreZero).holder (lockBit 0x100) = some (next, 0) ∧ (next, 0) ≠ me s ∧ s.sl.link = none) ∧
    (∀ r ∈ atomicTable, Goes .ls r.1 (hx 5) s) ∧ Goes .ls 0x20 (hx 5) s ∧ Goes .ls 0x32 (hx 5) s := by
  intro s
  have k := patient_of (s := s) (by decide +kernel)
  exact ⟨⟨settled_of (by decide +kernel), k.1, k.2.1, by decide +kernel, by decide +kernel, by decide +kernel, by decide +kernel⟩,
    every (p := fun r => goes .ls r.1 (hx 5) s) (fun _ e => goes_of e) (by decide +kernel), goes_of (by decide +kernel), goes_of (by decide +kernel)⟩

/-! ## Vector port -/

/-- Core zero with the vector latches and x5 given; latch `b` holds a control word of the memory operations as well. -/
def lanes (a b : VWord) (t : Word) : State := (on coreZero).onSl fun k => { k with x := k.x.set 5 t, va := a, vb := b, vc := 0x80 }

/-- The operations of the vector port that compute. -/
def computing : List (Hdr → Instr) :=
  [Instr.vpBcast, Instr.vpDq, Instr.vpAdd, Instr.vpSub, Instr.vpMul, Instr.vpFma, Instr.vpFnma, Instr.vpMin, Instr.vpMax, Instr.vpMinu,
   Instr.vpMaxu, Instr.vpAbs, Instr.vpNeg, Instr.vpCeq, Instr.vpCne, Instr.vpClt, Instr.vpCle, Instr.vpCltu, Instr.vpCleu, Instr.vpSel,
   Instr.vpAnd, Instr.vpOr, Instr.vpXor, Instr.vpAndn, Instr.vpSll, Instr.vpSrl, Instr.vpSra, Instr.vpCvtRne, Instr.vpCvtRtz,
   Instr.vpCvtRup, Instr.vpCvtRdn, Instr.vpCvtRsr, Instr.vpCvtDyn, Instr.vpCvtSatRne, Instr.vpCvtSatRtz, Instr.vpCvtSatRup,
   Instr.vpCvtSatRdn, Instr.vpCvtSatRsr, Instr.vpCvtSatDyn, Instr.vpRadd, Instr.vpRmin, Instr.vpRmax, Instr.vpRminu, Instr.vpRmaxu,
   Instr.vpPerm, Instr.vpShuf, Instr.vpZiplo, Instr.vpZiphi, Instr.vpUnzipe, Instr.vpUnzipo, Instr.vpExt, Instr.vpIns, Instr.vpDot8,
   Instr.vpDot8u, Instr.vpDot8su, Instr.vpExp2, Instr.vpLog2, Instr.vpRcp, Instr.vpRsqrt, Instr.vpNrcp, Instr.vpNrsq]

/-- A control word of an operation that breaks no check: its first format, into format 1 where it names two. -/
def controlOf (o : VOp) : Word := BitVec.ofNat 64 (o.form.fmts.headD 0 + if o.form.fmt2 then 2 ^ 16 else 0)

/-- VectorOperationsEnterTheQueue and VectorTraps: every operation, with a control word that breaks no check and with a reserved bit. -/
theorem meets_vector : ∀ i ∈ computing, ∃ opc o, triggerOf (i (hx 5)) = some (.vp, opc, hx 5) ∧ vpCompute opc = some o ∧
    (Goes .vp opc (hx 5) (lanes 1 2 (controlOf o)) ∧
      vectorTrap (lanes 1 2 (controlOf o)) o ((lanes 1 2 (controlOf o)).moved64 (hx 5)) = none) ∧
    Goes .vp opc (hx 5) (lanes 1 2 0x8000) ∧ vectorTrap (lanes 1 2 0x8000) o ((lanes 1 2 0x8000).moved64 (hx 5)) = some 0x02 :=
  every (p := fun i => match triggerOf (i (hx 5)) with
      | some (.vp, opc, h) => (match vpCompute opc with
        | some o => decide (h = hx 5) && goes .vp opc (hx 5) (lanes 1 2 (controlOf o)) &&
          decide (vectorTrap (lanes 1 2 (controlOf o)) o ((lanes 1 2 (controlOf o)).moved64 (hx 5)) = none) &&
          goes .vp opc (hx 5) (lanes 1 2 0x8000) && decide (vectorTrap (lanes 1 2 0x8000) o ((lanes 1 2 0x8000).moved64 (hx 5)) = some 0x02)
        | none => false)
      | _ => false)
    (fun i e => by
      split at e
      · rename_i opc h k
        split at e
        · rename_i o k2
          simp only [Bool.and_eq_true, decide_eq_true_eq] at e
          obtain ⟨⟨⟨⟨e1, e2⟩, e3⟩, e4⟩, e5⟩ := e
          subst e1
          exact ⟨opc, o, k, k2, ⟨goes_of e2, e3⟩, goes_of e4, e5⟩
        · cases e
      · cases e) (by decide +kernel)

/-- VectorLaneResults: every operation of the tables on lanes of sixteen bits, under M for those that take it, and the last lane. -/
theorem meets_lanes :
    (∀ r ∈ laneTable, Goes .vp r.1 (hx 5) (lanes 1 2 3) ∧ 3 ∈ r.2.2.1 ∧
      ∀ o, vpCompute r.1 = some o → vectorTrap (lanes 1 2 3) o ((lanes 1 2 3).moved64 (hx 5)) = none) ∧
    (Goes .vp 0x10 (hx 5) (lanes 1 2 0x303) ∧ ∀ o, vpCompute 0x10 = some o → vectorTrap (lanes 1 2 0x303) o ((lanes 1 2 0x303).moved64 (hx 5)) = none) ∧
    (∀ r ∈ laneCompareTable, Goes .vp r.1 (hx 5) (lanes 1 2 5) ∧ ((lanes 1 2 5).moved64 (hx 5)).toNat = 5) ∧
    (∀ r ∈ laneChoiceTable, let s := lanes 1 2 (if r.1 = 0x4F then 0x0F000003 else 3)
      Goes .vp r.1 (hx 5) s ∧ (if r.1 = 0x4F then (s.moved64 (hx 5)).toNat % 2 ^ 24 = 3 ∧ (s.moved64 (hx 5)).toNat / 2 ^ 24 < 256 / laneBits 3
        else (s.moved64 (hx 5)).toNat = 3)) := by
  refine ⟨every (p := fun r => goes .vp r.1 (hx 5) (lanes 1 2 3) && decide (3 ∈ r.2.2.1) && ((vpCompute r.1).all fun o =>
        decide (vectorTrap (lanes 1 2 3) o ((lanes 1 2 3).moved64 (hx 5)) = none))) (fun _ e => ?_) (by decide +kernel),
    ⟨goes_of (by decide +kernel), ?_⟩,
    every (p := fun r => goes .vp r.1 (hx 5) (lanes 1 2 5) && decide (((lanes 1 2 5).moved64 (hx 5)).toNat = 5)) (fun _ e => ?_) (by decide +kernel),
    every (p := fun r => let s := lanes 1 2 (if r.1 = 0x4F then 0x0F000003 else 3)
      goes .vp r.1 (hx 5) s && decide (if r.1 = 0x4F then (s.moved64 (hx 5)).toNat % 2 ^ 24 = 3 ∧
        (s.moved64 (hx 5)).toNat / 2 ^ 24 < 256 / laneBits 3 else (s.moved64 (hx 5)).toNat = 3)) (fun _ e => ?_) (by decide +kernel)⟩
  · simp only [Bool.and_eq_true, decide_eq_true_eq, Option.all_eq_true] at e
    exact ⟨goes_of e.1.1, e.1.2, e.2⟩
  · have k : ((vpCompute 0x10).all fun o => decide (vectorTrap (lanes 1 2 0x303) o ((lanes 1 2 0x303).moved64 (hx 5)) = none)) = true := by
      decide +kernel
    simpa only [decide_eq_true_eq, Option.all_eq_true] using k
  · simp only [Bool.and_eq_true, decide_eq_true_eq] at e
    exact ⟨goes_of e.1, e.2⟩
  · simp only [Bool.and_eq_true, decide_eq_true_eq] at e
    exact ⟨goes_of e.1, e.2⟩

/-- VectorMemoryResults: each access, each trap. Elements of sixteen bits are read and written as lanes of sixteen bits. -/
theorem meets_vector_memory :
    (let s := lanes 1 2 0x4000100
     Goes .vp 0x01 (hx 5) s ∧ Goes .vp 0x03 (hx 5) s ∧ accessPlace s (s.moved64 (hx 5)) 32 false = .ok (coreZero, 0x100) ∧
       accessPlace s (s.moved64 (hx 5)) 32 true = .ok (coreZero, 0x100)) ∧
    (let s := lanes 1 2 0x4000110
     Goes .vp 0x01 (hx 5) s ∧ Goes .vp 0x03 (hx 5) s ∧ accessPlace s (s.moved64 (hx 5)) 32 false = .error 0x06 ∧
       accessPlace s (s.moved64 (hx 5)) 32 true = .error 0x06) ∧
    (let s := lanes 1 3 0x1800000004000100
     let t := s.moved64 (hx 5)
     let ctl := (s.sl.vb.setWidth 64 : Word)
     Goes .vp 0x02 (hx 5) s ∧ Goes .vp 0x08 (hx 5) s ∧ ctl.toNat = 3 ∧ tagBad t 3 (256 / laneBits 3) false = false ∧ tagBad t 3 1 false = false ∧
       accessPlace s t 32 false = .ok (coreZero, 0x100) ∧ accessPlace s t 2 false = .ok (coreZero, 0x100)) ∧
    (let s := lanes 1 3 0x1800000004000100
     let t := s.moved64 (hx 5)
     let ctl := (s.sl.vb.setWidth 64 : Word)
     Goes .vp 0x04 (hx 5) s ∧ ctl.toNat < 0x400 ∧ tagBad t 3 (256 / laneBits 3) true = false ∧ modeInForce s (ctl.toNat / 2 ^ 5 % 8) < 4 ∧
       ctl.toNat / 2 ^ 5 % 8 = 0 ∧ ctl.toNat / 2 ^ 8 % 2 = 0 ∧ accessPlace s t (256 / laneBits 3 * widths.getD 3 0 / 8) true = .ok (coreZero, 0x100)) ∧
    (let s := lanes 1 0x103 0x4000100
     Goes .vp 0x05 (hx 5) s ∧ (s.sl.vb.setWidth 64 : Word).toNat = 3 + 0x100 ∧ accessPlace s (s.moved64 (hx 5)) 32 true = .ok (coreZero, 0x100)) ∧
    (let s := lanes 1 3 0xF800000004000100
     Goes .vp 0x02 (hx 5) s ∧ Goes .vp 0x04 (hx 5) s ∧ (s.sl.vb.setWidth 64 : Word).toNat = 3 ∧
       tagBad (s.moved64 (hx 5)) 3 (256 / laneBits 3) false = true ∧ tagBad (s.moved64 (hx 5)) 3 (256 / laneBits 3) true = true) := by
  refine ⟨⟨goes_of ?_, goes_of ?_, ?_⟩, ⟨goes_of ?_, goes_of ?_, ?_⟩, ⟨goes_of ?_, goes_of ?_, ?_⟩, ⟨goes_of ?_, ?_⟩, ⟨goes_of ?_, ?_⟩,
    goes_of ?_, goes_of ?_, ?_⟩ <;> decide +kernel

/-! ## Matrix port -/

/-- Operands and descriptor of a command of each class that break no check. -/
def orderOf (cls : Nat) : Word × Word × Word :=
  match cls with
  | 1 => (operandWord 1 0x400, operandWord 1 0x1000, 0x0010000000000000)
  | 2 => (operandWord 1 0x400, operandWord 14 0x1000, 0x0010000000000000)
  | 3 => (operandWord 8 0x400, operandWord 8 0x1000, 0x0008000000000000)
  | 4 => (0, 0, 0x30200000000)
  | 5 => (operandWord 8 0x400, 0, 0)
  | 6 => (operandWord 8 0x400, 0, 0)
  | 7 => (operandWord 0 0x800, 0, 0x0040000000000000)
  | 8 => (0xFF, 0, 0)
  | _ => (operandWord 0 0x400, 0, 0)

/-- A layout record at 0x800: scales at 0x1000, superscales at 0x2000, rows of 64 elements, eight rows. -/
def layoutPieces : List (Nat × List Byte) :=
  [dwAt 0x800 0x1000000004001000, dwAt 0x808 0x4000000004002000, dwAt 0x810 64, dwAt 0x818 8]

/-- Core zero, two accumulator slots its own, `n` commands in its queue, offers a command of operands, descriptor and `t`. -/
def ordering (n : Nat) (x : Word × Word × Word) (t : Word) : State :=
  ((on coreZero).onSl fun k => ({ k with x := k.x.set 5 t }).onLat .mx fun l => { l with a := x.1, b := x.2.1, c := x.2.2 }).onCore fun k =>
    { k with mem := dmOf layoutPieces, mq := { k.mq with accFirst := 0, accCount := 2, cmds := List.replicate n (mcmd 4 0 0 shape) } }

/-- Every lock table of the device has room for one command more where no core has a lock. -/
theorem room_of {s : State} {rs : List (CoreId × Nat × Nat × Bool × Nat)} (h : ∀ c, (s.coreAt c).ranges = []) (n : rs.length ≤ 64) :
    ∀ c, (s.coreAt c).ranges.length + (rs.filter fun x => x.1 = c).length ≤ 64 := by
  intro c
  rw [h c, List.length_nil, Nat.zero_add]
  exact Nat.le_trans (List.length_filter_le _ _) n

theorem no_ranges {s : State} (h : s.core.ranges = []) (k : s.others = []) : ∀ c, (s.coreAt c).ranges = [] := by
  intro c
  simp only [State.coreAt, k]
  split
  · exact h
  · rfl

/-- MatrixCommandsAreAccepted: a command of each class. -/
theorem meets_matrix : ∀ r ∈ matrixTable, let s := ordering 0 (orderOf r.1) 0
    Goes .mx r.1 (hx 5) s ∧ s.sl.sb = [] ∧ s.core.mq.waiting = [] ∧ s.core.mq.cmds.length < 4 ∧ s.mxFault (offered s r.1 (hx 5)) = none ∧
      ∀ c, (s.coreAt c).ranges.length + (((offered s r.1 (hx 5)).ranges s.coreId).filter fun x => x.1 = c).length ≤ 64 :=
  every (p := fun r => let s := ordering 0 (orderOf r.1) 0
      goes .mx r.1 (hx 5) s && decide (s.sl.sb = [] ∧ s.core.mq.waiting = [] ∧ s.core.mq.cmds.length < 4 ∧
        s.mxFault (offered s r.1 (hx 5)) = none) && decide (s.core.ranges = [] ∧ s.others = [] ∧ ((offered s r.1 (hx 5)).ranges s.coreId).length ≤ 64))
    (fun _ e => by
      simp only [Bool.and_eq_true, decide_eq_true_eq] at e
      obtain ⟨⟨e1, e2, e3, e4, e5⟩, e6, e7, e8⟩ := e
      exact ⟨goes_of e1, e2, e3, e4, e5, room_of (no_ranges e6 e7) e8⟩) (by decide +kernel)

/-- MatrixCommandsTrapOrWait: each part with a bit that no class uses, K of zero and a rounding code of 4, an accumulator slot of another queue,
and a full queue. -/
theorem meets_matrix_traps :
    (∀ r ∈ matrixTable, (Goes .mx r.1 (hx 5) (ordering 0 (2 ^ 48, 0, 0) 0) ∧
      (((mxUse r.1).1 = .no ∧ (2 ^ 48 : Word) ≠ 0) ∨ ((mxUse r.1).1 = .operand ∧ (2 ^ 48 : Word).toNat / 2 ^ 48 % 256 ≠ 0) ∨
        ((mxUse r.1).1 = .mask ∧ (2 ^ 48 : Word).toNat / 2 ^ 8 ≠ 0))) ∧
      (Goes .mx r.1 (hx 5) (ordering 0 (orderOf r.1) (2 ^ 31)) ∧
        (ordering 0 (orderOf r.1) (2 ^ 31)).mxFault (offered (ordering 0 (orderOf r.1) (2 ^ 31)) r.1 (hx 5)) = some (0x02, 2 ^ 31)) ∧
      let s := ordering 4 (orderOf r.1) 0
      Goes .mx r.1 (hx 5) s ∧ s.mxFault (offered s r.1 (hx 5)) = none ∧ 4 ≤ s.core.mq.cmds.length ∧ s.sl.wait = none ∧ s.untraced ∧ MayWait s) ∧
    (∀ x ∈ ([(1, (operandWord 1 0x400, operandWord 1 0x1000, 0), (0x02, 0)), (6, (operandWord 8 0x400, 0, 4), (0x02, 4)),
        (4, (0, 1, 0), (0x02, 1)),
        (4, (0, 0, 0x200), (0x07, 0x200)), (1, (operandWord 3 0x400, operandWord 1 0x1000, 0x0010000000000000), (0x0A, operandWord 3 0x400))] :
        List (Nat × (Word × Word × Word) × (Nat × Word))), let s := ordering 0 x.2.1 0
      Goes .mx x.1 (hx 5) s ∧ s.mxFault (offered s x.1 (hx 5)) = some x.2.2) := by
  refine ⟨every (p := fun r => goes .mx r.1 (hx 5) (ordering 0 (2 ^ 48, 0, 0) 0) &&
      decide (((mxUse r.1).1 = .no ∧ (2 ^ 48 : Word) ≠ 0) ∨ ((mxUse r.1).1 = .operand ∧ (2 ^ 48 : Word).toNat / 2 ^ 48 % 256 ≠ 0) ∨
        ((mxUse r.1).1 = .mask ∧ (2 ^ 48 : Word).toNat / 2 ^ 8 ≠ 0)) && goes .mx r.1 (hx 5) (ordering 0 (orderOf r.1) (2 ^ 31)) &&
      decide ((ordering 0 (orderOf r.1) (2 ^ 31)).mxFault (offered (ordering 0 (orderOf r.1) (2 ^ 31)) r.1 (hx 5)) = some (0x02, 2 ^ 31)) &&
      (let s := ordering 4 (orderOf r.1) 0
       goes .mx r.1 (hx 5) s && patient s && decide (s.mxFault (offered s r.1 (hx 5)) = none ∧ 4 ≤ s.core.mq.cmds.length)))
      (fun _ e => ?_) (by decide +kernel),
    every (p := fun x => let s := ordering 0 x.2.1 0
      goes .mx x.1 (hx 5) s && decide (s.mxFault (offered s x.1 (hx 5)) = some x.2.2)) (fun _ e => ?_) (by decide +kernel)⟩
  · simp only [Bool.and_eq_true, decide_eq_true_eq] at e
    obtain ⟨⟨⟨⟨e1, e0⟩, e2⟩, e3⟩, ⟨e4, e5⟩, e6, e7⟩ := e
    obtain ⟨k1, k2, k3⟩ := patient_of e5
    exact ⟨⟨goes_of e1, e0⟩, ⟨goes_of e2, e3⟩, goes_of e4, e6, e7, k3, k1, k2⟩
  · simp only [Bool.and_eq_true, decide_eq_true_eq] at e
    exact ⟨goes_of e.1, e.2⟩

end Sys2Proof.Tests
end

