-- ==== Sys2Proof/Tests/Meets3.lean ====
section
/-! SUPPORT. Tests: witnesses. Each theorem shows states and operands that meet the hypotheses of the statements on matrix commands, device memory, engines, waits, system operations and emits. -/

set_option autoImplicit false
set_option Elab.async false

namespace Sys2Proof.Tests

open Sys2Proof.Machine Sys2Proof.Claims

/-! ## Device memory, copies, streams, channels -/

/-- Core `c` runs record 3 beside core zero's neighbour, a quay core and a harbour core. -/
def working (c : CoreId) : State :=
  { having (holding (on c)) (identity ++ record 2) with
    jobs := [(3, { Job.empty with dies := [0], clusters := [0, 1, 2, 3], cores := [coreZero, next, quay, harbour] })] }.onCoreAt next
    fun k => { k with ctx := some ⟨3, 1, 0, false, false, false⟩ }

/-- Operand latches of a unit, and x5. -/
def operands (s : State) (u : FU) (a b c t : Word) : State :=
  s.onSl fun k => ({ k with x := k.x.set 5 t }).onLat u fun l => { l with a := a, b := b, c := c }

/-- DeviceMemoryResults: every access of an address that is mapped. -/
theorem meets_device :
    let s := operands (working quay) .qm 1 2 0 0x12340
    (∀ r ∈ deviceLoadTable, Goes .qm r.1 (hx 5) s ∧ devicePlace s (s.moved64 (hx 5)) r.2.2.1 .read = .ok (.device 0x12340 0)) ∧
    (∀ r ∈ deviceStoreTable, Goes .qm r.1 (hx 5) s ∧ devicePlace s (s.moved64 (hx 5)) r.2.2.1 .write = .ok (.device 0x12340 0)) ∧
    (∀ r ∈ deviceAtomicTable, Goes .qm r.1 (hx 5) s ∧ devicePlace s (s.moved64 (hx 5)) 8 .atomic = .ok (.device 0x12340 0)) ∧
    (∀ r ∈ deviceFenceTable, Goes .qm r.1 (hx 5) s) ∧ Settled s := by
  intro s
  refine ⟨every (p := fun r => goes .qm r.1 (hx 5) s && decide (devicePlace s (s.moved64 (hx 5)) r.2.2.1 .read = .ok (.device 0x12340 0)))
      (fun _ e => ?_) (by decide +kernel),
    every (p := fun r => goes .qm r.1 (hx 5) s && decide (devicePlace s (s.moved64 (hx 5)) r.2.2.1 .write = .ok (.device 0x12340 0)))
      (fun _ e => ?_) (by decide +kernel),
    every (p := fun r => goes .qm r.1 (hx 5) s && decide (devicePlace s (s.moved64 (hx 5)) 8 .atomic = .ok (.device 0x12340 0)))
      (fun _ e => ?_) (by decide +kernel), every (p := fun r => goes .qm r.1 (hx 5) s) (fun _ e => goes_of e) (by decide +kernel),
    settled_of (by decide +kernel)⟩ <;>
  · simp only [Bool.and_eq_true, decide_eq_true_eq] at e
    exact ⟨goes_of e.1, e.2⟩

/-- DeviceMemoryResults and DeviceAtomicResults: format bits, an address that is not aligned (but for bytes), and a page that is not mapped. -/
theorem meets_device_traps :
    (∀ x ∈ ([(0x10000000012340, 0x07), (0x400000000, 0x08)] : List (Word × Nat)), let s := operands (working quay) .qm 1 2 0 x.1
      (∀ r ∈ deviceLoadTable, Goes .qm r.1 (hx 5) s ∧ devicePlace s (s.moved64 (hx 5)) r.2.2.1 .read = .error x.2) ∧
      (∀ r ∈ deviceStoreTable, Goes .qm r.1 (hx 5) s ∧ devicePlace s (s.moved64 (hx 5)) r.2.2.1 .write = .error x.2) ∧
      (∀ r ∈ deviceAtomicTable, Goes .qm r.1 (hx 5) s ∧ devicePlace s (s.moved64 (hx 5)) 8 .atomic = .error x.2)) ∧
    let s := operands (working quay) .qm 1 2 0 0x12344
    Goes .qm 0x07 (hx 5) s ∧ devicePlace s (s.moved64 (hx 5)) 8 .read = .error 0x06 := by
  refine ⟨every (p := fun x => let s := operands (working quay) .qm 1 2 0 x.1
      deviceLoadTable.all (fun r => goes .qm r.1 (hx 5) s && decide (devicePlace s (s.moved64 (hx 5)) r.2.2.1 .read = .error x.2)) &&
      deviceStoreTable.all (fun r => goes .qm r.1 (hx 5) s && decide (devicePlace s (s.moved64 (hx 5)) r.2.2.1 .write = .error x.2)) &&
      deviceAtomicTable.all fun r => goes .qm r.1 (hx 5) s && decide (devicePlace s (s.moved64 (hx 5)) 8 .atomic = .error x.2))
      (fun _ e => ?_) (by decide +kernel), goes_of (by decide +kernel), by decide +kernel⟩
  simp only [Bool.and_eq_true, List.all_eq_true, decide_eq_true_eq] at e
  exact ⟨fun r m => ⟨goes_of (e.1.1 r m).1, (e.1.1 r m).2⟩, fun r m => ⟨goes_of (e.1.2 r m).1, (e.1.2 r m).2⟩,
    fun r m => ⟨goes_of (e.2 r m).1, (e.2 r m).2⟩⟩

/-- Core zero's neighbour has a berth of two slots of 256 bytes, `pi` of them filled; quay core 0 copies to it or from it. -/
def ferrying (pi : Nat) (len t : Word) : State :=
  operands ((working quay).onCoreAt next fun k =>
    { k with berths := k.berths.set 2 (some ⟨0x400, 0x100, 2, pi, 0, 0x10000, 0x10000, 0⟩) }) .qm 0x4000400 len 0x8005 t

/-- CopyResults: a length that breaks a check; to and from bytes; to and from a berth; a berth with no place, or nothing filled. -/
theorem meets_copies : ∀ push : Bool,
    (let s := ferrying 0 33 0x40400
     Goes .qm (if push then 0x30 else 0x31) (hx 5) s ∧ Settled s ∧ s.sl.wait = none ∧
       (s.latched .qm (hx 5)).copyFault push = some (0x02, 33)) ∧
    (∀ x ∈ ([(0, 0x40400), (1, 0x20040002)] : List (Nat × Word)), let s := ferrying x.1 0x100 x.2
      Goes .qm (if push then 0x30 else 0x31) (hx 5) s ∧ Settled s ∧ s.sl.wait = none ∧ (s.latched .qm (hx 5)).copyFault push = none ∧
        (farEnd s push (s.moved64 (hx 5))).map (·.1) = some next ∧ (s.coreAt next).ranges = []) ∧
    (let s := ferrying (if push then 2 else 0) 0x100 0x20040002
     Goes .qm (if push then 0x30 else 0x31) (hx 5) s ∧ Settled s ∧ s.sl.wait = none ∧ (s.latched .qm (hx 5)).copyFault push = none ∧
       farEnd s push (s.moved64 (hx 5)) = none ∧ s.untraced ∧ MayWait s ∧
       (s.berthAt (s.farCore ((s.moved64 (hx 5)).toNat / 2 ^ 30 % 4) ((s.moved64 (hx 5)).toNat / 2 ^ 18 % 256))
         ((s.moved64 (hx 5)).toNat % 16)).isSome = true) := by
  intro push
  refine ⟨⟨goes_of ?_, settled_of ?_, ?_, ?_⟩,
    every (p := fun x => let s := ferrying x.1 0x100 x.2
      goes .qm (if push then 0x30 else 0x31) (hx 5) s && settled s && decide (s.sl.wait = none ∧ (s.latched .qm (hx 5)).copyFault push = none ∧
        (farEnd s push (s.moved64 (hx 5))).map (·.1) = some next ∧ (s.coreAt next).ranges = [])) (fun _ e => ?_) ?_,
    goes_of ?_, settled_of ?_, ?_, ?_, ?_, (patient_of ?_).1, (patient_of ?_).2.1, ?_⟩
  case refine_5 =>
    simp only [Bool.and_eq_true, decide_eq_true_eq] at e
    exact ⟨goes_of e.1.1, settled_of e.1.2, e.2⟩
  all_goals cases push <;> decide +kernel

/-- Quay core 0 with a record for its engine at 0x3000, `n` records before it. -/
def posting (n : Nat) (bs : List Byte) (t : Word) : State :=
  operands (((working quay).onCoreAt coreZero fun k =>
      { k with ctx := some ⟨3, 1, 0, false, false, false⟩, berths := k.berths.set 2 (some ⟨0x100, 32, 4, 0, 0, 0x0C0000, 0, 1⟩) }).onCore fun k =>
    { k with mem := dmOf [(0x3000, bs)], stream := { k.stream with queue := List.replicate n (1, []) } }) .qs 0 0 0 t

/-- StreamResults: a good record that goes in, one that waits, one of length 0, an address that is not aligned; `stat`; `cancel`. -/
theorem meets_streams :
    (∀ n ∈ [0, 3, 4], let s := posting n (streamBytes 0) 0x4003000
      Goes .qs 0x01 (hx 5) s ∧ s.sl.wait = none ∧ accessPlace s (s.moved64 (hx 5)) 64 false = .ok (quay, 0x3000) ∧
        s.streamFault (s.loadHome (.core quay 0x3000) 64) = none ∧ s.core.stream.queue.length = n ∧ s.core.stream.waiting = [] ∧
        s.untraced ∧ MayWait s) ∧
    (let s := posting 0 [] 0x4003000
     Goes .qs 0x01 (hx 5) s ∧ s.sl.wait = none ∧ accessPlace s (s.moved64 (hx 5)) 64 false = .ok (quay, 0x3000) ∧
       s.streamFault (s.loadHome (.core quay 0x3000) 64) = some 0x02) ∧
    (let s := posting 0 [] 0x4003020
     Goes .qs 0x01 (hx 5) s ∧ s.sl.wait = none ∧ accessPlace s (s.moved64 (hx 5)) 64 false = .error 0x06) ∧
    (∀ t ∈ ([0, 1, 2] : List Word), let s := posting 2 [] t
      Goes .qs 0x02 (hx 5) s ∧ Goes .qs 0x03 (hx 5) s ∧ (s.moved64 (hx 5)).toNat = t.toNat) := by
  refine ⟨every (p := fun n => let s := posting n (streamBytes 0) 0x4003000
      goes .qs 0x01 (hx 5) s && patient s && decide (accessPlace s (s.moved64 (hx 5)) 64 false = .ok (quay, 0x3000) ∧
        s.streamFault (s.loadHome (.core quay 0x3000) 64) = none ∧ s.core.stream.queue.length = n ∧ s.core.stream.waiting = []))
      (fun _ e => ?_) (by decide +kernel),
    ⟨goes_of (by decide +kernel), by decide +kernel, by decide +kernel, by decide +kernel⟩,
    ⟨goes_of (by decide +kernel), by decide +kernel, by decide +kernel⟩,
    every (p := fun t => let s := posting 2 [] t
      goes .qs 0x02 (hx 5) s && goes .qs 0x03 (hx 5) s && decide ((s.moved64 (hx 5)).toNat = t.toNat)) (fun _ e => ?_) (by decide +kernel)⟩
  · simp only [Bool.and_eq_true, decide_eq_true_eq] at e
    obtain ⟨⟨e1, e2⟩, e3, e4, e5, e6⟩ := e
    obtain ⟨k1, k2, k3⟩ := patient_of e2
    exact ⟨goes_of e1, k3, e3, e4, e5, e6, k1, k2⟩
  · simp only [Bool.and_eq_true, decide_eq_true_eq] at e
    exact ⟨goes_of e.1.1, goes_of e.1.2, e.2⟩

/-- Core zero sends to channels of its neighbour: channel 1 has a free entry, channel 2 none. -/
def sending (a b t : Word) : State :=
  operands ((working coreZero).onCoreAt next fun k =>
    { k with chans := (k.chans.set 1 { chanOf 2 .free none with smode := 3 }).set 2 { chanOf 2 .taken none with smode := 3 } }) .ch a b 0 t

/-- `sendWordBad` is decided by its fields. -/
def sendWordBadDecided (t : Word) : Decidable (sendWordBad t) := by unfold sendWordBad sendZeroBad; infer_instance

/-- `sendZeroBad` is decided by its fields. -/
def sendZeroBadDecided (t : Word) : Decidable (sendZeroBad t) := by unfold sendZeroBad; infer_instance

/-- SendResults: a zero field, KIND 3, a bad length; a core outside the span, channel 15 in user mode; a send, one that waits, and a payload that cannot be
read. -/
theorem meets_sends : ∀ many : Bool,
    (let s := sending 0x4000100 16 0x110000010000
     Goes .ch (if many then 0x02 else 0x01) (hx 5) s ∧ s.sl.wait = none ∧ sendZeroBad (s.moved64 (hx 5))) ∧
    (let s := sending 0x4000100 16 0x1C0000000000
     Goes .ch (if many then 0x02 else 0x01) (hx 5) s ∧ s.sl.wait = none ∧ ¬ sendZeroBad (s.moved64 (hx 5)) ∧
       ((s.lat .ch).b.toNat ≤ 248 ∧ (s.lat .ch).b.toNat % 8 = 0) ∧ (s.moved64 (hx 5)).toNat / 2 ^ 42 % 4 = 3) ∧
    (let s := sending 0x4000100 249 0x1C0000000000
     Goes .ch 0x02 (hx 5) s ∧ s.sl.wait = none ∧ ¬ sendZeroBad (s.moved64 (hx 5)) ∧ ¬ lengthOk true (s.lat .ch).b) ∧
    (∀ x ∈ ([(0x100010010000, none, 1), (0xF00000010000, some next, 15)] : List (Word × Option CoreId × Nat)), let s := sending 0x4000100 16 x.1
      Goes .ch (if many then 0x02 else 0x01) (hx 5) s ∧ s.sl.wait = none ∧ ¬ sendWordBad (s.moved64 (hx 5)) ∧ (s.lat .ch).b.toNat = 16 ∧
        s.destCore (s.moved64 (hx 5)) = x.2.1 ∧ (s.moved64 (hx 5)).toNat / 2 ^ 44 % 16 = x.2.2 ∧ s.sl.priv = 0) ∧
    (∀ x ∈ ([(0x100000010000, some 0), (0x200000010000, none)] : List (Word × Option Nat)), let s := sending 0x4000100 248 x.1
      let t := s.moved64 (hx 5)
      let n := t.toNat / 2 ^ 44 % 16
      Goes .ch (if many then 0x02 else 0x01) (hx 5) s ∧ s.sl.wait = none ∧ ¬ sendWordBad t ∧ s.destCore t = some next ∧ n ≠ 15 ∧
        (∃ pay, sendPayload s many = .ok pay) ∧ Settled s ∧ s.leavesDevice t = false ∧ (s.coreAt next).takesFor s.record? = true ∧
        s.accepts ((s.coreAt next).chan n) (s.record?.getD 0) s.party = true ∧ (s.coreAt next).sendable n = x.2 ∧
        ((s.coreAt next).chan n).queue = [] ∧ s.untraced ∧ MayWait s) ∧
    (let s := sending 0x8000000 16 0x100000010000
     Goes .ch 0x02 (hx 5) s ∧ s.sl.wait = none ∧ ¬ sendWordBad (s.moved64 (hx 5)) ∧ (s.destCore (s.moved64 (hx 5))).isSome = true ∧
       (∃ e, sendPayload s true = .error e) ∧ s.core.outside = []) := by
  intro many
  refine ⟨⟨goes_of ?_, ?_, @of_decide_eq_true _ (sendZeroBadDecided _) ?_⟩,
    ⟨goes_of ?_, ?_, @of_decide_eq_false _ (sendZeroBadDecided _) ?_, ?_, ?_⟩,
    ⟨goes_of ?_, ?_, @of_decide_eq_false _ (sendZeroBadDecided _) ?_, fun k => absurd (k rfl) ?_⟩,
    every (p := fun x => let s := sending 0x4000100 16 x.1
      goes .ch (if many then 0x02 else 0x01) (hx 5) s && !@decide _ (sendWordBadDecided (s.moved64 (hx 5))) &&
        decide (s.sl.wait = none ∧ (s.lat .ch).b.toNat = 16 ∧ s.destCore (s.moved64 (hx 5)) = x.2.1 ∧
          (s.moved64 (hx 5)).toNat / 2 ^ 44 % 16 = x.2.2 ∧ s.sl.priv = 0)) (fun _ e => ?_) ?_,
    every (p := fun x => let s := sending 0x4000100 248 x.1
      let t := s.moved64 (hx 5)
      let n := t.toNat / 2 ^ 44 % 16
      goes .ch (if many then 0x02 else 0x01) (hx 5) s && !@decide _ (sendWordBadDecided t) && settled s && patient s && fine (sendPayload s many) &&
        decide (s.destCore t = some next ∧ n ≠ 15 ∧ s.leavesDevice t = false ∧ (s.coreAt next).takesFor s.record? = true ∧
          s.accepts ((s.coreAt next).chan n) (s.record?.getD 0) s.party = true ∧ (s.coreAt next).sendable n = x.2 ∧
          ((s.coreAt next).chan n).queue = [])) (fun _ e => ?_) ?_,
    goes_of ?_, ?_, @of_decide_eq_false _ (sendWordBadDecided _) ?_, ?_, error_of ?_, ?_⟩
  case refine_13 =>
    simp only [Bool.and_eq_true, Bool.not_eq_true', decide_eq_true_eq] at e
    exact ⟨goes_of e.1.1, e.2.1, @of_decide_eq_false _ (sendWordBadDecided _) e.1.2, e.2.2⟩
  case refine_15 =>
    simp only [Bool.and_eq_true, Bool.not_eq_true', decide_eq_true_eq] at e
    obtain ⟨⟨⟨⟨⟨e1, e2⟩, e3⟩, e4⟩, e5⟩, e6, e7, e8, e9, e10, e11, e12⟩ := e
    obtain ⟨k1, k2, k3⟩ := patient_of e4
    exact ⟨goes_of e1, k3, @of_decide_eq_false _ (sendWordBadDecided _) e2, e6, e7, ok_of e5, settled_of e3, e8, e9, e10, e11, e12, k1, k2⟩
  all_goals cases many <;> decide +kernel

/-- Core zero takes from its channels: channel 3 has an arrived entry, channel 4 none but a taken one, channel 5 feeds the engine. -/
def receiving (a b t : Word) : State :=
  let taken : Channel := { chanOf 1 .taken none with base := 0xA00 }
  let feeding : Channel := { chanOf 1 .free none with eng := true }
  operands ((working coreZero).onCore fun k =>
    { k with chans := ((k.chans.set 3 (chanOf 2 .arrived none)).set 4 taken).set 5 feeding }) .ch a b 0 t

/-- ChannelResults: a message that has arrived, and none; a channel that is not declared, one of the engine, and no channel; an entry taken, and
none; the match table. -/
theorem meets_channels :
    (let s := receiving 0 0 3
     (s.moved64 (hx 5)).toNat < 16 ∧ takable s 3 ∧ oldestArrived (s.core.chan 3) 0 ∧ Goes .ch 0x03 (hx 5) s ∧ (s.core.chan 3).recvq = [] ∧
       Goes .ch 0x04 (hx 5) s) ∧
    (let s := receiving 0 0 4
     (s.moved64 (hx 5)).toNat < 16 ∧ takable s 4 ∧ noneArrived (s.core.chan 4) ∧ Goes .ch 0x04 (hx 5) s ∧ Goes .ch 0x03 (hx 5) s ∧
       s.sl.wait = none ∧ s.untraced ∧ MayWait s) ∧
    (∀ t ∈ ([5, 6, 16] : List Word), let s := receiving 0 0 t
      ¬ ((s.moved64 (hx 5)).toNat < 16 ∧ takable s ((s.moved64 (hx 5)).toNat % 16)) ∧ Goes .ch 0x03 (hx 5) s ∧ Goes .ch 0x04 (hx 5) s) ∧
    (let s := receiving 0 0 0x4000800
     Goes .ch 0x05 (hx 5) s ∧ s.core.takenAt (s.moved64 (hx 5)) = none) ∧
    (let s := receiving 0 0 0x4000A00
     Goes .ch 0x05 (hx 5) s ∧ s.core.takenAt (s.moved64 (hx 5)) = some (4, 0) ∧ Settled s ∧ s.core.notices = [] ∧
       (s.core.chan 4).queue = []) ∧
    (let s := receiving 0x4000 7 0x3000F
     Goes .ch 0x06 (hx 5) s ∧ (s.moved64 (hx 5)).toNat / 2 ^ 20 % 16 = 0 ∧ (s.moved64 (hx 5)).toNat / 2 ^ 4 % 2 ^ 12 = 0 ∧
       takable s ((s.moved64 (hx 5)).toNat / 2 ^ 16 % 16) ∧ (s.lat .ch).a.toNat < 2 ^ 52 ∧ (s.lat .ch).a.toNat % 4 = 0) ∧
    (let s := receiving 0 0 15
     Goes .ch 0x07 (hx 5) s ∧ (s.moved64 (hx 5)).toNat < 16 ∧ ∀ c : Fin 16, s.core.chans[c].recvq = []) ∧
    (let s := receiving 0 0 16
     Goes .ch 0x07 (hx 5) s ∧ 16 ≤ (s.moved64 (hx 5)).toNat) := by
  refine ⟨⟨?_, ?_, ⟨⟨.arrived, 0, none⟩, ?_, rfl, rfl, ?_⟩, goes_of ?_, ?_, goes_of ?_⟩,
    ⟨?_, ?_, ?_, goes_of ?_, goes_of ?_, (patient_of ?_).2.2, (patient_of ?_).1, (patient_of ?_).2.1⟩,
    every (p := fun t => let s := receiving 0 0 t
      goes .ch 0x03 (hx 5) s && goes .ch 0x04 (hx 5) s && !decide ((s.moved64 (hx 5)).toNat < 16 ∧ (s.moved64 (hx 5)).toNat % 16 < 16 ∧
        (s.core.chan ((s.moved64 (hx 5)).toNat % 16)).declared = true ∧ (s.core.chan ((s.moved64 (hx 5)).toNat % 16)).eng = false))
      (fun _ e => ?step) ?_,
    ⟨goes_of ?_, ?_⟩, ⟨goes_of ?_, ?_, settled_of ?_, ?_⟩, ⟨goes_of ?_, ?_, ?_, ?_, ?_⟩, ⟨goes_of ?_, ?_⟩, goes_of ?_, ?_⟩
  case refine_4 =>
    intro j f k _ _
    have e : (receiving 0 0 3).core.chan 3 = chanOf 2 .arrived none := by decide +kernel
    change ((receiving 0 0 3).core.chan 3).entries[j]? = some f at k
    rw [e] at k
    have : f.resv = 0 := by
      have m := List.mem_of_getElem? k
      simp only [chanOf, List.mem_replicate] at m
      rw [m.2]
    exact .inr ⟨this.symm, Nat.zero_le j⟩
  case step =>
    simp only [Bool.and_eq_true, Bool.not_eq_true', decide_eq_false_iff_not] at e
    exact ⟨e.2, goes_of e.1.1, goes_of e.1.2⟩
  all_goals first | decide +kernel | (unfold takable; decide +kernel) | (unfold noneArrived; decide +kernel)

/-! ## System unit -/

/-- Core zero runs record 3, its barrier group 2 core zero and its neighbour, counter 5 at 9. -/
def waiting3 (a b t : Word) : State :=
  operands { working coreZero with
    jobs := [(3, { (working coreZero).job 3 with sets := [[0, 4]], bars := [(0, 2), (0, 2), (0, 2)], barGen := [0, 0, 6] })]
    ctrs := [(5, 9)] } .sy a b 0 t

/-- `waitControlBad` is decided by its fields. -/
def controlDecided (b : Word) (c : Bool) : Decidable (waitControlBad b c) := by unfold waitControlBad; infer_instance
/-- `waitHolds` is decided by its condition. -/
def holdsDecided (n : Nat) (w a : Word) : Decidable (waitHolds n w a) := by unfold waitHolds; split <;> infer_instance

theorem granted_of {s : State} {n : Nat} (h : (s.record?.any fun r => s.granted r n) = true) : counterGranted s n := by
  unfold counterGranted
  cases k : s.record? with
  | none => rw [k] at h; cases h
  | some r => rw [k] at h; exact ⟨r, rfl, h⟩

/-- WaitResults: a word and a counter that satisfy the wait and that do not, each condition of `wait`; `cinc`; `bar` with a member that has not
arrived. -/
theorem meets_waits :
    (∀ x ∈ ([(0, 0, true), (0, 1, false), (1, 1, true), (1, 0, false), (2, 0, true), (2, 1, false), (3, 1, true), (3, 0, false), (4, 0, true),
        (4, 1, false)] : List (Nat × Word × Bool)), let s := waiting3 x.2.1 (BitVec.ofNat 64 (x.1 * 2 ^ 61)) 0x4000100
      s.sl.wait = none ∧ s.sl.sb = [] ∧ Goes .sy 0x03 (hx 5) s ∧ ¬ waitControlBad (s.lat .sy).b false ∧
        accessPlace s (s.moved64 (hx 5)) 8 false = .ok (coreZero, 0x100) ∧
        (waitHolds ((s.lat .sy).b.toNat / 2 ^ 61) ((s.coreAt coreZero).mem.dword 0x100) (s.lat .sy).a ↔ x.2.2 = true) ∧ s.untraced ∧ MayWait s) ∧
    (∀ a ∈ ([9, 10] : List Word), let s := waiting3 a 0 5
      s.sl.wait = none ∧ Settled s ∧ Goes .sy 0x04 (hx 5) s ∧ Goes .sy 0x05 (hx 5) s ∧ ¬ waitControlBad (s.lat .sy).b true ∧
        (s.moved64 (hx 5)).toNat = 5 ∧ counterGranted s 5 ∧ s.ctr s.coreId.die 5 = 9 ∧ (s.lat .sy).a = a ∧ s.untraced ∧ MayWait s) ∧
    (let s := waiting3 0 0 2
     Goes .sy 0x02 (hx 5) s ∧ Settled s ∧ s.untraced ∧ MayWait s ∧ (s.moved64 (hx 5)).toNat < 256 ∧
       s.myJob.barMembers (s.moved64 (hx 5)).toNat = some [0, 4] ∧ s.record?.isSome = true ∧ s.party ∈ [0, 4] ∧
       (∃ p ∈ [0, 4], p ≠ s.party ∧ ∀ k, s.slotOf s.myJob p = some k → k.atBar (s.moved64 (hx 5)).toNat = false) ∧
       ∀ p ∈ [0, 4], s.slotOf s.myJob p = some s.sl → p = s.party) := by
  refine ⟨every (p := fun x => let s := waiting3 x.2.1 (BitVec.ofNat 64 (x.1 * 2 ^ 61)) 0x4000100
      patient s && goes .sy 0x03 (hx 5) s && !@decide _ (controlDecided (s.lat .sy).b false) &&
        (@decide _ (holdsDecided ((s.lat .sy).b.toNat / 2 ^ 61) ((s.coreAt coreZero).mem.dword 0x100) (s.lat .sy).a) == x.2.2) &&
        decide (s.sl.sb = [] ∧ accessPlace s (s.moved64 (hx 5)) 8 false = .ok (coreZero, 0x100))) (fun _ e => ?a) ?_,
    every (p := fun a => let s := waiting3 a 0 5
      patient s && settled s && goes .sy 0x04 (hx 5) s && goes .sy 0x05 (hx 5) s && !@decide _ (controlDecided (s.lat .sy).b true) &&
        (s.record?.any fun r => s.granted r 5) && decide ((s.moved64 (hx 5)).toNat = 5 ∧ s.ctr s.coreId.die 5 = 9 ∧ (s.lat .sy).a = a))
      (fun _ e => ?b) ?_,
    goes_of ?_, settled_of ?_, (patient_of ?_).1, (patient_of ?_).2.1, ?_, ?_, ?_, ?_, ⟨4, by decide, ?_, ?c⟩, ?d⟩
  case a =>
    simp only [Bool.and_eq_true, Bool.not_eq_true', decide_eq_true_eq, beq_iff_eq] at e
    obtain ⟨⟨⟨⟨e1, e2⟩, e3⟩, e4⟩, e5, e6⟩ := e
    obtain ⟨k1, k2, k3⟩ := patient_of e1
    refine ⟨k3, e5, goes_of e2, @of_decide_eq_false _ (controlDecided _ _) e3, e6, ?_, k1, k2⟩
    rw [← e4]
    exact (@decide_eq_true_iff _ (holdsDecided _ _ _)).symm
  case b =>
    simp only [Bool.and_eq_true, Bool.not_eq_true', decide_eq_true_eq] at e
    obtain ⟨⟨⟨⟨⟨⟨e1, e2⟩, e3⟩, e4⟩, e5⟩, e6⟩, e7, e8, e9⟩ := e
    obtain ⟨k1, k2, k3⟩ := patient_of e1
    exact ⟨k3, settled_of e2, goes_of e3, goes_of e4, @of_decide_eq_false _ (controlDecided _ _) e5, e7, granted_of e6, e8, e9, k1, k2⟩
  case c =>
    intro k hk
    have h : ((waiting3 0 0 2).slotOf (waiting3 0 0 2).myJob 4).map (fun k => k.atBar ((waiting3 0 0 2).moved64 (hx 5)).toNat) = some false := by
      decide +kernel
    rw [hk] at h
    exact Option.some.inj h
  case d =>
    intro p hp hk
    have h : ((waiting3 0 0 2).slotOf (waiting3 0 0 2).myJob 4).map (·.run) ≠ some (waiting3 0 0 2).sl.run := by decide +kernel
    have q : (waiting3 0 0 2).party = 0 := by decide +kernel
    rcases List.mem_cons.mp hp with e | e
    · rw [e]; exact q.symm
    · rw [List.mem_singleton.mp e] at hk
      exact absurd (congrArg (Option.map (·.run)) hk) h
  all_goals decide +kernel

/-- WaitResults: groups and members that do not exist, controls with a bit that must be 0, counters out of range and not granted. -/
theorem meets_wait_traps :
    (let s := waiting3 0 0 256
     Goes .sy 0x02 (hx 5) s ∧ 256 ≤ (s.moved64 (hx 5)).toNat) ∧
    (let s := waiting3 0 0 3
     Goes .sy 0x02 (hx 5) s ∧ s.myJob.barMembers (s.moved64 (hx 5)).toNat = none) ∧
    (∀ b ∈ ([1, 0x400000000000000, 0xA000000000000000] : List Word), let s := waiting3 0 b 5
      Goes .sy 0x03 (hx 5) s ∧ Goes .sy 0x04 (hx 5) s ∧ waitControlBad (s.lat .sy).b false ∧ waitControlBad (s.lat .sy).b true) ∧
    (∀ t ∈ ([4096, 15, 4] : List Word), let s := waiting3 0 0 t
      Goes .sy 0x04 (hx 5) s ∧ Goes .sy 0x05 (hx 5) s ∧ ¬ waitControlBad (s.lat .sy).b true ∧
        (2 ^ 12 ≤ (s.moved64 (hx 5)).toNat ∨ (s.record? = some 3 ∧ s.granted 3 (s.moved64 (hx 5)).toNat = false))) := by
  refine ⟨⟨goes_of ?_, ?_⟩, ⟨goes_of ?_, ?_⟩,
    every (p := fun b => let s := waiting3 0 b 5
      goes .sy 0x03 (hx 5) s && goes .sy 0x04 (hx 5) s && @decide _ (controlDecided (s.lat .sy).b false) &&
        @decide _ (controlDecided (s.lat .sy).b true)) (fun _ e => ?a) ?_,
    every (p := fun t => let s := waiting3 0 0 t
      goes .sy 0x04 (hx 5) s && goes .sy 0x05 (hx 5) s && !@decide _ (controlDecided (s.lat .sy).b true) &&
        decide (2 ^ 12 ≤ (s.moved64 (hx 5)).toNat ∨ (s.record? = some 3 ∧ s.granted 3 (s.moved64 (hx 5)).toNat = false))) (fun _ e => ?b) ?_⟩
  case a =>
    simp only [Bool.and_eq_true] at e
    exact ⟨goes_of e.1.1.1, goes_of e.1.1.2, @of_decide_eq_true _ (controlDecided _ _) e.1.2, @of_decide_eq_true _ (controlDecided _ _) e.2⟩
  case b =>
    simp only [Bool.and_eq_true, Bool.not_eq_true', decide_eq_true_eq] at e
    exact ⟨goes_of e.1.1.1, goes_of e.1.1.2, @of_decide_eq_false _ (controlDecided _ _) e.1.2, e.2⟩
  all_goals decide +kernel

/-- Core zero's slot 0 with helpers: 0 has ended with exit value 77, 1 runs in slot 2, 2 has not started. -/
def helping (a t : Word) : State :=
  operands ((working coreZero).onCore fun k =>
    { k with helpers := ((k.helpers.set 0 ⟨true, false, none, 77⟩).set 1 ⟨true, true, some 2, 0⟩).set 2 ⟨true, true, none, 0⟩ }) .sy a 0 0 t

/-- Every helper is held, or the activation queue is full. -/
def crowdedHelp (helpers : Bool) : State := (helping 0 0x2000).onCore fun k =>
  if helpers then { k with helpers := Vector.replicate 10 ⟨true, true, none, 0⟩ }
  else { k with actq := List.replicate 16 ⟨2, 0x2000, 0, 0, 0, none, none⟩ }

/-- The same for slot 1, and with no context. -/
def aside (a t : Word) : State :=
  let s := ((on coreZero).onCore fun k => { k with cur := 1 }).onSl fun k => { k with run := .issuing, pc := 0x1000, npc := 0x1000 }
  operands s .sy a 0 0 t

/-- A slack of record 3, which has supersteps, its role 0 a plan directory at 0x50000 and plan 2 empty at 0x51000. -/
def resting (t : Word) : State :=
  let s := operands (working coreZero) .sy 0 0 0 t
  { s with dm := dmOf (identity ++ record 2 ++ [(0x302, [1]), dwAt 0x320 (2 ^ 52 + 0x20000), dwAt 0x20028 0x50000, dwAt 0x50020 0x51000]) }

/-- A core's slot 0 that asks for the next item of grid 1. -/
def dispensed (a t : Word) : State :=
  let s := operands (working coreZero) .sy a 0 0 t
  { s with dm := dmOf (identity ++ record 2 ++ [dwAt 0x370 (2 ^ 60 + 7)]) }

/-- ActivationResults: every operation where it runs, and where it traps. -/
theorem meets_activations :
    (let s := helping 0 0x2000
     s.sl.wait = none ∧ Goes .sy 0x06 (hx 5) s ∧ Goes .sy 0x07 (hx 5) s ∧ s.core.cur = 0 ∧ (s.moved64 (hx 5)).toNat % 4 = 0 ∧
       (s.moved64 (hx 5)).toNat < s.sl.csr.codelim.toNat ∧ freeHelper s 3 ∧ s.core.actq.length < 16) ∧
    (let s := aside 0 0x2000
     s.sl.wait = none ∧ Goes .sy 0x07 (hx 5) s ∧ Goes .sy 0x01 (hx 5) s ∧ s.core.cur ≠ 0) ∧
    (let s := helping 0 0x2002
     s.sl.wait = none ∧ Goes .sy 0x07 (hx 5) s ∧ s.core.cur = 0 ∧ (s.moved64 (hx 5)).toNat % 4 ≠ 0) ∧
    (let s := helping 0 0xFFFFFFFFFFFFFC
     s.sl.wait = none ∧ Goes .sy 0x07 (hx 5) s ∧ s.core.cur = 0 ∧ (s.moved64 (hx 5)).toNat % 4 = 0 ∧
       s.sl.csr.codelim.toNat ≤ (s.moved64 (hx 5)).toNat) ∧
    (∀ full ∈ [true, false], let s := crowdedHelp full
      s.sl.wait = none ∧ Goes .sy 0x07 (hx 5) s ∧ s.core.cur = 0 ∧ (s.moved64 (hx 5)).toNat % 4 = 0 ∧
        (s.moved64 (hx 5)).toNat < s.sl.csr.codelim.toNat ∧ ((∀ n : Fin 10, s.core.helpers[n].held = true) ∨ 16 ≤ s.core.actq.length)) ∧
    (Goes .sy 0x08 (hx 5) (aside 0 0) ∧ (aside 0 0).sl.wait = none ∧ (aside 0 0).core.cur ≠ 0) ∧
    (∀ n ∈ ([5, 10] : List Nat), let s := helping 0 (BitVec.ofNat 64 n)
      Goes .sy 0x08 (hx 5) s ∧ s.sl.wait = none ∧
        (10 ≤ (s.moved64 (hx 5)).toNat ∨ ∀ k : Fin 10, (s.moved64 (hx 5)).toNat = k.val → s.core.helpers[k].held = false)) ∧
    (∀ n ∈ ([0, 1, 2] : List (Fin 10)), let s := helping 0 (BitVec.ofNat 64 n)
      s.sl.wait = none ∧ Goes .sy 0x08 (hx 5) s ∧ s.core.cur = 0 ∧ (s.moved64 (hx 5)).toNat = n.val ∧ s.core.helpers[n].held = true ∧
        s.core.helpers[n].live = decide (n ≠ 0) ∧ s.untraced ∧ MayWait s) ∧
    (let s := (aside 0 77).onSl fun k => { k with helper := some 4 }
     s.sl.wait = none ∧ Goes .sy 0x09 (hx 5) s ∧ s.sl.kind ≠ 3 ∧ s.core.ctx = none ∧ s.sl.helper = some 4) ∧
    (let s := (aside 0 77).onSl fun k => { k with csr := { k.csr with xstat := 3 } }
     s.sl.wait = none ∧ Goes .sy 0x09 (hx 5) s ∧ s.sl.kind = 3) ∧
    (let s := dispensed 1 0x4000100
     s.sl.wait = none ∧ Goes .sy 0x0A (hx 5) s ∧ (s.lat .sy).a.toNat = 1 ∧ accessPlace s (s.moved64 (hx 5)) 8 true = .ok (coreZero, 0x100) ∧
       s.sl.sb = [] ∧ s.record? = some 3 ∧ (s.dw 3 (13 + 1)).toNat / 2 ^ 60 % 4 ≠ 0 ∧ s.core.dreqs < 8) ∧
    (let s := dispensed 8 0x4000100
     s.sl.wait = none ∧ Goes .sy 0x0A (hx 5) s ∧ 8 ≤ (s.lat .sy).a.toNat) ∧
    (let s := resting 2
     s.sl.wait = none ∧ Goes .sy 0x01 (hx 5) s ∧ Settled s ∧ s.untraced ∧ MayWait s ∧ s.core.ctx = some ⟨3, 1, 0, false, false, false⟩ ∧ s.core.cur = 0 ∧
       (s.moved64 (hx 5)).toNat = 2 ∧ s.recSS 3 = true ∧ s.planAddr 3 0 2 = .ok (some 0x51000) ∧ s.planBytes 3 0x51000 1024 0 0 = some [] ∧
       (∀ m ∈ s.msgs, m.src ≠ s.coreId) ∧ ∀ m ∈ s.core.mq.cmds, m.cls ≠ 6) ∧
    (let s := resting 16
     s.sl.wait = none ∧ Goes .sy 0x01 (hx 5) s ∧ 16 ≤ (s.moved64 (hx 5)).toNat) := by
  refine ⟨⟨?_, goes_of ?_, goes_of ?_, ?_, ?_, ?_, ⟨?_, ?_⟩, ?_⟩, ⟨?_, goes_of ?_, goes_of ?_, ?_⟩,
    ⟨?_, goes_of ?_, ?_⟩, ⟨?_, goes_of ?_, ?_⟩,
    every (p := fun full => let s := crowdedHelp full
      goes .sy 0x07 (hx 5) s && decide (s.sl.wait = none ∧ s.core.cur = 0 ∧ (s.moved64 (hx 5)).toNat % 4 = 0 ∧
        (s.moved64 (hx 5)).toNat < s.sl.csr.codelim.toNat ∧ ((∀ n : Fin 10, s.core.helpers[n].held = true) ∨ 16 ≤ s.core.actq.length)))
      (fun _ e => ?b) ?_,
    ⟨goes_of ?_, ?_⟩,
    every (p := fun n => let s := helping 0 (BitVec.ofNat 64 n)
      goes .sy 0x08 (hx 5) s && decide (s.sl.wait = none ∧
        (10 ≤ (s.moved64 (hx 5)).toNat ∨ ∀ k : Fin 10, (s.moved64 (hx 5)).toNat = k.val → s.core.helpers[k].held = false))) (fun _ e => ?c) ?_,
    every (p := fun n : Fin 10 => let s := helping 0 (BitVec.ofNat 64 n)
      patient s && goes .sy 0x08 (hx 5) s && decide (s.core.cur = 0 ∧ (s.moved64 (hx 5)).toNat = n.val ∧ s.core.helpers[n].held = true ∧
        s.core.helpers[n].live = decide (n ≠ 0))) (fun _ e => ?a) ?_,
    ⟨?_, goes_of ?_, ?_⟩, ⟨?_, goes_of ?_, ?_⟩, ⟨?_, goes_of ?_, ?_⟩, ⟨?_, goes_of ?_, ?_⟩,
    ⟨?_, goes_of ?_, settled_of ?_, (patient_of ?_).1, (patient_of ?_).2.1, ?_⟩, ⟨?_, goes_of ?_, ?_⟩⟩
  case a =>
    simp only [Bool.and_eq_true, decide_eq_true_eq] at e
    obtain ⟨⟨e1, e2⟩, e3, e4, e5, e6⟩ := e
    obtain ⟨k1, k2, k3⟩ := patient_of e1
    exact ⟨k3, goes_of e2, e3, e4, e5, e6, k1, k2⟩
  case b =>
    simp only [Bool.and_eq_true, decide_eq_true_eq] at e
    exact ⟨e.2.1, goes_of e.1, e.2.2⟩
  case c =>
    simp only [Bool.and_eq_true, decide_eq_true_eq] at e
    exact ⟨goes_of e.1, e.2⟩
  all_goals decide +kernel

/-- `csrRejects` is decided by its fields. -/
def rejectsDecided (n : Nat) (w : Word) : Decidable (csrRejects n w) := by unfold csrRejects; infer_instance

/-- Core zero at a privilege level accesses CSR `n`. -/
def csring (priv : Nat) (a n : Word) : State :=
  operands ((working coreZero).onSl fun k => { k with csr := { k.csr with xstat := BitVec.ofNat 64 (priv * 2 ^ 4) } }) .sy a 0 0 n

/-- CsrResults: a number that names nothing; no write; a write that a user may not make; values refused; values taken, at the ends of RM. -/
theorem meets_csrs : ∀ r ∈ csrTable,
    (∀ n ∈ ([11, 0x18, 0x26] : List Word), let s := csring 1 0 n
      Goes .sy r.1 (hx 5) s ∧ (s.moved64 (hx 5)).toNat ∉ csrNumbers s.coreId.kind) ∧
    (let s := csring 0 0 8
     Goes .sy r.1 (hx 5) s ∧ (s.moved64 (hx 5)).toNat ∈ csrNumbers s.coreId.kind ∧ (r.1 ≠ 0x21 → r.2.2 (s.csr 8) (s.lat .sy).a = none)) ∧
    (let s := csring 0 1 8
     Goes .sy r.1 (hx 5) s ∧ (s.moved64 (hx 5)).toNat = 8 ∧ 8 ∈ csrNumbers s.coreId.kind ∧ s.sl.priv = 0 ∧ 8 ∉ userCsrs ∧
       (r.1 ≠ 0x20 → (r.2.2 (s.csr 8) (s.lat .sy).a).isSome = true)) ∧
    (let s := csring 0 5 2
     Goes .sy r.1 (hx 5) s ∧ (s.moved64 (hx 5)).toNat = 2 ∧ 2 ∈ csrNumbers s.coreId.kind ∧ 2 ∈ userCsrs ∧
       (r.1 ∈ [0x21, 0x22] → r.2.2 (s.csr 2) (s.lat .sy).a = some 5 ∧ csrRejects 2 5)) ∧
    (let s := csring 0 4 2
     Goes .sy r.1 (hx 5) s ∧ (s.moved64 (hx 5)).toNat = 2 ∧ (r.1 ∈ [0x21, 0x22] → r.2.2 (s.csr 2) (s.lat .sy).a = some 4 ∧ ¬ csrRejects 2 4) ∧
       (r.1 = 0x23 → r.2.2 (s.csr 2) (s.lat .sy).a = some 0 ∧ ¬ csrRejects 2 0)) := by
  refine every (p := fun r =>
    (([11, 0x18, 0x26] : List Word).all fun n => let s := csring 1 0 n
      goes .sy r.1 (hx 5) s && decide ((s.moved64 (hx 5)).toNat ∉ csrNumbers s.coreId.kind)) &&
    (let s := csring 0 0 8
     goes .sy r.1 (hx 5) s && decide ((s.moved64 (hx 5)).toNat ∈ csrNumbers s.coreId.kind ∧ (r.1 ≠ 0x21 → r.2.2 (s.csr 8) (s.lat .sy).a = none))) &&
    (let s := csring 0 1 8
     goes .sy r.1 (hx 5) s && decide ((s.moved64 (hx 5)).toNat = 8 ∧ 8 ∈ csrNumbers s.coreId.kind ∧ s.sl.priv = 0 ∧ 8 ∉ userCsrs ∧
       (r.1 ≠ 0x20 → (r.2.2 (s.csr 8) (s.lat .sy).a).isSome = true))) &&
    (let s := csring 0 5 2
     goes .sy r.1 (hx 5) s && decide ((s.moved64 (hx 5)).toNat = 2 ∧ 2 ∈ csrNumbers s.coreId.kind ∧ 2 ∈ userCsrs ∧
       (r.1 ∈ [0x21, 0x22] → r.2.2 (s.csr 2) (s.lat .sy).a = some 5))) &&
    (let s := csring 0 4 2
     goes .sy r.1 (hx 5) s && decide ((s.moved64 (hx 5)).toNat = 2 ∧ (r.1 ∈ [0x21, 0x22] → r.2.2 (s.csr 2) (s.lat .sy).a = some 4) ∧
       (r.1 = 0x23 → r.2.2 (s.csr 2) (s.lat .sy).a = some 0)))) (fun r e => ?a) ?_
  case a =>
    simp only [Bool.and_eq_true, List.all_eq_true, decide_eq_true_eq] at e
    obtain ⟨⟨⟨⟨e1, e2⟩, e3⟩, e4⟩, e5⟩ := e
    have n5 : csrRejects 2 5 := @of_decide_eq_true _ (rejectsDecided _ _) (by decide +kernel)
    have n4 : ¬ csrRejects 2 4 := @of_decide_eq_false _ (rejectsDecided _ _) (by decide +kernel)
    have n0 : ¬ csrRejects 2 0 := @of_decide_eq_false _ (rejectsDecided _ _) (by decide +kernel)
    exact ⟨fun n m => ⟨goes_of (e1 n m).1, (e1 n m).2⟩, ⟨goes_of e2.1, e2.2⟩, ⟨goes_of e3.1, e3.2⟩,
      ⟨goes_of e4.1, e4.2.1, e4.2.2.1, e4.2.2.2.1, fun k => ⟨e4.2.2.2.2 k, n5⟩⟩,
      goes_of e5.1, e5.2.1, fun k => ⟨e5.2.2.1 k, n4⟩, fun k => ⟨e5.2.2.2 k, n0⟩⟩
  decide +kernel

/-- Device memory of a front end whose pool is at 0x100000: the identity map, record 3 complete and owned by record 4, that may patch doubleword
24, and queue 0's descriptor at 0x40000 (R282 to R287, R425, R427). -/
def frontCells : Memory :=
  [(16, 1), (18, 1), (65536, 1), (65537, 16), (65538, 1), (69632, 191), (131082, 3), (131088, 1), (131097, 128), (131098, 3), (229857, 128),
   (229860, 1), (229862, 1), (229870, 1), (262146, 7), (262152, 4), (262154, 3), (262156, 1), (262158, 8), (262159, 129), (262170, 8), (327688, 1)] ++
  [(1049344, 1), (1049345, 1), (1049348, 1), (1049352, 4), (1049353, 16), (1049359, 1), (1049360, 1), (1049378, 2), (1049382, 16), (1049408, 5),
   (1049410, 10), (1049426, 6), (1049430, 16), (1049604, 1)]

/-- A core that runs record 4 in that front end, at a privilege level. -/
def fronting (c : CoreId) (priv : Nat) (a b t : Word) : State :=
  let s := ((on c).onCore fun k => { k with ctx := some ⟨4, 1, 0, false, false, false⟩ }).onSl fun k =>
    { k with csr := { k.csr with xstat := BitVec.ofNat 64 (priv * 2 ^ 4) } }
  operands { s with dm := frontCells, regs := [(.fepool, 0x100000), (.feqt, 0x40000), (.ferh, 0x50000), (.qtail 0, 2)] } .sy a b 0 t

/-- SystemResults: fences, flushes, a trap, and a halt at machine level and below it. -/
theorem meets_system :
    (let s := fronting coreZero 0 64 0 0x1000
     (∀ r ∈ systemFenceTable, Goes .sy r.1 (hx 5) s) ∧ Settled s ∧ (∀ m ∈ s.msgs, m.src ≠ s.coreId) ∧ (∀ m ∈ s.emits, m.src ≠ s.coreId) ∧
       (∀ r ∈ flushTable, Goes .sy r.1 (hx 5) s) ∧ Goes .sy 0x24 (hx 5) s ∧ Goes .sy 0x41 (hx 5) s ∧ s.sl.priv ≠ 3) ∧
    (let s := fronting coreZero 3 0 0 0
     Goes .sy 0x41 (hx 5) s ∧ s.sl.priv = 3 ∧ s.sl.sb = []) := by
  refine ⟨⟨every (p := fun r => goes .sy r.1 (hx 5) (fronting coreZero 0 64 0 0x1000)) (fun _ e => goes_of e) ?_, settled_of ?_, ?_, ?_,
    every (p := fun r => goes .sy r.1 (hx 5) (fronting coreZero 0 64 0 0x1000)) (fun _ e => goes_of e) ?_, goes_of ?_, goes_of ?_, ?_⟩,
    goes_of ?_, ?_, ?_⟩ <;> decide +kernel

/-- SystemResults: `launch` and `lpatch` of a record that the job owns; of no record, of another's, and of one that is not idle. -/
theorem meets_launch :
    (let s := fronting coreZero 0 0 0 3
     Goes .sy 0x0B (hx 5) s ∧ (s.moved64 (hx 5)).toNat = 3 ∧ s.owns 3 = true ∧ s.recState 3 = 0 ∧ s.complete? 3 = true ∧ Settled s) ∧
    (let s := fronting coreZero 0 0 0 4096
     Goes .sy 0x0B (hx 5) s ∧ (s.moved64 (hx 5)).toNat = 4096) ∧
    (let s := fronting coreZero 0 0 0 4095
     Goes .sy 0x0B (hx 5) s ∧ (s.moved64 (hx 5)).toNat < 4096 ∧ s.owns 4095 = false) ∧
    (let s := { fronting coreZero 0 0 0 3 with dm := frontCells.write 0x100307 [2] }
     Goes .sy 0x0B (hx 5) s ∧ s.owns 3 = true ∧ s.recState 3 ≠ 0) ∧
    (let s := fronting coreZero 0 9 15 (24 * 2 ^ 16 + 3)
     Goes .sy 0x0C (hx 5) s ∧ (s.moved64 (hx 5)).toNat < 2 ^ 21 ∧ (s.moved64 (hx 5)).toNat / 2 ^ 12 % 16 = 0 ∧ s.owns 3 = true ∧
       bit (s.dw 3 1) (32 + 24) = true ∧ s.recState 3 = 0) ∧
    (let s := fronting coreZero 0 9 15 (25 * 2 ^ 16 + 3)
     Goes .sy 0x0C (hx 5) s ∧ (s.moved64 (hx 5)).toNat < 2 ^ 21 ∧ (s.moved64 (hx 5)).toNat / 2 ^ 12 % 16 = 0 ∧ bit (s.dw 3 1) (32 + 25) = false) := by
  refine ⟨⟨goes_of ?_, ?_, ?_, ?_, ?_, settled_of ?_⟩, ⟨goes_of ?_, ?_⟩, ⟨goes_of ?_, ?_⟩, ⟨goes_of ?_, ?_⟩, ⟨goes_of ?_, ?_⟩, goes_of ?_, ?_⟩ <;>
    decide +kernel

/-- SystemResults: `submit` up to the ring's size and past it, to another's queue, to no queue, and on another core. -/
theorem meets_submit :
    (∀ x ∈ ([(18, true), (19, false)] : List (Word × Bool)), let s := fronting harbour 0 x.1 0 0
      Goes .sy 0x40 (hx 5) s ∧ (s.moved64 (hx 5)).toNat = 0 ∧ s.coreId.kind = .harbour ∧ (s.lat .sy).a = x.1 ∧ x.1.toNat < 2 ^ 32 ∧
        descAsid (s.queueDesc 0) = s.asid ∧ decide ((x.1.toNat + 2 ^ 32 - s.qTail 0) % 2 ^ 32 ≤ descSize (s.queueDesc 0)) = x.2 ∧ Settled s) ∧
    (let s := fronting harbour 0 1 0 1
     Goes .sy 0x40 (hx 5) s ∧ (s.moved64 (hx 5)).toNat = 1 ∧ descAsid (s.queueDesc 1) ≠ s.asid) ∧
    (let s := fronting harbour 0 1 0 4096
     Goes .sy 0x40 (hx 5) s ∧ 4096 ≤ (s.moved64 (hx 5)).toNat) ∧
    (let s := fronting quay 0 1 0 0
     Goes .sy 0x40 (hx 5) s ∧ s.coreId.kind ≠ .harbour) := by
  refine ⟨every (p := fun x => let s := fronting harbour 0 x.1 0 0
      goes .sy 0x40 (hx 5) s && settled s && decide ((s.moved64 (hx 5)).toNat = 0 ∧ s.coreId.kind = .harbour ∧ (s.lat .sy).a = x.1 ∧
        x.1.toNat < 2 ^ 32 ∧ descAsid (s.queueDesc 0) = s.asid ∧
        decide ((x.1.toNat + 2 ^ 32 - s.qTail 0) % 2 ^ 32 ≤ descSize (s.queueDesc 0)) = x.2)) (fun _ e => ?a) ?_,
    ⟨goes_of ?_, ?_⟩, ⟨goes_of ?_, ?_⟩, goes_of ?_, ?_⟩
  case a =>
    simp only [Bool.and_eq_true, decide_eq_true_eq] at e
    obtain ⟨⟨e1, e2⟩, e3, e4, e5, e6, e7, e8⟩ := e
    exact ⟨goes_of e1, e3, e4, e5, e6, e7, e8, settled_of e2⟩
  all_goals decide +kernel

/-! ## Debug unit and keyed unit -/

/-- DebugUnitResults: every counter, an event at the end of its range and one beyond, reserved bits, marks. -/
theorem meets_debug_unit :
    (∀ t ∈ ([0, 7] : List Word), let s := operands (working coreZero) .db 0 0 0 t
      Goes .db 0x01 (hx 5) s ∧ Goes .db 0x02 (hx 5) s ∧ (s.moved64 (hx 5)).toNat < 8 ∧ Goes .db 0x04 (hx 5) s ∧ s.untraced) ∧
    (let s := operands (working coreZero) .db 0 0 0 8
     Goes .db 0x02 (hx 5) s ∧ 8 ≤ (s.moved64 (hx 5)).toNat) ∧
    (let s := operands (working coreZero) .db 0 0 0 0x70F07
     Goes .db 0x03 (hx 5) s ∧ (s.moved64 (hx 5)).toNat % 256 = 7 ∧ (s.moved64 (hx 5)).toNat / 2 ^ 13 % 8 = 0 ∧ (s.moved64 (hx 5)).toNat < 2 ^ 19 ∧
       (s.moved64 (hx 5)).toNat / 2 ^ 8 % 32 ≤ 15) ∧
    (∀ t ∈ ([0x1007, 0x2007, 0xF, 0x80007] : List Word), let s := operands (working coreZero) .db 0 0 0 t
      Goes .db 0x03 (hx 5) s ∧ ((s.moved64 (hx 5)).toNat / 2 ^ 13 % 8 ≠ 0 ∨ (s.moved64 (hx 5)).toNat / 2 ^ 3 % 32 ≠ 0 ∨
        2 ^ 19 ≤ (s.moved64 (hx 5)).toNat ∨ 15 < (s.moved64 (hx 5)).toNat / 2 ^ 8 % 32)) ∧
    (let s := operands (working coreZero) .db 0 0 0 0x100000000
     Goes .db 0x04 (hx 5) s ∧ 2 ^ 32 ≤ (s.moved64 (hx 5)).toNat) := by
  refine ⟨every (p := fun t => let s := operands (working coreZero) .db 0 0 0 t
      patient s && goes .db 0x01 (hx 5) s && goes .db 0x02 (hx 5) s && goes .db 0x04 (hx 5) s && decide ((s.moved64 (hx 5)).toNat < 8))
      (fun _ e => ?a) ?_,
    ⟨goes_of ?_, ?_⟩, ⟨goes_of ?_, ?_⟩,
    every (p := fun t => let s := operands (working coreZero) .db 0 0 0 t
      goes .db 0x03 (hx 5) s && decide ((s.moved64 (hx 5)).toNat / 2 ^ 13 % 8 ≠ 0 ∨ (s.moved64 (hx 5)).toNat / 2 ^ 3 % 32 ≠ 0 ∨
        2 ^ 19 ≤ (s.moved64 (hx 5)).toNat ∨ 15 < (s.moved64 (hx 5)).toNat / 2 ^ 8 % 32)) (fun _ e => ?b) ?_, goes_of ?_, ?_⟩
  case a =>
    simp only [Bool.and_eq_true, decide_eq_true_eq] at e
    exact ⟨goes_of e.1.1.1.2, goes_of e.1.1.2, e.2, goes_of e.1.2, (patient_of e.1.1.1.1).1⟩
  case b =>
    simp only [Bool.and_eq_true, decide_eq_true_eq] at e
    exact ⟨goes_of e.1, e.2⟩
  all_goals decide +kernel

/-- Core zero emits key 7, to a stage by x5, with `n` bytes at 0x100 and `credits` left. -/
def emits (n credits : Nat) (t : Word) : State :=
  operands (keyed { Hamper.empty with credits := [(0, credits)] }) .ks key7 (BitVec.ofNat 64 (n * 2 ^ 32 + 0x4000100)) 0 t

/-- EmitResults: a length and a stage that break a check, a stage that is not declared; a record of 248 bytes, and of none, with a credit and
without. -/
theorem meets_emits :
    (∀ n ∈ [256, 12], let s := emits n 1 0
      Goes .ks 0x03 (hx 5) s ∧ s.sl.wait = none ∧ (248 < (s.lat .ks).b.toNat / 2 ^ 32 ∨ (s.lat .ks).b.toNat / 2 ^ 32 % 8 ≠ 0)) ∧
    (∀ x ∈ ([(64, false), (1, true)] : List (Word × Bool)), let s := emits 8 1 x.1
      Goes .ks 0x03 (hx 5) s ∧ s.sl.wait = none ∧ (s.lat .ks).b.toNat / 2 ^ 32 = 8 ∧ decide ((s.moved64 (hx 5)).toNat < 64) = x.2 ∧
        s.record? = some 3 ∧ (x.2 = true → s.stage 3 (s.moved64 (hx 5)).toNat = none ∧ s.stageLost 3 (s.moved64 (hx 5)).toNat = false)) ∧
    (∀ n ∈ [0, 248], ∀ credits ∈ [0, 1], let s := emits n credits 0
      Goes .ks 0x03 (hx 5) s ∧ s.sl.wait = none ∧ Settled s ∧ s.untraced ∧ MayWait s ∧ (s.lat .ks).b.toNat / 2 ^ 32 = n ∧
        (s.moved64 (hx 5)).toNat = 0 ∧ s.record? = some 3 ∧ s.stage 3 0 = some stageBytes ∧
        s.spaTarget (BitVec.ofNat 64 ((s.lat .ks).b.toNat % 2 ^ 32)) = .ok (coreZero, 0x100) ∧ (n ≠ 0 → s.spaOffset coreZero 0x100 n 8 false = none) ∧
        keyCluster stageBytes (s.lat .ks).a = 0 ∧ (s.job 3).hamperOf 0 = 0 ∧
        look 0 (s.hamper 0).credits 0 = credits ∧ (s.hamper 0).requests = []) := by
  refine ⟨every (p := fun n => let s := emits n 1 0
      patient s && goes .ks 0x03 (hx 5) s && decide (248 < (s.lat .ks).b.toNat / 2 ^ 32 ∨ (s.lat .ks).b.toNat / 2 ^ 32 % 8 ≠ 0))
      (fun _ e => ?a) ?_,
    every (p := fun x => let s := emits 8 1 x.1
      patient s && goes .ks 0x03 (hx 5) s && decide ((s.lat .ks).b.toNat / 2 ^ 32 = 8 ∧ decide ((s.moved64 (hx 5)).toNat < 64) = x.2 ∧
        s.record? = some 3 ∧ (x.2 = true → s.stage 3 (s.moved64 (hx 5)).toNat = none ∧ s.stageLost 3 (s.moved64 (hx 5)).toNat = false))) (fun _ e => ?b) ?_,
    every (p := fun n => ([0, 1] : List Nat).all fun credits => let s := emits n credits 0
      patient s && goes .ks 0x03 (hx 5) s && settled s && decide ((s.lat .ks).b.toNat / 2 ^ 32 = n ∧
        (s.moved64 (hx 5)).toNat = 0 ∧ s.record? = some 3 ∧ s.stage 3 0 = some stageBytes ∧
        s.spaTarget (BitVec.ofNat 64 ((s.lat .ks).b.toNat % 2 ^ 32)) = .ok (coreZero, 0x100) ∧ (n ≠ 0 → s.spaOffset coreZero 0x100 n 8 false = none) ∧
        keyCluster stageBytes (s.lat .ks).a = 0 ∧ (s.job 3).hamperOf 0 = 0 ∧
        look 0 (s.hamper 0).credits 0 = credits ∧ (s.hamper 0).requests = [])) (fun _ e => ?c) ?_⟩
  case a =>
    simp only [Bool.and_eq_true, decide_eq_true_eq] at e
    exact ⟨goes_of e.1.2, (patient_of e.1.1).2.2, e.2⟩
  case b =>
    simp only [Bool.and_eq_true, decide_eq_true_eq] at e
    exact ⟨goes_of e.1.2, (patient_of e.1.1).2.2, e.2⟩
  case c =>
    intro credits m
    have e := List.all_eq_true.mp e credits m
    simp only [Bool.and_eq_true, decide_eq_true_eq] at e
    obtain ⟨k1, k2, k3⟩ := patient_of e.1.1.1
    exact ⟨goes_of e.1.1.2, k3, settled_of e.1.2, k1, k2, e.2⟩
  all_goals decide +kernel

/-- Core zero runs a coroutine of key 7, or its retirement. -/
def coroutine (retire : Bool) (a t : Word) : State :=
  (operands (keyed { Hamper.empty with ways := [(8 * set7, { idle7 with st := .running })] }) .ks a 0 0 t).onSl fun k =>
    { k with key := some ⟨0, key7, set7, 0, retire⟩, csr := { k.csr with xstat := 3, svec := 0x2001 } }

/-- KeyedUnitResults: in a coroutine, in a retirement, and in neither; `drain` of a stage that is declared, with a counter, and of none; `stat`. -/
theorem meets_keyed_unit :
    (let s := operands (keyed Hamper.empty) .ks 0 0 0 0
     Goes .ks 0x01 (hx 5) s ∧ Goes .ks 0x02 (hx 5) s ∧ s.sl.kind ≠ 3) ∧
    (∀ retire : Bool, let s := coroutine retire 0 0
      Goes .ks 0x01 (hx 5) s ∧ Goes .ks 0x02 (hx 5) s ∧ Goes .ks 0x04 (hx 5) s ∧ s.sl.kind = 3 ∧ s.sl.key = some ⟨0, key7, set7, 0, retire⟩ ∧
        look? (s.hamper (hamperKey s.coreId)).ways (8 * set7 + 0) = some { idle7 with st := .running } ∧
        (s.hamper (hamperKey s.coreId)).fifo { idle7 with st := .running } = 0 ∧ Settled s ∧ s.core.vq = [] ∧ s.sl.inh = false ∧
        bit s.sl.csr.svec 0 = true) ∧
    (∀ x ∈ ([(0x10000, 0), (0x1000, 0), (0, 64)] : List (Word × Word)), let s := operands (keyed Hamper.empty) .ks x.1 0 0 x.2
      Goes .ks 0x04 (hx 5) s ∧ s.sl.kind ≠ 3 ∧ ((2 ^ 16 ≤ (s.lat .ks).a.toNat ∨ (s.lat .ks).a.toNat / 2 ^ 12 % 8 ≠ 0) ∨ 64 ≤ (s.moved64 (hx 5)).toNat)) ∧
    (let s := operands (keyed Hamper.empty) .ks 0x8005 0 0 0
     Goes .ks 0x04 (hx 5) s ∧ s.sl.kind ≠ 3 ∧ (s.lat .ks).a.toNat < 2 ^ 16 ∧ (s.lat .ks).a.toNat / 2 ^ 12 % 8 = 0 ∧ (s.moved64 (hx 5)).toNat < 64 ∧
       s.record? = some 3 ∧ (s.stage 3 (s.moved64 (hx 5)).toNat).isSome = true ∧ counterGranted s ((s.lat .ks).a.toNat % 2 ^ 12) ∧
       (s.job 3).drains = []) ∧
    (∀ t ∈ ([63, 64] : List Word), let s := operands (keyed Hamper.empty) .ks 0 0 0 t
      Goes .ks 0x05 (hx 5) s ∧ (s.moved64 (hx 5)).toNat = t.toNat) := by
  refine ⟨⟨goes_of ?_, goes_of ?_, ?_⟩, fun retire => ⟨goes_of ?r1, goes_of ?r2, goes_of ?r3, ?r4, ?r5, ?r6, ?r7, settled_of ?r8, ?r9⟩,
    every (p := fun x => let s := operands (keyed Hamper.empty) .ks x.1 0 0 x.2
      goes .ks 0x04 (hx 5) s && decide (s.sl.kind ≠ 3 ∧
        ((2 ^ 16 ≤ (s.lat .ks).a.toNat ∨ (s.lat .ks).a.toNat / 2 ^ 12 % 8 ≠ 0) ∨ 64 ≤ (s.moved64 (hx 5)).toNat))) (fun _ e => ?a) ?_,
    ⟨goes_of ?_, ?_, ?_, ?_, ?_, ?_, ?_, granted_of ?_, ?_⟩,
    every (p := fun t => let s := operands (keyed Hamper.empty) .ks 0 0 0 t
      goes .ks 0x05 (hx 5) s && decide ((s.moved64 (hx 5)).toNat = t.toNat)) (fun _ e => ?b) ?_⟩
  case a =>
    simp only [Bool.and_eq_true, decide_eq_true_eq] at e
    exact ⟨goes_of e.1, e.2⟩
  case b =>
    simp only [Bool.and_eq_true, decide_eq_true_eq] at e
    exact ⟨goes_of e.1, e.2⟩
  all_goals first | decide +kernel | (cases retire <;> decide +kernel)

end Sys2Proof.Tests
end

