-- ==== Sys2Proof/Tests/Meets4.lean ====
section
/-! SUPPORT. Tests: witnesses. Each theorem shows states and operands that meet the hypotheses of the statements on events of cores, engines, Hampers, exchanges and records. -/

set_option autoImplicit false
set_option Elab.async false

namespace Sys2Proof.Tests

open Sys2Proof.Machine Sys2Proof.Claims

/-! ## Events of a core, of its matrix queue, its engine and its channels -/

/-- Slot 0 of core zero after a bundle, with a loop of two passes at its address and a repetition at `pos` of 2 and `pass` of 3. -/
def ending (pos pass : Nat) : State :=
  (on coreZero).onSl fun t =>
    { t with flow := .seq, npc := 0x1004, csr := { t.csr with
        xstat := 0x4000, lb0 := 0x800, le0 := 0x1000, lc0 := 2, rpb := 0x900,
        rpc := BitVec.ofNat 64 (2 ^ 63 + 2 * 2 ^ 44 + pos * 2 ^ 40 + 3 * 2 ^ 24 + pass) } }

/-- Core zero runs record 3 and waits in `cwait` for counter 5, whose value 9 has been handed to it. -/
def released : State := (waiting3 9 0 5).onSl fun t => { t.onLat .sy (fun l => { l with t := 5 }) with run := .blocked, wait := some ⟨.sy, 4, some 9, []⟩ }

/-- The vector queue of core zero holds an addition. -/
def vectoring (bound : Bool) (age : Nat) : State :=
  (on coreZero).onCore fun c => { c with vq := [⟨0, 0x10, 5, 0, 1, age, 2, 0, 0, bound, false, false⟩] }

/-- CoreEvents. -/
theorem meets_core_events :
    (let s := (on coreZero).onSl fun t => t.onLat .mu fun l => { l with fly := some ⟨1, 3, 3, 3, 6, 0⟩ }
     (s.lat .mu).fly = some ⟨1, 3, 3, 3, 6, 0⟩) ∧
    (let s := ((on coreZero).onCore fun c => c.onSlot 1 fun t => { t with run := .ready }).onSl fun t => { t with run := .blocked }
     Awake s ∧ s.sl.run = .blocked ∧ (1 : Fin 4) ≠ s.core.cur ∧ s.core.slots[(1 : Fin 4)].run = .ready ∧
       ∀ m : Fin 4, m ≠ 1 → m ≠ s.core.cur → s.core.slots[m].run ≠ .ready) ∧
    (∀ x ∈ [(1, 0), (2, 0), (2, 3)], (ending x.1 x.2).sl.flow = .seq ∧ (ending x.1 x.2).sl.repActive = true ∧
      (ending x.1 x.2).sl.csr.rpc.toNat / 2 ^ 40 % 16 = x.1 ∧ (ending x.1 x.2).sl.csr.rpc.toNat / 2 ^ 44 % 16 = 2 ∧
      (ending x.1 x.2).sl.csr.rpc.toNat % 2 ^ 12 = x.2 ∧ (ending x.1 x.2).sl.csr.rpc.toNat / 2 ^ 24 % 2 ^ 12 = 3) ∧
    (let s := (working coreZero).onSl fun t => { t with run := .blocked }
     Awake s ∧ s.sl.occupied = true ∧ s.sl.run = .blocked ∧ s.record?.isSome = true ∧ s.beyond 0x2000 = false ∧
       findLine s.core.icache s.asid 0x2000 = none ∧ s.clusterLine 0x2000 = none ∧ ∃ p, s.fetchHome 0x2000 = .ok p) ∧
    (let s := released
     Awake s ∧ s.sl.run = .blocked ∧ s.sl.wait = some ⟨.sy, 4, some 9, []⟩ ∧ ¬ waitControlBad (s.lat .sy).b true ∧ (s.lat .sy).t.toNat < 2 ^ 12 ∧
       counterGranted s (s.lat .sy).t.toNat) ∧
    (let s := vectoring false 1
     s.core.vq = [⟨0, 0x10, 5, 0, 1, 1, 2, 0, 0, false, false, false⟩] ∧ s.core.arb = false ∧ (∀ id ∈ quadOf s.coreId, id ≠ s.coreId → (s.coreAt id).vq = []) ∧
       s.coreId ∈ quadOf s.coreId) ∧
    (let s := vectoring true 2
     s.core.vq = [⟨0, 0x10, 5, 0, 1, 2, 2, 0, 0, true, false, false⟩] ∧ s.core.cur.val = 0) := by
  refine ⟨?_, ⟨⟨?_, ?_⟩, ?_⟩, ?_, ⟨⟨?_, ?_⟩, ?_, ?_, ?_, ?_, ?_, ?_, ok_of ?_⟩,
    ⟨⟨?_, ?_⟩, ?_, ?_, @of_decide_eq_false _ (controlDecided _ _) ?_, ?_, granted_of ?_⟩, ?_, ?_⟩ <;> decide +kernel

/-- A store of the slot on its way to a home. -/
def storeTo (h : Home) : StoreEntry := ⟨h, [1, 2, 3, 4], none, false, 0x4000100, false⟩

/-- CoreEvents, stores: the oldest, to each home; and one that passes an older one of another place. -/
theorem meets_stores_leave :
    (∀ h ∈ [Home.core coreZero 0x100, .device 0x100 0, .host 0x100 0], let s := (on coreZero).onSl fun t => { t with sb := [storeTo h] }
      Awake s ∧ s.sl.sb[0]? = some (storeTo h) ∧ (storeTo h).more = false ∧ MayLeave s 0 (storeTo h) ∧ (storeTo h).scope = none) ∧
    (let s := (on coreZero).onSl fun t => { t with sb := [storeTo (.device 0x100 0), storeTo (.host 0x100 0)] }
     Awake s ∧ s.sl.sb[1]? = some (storeTo (.host 0x100 0)) ∧ MayLeave s 1 (storeTo (.host 0x100 0))) := by
  refine ⟨every (p := fun h => decide (((on coreZero).onSl fun t => { t with sb := [storeTo h] }).core.dbg.halted = false ∧
      ((on coreZero).onSl fun t => { t with sb := [storeTo h] }).still ((on coreZero).onSl fun t => { t with sb := [storeTo h] }).core = false ∧
      ((on coreZero).onSl fun t => { t with sb := [storeTo h] }).sl.sb[0]? = some (storeTo h)))
      (fun h e => ?_) (by decide +kernel), ⟨by decide +kernel, by decide +kernel⟩, by decide +kernel,
      .inr ⟨rfl, ?_, by decide +kernel⟩⟩
  · obtain ⟨e1, e2, e3⟩ := of_decide_eq_true e
    exact ⟨⟨e1, e2⟩, e3, rfl, .inl rfl, rfl⟩
  · intro o e
    have k : (((on coreZero).onSl fun t => { t with sb := [storeTo (.device 0x100 0), storeTo (.host 0x100 0)] }).sl.sb[1 - 1]?) =
        some (storeTo (.device 0x100 0)) := by decide +kernel
    rw [k] at e
    cases e
    rfl

/-- A slot that waits in a trigger, with what has been handed to it. -/
def handedTo (u : FU) (opc : BitVec 8) (v : Option Word) : State :=
  (withChan (working coreZero) 3 (chanOf 2 .arrived none)).onSl fun t =>
    { t.onLat .ch (fun l => { l with t := 3 }) with run := .blocked, wait := some ⟨u, opc, v, []⟩ }

/-- CoreEvents, waits: those whose value has been handed over, a message that has arrived, and those that go on. -/
theorem meets_releases :
    (∀ opc ∈ [1, 2, 3], let s := handedTo .sy (BitVec.ofNat 8 opc) (some 7)
      Awake s ∧ s.bus = none ∧ s.sl.run = .blocked ∧ s.sl.wait = some ⟨.sy, BitVec.ofNat 8 opc, some 7, []⟩) ∧
    (let s := handedTo .ls 0x30 (some 7)
     Awake s ∧ s.bus = none ∧ s.sl.run = .blocked ∧ s.sl.sb = [] ∧ s.sl.wait = some ⟨.ls, 0x30, some 7, []⟩) ∧
    (let s := handedTo .ch 3 none
     Awake s ∧ s.bus = none ∧ s.sl.run = .blocked ∧ s.sl.wait = some ⟨.ch, 3, none, []⟩ ∧ (s.lat .ch).t.toNat % 16 = 3 ∧
       oldestArrived (s.core.chan 3) 0 ∧ (s.core.chan 3).recvq = []) ∧
    (∀ x ∈ [(FU.sy, (4 : BitVec 8)), (.ls, 0x40)], (handedTo x.1 x.2 none).sl.wait = some ⟨x.1, x.2, none, []⟩) := by
  refine ⟨?_, ⟨⟨?_, ?_⟩, ?_⟩, ⟨⟨?_, ?_⟩, ?_, ?_, ?_, ?_, ⟨⟨.arrived, 0, none⟩, ?_, rfl, rfl, ?a⟩, ?_⟩, ?_⟩
  case a =>
    intro j f k _ _
    have e : (handedTo .ch 3 none).core.chan 3 = chanOf 2 .arrived none := by decide +kernel
    rw [e] at k
    have : f.resv = 0 := by
      have m := List.mem_of_getElem? k
      simp only [chanOf, List.mem_replicate] at m
      rw [m.2]
    exact .inr ⟨this.symm, Nat.zero_le j⟩
  all_goals first | decide +kernel | (unfold Awake; decide +kernel)

/-- A slot outside a handler with traps pending. -/
def pendingOf (p : Pending) : State := (handling 0).onSl fun t => { t with run := .ready, pend := p }

/-- `PendingTrap` where the watchdog asks for nothing, computed. -/
def trapsNext (t : Slot) (code : Nat) (tval : Word) : Bool :=
  match t.pend with
  | ⟨some h, _, _, _, _⟩ => decide (code = 0x21 ∧ tval = h)
  | ⟨none, true, _, _, _⟩ => decide (code = 0x20 ∧ tval = 0)
  | ⟨none, false, none, v :: _, _⟩ => decide (code = 0x23 ∧ tval = v)
  | ⟨none, false, none, [], n + 1⟩ => decide (code = 0x22 ∧ tval = BitVec.ofNat 64 (n + 1))
  | _ => false

theorem trapsNext_of {t : Slot} {code : Nat} {tval : Word} (e : trapsNext t code tval = true) : PendingTrap t code tval := by
  unfold trapsNext at e
  unfold PendingTrap
  split at e
  · rename_i k
    rw [k]
    obtain ⟨rfl, rfl⟩ := of_decide_eq_true e
    exact .inl ⟨rfl, rfl⟩
  · rename_i k
    rw [k]
    obtain ⟨rfl, rfl⟩ := of_decide_eq_true e
    exact .inr ⟨rfl, .inl ⟨rfl, rfl, rfl⟩⟩
  · rename_i k
    rw [k]
    obtain ⟨rfl, rfl⟩ := of_decide_eq_true e
    exact .inr ⟨rfl, .inr ⟨rfl, .inr ⟨rfl, .inl ⟨_, rfl, rfl⟩⟩⟩⟩
  · rename_i k
    rw [k]
    obtain ⟨rfl, rfl⟩ := of_decide_eq_true e
    exact .inr ⟨rfl, .inr ⟨rfl, .inr ⟨rfl, .inr ⟨_, rfl, rfl, rfl, rfl⟩⟩⟩⟩
  · cases e

/-- CoreEvents, traps: each of those that can be pending. -/
theorem meets_pending : ∀ x ∈ ([(⟨some 5, true, none, [9], 2⟩, 0x21, 5), (⟨none, true, none, [9], 2⟩, 0x20, 0), (⟨none, false, none, [9], 2⟩, 0x23, 9),
      (⟨none, false, none, [], 2⟩, 0x22, 2)] : List (Pending × Nat × Word)), let s := pendingOf x.1
    Awake s ∧ s.sl.occupied = true ∧ s.sl.inh = false ∧ s.sl.wait.bind (·.value) = none ∧ PendingTrap s.sl x.2.1 x.2.2 ∧
      bit s.sl.csr.svec 0 = true := by
  refine every (p := fun x => let s := pendingOf x.1
    decide (s.core.dbg.halted = false ∧ s.still s.core = false ∧ s.sl.occupied = true ∧ s.sl.inh = false ∧
      s.sl.wait.bind (·.value) = none ∧ bit s.sl.csr.svec 0 = true) && trapsNext s.sl x.2.1 x.2.2) (fun x e => ?_) (by decide +kernel)
  simp only [Bool.and_eq_true, decide_eq_true_eq] at e
  obtain ⟨⟨e1, e2, e3, e4, e5, e6⟩, e7⟩ := e
  exact ⟨⟨e1, e2⟩, e3, e4, e5, trapsNext_of e7, e6⟩

/-- A multiply-accumulate of one step. -/
def short2 : MCmd := mcmd 1 (operandWord 9 0x100) (operandWord 9 0x200) (BitVec.ofNat 64 (64 * 2 ^ 48 + 1 * 2 ^ 40 + 2 * 2 ^ 32))
/-- An `mbar` that waits for nothing. -/
def bar2 : MCmd := { mcmd 8 0 0 0 with seq := 2 }
/-- It stands behind a command that has not ended. -/
def barred : State := (queueing mmac2).onCore fun c => { c with mq := { c.mq with cmds := [mmac2, bar2] } }

/-- MatrixEvents: each step of a command's life. -/
theorem meets_matrix_events :
    (let s := accepting
     s.bus = none ∧ s.sl.run = .blocked ∧ s.sl.wait = some ⟨.mx, BitVec.ofNat 8 4, none, []⟩ ∧ s.core.mq.waiting = [(s.core.cur.val, [])] ∧
       s.core.mq.cmds.length < 4 ∧ s.sl.sb = [] ∧
       let m : MCmd := ⟨4, (s.lat .mx).a, (s.lat .mx).b, (s.lat .mx).c, (s.lat .mx).t, 0, [], [], [], 0, none, false, 0⟩
       ∀ c, (s.coreAt c).ranges.length + ((m.ranges s.coreId).filter fun x => x.1 = c).length ≤ 64) ∧
    (let s := queueing mmac2
     s.core.mq.cmds = [mmac2] ∧ mmac2.fetches = true ∧ mmac2.buf = none ∧ mmac2.ended = false ∧ s.matrixWait = none ∧ mmac2.lastStep = false) ∧
    (let s := queueing short2
     s.core.mq.cmds = [short2] ∧ short2.fetches = true ∧ short2.buf = none ∧ short2.ended = false ∧ s.matrixWait = none ∧ short2.lastStep = true) ∧
    (let s := barred
     s.core.mq.cmds = [mmac2, bar2] ∧ mmac2.ended = false ∧ s.openBar = some bar2 ∧ bar2.seq ≠ mmac2.seq ∧ bar2.ce = false ∧ bar2.owed = []) ∧
    (∀ s ∈ [fetched, queueing (mcmd 4 0 0 shape)], s.core.mq.cmds.length = 1 ∧ s.matrixReady = true ∧
      s.coreId ∈ octetCores s.coreId.die (octetOf s.coreId.idx) ∧
      (∀ id ∈ octetCores s.coreId.die (octetOf s.coreId.idx), id ≠ s.coreId → (s.coreAt id).mq.cmds = []) ∧ s.coreId.kind = .compute) ∧
    (∀ cls ∈ [1, 4], let m : MCmd := { mcmd cls (operandWord 0 0x400) 0 shape with ended := true }
      (endedCmd cls).core.mq.cmds = [m] ∧ m.ended = true ∧ m.cls ∉ [6, 7, 9] ∧ m.ce = false ∧ ∀ o ∈ m.operands, o.2.2.2.2.2 = false) ∧
    (let m : MCmd := { mcmd 9 (operandWord 0 0x400) 0 shape with ended := true }
     (endedCmd 9).core.mq.cmds = [m] ∧ m.ended = true ∧ m.cls = 9 ∧ m.ce = false) := by
  refine ⟨⟨?_, ?_, ?_, ?_, ?_, ?_, room_of (no_ranges ?_ ?_) ?_⟩, ?_, ?_, ?_, ?_, ?_, ?_⟩ <;> decide +kernel

/-- A drain of the 2 × 3 region of slot 0 into rows of 32-bit integers at 0x400. -/
def drain2 : MCmd := { mcmd 6 (operandWord 8 0x400) 0 shape with ended := true }
/-- The scales that a record has fetched. -/
def scaleBuf : FetchBuf := ⟨0, [[1, 2, 3]], [[4, 5]], []⟩
/-- A filling of scale memory. -/
def scale2 : MCmd := { mcmd 7 (operandWord 0 0x400) 0 shape with ended := true, buf := some scaleBuf }

/-- MatrixEvents: the codes fetched, the operands of a step, a drain, a filling of scale memory. -/
theorem meets_matrix_values :
    (mmac2.cls ≤ 3 ∧ mmac2.kdone % 64 = 0 ∧ bit mmac2.t 26 = false ∧ mmac2.fmtP = 9 ∧ bit mmac2.t 27 = false ∧ mmac2.fmtQ = 9) ∧
    (∃ f m, fetched.core.mq.cmds = [m] ∧ m.buf = some f ∧ Feeds m f ∧ m.rows ≤ 128) ∧
    ((queueing drain2).core.mq.cmds = [drain2] ∧ drain2.ended = true ∧ drain2.cls = 6 ∧ (∀ o ∈ drain2.operands, o.2.2.2.2.2 = false) ∧
      drain2.fmtP = 8 ∧ drain2.c.toNat % 8 ≤ 3 ∧ drain2.cols * 4 ≤ drain2.p.toNat / 2 ^ 32 % 2 ^ 16 ∧
      (placeOf coreZero (BitVec.ofNat 64 (drain2.p.toNat % 2 ^ 32))).2 + (drain2.rows - 1) * 32 + drain2.cols * 4 ≤ 0x2C800) ∧
    ((queueing scale2).core.mq.cmds = [scale2] ∧ scale2.ended = true ∧ scale2.cls = 7 ∧ scale2.buf = some scaleBuf ∧
      scale2.sbase + 3 ≤ scale2.sbase + 4 * ((scale2.cols * scale2.inner + 255) / 256)) := by
  refine ⟨by decide +kernel, ⟨(queueing mmac2).onCore (fun c => { c with mem := (c.mem.write 0x100 [1, 2, 3]).write 0x200 [4, 5, 6] }) |>.fetchStep mmac2,
    { mmac2 with buf := some ((queueing mmac2).onCore (fun c => { c with mem := (c.mem.write 0x100 [1, 2, 3]).write 0x200 [4, 5, 6] }) |>.fetchStep mmac2) },
    by decide +kernel, rfl, .inr ⟨by decide +kernel, .inl (by decide +kernel), by decide +kernel, by decide +kernel⟩, by decide +kernel⟩,
    by decide +kernel, by decide +kernel⟩

/-- A record of the stream engine in progress. -/
def runOf (started : Bool) (start : Nat) (done : List (Nat × Nat)) : StreamRun := ⟨streamBytes start, 0, started, done, [], 0, 0, false⟩

/-- StreamEvents: a record taken, one that starts at once and one at its counter, a slot, its end; a push and a pull. -/
theorem meets_stream_events :
    (let e : Stream := { idleStream with order := [none], queue := [(7, streamBytes 0)] }
     (streaming e).core.stream = e ∧ e.run = none ∧ e.err = none) ∧
    (∀ start ∈ [0, 2 ^ 15 + 5], let s := { runStream false start [] with ctrs := [(5, 0)] }
      s.core.stream.run = some (runOf false start []) ∧
        (recField (runOf false start []).bytes 60 2 / 2 ^ 15 = 1 →
          recField (runOf false start []).bytes 52 4 ≤ (s.ctr s.coreId.die (recField (runOf false start []).bytes 60 2 % 2 ^ 12)).toNat)) ∧
    (let s := runStream true 0 []
     let r := runOf true 0 []
     let d : Berth := ⟨0x100, 32, 4, 0, 0, 0x0C0000, 0x020000, 1⟩
     s.core.stream.run = some r ∧ s.core.prq = none ∧ s.nextSlot r = some (0, d, 32) ∧ s.streamWait = none ∧ s.target r.bytes 0 = coreZero ∧
       coreZero ≠ s.coreId ∧ s.berthAt (s.target r.bytes 0) (recField r.bytes 44 4 % 16) = some d ∧ d.slotOff d.pi + d.slotb ≤ 0x2C000 ∧
       r.wrote + 8 < d.slotb ∧ ∀ k ∈ [(32, 32), (8, 8)],
         ∃ rs r1, s.readOn r k.1 = .ok (rs, r1) ∧ ((r1.buf.drop (0 - r1.first)).take k.2).length = k.2) ∧
    (let s := runStream true 0 [(0, 1)]
     s.core.stream.run = some (runOf true 0 [(0, 1)]) ∧ s.nextSlot (runOf true 0 [(0, 1)]) = none) ∧
    (let s := { on quay with pushes := [copying] }
     s.pushes.find? s.isMine = some copying ∧ copying.berth = none) ∧
    (let s := { on quay with pulls := [copying] }
     s.pulls.find? s.isMine = some copying ∧ copying.berth = none) := by
  refine ⟨?_, ?_, ⟨?_, ?_, ?_, ?_, ?_, ?_, ?_, ?_, ?_, every (p := fun k : Nat × Nat =>
      match (runStream true 0 []).readOn (runOf true 0 []) k.1 with
      | .ok (_, r1) => decide (((r1.buf.drop (0 - r1.first)).take k.2).length = k.2)
      | .error _ => false) (fun k e => ?r) ?_⟩, ?_, ?_, ?_⟩
  case r =>
    revert e
    cases (runStream true 0 []).readOn (runOf true 0 []) k.1 with
    | error _ => intro e; cases e
    | ok p => intro e; exact ⟨p.1, p.2, rfl, of_decide_eq_true e⟩
  all_goals decide +kernel

/-- A role's image that can be read and is good. -/
def good (k : CoreKind) (o : Option (List Word)) : Bool :=
  o.any fun img => imageTag (img.take 255) == dwordAt img 255 && decide (imageFault k img 1 = none)

theorem good_of {k : CoreKind} {o : Option (List Word)} (e : good k o = true) : ∃ img, o = some img ∧ GoodImage k img := by
  cases o with
  | none => cases e
  | some img =>
    simp only [good, Option.any_some, Bool.and_eq_true, decide_eq_true_eq] at e
    exact ⟨img, rfl, eq_of_beq e.1, e.2⟩

/-- MessageEvents: a message that lands, a task released, a notice, an activation. -/
theorem meets_message_events :
    (let s := messaging
     let m : Msg := ⟨none, quay, 0, coreZero, 3, some 1, 0, 0x1234, 0, [1, 2, 3, 4, 5, 6, 7, 8]⟩
     let ch := (s.coreAt m.dst).chan m.chan
     s.msgs = m :: [] ∧ m.entry = some 1 ∧ m.chan < 16 ∧ (∀ r, m.job = some r → m.dst ∉ (s.job r).parkedCores) ∧
       1 < ch.entries.length ∧ ch.eng = false ∧ ch.recvq = [] ∧ (∀ k : Fin 16, (s.coreAt m.dst).matchTab[k] = none) ∧
       (s.coreAt m.dst).landLock m.chan 1 m.payload.length = none ∧ (∀ n : Fin 16, ∀ x ∈ ((s.coreAt m.dst).chan n).entries, x.mark = none)) ∧
    (let s := releasing
     s.core.actq.length < 16 ∧ s.core.nextTask = some (3, 0, ⟨.arrived, 0, some (2, ⟨0, 0x4003, 7⟩)⟩)) ∧
    (let s := noticing
     s.core.outside = [⟨1, 2, 3⟩] ∧ s.core.sendable 15 = some 0 ∧ s.core.landLock 15 0 16 = none ∧ (s.core.chan 15).eng = false ∧ (s.core.chan 15).recvq = [] ∧
       (∀ k : Fin 16, s.core.matchTab[k] = none) ∧ ∀ c : Fin 16, ∀ x ∈ (s.core.chan c).entries, x.mark = none) ∧
    (let s := activating
     let x : Ctx := ⟨3, 1, 0, false, false, false⟩
     let a : Activation := ⟨1, 0x2000, 5, 6, 0, none, none⟩
     s.core.ctx = some x ∧ x.dead = false ∧ x.preempting = false ∧ s.core.actq = a :: [] ∧ a.kind = 1 ∧ a.helper = none ∧
       s.core.slots[(1 : Fin 4)].run = .free ∧ s.core.slots[(1 : Fin 4)].parked = false ∧
       ∃ img, s.roleImage x.record x.role = some img ∧ GoodImage s.coreId.kind img) := by
  refine ⟨⟨?_, ?_, ?_, ?n, ?_, ?_, ?_, ?_, ?_, ?_⟩, ?_, ?_, ⟨?_, ?_, ?_, ?_, ?_, ?_, ?_, ?_, good_of ?_⟩⟩
  case n => intro r h; cases h
  all_goals decide +kernel

/-- ExchangeEvents: a phase that starts, a transfer that starts, one that ends, the last one, the release, and the dispenser. -/
theorem meets_exchange_events :
    (let s := slacking Job.empty
     s.recState 3 = 2 ∧ (s.job 3).phase = none ∧ (s.job 3).release = false ∧ s.allAtSlack 3 = true) ∧
    (let s := exchanging .waiting
     let x := transfer .waiting
     let ts := [x]
     (s.job 3).phase = some ts ∧ startable (s.job 3).fabric ts (s.busyLinks 3 ts (s.job 3).fabric) 0 = some 0 ∧ ts[0]? = some x ∧
       x.srcDev = s.myDev 3 ∧ x.dstDev = s.myDev 3 ∧
       ((s.coreAt x.dst).conflict x.doff (32 * x.len) true) = none) ∧
    (let s := exchanging .active
     let x := transfer .active
     let ts := [x]
     (s.job 3).phase = some ts ∧ (∃ e, firstToEnd ts = some (0, e)) ∧ ts[0]? = some x ∧ x.units = [] ∧
       startable (s.job 3).fabric ts (s.busyLinks 3 ts (s.job 3).fabric) 0 = none ∧ nextSlotAt ts (s.job 3).fabric = none) ∧
    (let s := exchanging .done
     (s.job 3).phase = some [transfer .done] ∧ ∀ x ∈ [transfer .done], x.state = .done) ∧
    (let s := slacking { Job.empty with release := true, superstep := 4 }
     (s.job 3).release = true ∧ s.allAtSlack 3 = true) ∧
    (∀ s ∈ [asking 0x0004000300020001 5, asking 0 0], let d : DReq := ⟨coreZero, 0, 0, coreZero, 0x40⟩
      (s.job 3).dreqs[0]? = some d ∧
      (∀ e ∈ (s.job 3).dreqs.take 0, e.core ≠ d.core ∨ e.slot ≠ d.slot) ∧ ∀ e ∈ (s.job 3).dreqs.take 0, e.grid ≠ d.grid) := by
  refine ⟨?_, ?_, ⟨?_, ⟨5, ?_⟩, ?_, ?_, ?_, ?_⟩, ?_, ?_, ?_⟩ <;> decide +kernel

/-- The key's set is held by a fetch. -/
def held7 : Hamper := { Hamper.empty with holds := [(set7, .fetch 0 key7 false)] }
/-- The filter of the key's set says that the key may be spilled. -/
def filtered7 : Hamper := { Hamper.empty with filters := [(set7, 2 ^ keyFilter key7)] }

/-- A record of the key that finds what a Hamper holds, seen by a core of its cluster. -/
def finds (h : Hamper) (p : State → Hamper → Nat → Bool) : Prop :=
  let s := arriving h
  let e : Emit := ⟨next, 0, 0, 0, rec7⟩
  Serves s 3 ∧ s.emits[0]? = some e ∧ (∀ x ∈ s.emits.take 0, x.sameWay e = false) ∧ e.die * 4 + e.cluster = hamperKey s.coreId ∧
    s.stage 3 e.krec.stage = some stageBytes ∧ s.victimLost 3 (hamperKey s.coreId) set7 = false ∧ s.carryLost 3 stageBytes = false ∧ p s (s.hamper (hamperKey s.coreId)) (look 0 (s.hamper (hamperKey s.coreId)).filters set7) = true

theorem finds_of {h : Hamper} {p : State → Hamper → Nat → Bool}
    (e : (decide ((arriving h).emits = [⟨next, 0, 0, 0, rec7⟩]) && decide (((arriving h).hamper (hamperKey (arriving h).coreId)).record = some 3) &&
      decide (hamperKey (arriving h).coreId = 0) && decide ((arriving h).stage 3 0 = some stageBytes) &&
      !(arriving h).victimLost 3 (hamperKey (arriving h).coreId) set7 && !(arriving h).carryLost 3 stageBytes &&
      p (arriving h) ((arriving h).hamper (hamperKey (arriving h).coreId))
        (look 0 ((arriving h).hamper (hamperKey (arriving h).coreId)).filters set7)) = true) : finds h p := by
  simp only [Bool.and_eq_true, Bool.not_eq_true', decide_eq_true_eq] at e
  obtain ⟨⟨⟨⟨⟨⟨e1, e2⟩, e3⟩, e4⟩, e5⟩, e6⟩, e7⟩ := e
  exact ⟨e2, (by rw [e1]; rfl), (by intro x m; cases m), (by rw [e3]; rfl), e4, e5, e6, e7⟩

/-- HamperEvents, a record arriving: every way that its key may stand. -/
theorem meets_arrivals :
    finds held7 (fun _ h _ => h.hold set7 == some (.fetch 0 key7 false)) ∧
    finds { Hamper.empty with ways := [(8 * set7, idle7)] } (fun _ h _ => h.hold set7 == none && h.find 0 key7 == some (8 * set7, idle7)) ∧
    finds { Hamper.empty with ways := [(8 * set7, { idle7 with st := .running })] }
      (fun _ h _ => h.hold set7 == none && h.find 0 key7 == some (8 * set7, { idle7 with st := .running })) ∧
    finds { Hamper.empty with recs := [(rec7, .overflow)] } (fun s h _ => h.hold set7 == none && h.find 0 key7 == none && h.overflows set7 &&
      (s.lateDrain 3 (hamperKey s.coreId) set7).isNone) ∧
    finds filtered7 (fun _ h f => h.hold set7 == none && h.find 0 key7 == none && !h.overflows set7 && f / 2 ^ keyFilter key7 % 2 == 1) ∧
    finds Hamper.empty (fun _ h f => h.hold set7 == none && h.find 0 key7 == none && !h.overflows set7 && f / 2 ^ keyFilter key7 % 2 == 0 &&
      h.freeWay set7 == some 0) ∧
    finds { Hamper.empty with ways := full7.drop 1 ++ [(8 * set7, { idle7 with key := 99 })] } (fun s h f =>
      h.hold set7 == none && h.find 0 key7 == none && !h.overflows set7 && f / 2 ^ keyFilter key7 % 2 == 0 && h.freeWay set7 == none &&
        s.victim 3 0 set7 == some 0) ∧
    finds { Hamper.empty with ways := full7 } (fun s h f =>
      h.hold set7 == none && h.find 0 key7 == none && !h.overflows set7 && f / 2 ^ keyFilter key7 % 2 == 0 && h.freeWay set7 == none &&
        s.victim 3 0 set7 == none) := by
  refine ⟨finds_of ?_, finds_of ?_, finds_of ?_, finds_of ?_, finds_of ?_, finds_of ?_, finds_of ?_, finds_of ?_⟩ <;> decide +kernel

/-- HamperEvents: a credit, a spill, a fetch that finds the key or does not, an overflow record, a handoff, a timeout. -/
theorem meets_hamper_events :
    (let s := grantable
     let h := s.hamper (hamperKey s.coreId)
     Serves s 3 ∧ h.waiter 0 = some (next, 0) ∧ look 0 h.credits 0 ≠ 0 ∧ s.still (s.coreAt next) = false ∧ (slotOf s next 0).run = .blocked ∧
       (slotOf s next 0).wait = some ⟨.ks, 3, none, [1, 2, 3, 4, 5, 6, 7, 8]⟩ ∧ ((slotOf s next 0).lat .ks).t.toNat % 64 = 0) ∧
    (let s := spilling
     let hk := hamperKey s.coreId
     let h := s.hamper hk
     Serves s 3 ∧ h.hold set7 = some (.victim 0) ∧ look? h.ways (8 * set7 + 0) = some idle7 ∧ s.stage 3 idle7.stage = some stageBytes ∧
       (∃ bs, s.bucket 3 hk stageBytes set7 = some bs ∧ ∃ i, bucketFree bs (stSpw stageBytes) = some i) ∧
       (∃ rs, s.bucketRuns 3 hk stageBytes set7 .write = some rs) ∧ ∀ x ∈ h.recs, x.2 = .heldSet → keySet x.1.key ≠ set7) ∧
    (∀ x ∈ [(fetching [], false), (refilling, true)],
     let s := x.1
     let hk := hamperKey s.coreId
     let h := s.hamper hk
     Serves s 3 ∧ s.carryLost 3 stageBytes = false ∧ h.hold set7 = some (.fetch 0 key7 false) ∧ s.stage 3 0 = some stageBytes ∧ h.find 0 key7 = none ∧
       (∃ bs, s.bucket 3 hk stageBytes set7 = some bs ∧ (bucketFind bs (stSpw stageBytes) key7).isSome = x.2) ∧
       h.freeWay set7 = some 0 ∧ h.fetchedFor 0 key7 = some 0 ∧ h.recs.length = 1 ∧
       ∃ rs, s.bucketRuns 3 hk stageBytes set7 .write = some rs) ∧
    (let s := overflowing
     let h := s.hamper (hamperKey s.coreId)
     Serves s 3 ∧ h.hold set7 = none ∧ h.firstAt .overflow (fun k => keySet k.key == set7) = some 0 ∧ h.recs[0]? = some (rec7, .overflow) ∧
       s.stage 3 rec7.stage = some stageBytes ∧ h.find rec7.stage rec7.key = none ∧ look 0 h.filters set7 / 2 ^ keyFilter rec7.key % 2 = 0 ∧
       h.freeWay set7 = some 0 ∧ s.lateDrain 3 (hamperKey s.coreId) set7 = none ∧ s.carryLost 3 stageBytes = false) ∧
    (let s := overflowing.onJob 3 fun j => { j with late := [(0, 0, key7, 0)] }
     let h := s.hamper (hamperKey s.coreId)
     Serves s 3 ∧ h.hold set7 = none ∧ s.lateDrain 3 (hamperKey s.coreId) set7 = some (0, 0, key7, 0) ∧ h.freeWay set7 ≠ none) ∧
    (let s := handing
     let h := s.hamper (hamperKey s.coreId)
     Serves s 3 ∧ h.kept[0]? = some (8 * set7, false) ∧ look? h.ways (8 * set7) = some { idle7 with st := .queued } ∧
       s.stage 3 idle7.stage = some stageBytes ∧ s.stageCore 3 (hamperKey s.coreId) (stRole stageBytes) = some coreZero) ∧
    (let s := idling
     let h := s.hamper (hamperKey s.coreId)
     Serves s 3 ∧ look? h.ways (8 * set7 + 0) = some idle7 ∧ idle7.st = .idle ∧ s.stage 3 idle7.stage = some stageBytes ∧
       h.isVictim (8 * set7 + 0) = false ∧ stTimeout stageBytes ≠ 2 ^ 32 - 1 ∧ idle7.tidle + 100 * stTimeout stageBytes ≤ s.time) := by
  have serves : ∀ s : State, decide ((s.hamper (hamperKey s.coreId)).record = some 3) = true → Serves s 3 := fun s e => (of_decide_eq_true e : (s.hamper (hamperKey s.coreId)).record = some 3)
  have some_of : ∀ {α : Type} {o : Option α}, o.isSome = true → ∃ a, o = some a := fun e => Option.isSome_iff_exists.mp e
  have with_of : ∀ {α : Type} {o : Option α} {p : α → Bool}, o.any p = true → ∃ a, o = some a ∧ p a = true := by
    intro α o p e
    cases o with
    | none => cases e
    | some a => exact ⟨a, rfl, e⟩
  refine ⟨⟨serves _ ?_, ?_⟩, ⟨serves _ ?_, ?_, ?_, ?_, ?b, some_of ?_, ?_⟩, ?f, ⟨serves _ ?_, ?_⟩, ⟨serves _ ?_, ?_⟩, ⟨serves _ ?_, ?_⟩, serves _ ?_, ?_⟩
  case b =>
    obtain ⟨bs, e1, e2⟩ := with_of (o := spilling.bucket 3 (hamperKey spilling.coreId) stageBytes set7)
      (p := fun bs => (bucketFree bs (stSpw stageBytes)).isSome) (by decide +kernel)
    exact ⟨bs, e1, some_of e2⟩
  case f =>
    refine every (p := fun x : State × Bool =>
      decide ((x.1.hamper (hamperKey x.1.coreId)).record = some 3 ∧ x.1.carryLost 3 stageBytes = false) &&
      decide ((x.1.hamper (hamperKey x.1.coreId)).hold set7 = some (.fetch 0 key7 false)) && decide (x.1.stage 3 0 = some stageBytes) &&
      (x.1.bucket 3 (hamperKey x.1.coreId) stageBytes set7).any (fun bs => (bucketFind bs (stSpw stageBytes) key7).isSome == x.2) &&
      decide ((x.1.hamper (hamperKey x.1.coreId)).freeWay set7 = some 0) && decide ((x.1.hamper (hamperKey x.1.coreId)).fetchedFor 0 key7 = some 0) &&
      decide ((x.1.hamper (hamperKey x.1.coreId)).recs.length = 1) && decide ((x.1.hamper (hamperKey x.1.coreId)).find 0 key7 = none) &&
      (x.1.bucketRuns 3 (hamperKey x.1.coreId) stageBytes set7 .write).isSome) (fun x e => ?a) ?_
    case a =>
      simp only [Bool.and_eq_true, decide_eq_true_eq] at e
      obtain ⟨⟨⟨⟨⟨⟨⟨⟨e1, e2⟩, e3⟩, e4⟩, e5⟩, e6⟩, e7⟩, e9⟩, e8⟩ := e
      obtain ⟨bs, k1, k2⟩ := with_of e4
      exact ⟨e1.1, e1.2, e2, e3, e9, ⟨bs, k1, eq_of_beq k2⟩, e5, e6, e7, some_of e8⟩
    decide +kernel
  all_goals decide +kernel

/-- A frame has its kind's size when the core's memory and state block fit it. -/
theorem length_frame (id : CoreId) (c : Core) (h : id.kind.limit + (c.stateBlock id).length ≤ frameSize id.kind) :
    (c.frame id).length = frameSize id.kind := by
  simp only [Core.frame, padTo, List.length_append, List.length_replicate, Memory.length_bytes]
  omega

/-- Where record 3's context buffer holds quay core 0's frame, page by page. -/
def frameRuns : List (Home × Nat) := ((List.range 8).map fun i => (.device (0x0D100000 + 0x10000 * i) 0, 0x10000)) ++ [(.device 0x0D180000 0, 0x8000)]

/-- JobEvents, of records: one that is placed, asked to park, copied out, and resumed; a time slice; a context ID. -/
theorem meets_record_events :
    (let s := armed3
     let j := { s.job 3 with dies := [0], clusters := [0, 1, 2, 3] }
     let u := s.setRecState 3 2
     s.armed.contains 3 = true ∧ s.recState 3 = 1 ∧ s.mappingOk 3 [0] [0, 1, 2, 3] = true ∧ [0].all (s.openDies 3).contains = true ∧
       s.firstArmed 3 = true ∧ s.seatsFree 3 j = true ∧ ((s.seats 3 j).map (·.id)).Nodup ∧ (s.roles 3).isSome = true ∧ s.stagesRead 3 = true ∧
       (∀ p ∈ s.seats 3 j, s.seatReadable 3 p.entry = true) ∧
       (∀ p ∈ s.seats 3 j, ∃ img, u.roleImage 3 p.role = some img ∧ GoodImage p.id.kind img) ∧ s.seats 3 j ≠ []) ∧
    (let s := quay3
     let x : Ctx := ⟨3, 1, 0, false, false, false⟩
     s.core.ctx = some x ∧ x.dead = false ∧ x.preempting = false ∧ s.mayPark x.record = true) ∧
    (let s := resting3
     let x : Ctx := ⟨3, 1, 0, false, true, false⟩
     let j := s.job x.record
     let frame := s.core.frame s.coreId
     s.core.ctx = some x ∧ x.preempting = true ∧ x.dead = false ∧ s.atRest = true ∧ j.parkedCores.contains s.coreId = false ∧
       (∀ h ∈ s.hampers, h.2.record = some x.record → h.2.holds = []) ∧ harbour ∈ j.cores ∧ harbour ∉ j.parkedCores ∧ harbour ≠ s.coreId ∧
       s.coreId.kind ≠ .compute ∧ s.core.dbg.trace = [] ∧
       s.recRuns x.record (s.frameOf x.record s.coreId s.core) frame.length = some frameRuns ∧
       (s.writeRuns frameRuns frame).recState x.record = 2) ∧
    (let s := parked3
     let old := s.job 3
     let j := { old with dies := [0], clusters := [0, 1, 2, 3] }
     s.recState 3 = 3 ∧ s.mappingOk 3 [0] [0, 1, 2, 3] = true ∧ old.dies = [0] ∧ old.clusters = [0, 1, 2, 3] ∧ s.seatsFree 3 j = true ∧
       old.parked = [] ∧ old.spilled = [] ∧ old.held = [] ∧ s.stages 3 = [] ∧ ((s.seats 3 j).map (·.id)).Nodup ∧
       (s.roles 3).isSome = true ∧ s.stagesRead 3 = true ∧
       (∀ l o, l < s.spanDies 3 → o < 128 → (s.readRec 3 (s.octetFrameAt 3 l o + 0x90000) 128).isSome = true) ∧
       (∀ p ∈ s.seats 3 j, (seatFrame s 3 p).isSome = true ∧ OctetReadable s 3 p) ∧ s.seats 3 j ≠ []) ∧
    (let s := slice3
     let n := (s.reg .fetslc).toNat / 2 ^ (8 * s.recQos 3) % 2 ^ 8
     s.recState 3 = 2 ∧ n ≠ 0 ∧ (s.job 3).armedAt + (((s.job 3).sliced - (s.job 3).armedAt) / (n * 10000) + 1) * (n * 10000) ≤ s.time ∧ ((s.jobCores 3).map (·.1)).Nodup ∧
       ∃ p ∈ s.jobCores 3, (slotOf s p.1 0).occupied = true) ∧
    (let s := deadId
     s.deadIds.contains 1 = true ∧ ∀ p ∈ s.cores, p.2.ctx.map (·.cid) = some 1 → p.2.dbg.trace = []) := by
  have frame : (resting3.core.frame resting3.coreId).length = 0x88000 := length_frame _ _ (by decide +kernel)
  refine ⟨⟨?_, ?_, ?_, ?_, ?_, ?_, ?_, ?_, ?_, ?_,
      every (p := fun p => good p.id.kind ((armed3.setRecState 3 2).roleImage 3 p.role)) (fun p e => ?a) ?_, ?_⟩, ?_,
    ⟨?_, ?_, ?_, ?_, ?_, ?_, ?_, ?_, ?_, ?_, ?_, ?b, ?c⟩, ⟨?_, ?_, ?_, ?_, ?_, ?_, ?_, ?_, ?_, ?_, ?_, ?_, ?g, every (p := fun p =>
      (seatFrame parked3 3 p).isSome && decide (p.id.kind ≠ .compute)) (fun p e => ?d) ?_, ?_⟩, ?_, ?_⟩
  case a =>
    obtain ⟨img, h1, h2⟩ := good_of e
    exact ⟨img, h1, h2⟩
  case b =>
    rw [frame]
    decide +kernel
  case c =>
    rw [State.writeRuns_recState _ _ _ _ (every (p := fun p => match p.1 with
      | .device pa 0 => decide (resting3.recAddr 3 + 8 ≤ pa)
      | _ => false) (fun p e => ?e) ?_)]
    case e =>
      obtain ⟨h, n⟩ := p
      revert e
      dsimp only
      split
      · rename_i pa
        intro e
        exact ⟨pa, rfl, of_decide_eq_true e⟩
      · intro e
        cases e
    all_goals decide +kernel
  case g =>
    intro l o h1 h2
    have k : ((List.range (parked3.spanDies 3)).all fun l => (List.range 128).all fun o =>
        (parked3.readRec 3 (parked3.octetFrameAt 3 l o + 0x90000) 128).isSome) = true := by decide +kernel
    exact List.all_eq_true.mp (List.all_eq_true.mp k l (List.mem_range.mpr h1)) o (List.mem_range.mpr h2)
  case d =>
    simp only [Bool.and_eq_true, decide_eq_true_eq] at e
    exact ⟨e.1, fun k => absurd k e.2⟩
  all_goals decide +kernel

end Sys2Proof.Tests
end

