-- ==== Sys2Proof/Tests/Meets5.lean ====
section
/-! SUPPORT. Tests: witnesses. Each theorem shows states and operands that meet the hypotheses of the statements on events of the Undertow, host ports, queues, firmware, virtualisation, scale-up, debug and boot. -/

set_option autoImplicit false
set_option Elab.async false

namespace Sys2Proof.Tests

open Sys2Proof.Machine Sys2Proof.Claims

/-- The chase is confirmed or not, a second reading of the party's count. -/
def changedChase : Chase := { cycleChase with read := [(⟨3, 0⟩, 2)] }

/-- A chase of slot 0 that waits for slot 1, which is halted. -/
def stoppedChase : Chase := ⟨[⟨⟨3, 0⟩, wrrWord 0 4 0 1 0x40, 3, ⟨3, 1⟩⟩], 3, ⟨3, 1⟩, [(⟨3, 0⟩, 1)], [(⟨3, 1⟩, 3)], [], 0⟩

/-- Its confirmation is due: the debug module of core zero, which is in halt group 1, has halted the core. -/
def stopping : State :=
  { (waitsFor 1).onCore fun c => { c with dbg := { c.dbg with halted := true } } with
    regs := [(.udctl, BitVec.ofNat 64 (2 ^ 31 + 1)), (.dctl coreZero, BitVec.ofNat 64 (2 ^ 15 + 2 ^ 12 + 1))]
    undertows := [(0, ⟨[], some stoppedChase, [], [], []⟩)] }

/-- What a walk ends as: open, aborted with a cause, stuck. -/
def endsAs : Found → Nat
  | .opn => 0
  | .abort i => i
  | .stuck _ => 100

/-- JobEvents, of the Undertow: a candidate whose walk ends open, one whose walk gives up, one whose walk is stuck, and confirmations. -/
theorem meets_undertow_events :
    (∀ x ∈ [(chasesRunning, 0), (waitsFor 0xA0000, 6), (waitsFor 0, 100)],
     let s := x.1
     let c : Party × Nat × Nat := (⟨3, 0⟩, 1, 100)
     let s1 := (s.takeUp 0).onUndertow 0 fun u => { u with cands := [] }
     (s.reg .udctl).toNat / 2 ^ 31 % 2 = 1 ∧ 0 < Config.dies ∧ (s.undertow 0).chase = none ∧ s.candidates 0 = c :: [] ∧
       endsAs (s1.follow 32 [c.1] Tracks.none c.1).1 = x.2) ∧
    (∀ ch ∈ [changedChase, cycleChase], let s := confirming ch
      (s.undertow 0).chase = some ch ∧ ∀ e ∈ ch.read, s.outbound e.1 = false) ∧
    (confirming changedChase).confirmed changedChase = false ∧
    (let s := confirming cycleChase
     let ch := cycleChase
     let u := s.onUndertow 0 fun u => { u with chase := none }
     let x := ch.report
     let p : Party := ⟨3, 0⟩
     let bs := x.bytes ((ch.links.head?.map (·.who)).getD noParty) s.time (s.namingJob ((ch.links.head?.map (·.who)).getD noParty) % 4096)
     s.confirmed ch = true ∧ s.suppressed ch = false ∧ x.elected = some p ∧
       (∃ c, s.coreOf p = some (coreZero, c) ∧ c.1.recordInUse = false ∧ (c.1.slot (p.pid % 4)).pend.undertow = none) ∧
       (ch.read.find? fun e => decide (e.1 = p)).map (·.2) = some 1 ∧
       ((u.writeCore coreZero 0x2CA00 bs).appendFault p.job x.code false bs).sameWait p 1 = true) ∧
    (let s := stopping
     (s.undertow 0).chase = some stoppedChase ∧ s.outbound ⟨3, 0⟩ = false ∧ s.confirmed stoppedChase = true ∧ s.suppressed stoppedChase = true) := by
  refine ⟨?_, ?_, ?_, ⟨?_, ?_, ?_, ?b, ?_, ?_⟩, ?_⟩
  case b =>
    have k : ((confirming cycleChase).coreOf ⟨3, 0⟩).any (fun c => decide (c.1 = coreZero) && decide (c.2.1.recordInUse = false ∧ (c.2.1.slot 0).pend.undertow = none)) = true := by
      decide +kernel
    revert k
    cases (confirming cycleChase).coreOf ⟨3, 0⟩ with
    | none => intro k; cases k
    | some c =>
      intro k
      obtain ⟨i, c⟩ := c
      simp only [Option.any, Bool.and_eq_true, decide_eq_true_eq] at k
      exact ⟨c, by rw [k.1], k.2.1, k.2.2⟩
  all_goals decide +kernel

/-- A read of two pieces at port 0, of which the first has returned or not. -/
def reading (got : Option (List Byte)) : State :=
  linked.onPort 0 fun p => { p with reads := [(3, [⟨0, 0, 0x7FE, 2, got⟩, ⟨2, 0, 0x800, 2, none⟩])] }

/-- HostEvents: requests that are taken and refused, pieces that leave and are performed, reads in one piece and in two, ports, messages,
functions, semaphores. -/
theorem meets_host_events :
    (∀ x ∈ [(linked, BarAddr.bar2 0x700), (linked.onPort 0 fun p => { p with cxl := true }, .mem 0x700)], let s := x.1
     (s.port 0).up = true ∧ (s.port 0).writes.length < 512 ∧ List.replicate 3000 (7 : Byte) ≠ [] ∧ (x.2.isMem = true → (s.port 0).cxl = true) ∧
       (s.reg (.iotctl 0)).toNat % 2 = 0 ∧ s.refusal x.2 (List.replicate 3000 (7 : Byte)).length false = none ∧
       s.refusal (.bar0Bad 0x30) [(1 : Byte)].length false = some (3, 0x30)) ∧
    (let s := posted 0 false
     ∃ w k, (s.port 0).piece 0 0 = some (w, k) ∧ k.stage = 0 ∧ mayLeave (s.port 0) w k.route = true ∧ k.addr = .bar2 0x1000 ∧
       s.heldBack 0x1000 k.bytes.length = false ∧ (s.reg (.iotctl 0)).toNat % 2 = 0) ∧
    (let s := posted 1 true
     ∃ w k, (s.port 0).piece 0 0 = some (w, k) ∧ k.stage = 1 ∧ (s.port 0).inTurn k = true ∧ w.void = true ∧ (s.reg (.iotctl 0)).toNat % 2 = 0) ∧
    (let s := posted 1 false
     ∃ w k, (s.port 0).piece 0 0 = some (w, k) ∧ k.stage = 1 ∧ (s.port 0).inTurn k = true ∧ w.void = false ∧ k.addr = .bar2 0x1000 ∧
       s.headersIn 0x1000 k.bytes.length = [] ∧ s.heldBack 0x1000 k.bytes.length = false ∧ (s.reg (.iotctl 0)).toNat % 2 = 0) ∧
    (let s := linked
     (s.port 0).up = true ∧ s.heldBack 0x50 3 = false ∧ s.heldBack 0x7FE 4 = false ∧ s.heldBack (2 ^ 40 - 1) 3 = false ∧
       (s.port 0).writes.any (follows false false false 0) = false ∧ (s.reg (.iotctl 0)).toNat % 2 = 0 ∧
       s.refusal (.bar2 0x50) 3 false = none ∧ (s.readPieces 0x50 3).length < 2 ∧ s.refusal (.bar2 0x7FE) 4 false = none ∧
       2 ≤ (s.readPieces 0x7FE 4).length ∧ s.refusal (.bar2 (2 ^ 40 - 1)) 3 false ≠ none) ∧
    (∀ x ∈ [(none, 0), (some [1, 2], 2)], let s := reading x.1
     let ks : List ReadPiece := [⟨0, 0, 0x7FE, 2, x.1⟩, ⟨2, 0, 0x800, 2, none⟩]
     (s.port 0).piece 3 x.2 = none ∧ look? (s.port 0).reads 3 = some ks ∧ ((ks.find? fun k => k.num == x.2 && k.got.isNone).any fun k => !s.heldBack k.addr k.len) = true ∧
       (s.reg (.iotctl 0)).toNat % 2 = 0 ∧
       ((∀ k ∈ ks.map fun k => if k.num == x.2 then { k with got := some (s.dm.bytes k.addr k.len) } else k, k.got.isSome = true) ↔ x.2 = 2)) ∧
    (let s := pendingIrq
     let w := s.reg (.irqsrc 7)
     (s.port 0).up = true ∧ s.sourceQuiet 7 = false ∧ w.toNat / 2 ^ 60 % 2 = 1 ∧ w.toNat / 2 ^ 63 = 1 ∧ s.irqPorts 7 = [0] ∧
       s.vectorOpen 0 (w.toNat / 2 ^ 32 % 2 ^ 11) = true) ∧
    (∀ n ∈ [0, 63, 64], n + (linked.port (1 - 0)).numVfs = n) ∧
    (let s := semaphore 5
     s.holds (.port 0) 5 = true ∧ (9 : HWord) ≠ 0 ∧ (s.reg (.hsem 63)).toNat < 2 ^ 63 ∧
       s.reg (.hsem 5) = BitVec.ofNat 64 (2 ^ 63 + sourceCode (.port 0) * 2 ^ 56 + (9 : HWord).toNat)) ∧
    (∀ c, (State.reset.port 0).up = false ∧ (c = Config.cxlStrap 0 ∨ c ≠ Config.cxlStrap 0) ∧ (State.reset.reg (.hsem 2)).toNat < 2 ^ 63) ∧
    (let s : State := { State.reset with regs := [(.hsem 2, BitVec.ofNat 64 (2 ^ 63 + 9))] }
     (s.port 0).up = false ∧ 2 ^ 63 ≤ (s.reg (.hsem 2)).toNat) ∧
    (let s := semaphore 0
     s.holds (.port 0) 0 = true ∧ s.holds .harbour 0 = false) := by
  refine ⟨?_, ?p, ?r, ?q, ?_, ?_, ?_, ?_, ?_, fun c => ⟨?_, Decidable.em _, ?_⟩, ?_, ?_⟩
  case p => exact ⟨_, _, rfl, by decide +kernel⟩
  case r => exact ⟨_, _, rfl, by decide +kernel⟩
  case q => exact ⟨_, _, rfl, by decide +kernel⟩
  all_goals decide +kernel

/-- HostEvents, of a DMA engine: its tail, its configuration, an error, a descriptor taken, one refused, one that ends. -/
theorem meets_dma_events :
    (let s := dmaRing 1 1 hostCopy
     let head := (s.reg (.drhead 8 0)).toNat % 2 ^ 32
     let size := 2 ^ ((s.reg (.drcfg 8 0)).toNat / 2 ^ 40 % 16 + 4)
     ((16 : HWord).toNat + 2 ^ 32 - head) % 2 ^ 32 ≤ size ∧ size < ((17 : HWord).toNat + 2 ^ 32 - head) % 2 ^ 32 ∧
       2 ^ 63 ≤ (s.reg (.drcfg 8 0)).toNat ∧ ¬ 2 ^ 63 ≤ (0x3FFFF : Word).toNat ∧ ringState (s.reg (.dmast 8 0)) ≠ 3 ∧
       (s.engine 8 0).run = none ∧ head ≠ (s.reg (.drtail 8 0)).toNat % 2 ^ 32 ∧ s.dmaAt 8 0 + 64 ≤ Config.deviceBytes ∧
       s.dmaOk 8 0 (s.dm.bytes (s.dmaAt 8 0) 64) = true ∧ dmaTagBad (s.dm.bytes (s.dmaAt 8 0) 64) = false) ∧
    ringState ((dmaRing 1 3 hostCopy).reg (.dmast 8 0)) = 3 ∧
    (let s := dmaRing 1 1 (descBytes 0 0 0 0 0)
     s.dmaOk 8 0 (s.dm.bytes (s.dmaAt 8 0) 64) = false) ∧
    (let s := dmaRunning
     let x := deviceCopy
     (s.engine 8 0).run = some x ∧ (s.engine 8 0).prq = none ∧ (s.engine 8 0).off = 0 ∧ (s.engine 8 0).before = [] ∧ dmaOp x = 0 ∧ dmaFlag x 3 = true ∧
       (∃ rs, s.dmaRuns 8 0 .read (dmaFlag x 0) (BitVec.ofNat 64 (descNat x 0 8)) (dmaLen x) = .ok rs) ∧
       ∃ ws, s.dmaRuns 8 0 .write (dmaFlag x 1) (BitVec.ofNat 64 (descNat x 8 8)) (dmaLen x) = .ok ws) := by
  refine ⟨?_, ?_, ?_, ?_, ?_, ?_, ?_, ?_, ?_, ok_of ?_, ok_of ?_⟩ <;> decide +kernel

/-- `Takes`, computed. -/
def takes (s : State) (q kind : Nat) (p : List Byte) : Bool :=
  s.qReady q && let first := s.ringEntry q (s.qHead q)
    let h := packetDw first 0
    headerOk h && decide (h.toNat % 2 ^ 8 = kind ∧ pktEntries h ≤ s.qPosted q ∧
      (2 ^ 63 ≤ h.toNat → s.vfGrants (descVf (s.descOf q)) (h.toNat / 2 ^ 32 % 2 ^ 12) = true) ∧
      p = if h.toNat / 2 ^ 8 % 2 = 1 then first ++ s.ringEntry q (s.qHead q + 1) else first)

theorem takes_of {s : State} {q kind : Nat} {p : List Byte} (e : takes s q kind p = true) : Takes s q kind p := by
  simp only [takes, Bool.and_eq_true, decide_eq_true_eq] at e
  exact ⟨e.1, e.2.1, e.2.2⟩

/-- `FenceMet` is decided. -/
def fenceDecided (s : State) (p : List Byte) (i : Nat) : Decidable (FenceMet s p i) := by unfold FenceMet; exact inferInstance

/-- An answer is a value with a property. -/
def okAnd {ε α : Type} (e : Except ε α) (f : α → Bool) : Bool :=
  match e with
  | .ok a => f a
  | .error _ => false

theorem okAnd_of {ε α : Type} {e : Except ε α} {f : α → Bool} (k : okAnd e f = true) : ∃ a, e = .ok a ∧ f a = true := by
  cases e with
  | ok a => exact ⟨a, rfl, k⟩
  | error _ => cases k

/-- QueueEvents, of the queue itself: tails, a reset, a slot given and given up. -/
theorem meets_queue_slots :
    (let s := queued 0 noopPacket
     s.qState 0 ≠ 4 ∧ s.sideRuns (queueDie 0) = true ∧ ((16 : HWord).toNat + 2 ^ 32 - s.qHead 0) % 2 ^ 32 ≤ descSize (s.descOf 0) ∧
       descSize (s.descOf 0) < ((17 : HWord).toNat + 2 ^ 32 - s.qHead 0) % 2 ^ 32) ∧
    (let s := pendingQueue
     s.residents (queueDie 0) < 64 ∧ s.sideRuns (queueDie 0) = true ∧ s.nextQueue (queueDie 0) = some 0 ∧ queueDescOk (s.queueDesc 0) = true ∧
       (s.queue 0).waiting = none) ∧
    (let s := crowded
     let p := fencePacket 1
     (s.queue 0).waiting = some p ∧ (packetDw p 0).toNat % 2 ^ 8 = 2 ∧ (s.queue 0).resident = true ∧ (s.queue 0).prq = none ∧
       2 ^ 63 ≤ (s.queue 0).wrr.toNat ∧ (s.queue 0).since + 100000 ≤ s.time ∧ 64 ≤ s.residents (queueDie 0) ∧
       ∃ o ∈ s.queues, queueDie o.1 = queueDie 0 ∧ s.qPending o.1 = true ∧ descPrio (s.queue 0).desc ≤ descPrio (s.queueDesc o.1)) := by
  decide +kernel

/-- QueueEvents, of packets: each packet taken, those that end and those that wait. -/
theorem meets_packets :
    Takes (queued 0 noopPacket) 0 0 noopPacket ∧
    (∀ jw ∈ [0, 1], let p := launchPacket jw
      let s := queued 0 p
      let r := (packetDw p 1).toNat % 2 ^ 12
      Takes s 0 1 p ∧ (packetDw p 0).toNat / 2 ^ 10 % 2 = jw ∧ (packetDw p 1).toNat < 2 ^ 12 ∧ dwsZero p 2 7 = true ∧
        s.recVf r = descVf (s.descOf 0) ∧ s.recState r = 0 ∧ s.complete? r = true) ∧
    (∀ n ∈ [0, 1], let p := fencePacket n
      let s := queued 0 p
      Takes s 0 2 p ∧ fenceOk p = true ∧ (packetDw p 0).toNat / 2 ^ 16 % 2 ^ 4 = 1 ∧ (FenceMet s p 0 ↔ n = 0) ∧ (s.queue 0).marks = []) ∧
    (∀ v ∈ [0, 9], let p := waitPacket v
      let s := queued 0 p
      Takes s 0 3 p ∧ packetAddrOk (packetDw p 1) = true ∧ waitControlOk (packetDw p 3) 4 = true ∧ dwsZero p 4 7 = true ∧
        ∃ h, s.packetHome 0 (packetDw p 1) .read = .ok h ∧ (s.queue 0).hit = false ∧
          condHolds ((packetDw p 3).toNat / 2 ^ 61) (BitVec.ofNat 64 (leNat (s.readHome h 8))) (packetDw p 2) = decide (v = 0)) ∧
    (let p := storePacket
     let s := queued 0 p
     Takes s 0 4 p ∧ (packetDw p 0).toNat / 2 ^ 16 % 2 ^ 4 = 0 ∧ dwsZero p 3 7 = true ∧ packetAddrOk (packetDw p 1) = true ∧
       ∃ h, s.packetHome 0 (packetDw p 1) .write = .ok h) ∧
    (let p := signalPacket
     let s := queuedBeside p
     let r := (packetDw p 1).toNat % 2 ^ 12
     Takes s 0 4 p ∧ (packetDw p 0).toNat / 2 ^ 16 % 2 ^ 4 = 1 ∧ dwsZero p 3 7 = true ∧ (packetDw p 1).toNat < 2 ^ 12 ∧
       s.recVf r = descVf (s.descOf 0) ∧ s.recState r = 2 ∧ ((s.jobCores r).map (·.1)).Nodup ∧
       ∃ c ∈ s.jobCores r, (slotOf s c.1 0).occupied = true) ∧
    (let p := legPacket
     let s := queued 0 p
     let w := (packetDw p 1).toNat
     let r := w / 2 ^ 16 % 2 ^ 12
     Takes s 0 5 p ∧ legOk p = true ∧ (packetDw (s.descOf 0) 3).toNat / 2 ^ 16 % 2 ^ 36 ≠ 0 ∧ s.spanDies r = 1 ∧ s.spanDevs r = 1 ∧
       s.recVf r = descVf (s.descOf 0)) ∧
    (let s := legStored
     let l : Leg := ⟨0, 0, true, false, 3, [], []⟩
     look? s.legs (0 * 1024 + 6) = some l ∧ l.stored = true ∧ l.fired = false ∧ l.count ≤ 0 ∧ s.sideRuns (queueDie 0) = true ∧ s.feSet = true ∧
       s.recVf l.record = descVf (s.descOf 0) ∧
       s.recState l.record = 0 ∧ s.complete? l.record = true ∧ (s.legDie 0 l).isSome = true) ∧
    (∀ p ∈ [launchPacket 1, fencePacket 0], let s := waitingIn 0 p
      (s.queue 0).waiting = some p ∧ (s.queue 0).resident = true ∧ (s.queue 0).prq = none ∧ s.sideRuns (queueDie 0) = true ∧
        ((packetDw p 0).toNat % 2 ^ 8 = 1 → s.recState ((packetDw p 1).toNat % 2 ^ 12) = 0) ∧
        ((packetDw p 0).toNat % 2 ^ 8 = 2 → (packetDw p 0).toNat / 2 ^ 16 % 2 ^ 4 = 1 ∧ FenceMet s p 0)) := by
  refine ⟨takes_of ?_, ?la, ?fe, ?wa, ⟨takes_of ?_, ?_, ?_, ?_, ok_of ?_⟩, ⟨takes_of ?_, ?_⟩, ⟨takes_of ?_, ?_⟩, ?_, ?pc⟩
  case la =>
    refine every (p := fun jw : Nat => let p := launchPacket jw
      let s := queued 0 p
      let r := (packetDw p 1).toNat % 2 ^ 12
      takes s 0 1 p && decide ((packetDw p 0).toNat / 2 ^ 10 % 2 = jw ∧ (packetDw p 1).toNat < 2 ^ 12 ∧ dwsZero p 2 7 = true ∧
        s.recVf r = descVf (s.descOf 0) ∧ s.recState r = 0 ∧ s.complete? r = true)) (fun jw e => ?a) ?_
    case a =>
      simp only [Bool.and_eq_true, decide_eq_true_eq] at e
      exact ⟨takes_of e.1, e.2⟩
    decide +kernel
  case fe =>
    refine every (p := fun n : Nat => let p := fencePacket n
      let s := queued 0 p
      takes s 0 2 p && decide (fenceOk p = true ∧ (packetDw p 0).toNat / 2 ^ 16 % 2 ^ 4 = 1) &&
        (@decide (FenceMet s p 0) (fenceDecided s p 0) == decide (n = 0)) && decide ((s.queue 0).marks = [])) (fun n e => ?a) ?_
    case a =>
      simp only [Bool.and_eq_true, decide_eq_true_eq, beq_iff_eq] at e
      obtain ⟨⟨⟨e1, e2⟩, e3⟩, e4⟩ := e
      refine ⟨takes_of e1, e2.1, e2.2, ⟨fun f => ?_, fun z => ?_⟩, e4⟩
      · have k := @decide_eq_true _ (fenceDecided (queued 0 (fencePacket n)) (fencePacket n) 0) f
        rw [e3] at k
        exact of_decide_eq_true k
      · have k := decide_eq_true z
        rw [← e3] at k
        exact @of_decide_eq_true _ (fenceDecided _ _ _) k
    decide +kernel
  case wa =>
    refine every (p := fun v : Nat => let p := waitPacket v
      let s := queued 0 p
      takes s 0 3 p && decide (packetAddrOk (packetDw p 1) = true ∧ waitControlOk (packetDw p 3) 4 = true ∧ dwsZero p 4 7 = true) &&
        okAnd (s.packetHome 0 (packetDw p 1) .read) fun h => decide ((s.queue 0).hit = false ∧
          condHolds ((packetDw p 3).toNat / 2 ^ 61) (BitVec.ofNat 64 (leNat (s.readHome h 8))) (packetDw p 2) = decide (v = 0)))
      (fun v e => ?a) ?_
    case a =>
      rw [Bool.and_eq_true, Bool.and_eq_true] at e
      obtain ⟨⟨e1, e2⟩, e3⟩ := e
      obtain ⟨h, k1, k2⟩ := okAnd_of e3
      have e2 := of_decide_eq_true e2
      have k2 := of_decide_eq_true k2
      exact ⟨takes_of e1, e2.1, e2.2.1, e2.2.2, h, k1, k2⟩
    decide +kernel
  case pc =>
    refine every (p := fun p : List Byte => let s := waitingIn 0 p
      decide ((s.queue 0).waiting = some p ∧ (s.queue 0).resident = true ∧ (s.queue 0).prq = none ∧ s.sideRuns (queueDie 0) = true ∧
        ((packetDw p 0).toNat % 2 ^ 8 = 1 → s.recState ((packetDw p 1).toNat % 2 ^ 12) = 0)) &&
        (decide ((packetDw p 0).toNat % 2 ^ 8 ≠ 2) || (decide ((packetDw p 0).toNat / 2 ^ 16 % 2 ^ 4 = 1) &&
          @decide (FenceMet s p 0) (fenceDecided s p 0)))) (fun p e => ?z) ?_
    case z =>
      simp only [Bool.and_eq_true, Bool.or_eq_true, decide_eq_true_eq] at e
      obtain ⟨e1, e2⟩ := e
      exact ⟨e1.1, e1.2.1, e1.2.2.1, e1.2.2.2.1, e1.2.2.2.2, fun k => e2.elim (fun n => absurd k n) id⟩
    decide +kernel
  all_goals decide +kernel

/-- FirmwareEvents: leases, votes, a division, and the mailbox. -/
theorem meets_firmware_events :
    (let s := leading
     Leads s 8 ∧ (s.light 8).sent + 200000 ≤ s.time ∧
       6 ≤ weightOf (8 :: [0, 1, 2, 3, 4, 5, 9].filter fun a => (s.sideOf 8).contains a && a != 8) ∧
       weightOf (8 :: [0].filter fun a => (s.sideOf 8).contains a && a != 8) < 6) ∧
    (∀ x ∈ [(lapsing none (some 8), true), (lapsing (some [8, 0]) (some 8), false)], let s := x.1
      8 < Config.dies ∧ s.dieHeld 8 = false ∧ (s.light 8).lapsed = false ∧ (s.light 8).renewed + 1000000 ≤ s.time ∧ decide (6 ≤ weightOf (s.sideOf 8)) = x.2) ∧
    (let s := voting
     let l := s.light 8
     8 < Config.dies ∧ s.dieHeld 8 = false ∧ l.lapsed = true ∧ (if l.renewed < l.asked then l.asked + 1000000 else l.renewed + 1100000 + 10000 * lightRank 8) ≤ s.time ∧
       s.split = none ∧ 6 ≤ weightOf ((8 :: [0, 1, 2, 3, 9]).filter (s.grants 8 (l.epoch + 1))) ∧
       weightOf ((8 :: [0]).filter (s.grants 8 (l.epoch + 1))) < 6) ∧
    (let s := leading
     let mine := ([8, 9, 0, 1, 2, 3].filter fun d => decide (d < Config.dies)).foldl insertNat []
     s.split = none ∧ mine ≠ [] ∧ mine.length ≠ Config.dies ∧ s.leader = some 8) ∧
    (∀ x ∈ [(mailing 1 0x2000000, 0x1000), ({ mailing 1 0x2000000 with regs := [(.mbarg 0, 0)] }, 0)], let s := x.1
      let size := (s.reg (.mbarg 0)).toNat % 2 ^ 32
      let all := summary (s.resyncHead 8) s.resyncSections
      Commands s 0 1 ((0x2000000 : Word).toNat % 2 ^ 52) ∧ Leads s 8 ∧ (0x2000000 : Word).toNat % 2 ^ 52 % 64 = 0 ∧
        (0x2000000 : Word).toNat % 2 ^ 52 + (all.take size).length ≤ Config.deviceBytes ∧ size = x.2) ∧
    Commands (mailing 2 3) 0 2 3 ∧ (1 ≤ (mailing 2 3).recState 3 ∧ (mailing 2 3).recState 3 ≤ 3) ∧ Commands (mailing 9 3) 0 9 3 ∧
    (let s := mailing 3 3
     let size := (s.reg .fedump).toNat / 2 ^ 52 * 2 ^ 20
     Commands s 0 3 3 ∧ s.recState 3 = 2 ∧ size ≠ 0 ∧ (s.reg .fedump).toNat / 2 ^ 12 % 2 ^ 40 * 2 ^ 12 + size ≤ Config.deviceBytes ∧
       s.core.ctx.isSome = true ∧ Leads s 8) := by
  have commands : ∀ (s : State) (op arg : Nat), decide (s.mailOf 0 = some (op, arg)) && (!(s.light 8).outOfQuorum && decide (s.leader = some 8 ∧ s.time < (s.light 8).renewed + 1000000)) →
      Commands s 0 op arg := by
    intro s op arg e
    simp only [Bool.and_eq_true, Bool.not_eq_true', decide_eq_true_eq] at e
    exact ⟨e.1, e.2.1, 8, e.2.2⟩
  have short : ∀ (size : Nat) (l : List Byte), size ≤ 0x1000 → (0x2000000 : Word).toNat % 2 ^ 52 + (l.take size).length ≤ Config.deviceBytes := by
    intro size l le
    have k := List.length_take_le size l
    have c : (0x2000000 : Word).toNat % 2 ^ 52 + 0x1000 ≤ Config.deviceBytes := by decide
    omega
  refine ⟨⟨⟨?_, ?_⟩, ?_⟩, ?_, ?_, ?_, every (p := fun x : State × Nat =>
    (decide (x.1.mailOf 0 = some (1, (0x2000000 : Word).toNat % 2 ^ 52)) && (!(x.1.light 8).outOfQuorum && decide (x.1.leader = some 8 ∧ x.1.time < (x.1.light 8).renewed + 1000000))) &&
      decide ((x.1.leader = some 8 ∧ x.1.time < (x.1.light 8).renewed + 1000000) ∧ (x.1.reg (.mbarg 0)).toNat % 2 ^ 32 = x.2 ∧ x.2 ≤ 0x1000)) (fun x e => ?a) ?_,
    commands _ _ _ ?_, ?_, commands _ _ _ ?_, commands _ _ _ ?_, ?_, ?_, ?_, ?_, ?_, ?_⟩
  case a =>
    rw [Bool.and_eq_true, decide_eq_true_eq] at e
    exact ⟨commands _ _ _ e.1, e.2.1, by decide, short _ _ (by rw [e.2.2.1]; exact e.2.2.2), e.2.2.1⟩
  all_goals decide +kernel

/-- A record's state reads as zero where no byte is listed in its header's last byte. -/
theorem idle_record (s : State) (r : Nat) (h : s.dm.all fun c => decide (c.1 % 256 ≠ 7)) : s.recState r = 0 := by
  have k : s.dm.byte (s.recAddr r + 7) = 0 := Memory.byte_unlisted fun c m e => by
    have n := of_decide_eq_true (List.all_eq_true.mp h c m)
    have a : s.recAddr r % 256 = 0 := by rw [State.recAddr]; omega
    omega
  have b : ∀ i, (s.dm.byte (s.recAddr r + i)).toNat < 256 := fun i => (s.dm.byte (s.recAddr r + i)).isLt
  have b0 := b 0
  have b1 := b 1
  have b2 := b 2
  have b3 := b 3
  have b4 := b 4
  have b5 := b 5
  have b6 := b 6
  have k : (s.dm.byte (s.recAddr r + 7)).toNat = 0 := congrArg BitVec.toNat k
  simp only [State.recState, State.dw, Memory.dword, Memory.nat, Memory.bytes, leNat, bits, Nat.mul_zero, Nat.add_zero, Nat.add_assoc,
    BitVec.toNat_ofNat, Nat.reduceAdd, Nat.reducePow, Nat.reduceSub] at *
  omega

/-- Where no pool of records is set up, no function has a record. -/
theorem no_records (s : State) (v : Nat) (h : (s.reg .fepool == 0) = true) : s.vfRecords v = [] := by
  rw [State.vfRecords, h]
  rfl

/-- What a register file that lists staged regions holds of one of them. -/
theorem look_region (f : Nat → Word) (l : List Nat) (k : Nat) (h : k ∈ l) : lookReg (l.map fun r => (.region r, f r)) (.region k) = f k := by
  induction l with
  | nil => cases h
  | cons r l ih =>
    rw [List.map_cons, lookReg]
    by_cases e : r = k
    · rw [e, if_pos rfl]
    · rw [if_neg fun c => e (Reg.region.inj c)]
      exact ih (by rcases List.mem_cons.mp h with c | c
                   · exact absurd c.symm e
                   · exact c)

/-- What it holds of any other register. -/
theorem look_other (f : Nat → Word) (l : List Nat) (q : Reg) (h : ∀ r, Reg.region r ≠ q) : lookReg (l.map fun r => (.region r, f r)) q = q.reset := by
  induction l with
  | nil => rfl
  | cons r l ih => rw [List.map_cons, lookReg, if_neg (h r), ih]

/-- The attributes that `staging b` stages. -/
def attrs (b : Nat) : List Nat := (List.range 256).map fun r => if r < 8 then 4 * r else if r = 9 then b else 2

theorem staged_attrs (b : Nat) (h : b < 256) : (staging b).staged = attrs b := by
  refine List.map_congr_left fun r m => ?_
  rw [State.reg, show (staging b).regs = (List.range 256).map fun r =>
    (.region r, BitVec.ofNat 64 (if r < 8 then 4 * r else if r = 9 then b else 2)) from rfl, look_region _ _ _ m, bits, BitVec.toNat_ofNat]
  split
  · omega
  · split <;> omega

/-- The staged table of `staging 2` can be committed; that of `staging 3` has a reserved attribute. -/
theorem staging_commits : (staging 2).commitOk = true ∧ (staging 3).commitOk = false := by
  have q : (List.range 128).all (fun k => !bit ((staging 2).reg (.drcfg (8 + k / 64) (k % 64))) 63) = true :=
    List.all_eq_true.mpr fun k _ => by
      rw [State.reg, show (staging 2).regs = (List.range 256).map fun r =>
        (.region r, BitVec.ofNat 64 (if r < 8 then 4 * r else if r = 9 then 2 else 2)) from rfl, look_other _ _ _ (fun r c => by cases c),
        show ∀ a b, (Reg.drcfg a b).reset = 0 from fun a b => (by simp only [Reg.reset])]
      decide
  have t : ((attrs 2).all regionOk && (List.range 8).all fun d => decide (((attrs 2).map fun b => regionShare b d).sum ≤ 256)) = true := by
    decide +kernel
  have n : (attrs 3).all regionOk = false := by decide +kernel
  constructor
  · have r : (List.range 4096).all (fun r => (staging 2).recState r == 0) = true :=
      List.all_eq_true.mpr fun r _ => beq_iff_eq.mpr (idle_record (staging 2) r rfl)
    rw [State.commitOk, staged_attrs 2 (by decide), q, r, Bool.and_true, Bool.and_true]
    exact t
  · rw [State.commitOk, staged_attrs 3 (by decide), n]
    rfl

/-- VirtualisationEvents: invalidations, a walk, page requests, the region table, a function's reset. -/
theorem meets_virtualisation_events :
    ((on quay).reg .tlbst).toNat < 2 ^ 63 ∧
    (let s := invalidating
     2 ^ 63 ≤ (s.reg .tlbst).toNat ∧ s.inval = some (2, 1, 0, 0) ∧ ∀ p ∈ s.cores, s.frozenCore p.2 = false) ∧
    (let s := having (on quay) identity
     tlbHit (s.dieTlb 0) 1 0 ((0x50000 : Word).toNat % 2 ^ 52) = none ∧ (∃ e, s.walk 1 0 ((0x50000 : Word).toNat % 2 ^ 52) = .ok e) ∧
       (0x10000 : Word).toNat / 2 ^ 16 % 16 = 1) ∧
    (∀ who ∈ [Requester.stream quay, .dma 8 0, .queue 0, .coll 8], look? (asked who).prqs 4 = some who) ∧
    ((staging 2).reg .regcmt).toNat < 2 ^ 63 ∧ (staging 2).commitOk = true ∧ ((staging 3).reg .regcmt).toNat < 2 ^ 63 ∧ (staging 3).commitOk = false ∧
    2 ^ 63 ≤ (clearing.reg .regcmt).toNat ∧
    (let s := function5
     s.vfState 5 = 0 ∧ s.vfRecords 5 = [] ∧ s.vfQueues 5 = [0] ∧ (s.reg (.drcfg 8 0)).toNat / 2 ^ 56 % 2 ^ 6 = 5) ∧
    (let s := draining
     s.vfState 5 = 2 ∧ s.vfDraining 5 = false ∧ s.sourceOf 264 5 = true) := by
  refine ⟨?_, ?_, ⟨?_, ok_of ?_, ?_⟩, ?_, ?_, staging_commits.1, ?_, staging_commits.2, ?_, ⟨?_, no_records _ _ ?_, ?_⟩, ?_⟩
  all_goals decide +kernel

/-- What holds of a default and of every value of a table holds of each entry. -/
theorem look_all {α : Type} {P : α → Prop} (d : α) (l : List (Nat × α)) (k : Nat) (h : P d) (m : ∀ x ∈ l, P x.2) : P (look d l k) := by
  induction l with
  | nil => exact h
  | cons x l ih =>
    rw [look]
    split
    · exact m x (.head _)
    · exact ih fun y e => m y (.tail _ e)

/-- Port 3 is up in a domain whose access table is at 0x2000. -/
def admitting : State := { domain [3] with regs := [(.dactb, 0x2000), (.domid, 0x101)] }

/-- Port 3 has asked for a replay seven times, and port 9 is up. -/
def failing : State := (domain [3, 9]).onShum 3 fun k => { k with tries := 7 }

/-- ScaleupEvents: ports, flits, keys, remote accesses, and the collective engine of die 8. -/
theorem meets_scaleup_events :
    ((domain []).reg .domid).toNat / 2 ^ 8 % 2 = 1 ∧
    (let s := domain [3, 9]
     (s.shumPort 3).up = true ∧ (∃ p, p < 18 ∧ p ≠ 3 ∧ (s.shumPort p).up = true) ∧
       ∀ p, (s.shumPort p).sent + (((s.shumPort 3).replay.map fun f => (f.pa, f.body)) ++ (s.shumPort 3).held).length < 2 ^ 48) ∧
    (let s := { domain [3] with regs := (collRing 1 1 collDesc).regs }
     (s.shumPort 3).up = true ∧ (∀ p, p ≠ 3 → (s.shumPort p).up = false) ∧ s.jobs = [] ∧ s.collOn 8 = true) ∧
    (let k := (domain [3]).shumPort 3
     k.up = true ∧ k.rkeys.getD (true).toNat none = none ∧ k.rkeys.getD (false).toNat none ≠ none ∧
       5 = k.expect.getD (false).toNat 0 ∧ 4 ≠ k.expect.getD (false).toNat 0 ∧ k.expect.length = 2 ∧ Leads (domain [3]) 8 ∧ k.keys.getD (!k.kg).toNat none = none ∧
       k.keys.length = 2 ∧ k.width < 4 ∧ k.confirmed = true ∧ ∀ f ∈ k.replay, f.kg = k.kg) ∧
    ((failing.shumPort 3).up = true ∧ (failing.shumPort 3).tries = 7 ∧ ∃ p, p < 18 ∧ p ≠ 3 ∧ (failing.shumPort p).up = true) ∧
    (let s := admitting
     s.portsUp ≠ [] ∧ s.admits 2 (0x5000 / 2 ^ 32) = true ∧ s.admits 2 ((0x5000 + 8 - 1) / 2 ^ 32) = true ∧ 0x5000 + 8 ≤ Config.deviceBytes ∧
       s.admits 3 (0x2040 / 2 ^ 32) = false) ∧
    (let s := spanning
     0 ≠ (s.reg .domid).toNat % 2 ^ 8 ∧ 3 ∈ s.jobs.map (·.1) ∧ 0 < s.spanDevs 3 ∧ 0 ≠ s.myDev 3 ∧ s.recState 3 = 2) ∧
    (let s := { spanning with shum := [(3, shumUp [])] }
     let pay : List Byte := List.replicate 8 7
     s.portsUp ≠ [] ∧ s.recState 3 = 2 ∧ 0 < s.spanDevs 3 ∧ 0 ≠ s.myDev 3 ∧ s.destDev 3 (BitVec.ofNat 64 (1 * 2 ^ 24)) = s.myDev 3 ∧
       s.destInSpan 3 (s.myDev 3) (BitVec.ofNat 64 (1 * 2 ^ 24)) = true ∧ pay.length % 8 = 0 ∧ pay.length ≤ 248) ∧
    (let s := collRing 1 1 collDesc
     ((16 : HWord).toNat + 2 ^ 32 - s.crHead 8) % 2 ^ 32 ≤ s.crSize 8 ∧ s.crSize 8 < ((17 : HWord).toNat + 2 ^ 32 - s.crHead 8) % 2 ^ 32 ∧
       2 ^ 63 ≤ (s.reg (.crcfg 8)).toNat ∧ ringState (s.reg (.crst 8)) ≠ 3 ∧ (s.collEngine 8).run = none ∧ s.crHead 8 ≠ s.crTail 8 ∧
       s.crAt 8 + 64 ≤ Config.deviceBytes ∧ s.collOk 8 (s.dm.bytes (s.crAt 8) 64) = true) ∧
    ringState ((collRing 1 3 collDesc).reg (.crst 8)) = 3 ∧
    (let s := collRing 1 1 (List.replicate 64 0)
     s.collOk 8 (s.dm.bytes (s.crAt 8) 64) = false) ∧
    (let s := collRunning
     let x := collDesc
     let peers := [(2, (collDesc.drop 16).take 7 ++ leBytes 8 7 ++ leBytes 8 9)]
     let me := (s.reg .domid).toNat % 2 ^ 8
     let n := collBytes (collFmt x) * collCount x
     (s.collEngine 8).run = some x ∧ (s.collEngine 8).prq = none ∧
       (∀ m ∈ s.collMembers (collGrp x), m ≠ me → (look [] peers m).take 7 = (x.drop 16).take 7 ∧ (look [] peers m).length = 7 + n) ∧
       x.length = 64 ∧ (2 ∈ s.collMembers (collGrp x) ∧ me ≠ 2) ∧
       ((∀ m ∈ s.collMembers (collGrp x), m ≠ me → 7 ≤ (look [] [(2, List.replicate 7 (0 : Byte))] m).length) ∧
         (List.replicate 7 (0 : Byte)).take 7 ≠ (x.drop 16).take 7) ∧
       (∃ src, s.collRuns 8 .read (descNat x 0 8) n = .ok src) ∧ ∃ dst, s.collRuns 8 .write (descNat x 8 8) n = .ok dst) := by
  refine ⟨?_, ⟨?_, ⟨9, ?_⟩, fun p => ?e⟩, ⟨?_, fun p n => ?d, ?_⟩, ⟨?_, ?_, ?_, ?_, ?_, ?_, ⟨?_, ?_⟩, ?_⟩,
    ⟨?_, ?_, 9, ?_⟩, ?_, ?_, ?_, ?_, ?_, ?_, ?_, ?_, ?_, ?_, ?_, ?_, ok_of ?_, ok_of ?_⟩
  case e => exact look_all (P := fun k : ShumPort => k.sent + 1 < 2 ^ 48) _ _ _ (by decide +kernel) (by decide +kernel)
  case d =>
    show (look ShumPort.reset [(3, shumUp [flitFor 0x800])] p).up = false
    rw [look, if_neg (by simpa using Ne.symm n)]
    rfl
  all_goals decide +kernel

set_option maxRecDepth 100000 in
/-- DebugEvents: halts of each cause in both modes, a halted core and what is selected of it, the freeze wire, a trace, a pulse. -/
theorem meets_debug_events :
    (∀ trap ∈ [0, 1], let s := debugging trap
      let ctl := (s.reg (.dctl s.coreId)).toNat
      ctl / 2 ^ 13 % 2 = trap ∧ s.core.dbg.halted = false ∧ s.breaks.isSome = true ∧ ctl / 2 ^ 15 % 2 = 1 ∧ ctl / 2 ^ 12 % 2 = 1) ∧
    (let s := (debugging 0).onCore fun c => { c with dbg := { c.dbg with cross := true } }
     s.core.dbg.cross = true ∧ s.core.dbg.halted = false) ∧
    (∀ x ∈ [(0x800, 0x100), (0x7D0, 250), (0x28, 5), (0x808, 0x101)], let s := halted x.1
      s.core.dbg.halted = true ∧ s.core.dbg.slot < 4 ∧ (s.reg (.dsel s.coreId)).toNat / 2 ^ 3 % 2 ^ 9 = x.2) ∧
    quay ∈ (halted 0x800).groupCores 1 ∧
    (let s := halted 0x28
     imageFault s.coreId.kind ((liveWords s.coreId.kind (s.core.slot 0)).set 5 77) 1 = none) ∧
    (on quay).core.dbg.halted = false ∧
    ((running Job.empty).recState 3 = 2 ∧ (look? (running Job.empty).jobs 3).isSome = true) ∧
    (let s : State := { on quay with regs := [(.trctl quay, 1)] }
     (s.reg (.trctl s.coreId)).toNat % 2 = 1 ∧ s.core.dbg.trace = []) ∧
    (let s := pulsing
     let past := (s.time - s.tmStart) / ((s.reg .tmctl).toNat / 2 % 2 ^ 24 * 100)
     let r := tidemarkRecord (past - 1) s.time (scanOrder.map fun id => s.sample (s.coreAt id))
     let idx := (s.reg .tmidx).toNat
     let off := if (s.reg .tmsize).toNat % 2 ^ 32 * 2 ^ 20 < idx + r.length then 0 else idx
     (s.reg .tmctl).toNat % 2 = 1 ∧ s.tmPulse < past ∧ (s.reg .tmbase).toNat / 2 ^ 6 % 2 ^ 46 * 2 ^ 6 + off + r.length ≤ Config.deviceBytes) := by
  refine ⟨?_, ?_, ?_, ?_, ?_, ?_, ?_, ?_, ?_⟩ <;> decide +kernel

/-- Semaphore 1 is held; the first owner slot has been fused, and the ownership mode is 1. -/
def fused : State := { guarded with flash := { guarded.flash with owners := [some [], none, none, none], ownMode := 1 } }

/-- A unit of a kind on die 0. -/
def unit (k : UnitKind) : UnitId := ⟨0, k, 0, 0, 0⟩

/-- Sixteen corrected errors of one unit within the hour. -/
def worn : State := { State.reset with corrected := List.replicate 16 (unit .computeCore, 0) }

/-- BootEvents: a command without the semaphore, each of the holder's, the report, key slots, capping, heat, errors, plain registers. -/
theorem meets_boot_events :
    State.reset.holds .harbour 1 = false ∧
    (let s := guarded
     s.holds (.port 0) 1 = true ∧ Leads s 8 ∧ s.flash.ownMode ≠ 2 ∧ s.flash.ownMode ≤ 2 ∧
       (∀ slot ∈ [1, 4], s.flash.owners.getD (slot - 1) none = none) ∧ 0x500 / 256 * 256 + 64 ≤ Config.deviceBytes ∧
       0x500 % 64 = 0 ∧ 0x500 + 370 ≤ Config.deviceBytes) ∧
    (let s := fused
     s.holds (.port 0) 1 = true ∧ s.flash.owners.getD (1 - 1) none ≠ none ∧ 0 < s.flash.ownMode) ∧
    (guarded.keyWaits = [] ∧ guarded.keyInUse 2 = false) ∧
    (keyUser.keyWaits = [] ∧ keyUser.keyInUse 2 = true) ∧
    (∀ slot ∈ [262, 263], ((domain [3]).shumPort ((slot - 256) / 2)).keys.length = 2 ∧ ((domain [3]).shumPort ((slot - 256) / 2)).rkeys.length = 2) ∧
    (dataError (unit .computeCore) = false ∧ (unit .saveArea).kind = .saveArea ∧ (unit .codeLine).kind = .codeLine ∧
      (let u : UnitId := ⟨8, .dmaData, 0, 0, 0⟩
       u.kind = .dmaData ∧ (dmaRunning.engine u.die u.row).run.isSome = true) ∧ (unit .computeCore).kind ≠ .dmaData) ∧
    (let s : State := { State.reset with leader := some 8, time := 10000, regs := [(.pcap, 5)] }
     (s.reg .pcap).toNat % 2 ^ 13 * 10 ≠ 0 ∧ Leads s 8 ∧ s.capped + 10000 ≤ s.time) ∧
    (let n (s : State) := ((s.corrected.filter fun e => decide (s.time < e.2 + 360000000000)).filter fun e =>
      decide (e.1 = unit .computeCore)).length
     n State.reset < 16 ∧ 16 ≤ n worn) ∧
    ((plainMask .fedump).isSome = true ∧ managed .fedump = false ∧ managed .pcap = true ∧ (plainMask .prqhead).isSome = true ∧
      inCapability .prqhead = true) := by
  refine ⟨?_, ?_, ?_, ?_, ?_, ?_, ?_, ?_, ?_, ?_⟩
  case refine_2 => exact ⟨by decide +kernel, ⟨by decide +kernel, by decide +kernel⟩, by decide +kernel⟩
  case refine_8 => exact ⟨by decide +kernel, ⟨by decide +kernel, by decide +kernel⟩, by decide +kernel⟩
  all_goals decide +kernel

/-- EncodeThenDecode: a move and an event are well formed, and have words. -/
theorem meets_encoding :
    (Instr.agPadd ⟨true, false, 0, .x 5⟩).wf = true ∧ encode (Instr.agPadd ⟨true, false, 0, .x 5⟩) ≠ [] ∧
      ∀ w r, Instr.agPadd ⟨true, false, 0, .x 5⟩ ≠ .illegalMove w r := by
  refine ⟨by decide +kernel, by decide +kernel, fun w r c => ?_⟩
  cases c

/-- MemoryFormIsKept: the machine right after reset has the form, and it steps. -/
theorem meets_memory_form : State.reset.MemoryForm ∧ ∃ t, step State.reset = .next t := by
  have k : (match step State.reset with
      | .next _ => true
      | _ => false) = true := by decide +kernel
  refine ⟨⟨Memory.wf_nil, fun p m => ?_, Memory.wf_nil, Memory.wf_nil, fun p m => ?_, Memory.wf_nil, Memory.wf_nil, Memory.wf_nil⟩, ?_⟩
  · cases m
  · cases m
  · revert k
    cases step State.reset with
    | next t => exact fun _ => ⟨t, rfl⟩
    | fault _ => intro k; cases k
    | refused _ => intro k; cases k

end Sys2Proof.Tests
end

