-- ==== Sys2Proof/Tests/Meets6.lean ====
section
/-! SUPPORT. Tests: witnesses. Each theorem shows states and operands that meet the hypotheses of further clauses of the statements: accesses of other cores, senders and helpers that stores wait behind, other devices, and engines that are stopped. -/

set_option autoImplicit false
set_option Elab.async false

namespace Sys2Proof.Tests

open Sys2Proof.Machine Sys2Proof.Claims

/-- LoadResults and VectorMemoryResults: the memory of another core; a masked store of lanes that none has. -/
theorem meets_far_access :
    (let s := operands (working coreZero) .ls 1 2 0 0x40100
     (∀ r ∈ loadTable, Goes .ls r.1 (hx 5) s ∧ accessPlace s (s.moved64 (hx 5)) r.2.2.1 false = .ok (next, 0x100)) ∧
       Goes .vp 0x01 (hx 5) s ∧ accessPlace s (s.moved64 (hx 5)) 32 false = .ok (next, 0x100)) ∧
    (let s := lanes 1 0x109 0x4000100
     Goes .vp 0x05 (hx 5) s ∧ 9 ∉ fmtsAll ∧ (s.sl.vb.setWidth 64 : Word).toNat = 9 + 0x100) := by
  refine ⟨⟨every (p := fun r => let s := operands (working coreZero) .ls 1 2 0 0x40100
      goes .ls r.1 (hx 5) s && decide (accessPlace s (s.moved64 (hx 5)) r.2.2.1 false = .ok (next, 0x100))) (fun _ e => ?a) ?_, goes_of ?_, ?_⟩,
    goes_of ?_, ?_⟩
  case a =>
    simp only [Bool.and_eq_true, decide_eq_true_eq] at e
    exact ⟨goes_of e.1, e.2⟩
  all_goals decide +kernel

/-- An operation's control word breaks no check, computed. -/
def clear (opc : Nat) (s : State) : Bool := (vpCompute opc).all fun o => decide (vectorTrap s o (s.moved64 (hx 5)) = none)

theorem clear_of {opc : Nat} {s : State} (e : clear opc s = true) : ∀ o, vpCompute opc = some o → vectorTrap s o (s.moved64 (hx 5)) = none := by
  simpa only [clear, Option.all_eq_true, decide_eq_true_eq] using e

/-- VectorLaneResults: the floating-point operations on BF16 lanes, by the mode of the control word, under M, and by `rsr`; comparisons; `ext`;
conversions of F32 to BF16 and of BF16 to F32; reductions of BF16 lanes and of bytes; dot products; `dq`. -/
theorem meets_float_lanes :
    (∀ r ∈ floatTable, Goes .vp r.1 (hx 5) (lanes 1 2 7) ∧ 7 ∈ r.2.2.1 ∧
      ∀ o, vpCompute r.1 = some o → vectorTrap (lanes 1 2 7) o ((lanes 1 2 7).moved64 (hx 5)) = none) ∧
    (∀ ctl ∈ ([0x107, 0x87] : List Word), Goes .vp 0x10 (hx 5) (lanes 1 2 ctl) ∧
      ∀ o, vpCompute 0x10 = some o → vectorTrap (lanes 1 2 ctl) o ((lanes 1 2 ctl).moved64 (hx 5)) = none) ∧
    (∀ r ∈ floatCompareTable, Goes .vp r.1 (hx 5) (lanes 1 2 8) ∧ ((lanes 1 2 8).moved64 (hx 5)).toNat = 8) ∧
    (let s := lanes 1 2 0x0F000003
     Goes .vp 0x4E (hx 5) s ∧ (s.moved64 (hx 5)).toNat % 2 ^ 24 = 3 ∧ (s.moved64 (hx 5)).toNat / 2 ^ 24 < 256 / laneBits 3) ∧
    (∀ r ∈ convertTable, ∀ x ∈ ([(0, 0x1070008), (0, 0x1080007), (8, 0x1070008)] : List (Nat × Word)), let s := lanes 1 2 x.2
      Goes .vp (0x30 + x.1 + r.1) (hx 5) s ∧ ∀ o, vpCompute (0x30 + x.1 + r.1) = some o → vectorTrap s o (s.moved64 (hx 5)) = none) ∧
    (∀ r ∈ reductionTable, let s := lanes 1 2 (if r.1 < 0x43 then 7 else 1)
      Goes .vp r.1 (hx 5) s ∧ ((s.moved64 (hx 5)).toNat % 32 ∈ r.2.2.1) ∧ ∀ o, vpCompute r.1 = some o → vectorTrap s o (s.moved64 (hx 5)) = none) ∧
    (∀ r ∈ dotTable, let s := lanes 1 2 4
      Goes .vp r.1 (hx 5) s ∧ ∀ o, vpCompute r.1 = some o → vectorTrap s o (s.moved64 (hx 5)) = none) ∧
    (let s := lanes 1 2 0x7000008
     Goes .vp 0x07 (hx 5) s ∧ ∀ o, vpCompute 0x07 = some o → vectorTrap s o (s.moved64 (hx 5)) = none) := by
  refine ⟨every (p := fun r => goes .vp r.1 (hx 5) (lanes 1 2 7) && decide (7 ∈ r.2.2.1) && clear r.1 (lanes 1 2 7)) (fun r e => ?a) ?_,
    every (p := fun ctl => goes .vp 0x10 (hx 5) (lanes 1 2 ctl) && clear 0x10 (lanes 1 2 ctl)) (fun ctl e => ?b) ?_,
    every (p := fun r => goes .vp r.1 (hx 5) (lanes 1 2 8) && decide (((lanes 1 2 8).moved64 (hx 5)).toNat = 8)) (fun r e => ?c) ?_,
    ⟨goes_of ?_, ?_⟩,
    every (p := fun r => ([(0, 0x1070008), (0, 0x1080007), (8, 0x1070008)] : List (Nat × Word)).all fun x =>
      goes .vp (0x30 + x.1 + r.1) (hx 5) (lanes 1 2 x.2) && clear (0x30 + x.1 + r.1) (lanes 1 2 x.2)) (fun r e => every (fun x e => ?d) e) ?_,
    every (p := fun r => let s := lanes 1 2 (if r.1 < 0x43 then 7 else 1)
      goes .vp r.1 (hx 5) s && decide ((s.moved64 (hx 5)).toNat % 32 ∈ r.2.2.1) && clear r.1 s) (fun r e => ?e) ?_,
    every (p := fun r => goes .vp r.1 (hx 5) (lanes 1 2 4) && clear r.1 (lanes 1 2 4)) (fun r e => ?f) ?_,
    goes_of ?_, clear_of ?_⟩
  case a =>
    simp only [Bool.and_eq_true, decide_eq_true_eq] at e
    exact ⟨goes_of e.1.1, e.1.2, clear_of e.2⟩
  case b =>
    rw [Bool.and_eq_true] at e
    exact ⟨goes_of e.1, clear_of e.2⟩
  case c =>
    rw [Bool.and_eq_true, decide_eq_true_eq] at e
    exact ⟨goes_of e.1, e.2⟩
  case d =>
    rw [Bool.and_eq_true] at e
    exact ⟨goes_of e.1, clear_of e.2⟩
  case e =>
    simp only [Bool.and_eq_true, decide_eq_true_eq] at e
    exact ⟨goes_of e.1.1, e.1.2, clear_of e.2⟩
  case f =>
    rw [Bool.and_eq_true] at e
    exact ⟨goes_of e.1, clear_of e.2⟩
  all_goals decide +kernel

/-- A command of core zero's neighbour writes a slot of its berth. -/
def barring : State := (ferrying 0 0x100 0x20040002).onCoreAt next fun k => { k with ranges := [⟨0x400, 0x4FF, true, 5, 0⟩] }

/-- CopyResults: a push to a berth whose slot is locked. -/
theorem meets_locked_copy : let s := barring
    Goes .qm 0x30 (hx 5) s ∧ Settled s ∧ s.sl.wait = none ∧ (s.latched .qm (hx 5)).copyFault true = none ∧ s.untraced ∧ MayWait s ∧
      farEnd s true (s.moved64 (hx 5)) = some (next, 0x400, some (next, 2)) ∧
      (s.coreAt next).conflict 0x400 (s.lat .qm).b.toNat true = some ⟨0x400, 0x4FF, true, 5, 0⟩ := by
  refine ⟨goes_of ?_, settled_of ?_, ?_, ?_, (patient_of ?_).1, (patient_of ?_).2.1, ?_, ?_⟩ <;> decide +kernel

/-- Quay core 0's engine runs a record, `wrote` bytes into a slot. -/
def cancelling (wrote : Nat) : State :=
  (posting 2 [] 1).onStream fun e => { e with run := some ⟨streamBytes 0, 0, true, [], [], 0, wrote, false⟩, err := some 7 }

/-- StreamResults: `cancel` at a slot boundary and within a slot. -/
theorem meets_cancels : ∀ wrote ∈ [0, 8], let s := cancelling wrote
    Goes .qs 0x03 (hx 5) s ∧ (s.moved64 (hx 5)).toNat = 1 ∧ s.core.stream.run.map (·.wrote) = some wrote :=
  every (p := fun wrote => let s := cancelling wrote
      goes .qs 0x03 (hx 5) s && decide ((s.moved64 (hx 5)).toNat = 1 ∧ s.core.stream.run.map (·.wrote) = some wrote))
    (fun _ e => by
      simp only [Bool.and_eq_true, decide_eq_true_eq] at e
      exact ⟨goes_of e.1, e.2⟩) (by decide +kernel)

/-- Another sender waits for channel 1 of core zero's neighbour. -/
def behindAnother : State := (sending 0x4000100 8 0x100000010000).onCoreAt next fun k =>
  { k with chans := k.chans.set 1 { k.chan 1 with queue := [(quay, 0)] } }

/-- Record 3 spans two devices, and core zero sends to device 1 of them. -/
def sendingAway : State :=
  let s := sending 0x4000100 8 0x120100010000
  { s with dm := s.dm.write 0x318 (leBytes 8 (0x1F1F0000 + 1)), regs := [(.domid, 0x100)] }

/-- SendResults: a channel that takes no message, a sender behind another, another device. -/
theorem meets_other_sends : ∀ many : Bool,
    (let s := sending 0x4000100 8 0x300000010000
     let t := s.moved64 (hx 5)
     Goes .ch (if many then 0x02 else 0x01) (hx 5) s ∧ s.sl.wait = none ∧ ¬ sendWordBad t ∧ s.destCore t = some next ∧
       (∃ pay, sendPayload s many = .ok pay) ∧ Settled s ∧ s.leavesDevice t = false ∧
       s.accepts ((s.coreAt next).chan 3) (s.record?.getD 0) s.party = false) ∧
    (let s := behindAnother
     let t := s.moved64 (hx 5)
     Goes .ch (if many then 0x02 else 0x01) (hx 5) s ∧ s.sl.wait = none ∧ ¬ sendWordBad t ∧ s.destCore t = some next ∧
       (∃ pay, sendPayload s many = .ok pay) ∧ Settled s ∧ s.leavesDevice t = false ∧ (s.coreAt next).takesFor s.record? = true ∧
       s.accepts ((s.coreAt next).chan 1) (s.record?.getD 0) s.party = true ∧ ((s.coreAt next).chan 1).queue ≠ [] ∧
       ((s.coreAt next).chan 1).queue.head? ≠ some (me s) ∧ s.untraced ∧ MayWait s) ∧
    (let s := sendingAway
     let t := s.moved64 (hx 5)
     Goes .ch (if many then 0x02 else 0x01) (hx 5) s ∧ s.sl.wait = none ∧ ¬ sendWordBad t ∧ (s.destCore t).isSome = true ∧
       (∃ pay, sendPayload s many = .ok pay) ∧ Settled s ∧ s.record? = some 3 ∧ s.leavesDevice t = true ∧ s.untraced ∧ MayWait s) := by
  intro many
  refine ⟨⟨goes_of ?_, ?_, @of_decide_eq_false _ (sendWordBadDecided _) ?_, ?_, ok_of ?_, settled_of ?_, ?_⟩,
    ⟨goes_of ?_, ?_, @of_decide_eq_false _ (sendWordBadDecided _) ?_, ?_, ok_of ?_, settled_of ?_, ?_, ?_, ?_, ?_, ?_, (patient_of ?_).1,
      (patient_of ?_).2.1⟩,
    goes_of ?_, ?_, @of_decide_eq_false _ (sendWordBadDecided _) ?_, ?_, ok_of ?_, settled_of ?_, ?_, ?_, (patient_of ?_).1,
      (patient_of ?_).2.1⟩ <;>
    cases many <;> decide +kernel

/-- ChannelResults: `unmatch` of an entry that a message has matched. -/
theorem meets_unmatch : let s := (receiving 0 0 2).onCore fun k =>
      { k with chans := k.chans.set 6 (chanOf 1 .arrived (some (2, ⟨6, 0x4003, 7⟩))), matchTab := k.matchTab.set 2 (some ⟨6, 0x4003, 7⟩) }
    Goes .ch 0x07 (hx 5) s ∧ (s.moved64 (hx 5)).toNat = 2 ∧ (∀ c : Fin 16, s.core.chans[c].recvq = []) ∧
      s.core.matchTab[Fin.ofNat 16 2] = some ⟨6, 0x4003, 7⟩ := by
  refine ⟨goes_of ?_, ?_⟩ <;> decide +kernel

/-- Helper 0 has ended in slot 2 of core zero; a store of its waits. -/
def joining : State :=
  (helping 0 0).onCore fun k =>
    { k.onSlot 2 fun t => { t with sb := [⟨.core coreZero 0x80, [1, 2], none, false, 0x4000080, false⟩] } with
      helpers := k.helpers.set 0 ⟨true, false, some 2, 77⟩ }

/-- ActivationResults: `hjoin` of a helper whose stores wait; `tend` of a slot with a good image. -/
theorem meets_joining :
    (let s := joining
     s.sl.wait = none ∧ Goes .sy 0x08 (hx 5) s ∧ s.core.cur = 0 ∧ (s.moved64 (hx 5)).toNat = 0 ∧ s.core.helpers[(0 : Fin 10)].held = true ∧
       s.core.helpers[(0 : Fin 10)].live = false ∧ s.core.helpers[(0 : Fin 10)].slot = some 2 ∧ (s.core.slot 2).sb ≠ []) ∧
    (aside 0 77).sl.badImage = none ∧
    (let s := (resting 77).onCore fun k => k.onSlot 2 fun t => { t with run := .ready }
     Goes .sy 0x09 (hx 5) s ∧ s.sl.kind ≠ 3 ∧ s.sl.badImage = none ∧ s.record? = some 3 ∧ s.recState 3 = 2 ∧
       (2 : Fin 4) ≠ s.core.cur ∧ s.core.slots[(2 : Fin 4)].occupied = true) := by
  refine ⟨⟨?_, goes_of ?_, ?_⟩, ?_, goes_of ?_, ?_⟩ <;> decide +kernel

/-- SystemResults: a fence of a slot with a store that waits; flushes of lines in and out of the range, in cores and in a cluster's cache; `launch`
with the front end set up and with a part of it zero. -/
theorem meets_more_system :
    (let s := (fronting coreZero 0 64 0 0x1000).onSl fun t => { t with sb := [⟨.core coreZero 0x80, [1, 2], none, false, 0x4000080, false⟩] }
     (∀ r ∈ systemFenceTable, Goes .sy r.1 (hx 5) s) ∧ s.pushes = [] ∧ s.pulls = [] ∧ s.msgs = [] ∧ s.emits = [] ∧ s.sl.sb ≠ []) ∧
    (let s := { (fronting coreZero 0 64 0 0x1000).onCore (fun k => { k with icache := [⟨1, 0x1000, []⟩, ⟨1, 0x1040, []⟩] }) with
       ccache := [(0, [⟨1, 0x1000, []⟩]), (1, [⟨1, 0x1000, []⟩])] }
     (∀ r ∈ flushTable, Goes .sy r.1 (hx 5) s) ∧ s.asid = 1) ∧
    (let s := fronting coreZero 0 0 0 3
     Goes .sy 0x0B (hx 5) s ∧ s.feSet = true ∧ { s with regs := [(.fepool, 0x100000), (.feqt, 0x40000), (.qtail 0, 2)] }.feSet = false) ∧
    (let s := fronting harbour 0 (2 ^ 32) 0 0
     Goes .sy 0x40 (hx 5) s ∧ s.coreId.kind = .harbour ∧ 2 ^ 32 ≤ (s.lat .sy).a.toNat) := by
  refine ⟨⟨every (p := fun r => goes .sy r.1 (hx 5)
      ((fronting coreZero 0 64 0 0x1000).onSl fun t => { t with sb := [⟨.core coreZero 0x80, [1, 2], none, false, 0x4000080, false⟩] }))
      (fun _ e => goes_of e) ?_, ?_⟩, ⟨every (p := fun r => goes .sy r.1 (hx 5)
      { (fronting coreZero 0 64 0 0x1000).onCore (fun k => { k with icache := [⟨1, 0x1000, []⟩, ⟨1, 0x1040, []⟩] }) with
        ccache := [(0, [⟨1, 0x1000, []⟩]), (1, [⟨1, 0x1000, []⟩])] }) (fun _ e => goes_of e) ?_, ?_⟩,
    ⟨goes_of ?_, ?_⟩, goes_of ?_, ?_⟩ <;> decide +kernel

/-- Core zero's emit beside a request for a credit. -/
def queuedEmit (who : CoreId) : State :=
  let s := emits 8 1 0
  { s with hampers := [(0, { s.hamper 0 with requests := [(0, who, 0)] })] }

/-- EmitResults and KeyedUnitResults: the slot's own request is the first, and another's; a drain whose spilled keys can be read; an image that is
good. -/
theorem meets_more_keyed :
    (∀ who ∈ [coreZero, next], let s := queuedEmit who
      Goes .ks 0x03 (hx 5) s ∧ s.sl.wait = none ∧ Settled s ∧ look 0 (s.hamper 0).credits 0 = 1 ∧ (s.hamper 0).waiter 0 = some (who, 0) ∧
        me s = (coreZero, 0) ∧ s.untraced ∧ MayWait s) ∧
    (operands (keyed Hamper.empty) .ks 0x8005 0 0 0).spillLost 3 0 = false ∧ ∀ retire : Bool, (coroutine retire 0 0).sl.badImage = none := by
  refine ⟨every (p := fun who => let s := queuedEmit who
      patient s && goes .ks 0x03 (hx 5) s && settled s && decide (look 0 (s.hamper 0).credits 0 = 1 ∧ (s.hamper 0).waiter 0 = some (who, 0) ∧
        me s = (coreZero, 0))) (fun _ e => ?a) ?_, ?_, ?_⟩
  case a =>
    simp only [Bool.and_eq_true, decide_eq_true_eq] at e
    obtain ⟨k1, k2, k3⟩ := patient_of e.1.1.1
    exact ⟨goes_of e.1.1.2, k3, settled_of e.1.2, e.2.1, e.2.2.1, e.2.2.2, k1, k2⟩
  all_goals decide +kernel

end Sys2Proof.Tests
end

