-- ==== Sys2Proof/Tests/Slice0.lean ====
section
/-! SUPPORT. Tests: words written out from the spec's encodings, ill-formed terms that the check refuses, small steps on the spec's worked examples. -/

set_option autoImplicit false
set_option Elab.async false

namespace Sys2Proof.Tests

open Sys2Proof.Machine Sys2Proof.Claims

/-! ## The word of every operation: `x5` moved to its trigger port, always taken, last of its bundle (R80, R83, R87) -/

theorem test_words_ia_0 :
    ([
      0x820C0501, 0x820C0502, 0x820C0503, 0x820C0504, 0x820C0505, 0x820C0506, 0x820C0507, 0x820C0508, 0x820C0509, 0x820C050A,
      0x820C050B, 0x820C050C, 0x820C050D, 0x820C050E, 0x820C050F, 0x820C0510, 0x820C0511, 0x820C0512, 0x820C0513, 0x820C0514,
      0x820C0515, 0x820C0516, 0x820C0517, 0x820C0518] : List HWord).map (fun w => decodeFirst [w]) = [
      Instr.iaAdd (hx 5), Instr.iaSub (hx 5), Instr.iaAnd (hx 5), Instr.iaOr (hx 5), Instr.iaXor (hx 5), Instr.iaAndn (hx 5),
      Instr.iaSll (hx 5), Instr.iaSrl (hx 5), Instr.iaSra (hx 5), Instr.iaRol (hx 5), Instr.iaRor (hx 5), Instr.iaMin (hx 5),
      Instr.iaMax (hx 5), Instr.iaMinu (hx 5), Instr.iaMaxu (hx 5), Instr.iaCeq (hx 5), Instr.iaCne (hx 5), Instr.iaClt (hx 5),
      Instr.iaCltu (hx 5), Instr.iaCge (hx 5), Instr.iaCgeu (hx 5), Instr.iaSel (hx 5), Instr.iaPopc (hx 5), Instr.iaClz (hx 5)].map
      fun i => some (i, []) := by
  rfl

theorem test_words_ia_1 :
    ([
      0x820C0519, 0x820C051A, 0x820C051B, 0x820C051C, 0x820C0520, 0x820C0521, 0x820C0522, 0x820C0523, 0x820C0524, 0x820C0525,
      0x820C0528, 0x820C0529, 0x820C052A, 0x820C052B, 0x820C052C] : List HWord).map (fun w => decodeFirst [w]) = [
      Instr.iaCtz (hx 5), Instr.iaExt (hx 5), Instr.iaExtu (hx 5), Instr.iaIns (hx 5), Instr.iaSxb (hx 5), Instr.iaSxh (hx 5),
      Instr.iaSxw (hx 5), Instr.iaZxb (hx 5), Instr.iaZxh (hx 5), Instr.iaZxw (hx 5), Instr.iaAddw (hx 5), Instr.iaSubw (hx 5),
      Instr.iaSllw (hx 5), Instr.iaSrlw (hx 5), Instr.iaSraw (hx 5)].map
      fun i => some (i, []) := by
  rfl

theorem test_words_ib_0 :
    ([
      0x822C0501, 0x822C0502, 0x822C0503, 0x822C0504, 0x822C0505, 0x822C0506, 0x822C0507, 0x822C0508, 0x822C0509, 0x822C050A,
      0x822C050B, 0x822C050C, 0x822C050D, 0x822C050E, 0x822C050F, 0x822C0510, 0x822C0511, 0x822C0512, 0x822C0513, 0x822C0514,
      0x822C0515, 0x822C0516, 0x822C0517, 0x822C0518] : List HWord).map (fun w => decodeFirst [w]) = [
      Instr.ibAdd (hx 5), Instr.ibSub (hx 5), Instr.ibAnd (hx 5), Instr.ibOr (hx 5), Instr.ibXor (hx 5), Instr.ibAndn (hx 5),
      Instr.ibSll (hx 5), Instr.ibSrl (hx 5), Instr.ibSra (hx 5), Instr.ibRol (hx 5), Instr.ibRor (hx 5), Instr.ibMin (hx 5),
      Instr.ibMax (hx 5), Instr.ibMinu (hx 5), Instr.ibMaxu (hx 5), Instr.ibCeq (hx 5), Instr.ibCne (hx 5), Instr.ibClt (hx 5),
      Instr.ibCltu (hx 5), Instr.ibCge (hx 5), Instr.ibCgeu (hx 5), Instr.ibSel (hx 5), Instr.ibPopc (hx 5), Instr.ibClz (hx 5)].map
      fun i => some (i, []) := by
  rfl

theorem test_words_ib_1 :
    ([
      0x822C0519, 0x822C051A, 0x822C051B, 0x822C051C, 0x822C0520, 0x822C0521, 0x822C0522, 0x822C0523, 0x822C0524, 0x822C0525,
      0x822C0528, 0x822C0529, 0x822C052A, 0x822C052B, 0x822C052C] : List HWord).map (fun w => decodeFirst [w]) = [
      Instr.ibCtz (hx 5), Instr.ibExt (hx 5), Instr.ibExtu (hx 5), Instr.ibIns (hx 5), Instr.ibSxb (hx 5), Instr.ibSxh (hx 5),
      Instr.ibSxw (hx 5), Instr.ibZxb (hx 5), Instr.ibZxh (hx 5), Instr.ibZxw (hx 5), Instr.ibAddw (hx 5), Instr.ibSubw (hx 5),
      Instr.ibSllw (hx 5), Instr.ibSrlw (hx 5), Instr.ibSraw (hx 5)].map
      fun i => some (i, []) := by
  rfl

theorem test_words_ag_0 :
    ([
      0x824C0501, 0x824C0502, 0x824C0503, 0x824C0504, 0x824C0505, 0x824C0506, 0x824C0507, 0x824C0508, 0x824C0509, 0x824C050A] : List HWord).map (fun w => decodeFirst [w]) = [
      Instr.agPadd (hx 5), Instr.agPsub (hx 5), Instr.agPtag (hx 5), Instr.agPfmt (hx 5), Instr.agPblk (hx 5), Instr.agPclr (hx 5),
      Instr.agPidx (hx 5), Instr.agCadr (hx 5), Instr.agLcl (hx 5), Instr.agCoord (hx 5)].map
      fun i => some (i, []) := by
  rfl

theorem test_words_mu_0 :
    ([
      0x826C0501, 0x826C0502, 0x826C0503, 0x826C0504, 0x826C0505, 0x826C0508, 0x826C0509, 0x826C050A, 0x826C050B, 0x826C050C,
      0x826C050D] : List HWord).map (fun w => decodeFirst [w]) = [
      Instr.muMul (hx 5), Instr.muMulh (hx 5), Instr.muMulhu (hx 5), Instr.muMulhsu (hx 5), Instr.muMulw (hx 5), Instr.muDiv (hx 5),
      Instr.muDivu (hx 5), Instr.muRem (hx 5), Instr.muRemu (hx 5), Instr.muDivw (hx 5), Instr.muRemw (hx 5)].map
      fun i => some (i, []) := by
  rfl

theorem test_words_cf_0 :
    ([
      0x828C0501, 0x828C0502, 0x828C0503, 0x828C0508, 0x828C0509, 0x828C050A, 0x828C050F] : List HWord).map (fun w => decodeFirst [w]) = [
      Instr.cfBr (hx 5), Instr.cfJmp (hx 5), Instr.cfCall (hx 5), Instr.cfLoop0 (hx 5), Instr.cfLoop1 (hx 5), Instr.cfRep (hx 5),
      Instr.cfBrk (hx 5)].map
      fun i => some (i, []) := by
  rfl

theorem test_words_ls_0 :
    ([
      0x82AC0501, 0x82AC0502, 0x82AC0503, 0x82AC0504, 0x82AC0505, 0x82AC0506, 0x82AC0507, 0x82AC0509, 0x82AC050A, 0x82AC050B,
      0x82AC050C, 0x82AC0510, 0x82AC0511, 0x82AC0512, 0x82AC0513, 0x82AC0514, 0x82AC0515, 0x82AC0518, 0x82AC0519, 0x82AC051A,
      0x82AC051B, 0x82AC051C, 0x82AC051D, 0x82AC0520] : List HWord).map (fun w => decodeFirst [w]) = [
      Instr.lsLd8 (hx 5), Instr.lsLd8u (hx 5), Instr.lsLd16 (hx 5), Instr.lsLd16u (hx 5), Instr.lsLd32 (hx 5), Instr.lsLd32u (hx 5),
      Instr.lsLd64 (hx 5), Instr.lsSt8 (hx 5), Instr.lsSt16 (hx 5), Instr.lsSt32 (hx 5), Instr.lsSt64 (hx 5), Instr.lsLdacqCore (hx 5),
      Instr.lsLdacqCluster (hx 5), Instr.lsLdacqDie (hx 5), Instr.lsLdacqDevice (hx 5), Instr.lsLdacqDomain (hx 5),
      Instr.lsLdacqSystem (hx 5), Instr.lsStrelCore (hx 5), Instr.lsStrelCluster (hx 5), Instr.lsStrelDie (hx 5),
      Instr.lsStrelDevice (hx 5), Instr.lsStrelDomain (hx 5), Instr.lsStrelSystem (hx 5), Instr.lsLla (hx 5)].map
      fun i => some (i, []) := by
  rfl

theorem test_words_ls_1 :
    ([
      0x82AC0521, 0x82AC0522, 0x82AC0523, 0x82AC0524, 0x82AC0525, 0x82AC0526, 0x82AC0527, 0x82AC0528, 0x82AC0529, 0x82AC052A,
      0x82AC0530, 0x82AC0531, 0x82AC0532, 0x82AC0540, 0x82AC0541, 0x82AC0542, 0x82AC0543] : List HWord).map (fun w => decodeFirst [w]) = [
      Instr.lsSsu (hx 5), Instr.lsCas (hx 5), Instr.lsSwap (hx 5), Instr.lsAadd (hx 5), Instr.lsAand (hx 5), Instr.lsAor (hx 5),
      Instr.lsAmin (hx 5), Instr.lsAmax (hx 5), Instr.lsAminu (hx 5), Instr.lsAmaxu (hx 5), Instr.lsFget (hx 5), Instr.lsFput (hx 5),
      Instr.lsFclr (hx 5), Instr.lsBwait (hx 5), Instr.lsBadv (hx 5), Instr.lsBpush (hx 5), Instr.lsBstat (hx 5)].map
      fun i => some (i, []) := by
  rfl

theorem test_words_vp_0 :
    ([
      0x82CC0501, 0x82CC0502, 0x82CC0503, 0x82CC0504, 0x82CC0505, 0x82CC0506, 0x82CC0507, 0x82CC0508, 0x82CC0510, 0x82CC0511,
      0x82CC0512, 0x82CC0513, 0x82CC0514, 0x82CC0515, 0x82CC0516, 0x82CC0517, 0x82CC0518, 0x82CC0519, 0x82CC051A, 0x82CC0520,
      0x82CC0521, 0x82CC0522, 0x82CC0523, 0x82CC0524] : List HWord).map (fun w => decodeFirst [w]) = [
      Instr.vpVld (hx 5), Instr.vpVldx (hx 5), Instr.vpVst (hx 5), Instr.vpVstx (hx 5), Instr.vpVstm (hx 5), Instr.vpBcast (hx 5),
      Instr.vpDq (hx 5), Instr.vpVldb (hx 5), Instr.vpAdd (hx 5), Instr.vpSub (hx 5), Instr.vpMul (hx 5), Instr.vpFma (hx 5),
      Instr.vpFnma (hx 5), Instr.vpMin (hx 5), Instr.vpMax (hx 5), Instr.vpMinu (hx 5), Instr.vpMaxu (hx 5), Instr.vpAbs (hx 5),
      Instr.vpNeg (hx 5), Instr.vpCeq (hx 5), Instr.vpCne (hx 5), Instr.vpClt (hx 5), Instr.vpCle (hx 5), Instr.vpCltu (hx 5)].map
      fun i => some (i, []) := by
  rfl

theorem test_words_vp_1 :
    ([
      0x82CC0525, 0x82CC0526, 0x82CC0527, 0x82CC0528, 0x82CC0529, 0x82CC052A, 0x82CC052B, 0x82CC052C, 0x82CC052D, 0x82CC0530,
      0x82CC0531, 0x82CC0532, 0x82CC0533, 0x82CC0534, 0x82CC0537, 0x82CC0538, 0x82CC0539, 0x82CC053A, 0x82CC053B, 0x82CC053C,
      0x82CC053F, 0x82CC0540, 0x82CC0541, 0x82CC0542] : List HWord).map (fun w => decodeFirst [w]) = [
      Instr.vpCleu (hx 5), Instr.vpSel (hx 5), Instr.vpAnd (hx 5), Instr.vpOr (hx 5), Instr.vpXor (hx 5), Instr.vpAndn (hx 5),
      Instr.vpSll (hx 5), Instr.vpSrl (hx 5), Instr.vpSra (hx 5), Instr.vpCvtRne (hx 5), Instr.vpCvtRtz (hx 5), Instr.vpCvtRup (hx 5),
      Instr.vpCvtRdn (hx 5), Instr.vpCvtRsr (hx 5), Instr.vpCvtDyn (hx 5), Instr.vpCvtSatRne (hx 5), Instr.vpCvtSatRtz (hx 5),
      Instr.vpCvtSatRup (hx 5), Instr.vpCvtSatRdn (hx 5), Instr.vpCvtSatRsr (hx 5), Instr.vpCvtSatDyn (hx 5), Instr.vpRadd (hx 5),
      Instr.vpRmin (hx 5), Instr.vpRmax (hx 5)].map
      fun i => some (i, []) := by
  rfl

theorem test_words_vp_2 :
    ([
      0x82CC0543, 0x82CC0544, 0x82CC0548, 0x82CC0549, 0x82CC054A, 0x82CC054B, 0x82CC054C, 0x82CC054D, 0x82CC054E, 0x82CC054F,
      0x82CC0550, 0x82CC0551, 0x82CC0552, 0x82CC0554, 0x82CC0555, 0x82CC0556, 0x82CC0557, 0x82CC0558, 0x82CC0559] : List HWord).map (fun w => decodeFirst [w]) = [
      Instr.vpRminu (hx 5), Instr.vpRmaxu (hx 5), Instr.vpPerm (hx 5), Instr.vpShuf (hx 5), Instr.vpZiplo (hx 5), Instr.vpZiphi (hx 5),
      Instr.vpUnzipe (hx 5), Instr.vpUnzipo (hx 5), Instr.vpExt (hx 5), Instr.vpIns (hx 5), Instr.vpDot8 (hx 5), Instr.vpDot8u (hx 5),
      Instr.vpDot8su (hx 5), Instr.vpExp2 (hx 5), Instr.vpLog2 (hx 5), Instr.vpRcp (hx 5), Instr.vpRsqrt (hx 5), Instr.vpNrcp (hx 5),
      Instr.vpNrsq (hx 5)].map
      fun i => some (i, []) := by
  rfl

theorem test_words_mx_0 :
    ([
      0x82EC0501, 0x82EC0502, 0x82EC0503, 0x82EC0504, 0x82EC0505, 0x82EC0506, 0x82EC0507, 0x82EC0508, 0x82EC0509] : List HWord).map (fun w => decodeFirst [w]) = [
      Instr.mxMmac (hx 5), Instr.mxMlut (hx 5), Instr.mxMsemi (hx 5), Instr.mxMzero (hx 5), Instr.mxMload (hx 5), Instr.mxMdrain (hx 5),
      Instr.mxMscale (hx 5), Instr.mxMbar (hx 5), Instr.mxMstat (hx 5)].map
      fun i => some (i, []) := by
  rfl

theorem test_words_ch_0 :
    ([
      0x830C0501, 0x830C0502, 0x830C0503, 0x830C0504, 0x830C0505, 0x830C0506, 0x830C0507] : List HWord).map (fun w => decodeFirst [w]) = [
      Instr.chSend (hx 5), Instr.chSendm (hx 5), Instr.chRecv (hx 5), Instr.chPoll (hx 5), Instr.chFree (hx 5), Instr.chMatch (hx 5),
      Instr.chUnmatch (hx 5)].map
      fun i => some (i, []) := by
  rfl

theorem test_words_ks_0 :
    ([
      0x832C0501, 0x832C0502, 0x832C0503, 0x832C0504, 0x832C0505] : List HWord).map (fun w => decodeFirst [w]) = [
      Instr.ksYield (hx 5), Instr.ksEnd (hx 5), Instr.ksEmit (hx 5), Instr.ksDrain (hx 5), Instr.ksStat (hx 5)].map
      fun i => some (i, []) := by
  rfl

theorem test_words_sy_0 :
    ([
      0x834C0501, 0x834C0502, 0x834C0503, 0x834C0504, 0x834C0505, 0x834C0506, 0x834C0507, 0x834C0508, 0x834C0509, 0x834C050A,
      0x834C050B, 0x834C050C, 0x834C0510, 0x834C0511, 0x834C0512, 0x834C0513, 0x834C0514, 0x834C0515, 0x834C0520, 0x834C0521,
      0x834C0522, 0x834C0523, 0x834C0524, 0x834C0525] : List HWord).map (fun w => decodeFirst [w]) = [
      Instr.sySlack (hx 5), Instr.syBar (hx 5), Instr.syWait (hx 5), Instr.syCwait (hx 5), Instr.syCinc (hx 5), Instr.syYield (hx 5),
      Instr.syHstart (hx 5), Instr.syHjoin (hx 5), Instr.syTend (hx 5), Instr.syDreq (hx 5), Instr.syLaunch (hx 5),
      Instr.syLpatch (hx 5), Instr.syFenceCore (hx 5), Instr.syFenceCluster (hx 5), Instr.syFenceDie (hx 5), Instr.syFenceDevice (hx 5),
      Instr.syFenceDomain (hx 5), Instr.syFenceSystem (hx 5), Instr.syCsrr (hx 5), Instr.syCsrw (hx 5), Instr.syCsrs (hx 5),
      Instr.syCsrc (hx 5), Instr.syTrap (hx 5), Instr.syTret (hx 5)].map
      fun i => some (i, []) := by
  rfl

theorem test_words_sy_1 :
    ([
      0x834C0530, 0x834C0531, 0x834C0532, 0x834C0533, 0x834C0540, 0x834C0541] : List HWord).map (fun w => decodeFirst [w]) = [
      Instr.syIflushCore (hx 5), Instr.syIflushCluster (hx 5), Instr.syIflushDie (hx 5), Instr.syIflushDevice (hx 5),
      Instr.sySubmit (hx 5), Instr.syHalt (hx 5)].map
      fun i => some (i, []) := by
  rfl

theorem test_words_qm_0 :
    ([
      0x836C0501, 0x836C0502, 0x836C0503, 0x836C0504, 0x836C0505, 0x836C0506, 0x836C0507, 0x836C0509, 0x836C050A, 0x836C050B,
      0x836C050C, 0x836C0510, 0x836C0511, 0x836C0512, 0x836C0513, 0x836C0514, 0x836C0515, 0x836C0518, 0x836C0519, 0x836C051A,
      0x836C051B, 0x836C051C, 0x836C051D, 0x836C0522] : List HWord).map (fun w => decodeFirst [w]) = [
      Instr.qmLd8 (hx 5), Instr.qmLd8u (hx 5), Instr.qmLd16 (hx 5), Instr.qmLd16u (hx 5), Instr.qmLd32 (hx 5), Instr.qmLd32u (hx 5),
      Instr.qmLd64 (hx 5), Instr.qmSt8 (hx 5), Instr.qmSt16 (hx 5), Instr.qmSt32 (hx 5), Instr.qmSt64 (hx 5), Instr.qmLdacqCore (hx 5),
      Instr.qmLdacqCluster (hx 5), Instr.qmLdacqDie (hx 5), Instr.qmLdacqDevice (hx 5), Instr.qmLdacqDomain (hx 5),
      Instr.qmLdacqSystem (hx 5), Instr.qmStrelCore (hx 5), Instr.qmStrelCluster (hx 5), Instr.qmStrelDie (hx 5),
      Instr.qmStrelDevice (hx 5), Instr.qmStrelDomain (hx 5), Instr.qmStrelSystem (hx 5), Instr.qmCas (hx 5)].map
      fun i => some (i, []) := by
  rfl

theorem test_words_qm_1 :
    ([
      0x836C0523, 0x836C0524, 0x836C0525, 0x836C0526, 0x836C0527, 0x836C0528, 0x836C0529, 0x836C052A, 0x836C0530, 0x836C0531,
      0x836C0540, 0x836C0541, 0x836C0542, 0x836C0543, 0x836C0544, 0x836C0545] : List HWord).map (fun w => decodeFirst [w]) = [
      Instr.qmSwap (hx 5), Instr.qmAadd (hx 5), Instr.qmAand (hx 5), Instr.qmAor (hx 5), Instr.qmAmin (hx 5), Instr.qmAmax (hx 5),
      Instr.qmAminu (hx 5), Instr.qmAmaxu (hx 5), Instr.qmPush (hx 5), Instr.qmPull (hx 5), Instr.qmFenceCore (hx 5),
      Instr.qmFenceCluster (hx 5), Instr.qmFenceDie (hx 5), Instr.qmFenceDevice (hx 5), Instr.qmFenceDomain (hx 5),
      Instr.qmFenceSystem (hx 5)].map
      fun i => some (i, []) := by
  rfl

theorem test_words_qs_0 :
    ([
      0x838C0501, 0x838C0502, 0x838C0503] : List HWord).map (fun w => decodeFirst [w]) = [
      Instr.qsRun (hx 5), Instr.qsStat (hx 5), Instr.qsCancel (hx 5)].map
      fun i => some (i, []) := by
  rfl

theorem test_words_db_0 :
    ([
      0x83AC0501, 0x83AC0502, 0x83AC0503, 0x83AC0504] : List HWord).map (fun w => decodeFirst [w]) = [
      Instr.dbCyc (hx 5), Instr.dbPerf (hx 5), Instr.dbPsel (hx 5), Instr.dbMark (hx 5)].map
      fun i => some (i, []) := by
  rfl

/-! ## Ill-formed terms, one for each check -/

theorem test_ill_formed_0 : ∀ i ∈ [
      Instr.move ⟨true, true, 0, .x 5⟩ (.x 1),
      Instr.move ⟨true, false, 0, .port .ia .t⟩ (.x 1),
      Instr.move (hx 5) (.g 0),
      Instr.move (hx 5) (.port .ia .q),
      Instr.iaAdd ⟨true, true, 0, .x 5⟩,
      Instr.iaAdd ⟨true, false, 0, .port .ia .c⟩,
      Instr.illegalOp ⟨true, true, 0, .x 5⟩ .ia 0,
      Instr.illegalOp (hx 5) .ia 1,
      Instr.illegalMove 0 8,
      Instr.fetchLineFill 0x41,
      Instr.creditGrant 64,
      Instr.spillVictimWrite 2048,
      Instr.bucketFetch 2048,
      Instr.overflowServe 2048,
      Instr.idleTimeout 2048 0,
      Instr.idleTimeout 0 8,
      Instr.dispenserAnswer 4096 0,
      Instr.exchangeStart 4096,
      Instr.transferStart 4096,
      Instr.transferEnd 4096,
      Instr.exchangePhaseEnd 4096,
      Instr.slackRelease 4096,
      Instr.recordPlace 4096 [] [],
      Instr.jobResume 4096 [] [],
      Instr.timer 4096,
      Instr.undertowCandidate 10,
      Instr.undertowConfirm 10,
      Instr.inboundWrite 2 (.bar2 0) [] false false 0 false,
      Instr.inboundWrite 0 (.bar2 (2 ^ 41)) [] false false 0 false,
      Instr.pieceLeave 2 0 0,
      Instr.pieceAck 2 0 0,
      Instr.inboundRead 2 (.bar2 0) 1 false false 0 false], i.wf = false := by
  decide +kernel

theorem test_ill_formed_1 : ∀ i ∈ [
      Instr.inboundRead 0 (.bar2 (2 ^ 41)) 1 false false 0 false,
      Instr.vfEnable 2 0,
      Instr.portLinkDown 2 false,
      Instr.hsemAcquire (.port 2) 0 0,
      Instr.hsemAcquire .harbour 64 0,
      Instr.hsemRelease (.port 2) 0 0,
      Instr.hsemRelease .harbour 64 0,
      Instr.devrst (.port 2),
      Instr.drtailWrite 7 0 0,
      Instr.drtailWrite 10 0 0,
      Instr.drtailWrite 8 64 0,
      Instr.drcfgWrite 7 0 0,
      Instr.drcfgWrite 10 0 0,
      Instr.drcfgWrite 8 64 0,
      Instr.dmaAbort 7 0,
      Instr.dmaAbort 10 0,
      Instr.dmaAbort 8 64,
      Instr.dmaResume 7 0,
      Instr.dmaResume 10 0,
      Instr.dmaResume 8 64,
      Instr.dmaDescriptorStart 7 0,
      Instr.dmaDescriptorStart 10 0,
      Instr.dmaDescriptorStart 8 64,
      Instr.dmaDescriptorDone 7 0,
      Instr.dmaDescriptorDone 10 0,
      Instr.dmaDescriptorDone 8 64,
      Instr.qtailWrite 4096 0,
      Instr.qctlReset 4096,
      Instr.queueResident 7,
      Instr.queueResident 10,
      Instr.queueSlotYield 4096,
      Instr.pktNoop 4096], i.wf = false := by
  decide +kernel

theorem test_ill_formed_2 : ∀ i ∈ [
      Instr.pktLaunch 4096,
      Instr.pktFence 4096,
      Instr.pktWait 4096,
      Instr.pktSignalStore 4096,
      Instr.pktSignalHost 4096,
      Instr.pktLeg 4096,
      Instr.packetComplete 4096,
      Instr.legFire 4096 0,
      Instr.legFire 0 1024,
      Instr.mbResync 2 0,
      Instr.mbKill 2 0,
      Instr.mbKill 0 4096,
      Instr.mbKillDump 2 0,
      Instr.mbKillDump 0 4096,
      Instr.mbBadCommand 2,
      Instr.leaseLapse 10,
      Instr.voteRequest 10 [],
      Instr.tlbWalk 10 0 0 0 0 false 0,
      Instr.vfctlReset 64,
      Instr.vfResetDrained 64,
      Instr.flitReceive 18 0 false false false,
      Instr.shumbiviaPortDown 18,
      Instr.keyRollover 18 [],
      Instr.keyRetire 18,
      Instr.crtailWrite 7 0,
      Instr.crtailWrite 10 0,
      Instr.crAbort 7,
      Instr.crAbort 10,
      Instr.crResume 7,
      Instr.crResume 10,
      Instr.collectiveStart 7,
      Instr.collectiveStart 10], i.wf = false := by
  decide +kernel

theorem test_ill_formed_3 : ∀ i ∈ [
      Instr.collectiveComplete 7 [],
      Instr.collectiveComplete 10 [],
      Instr.dgrpResume 64,
      Instr.frzctlAssert 4096,
      Instr.frzctlRelease 4096,
      Instr.bootctlRecovery (.port 2),
      Instr.bootctlMain (.port 2),
      Instr.bootctlRaiseSvn (.port 2),
      Instr.bootctlFuseOwner (.port 2) 0 0,
      Instr.bootctlFuseOwner .harbour 8 0,
      Instr.bootctlRevokeOwner (.port 2) 0,
      Instr.bootctlRevokeOwner .harbour 8,
      Instr.bootctlSetOwnmode (.port 2) 0,
      Instr.bootctlSetOwnmode .harbour 4,
      Instr.islandClockChange 528,
      Instr.thermalTrip 528 0,
      Instr.eccError ⟨10, .computeCore, 0, 0, 0⟩ false,
      Instr.registerWrite .pcap 0 (.port 2),
      Instr.hostLinkUp 2 true,
      Instr.shumbiviaPortUp 18 false], i.wf = false := by
  decide +kernel

/-! ## Words with their immediates, and words that decode to no operation -/

/-- Lines 1 and 2 of the worked example after R22, and line 2 of the one after R130. -/
theorem test_words_worked :
    decodeFirst [0x02020500, 0x820E0701] = some (.move ⟨false, false, 0, .imm8 5⟩ (.port .ia .a), [0x820E0701]) ∧
    decodeFirst [0x820E0701] = some (.iaAdd ⟨true, false, 0, .imm8 7⟩, []) ∧
    decodeFirst [0x0283FE00, 0x0003040A] = some (.move ⟨false, false, 0, .imm32 0x3040A⟩ (.port .cf .a), []) ∧
    decodeFirst [0x828FFE0A, 0x00030001] = some (.cfRep ⟨true, false, 0, .imm32 0x30001⟩, []) ∧
    decodeFirst [0xD28EE801] = some (.cfBr ⟨true, true, 1, .imm8 0xE8⟩, []) ∧
    decodeFirst [0xFFFFFFFF] = some (.linePad, []) := by
  refine ⟨?_, ?_, ?_, ?_, ?_, ?_⟩ <;> rfl

/-- Words that R92 calls illegal, with their reasons, and an opcode that no unit assigns. -/
theorem test_words_illegal :
    decodeFirst [0x80104D00] = some (.illegalMove 0x80104D00 4, []) ∧ decodeFirst [0x40000000] = some (.illegalMove 0x40000000 6, []) ∧
    decodeFirst [0x80000005] = some (.illegalMove 0x80000005 7, []) ∧ decodeFirst [0x80048300] = some (.illegalMove 0x80048300 9, []) ∧
    decodeFirst [0x8004F400] = some (.illegalMove 0x8004F400 4, []) ∧
    decodeFirst [0x820E0000] = some (.illegalOp ⟨true, false, 0, .imm8 0⟩ .ia 0, []) := by
  refine ⟨?_, ?_, ?_, ?_, ?_, ?_⟩ <;> rfl

/-! ## One step of an instruction, with the results that the spec's worked examples give -/

/-- A unit's result port after an instruction. -/
def resultOf (u : FU) (o : Out) : Option Word :=
  match o with
  | .next t => some (t.lat u).q
  | _ => none

/-- What a unit has in flight after an instruction: the value and the latency. -/
def flightOf (u : FU) (o : Out) : Option (Word × Nat) :=
  match o with
  | .next t => (t.lat u).fly.map fun f => (f.q, f.lo)
  | _ => none

/-- The trap that an instruction took: cause and `tval`. -/
def trapOf (o : Out) : Option (Word × Word) :=
  match o with
  | .next t => some (t.sl.csr.cause, t.sl.csr.tval)
  | _ => none

/-- An operation of a unit on `.a` and x5. -/
def applied (u : FU) (f : Hdr → State → Out) (a t : Word) : Out := f (hx 5) (giving u a 0 t)

/-- Worked example after R22: 5 + 7, and 12 − 1. -/
theorem test_add_sub : resultOf .ia (applied .ia execIaAdd 5 7) = some 12 ∧ resultOf .ia (applied .ia execIaSub 12 1) = some 11 := by decide +kernel

/-- R107: `srlw` of 0xFFFF_FFFF_8000_0000 by 0 and by 1. -/
theorem test_srlw : resultOf .ia (applied .ia execIaSrlw 0xFFFFFFFF80000000 0) = some 0xFFFFFFFF80000000 ∧
    resultOf .ia (applied .ia execIaSrlw 0xFFFFFFFF80000000 1) = some 0x40000000 := by decide +kernel

/-- Worked example after R22: 23 × 3, readable after three cycles; R119: 100 / 7 and 2^63 mod 3 with their latencies. -/
theorem test_multiply_divide : flightOf .mu (applied .mu execMuMul 23 3) = some (69, 3) ∧
    flightOf .mu (applied .mu execMuDiv 100 7) = some (14, 9) ∧ flightOf .mu (applied .mu execMuRemu (2 ^ 63) 3) = some (2, 66) := by decide +kernel

/-- Worked example after R115. -/
theorem test_pidx : resultOf .ag (applied .ag execAgPidx 0x6B00000000100000 128) = some 0x6B00000000100040 ∧
    resultOf .ag (applied .ag execAgPidx 0x6B00000000100000 (-2)) = some 0x6B000000000FFFFF ∧
    resultOf .ag (applied .ag execAgPsub 0x6B00000000100040 0x4800000000100000) = some 0x40 := by decide +kernel

/-- Worked example after R115: fields of a pointer, tags, and cluster addresses. -/
theorem test_pointers : resultOf .ag (applied .ag execAgPblk 0 0x6B00000000100000) = some 64 ∧
    resultOf .ag (applied .ag execAgPfmt 0 0x6B00000000100000) = some 13 ∧
    resultOf .ag (applied .ag execAgPclr 0 0x6B00000000100000) = some 0x100000 ∧
    resultOf .ag (applied .ag execAgPtag 0x100000 0x49) = some 0x4900000000100000 ∧
    resultOf .ag (applied .ag execAgCadr 37 0x10000) = some 0x950000 ∧ resultOf .ag (applied .ag execAgLcl 0 0x2C000) = some 0x402C000 := by
  decide +kernel

/-- A value in x5 of a slot whose supervisor has a handler installed. -/
def handled (u : FU) (a t : Word) : State := (giving u a 0 t).onSl fun k => { k with csr := { k.csr with svec := 0x3001 } }

/-- Worked example after R115: FORMAT on half a byte, TAG_CARRY where the sum is 2^56 + 0x10 (R109; log 18), ACCESS beyond the scratchpad. -/
theorem test_address_traps : (trapOf (execAgPidx (hx 5) (handled .ag 0x6B00000000100000 3))).map (·.2) = some 0x6B00000000100000 ∧
    (trapOf (execAgPadd (hx 5) (handled .ag 0x48FFFFFFFFFFFFF0 0x20))).map (·.2) = some 0x48FFFFFFFFFFFFF0 ∧
    (trapOf (execAgLcl (hx 5) (handled .ag 0 0x30000))).map (·.2) = some 0x30000 := by decide +kernel

/-! ## Shared operations, on the spec's examples -/

/-- R33 and the example after R130: with the window x10 to x13 and stride 3, x10 is x10, x13, x12 and x11 in passes 0 to 3; x20 is never renamed. -/
theorem test_rename : ([0, 1, 2, 3].map fun p =>
    renameReg (BitVec.ofNat 64 (2 ^ 63 + 10 * 2 ^ 58 + 4 * 2 ^ 52 + 3 * 2 ^ 49 + p)) 10) = [10, 13, 12, 11] ∧
    renameReg (BitVec.ofNat 64 (2 ^ 63 + 10 * 2 ^ 58 + 4 * 2 ^ 52 + 3 * 2 ^ 49 + 1)) 20 = 20 := by decide +kernel

/-- R60: the four steps of the state from 0x1_F00E. -/
theorem test_lfsr : lfsrStep 0x1F00E = 0xF807 ∧ lfsrStep 0xF807 = 0xD800000000007C03 ∧ lfsrStep 0xD800000000007C03 = 0xB400000000003E01 ∧
    lfsrStep 0xB400000000003E01 = 0x8200000000001F00 := by decide +kernel

/-- R322: the homes of two neighbouring stripes on a local, a pair and an octa page. -/
theorem test_homes : stripeHome 0 6 0x123456800 = (6, 45) ∧ stripeHome 0 6 0x123457000 = (6, 46) ∧ stripeHome 1 1 0x123456800 = (3, 22) ∧
    stripeHome 1 1 0x123457000 = (2, 23) ∧ stripeHome 2 0 0x123456800 = (5, 21) ∧ stripeHome 2 0 0x123457000 = (6, 21) := by decide +kernel

/-- R502: the matrix unit of row 12 and column 8. -/
theorem test_octet : octetOf (32 * 12 + 8) = 26 := by decide

/-- R477: the sum of 2^24, 1, 1 and −2^24 by the tree is 1.0, inexact. -/
theorem test_collective : collElement 8 0 [0x4B800000, 0x3F800000, 0x3F800000, 0xCB800000] = (0x3F800000, 1) := by decide +kernel

/-- The example after R181: the estimate of 1/3, two Newton steps, and the products. -/
theorem test_reciprocal : (rcpLane ⟨0, 0, 0, 8, .rne, []⟩ 0 0x40400000 0 0).1 = 0x3EAB0000 ∧
    (fmul .f32 .rne 0 0x3F7F8000 0x3EAB0000).1 = 0x3EAAAA80 ∧ (fmul .f32 .rne 0 0x3F800020 0x3EAAAA80) = (0x3EAAAAAB, 1) := by decide +kernel

/-- R447: what the two sides of the example weigh. -/
theorem test_weights : weightOf [0, 1, 4, 5, 8] = 6 ∧ weightOf [2, 3, 6, 7, 9] = 5 := by decide +kernel

/-- The tables of the worked walk after R462. -/
def walking : State := having State.reset
  [dwAt 0x50 0x100001, dwAt 0x58 2, dwAt 0x100000 0x101001, dwAt 0x101020 0x102001, dwAt 0x1028D0 0x30A0000AF]

/-- The worked walk after R462: a leaf of 32 MiB, and the physical address; no walk for another function. -/
theorem test_walk : (match walking.walk 5 2 0x1234567890 with
      | .ok e => decide (e.size = 25 ∧ walking.pageHome e 0x1234567890 = .device 0x30A567890 0 ∧ walking.homeOf 0x30A567890 = (7, 25))
      | .error _ => false) = true ∧
    (match walking.walk 5 3 0x1234567890 with
      | .ok _ => false
      | .error e => decide (e = .access)) = true := by decide +kernel

/-- R495: runs of equal samples. -/
theorem test_runs : runsOf [0x0340000000400010, 0x0340000000400010, 0x0340000000400010, 0, 0x0020000000400231, 0x0020000000400231] =
    [(0x0340000000400010, 3), (0, 1), (0x0020000000400231, 2)] := by decide +kernel

end Sys2Proof.Tests
end

section
/-! PROOF. The canonical form of every memory is kept by every step (spec/00_scope.md R4). One lemma says it of each operation on the state, in the
order of the model's definitions, and is named after the operation: `State.MemoryForm.op` where the operation answers a state, `op_form` where it is
no operation of `State` or answers a `Res` or an `Out`, `keeps_op` for a table of opcodes, `Core.wf_op`, `Octet.wf_op` or `wf_op` where one memory is
changed. A lemma cites those of the operations that its definition calls. -/

set_option autoImplicit false
set_option Elab.async false

namespace Sys2Proof.Machine

/-! ## Forms of what an operation answers -/

/-- A trigger that completes leaves every memory in its canonical form. -/
def Res.Form : Res → Prop
  | .ok s => s.MemoryForm
  | .trap _ _ => True
  | .stall => True
  | .halt => True

/-- A step that goes on leaves every memory in its canonical form. -/
def Out.Form : Out → Prop
  | .next s => s.MemoryForm
  | .fault _ => True
  | .refused _ => True

theorem Res.Form.of_ok {r : Res} {s : State} (e : r = .ok s) (h : r.Form) : s.MemoryForm := by
  rw [e] at h
  exact h

theorem Out.Form.of_next {r : Out} {s : State} (e : r = .next s) (h : Out.Form r) : s.MemoryForm := by
  rw [e] at h
  exact h

theorem Res.Form.ite {c : Prop} [Decidable c] {a b : Res} (ha : a.Form) (hb : b.Form) : (if c then a else b).Form := by
  split
  · exact ha
  · exact hb

theorem Out.Form.ite {c : Prop} [Decidable c] {a b : Out} (ha : Out.Form a) (hb : Out.Form b) : Out.Form (if c then a else b) := by
  split
  · exact ha
  · exact hb

theorem onNext_of_next {r : Out} {f : State → State} {u : State} (h : ∀ v, r = .next v → v.MemoryForm)
    (hf : ∀ v : State, v.MemoryForm → (f v).MemoryForm) (e : onNext r f = .next u) : u.MemoryForm := by
  cases r with
  | next v =>
    cases e
    exact hf v (h v rfl)
  | fault _ => cases e
  | refused _ => cases e

/-- Every operation that an opcode may name leaves every memory in its canonical form. -/
def Keeps (o : Option (State → Res)) : Prop := ∀ op, o = some op → ∀ s : State, s.MemoryForm → (op s).Form

theorem Keeps.none : Keeps none := fun _ e => by cases e

theorem Keeps.some {op : State → Res} (h : ∀ s : State, s.MemoryForm → (op s).Form) : Keeps (some op) := fun _ e => by
  cases e
  exact h

theorem Keeps.map {α : Type} {o : Option α} {f : α → State → Res} (h : ∀ a, ∀ s : State, s.MemoryForm → (f a s).Form) :
    Keeps (o.map f) := by
  cases o with
  | none => exact .none
  | some a => exact .some (h a)

theorem Core.wf_ite {c : Prop} [Decidable c] {a b : Core} (ha : a.mem.wf) (hb : b.mem.wf) : (if c then a else b).mem.wf := by
  split
  · exact ha
  · exact hb

theorem Core.wf_mq {c : Core} {q} (hc : c.mem.wf) : ({ c with mq := q } : Core).mem.wf := hc

namespace State.MemoryForm

variable {s t : State}

theorem ite {c : Prop} [Decidable c] {a b : State} (ha : a.MemoryForm) (hb : b.MemoryForm) : (if c then a else b).MemoryForm := by
  split
  · exact ha
  · exact hb

/-- The form depends on nothing but the memories. -/
theorem of_eq (wf : s.MemoryForm) (hc : t.core.mem = s.core.mem := by rfl) (ho : t.others = s.others := by rfl)
    (hd : t.dm = s.dm := by rfl) (hh : t.hm = s.hm := by rfl) (hs : t.octets = s.octets := by rfl)
    (ha : t.flash.slotA = s.flash.slotA := by rfl) (hb : t.flash.slotB = s.flash.slotB := by rfl)
    (hr : t.flash.slotR = s.flash.slotR := by rfl) : t.MemoryForm where
  core := hc ▸ wf.core
  others := ho ▸ wf.others
  device := hd ▸ wf.device
  host := hh ▸ wf.host
  scales := hs ▸ wf.scales
  slotA := ha ▸ wf.slotA
  slotB := hb ▸ wf.slotB
  slotR := hr ▸ wf.slotR

theorem foldl {α : Type} {f : State → α → State} {l : List α} (wf : s.MemoryForm)
    (hf : ∀ u : State, u.MemoryForm → ∀ a, (f u a).MemoryForm) : (l.foldl f s).MemoryForm := by
  induction l generalizing s with
  | nil => exact wf
  | cons a l ih => exact ih (hf s wf a)

theorem setSl {u} (wf : s.MemoryForm) : (s.setSl u).MemoryForm := wf.of_eq

theorem onSl {f} (wf : s.MemoryForm) : (s.onSl f).MemoryForm := wf.setSl

theorem onCore {f} (wf : s.MemoryForm) (hf : ∀ c : Core, c.mem.wf → (f c).mem.wf := by exact fun _ k => k) : (s.onCore f).MemoryForm :=
  { wf with core := hf _ wf.core }

end State.MemoryForm

theorem Memory.wf_foldl {α : Type} {f : Memory → α → Memory} {l : List α} {m : Memory} (wf : m.wf)
    (hf : ∀ u : Memory, u.wf → ∀ a, (f u a).wf) : (l.foldl f m).wf := by
  induction l generalizing m with
  | nil => exact wf
  | cons a l ih => exact ih (hf m wf a)

theorem Core.wf_foldl {α : Type} {f : Core → α → Core} {l : List α} {c : Core} (wf : c.mem.wf)
    (hf : ∀ u : Core, u.mem.wf → ∀ a, (f u a).mem.wf) : (l.foldl f c).mem.wf := by
  induction l generalizing c with
  | nil => exact wf
  | cons a l ih => exact ih (hf c wf a)

theorem wf_look {d : Octet} {l : List (Nat × Octet)} {k : Nat} (hd : d.scale.wf) (h : ∀ p ∈ l, p.2.scale.wf) : (look d l k).scale.wf := by
  induction l with
  | nil => exact hd
  | cons p l ih =>
    rw [look]
    split
    · exact h p List.mem_cons_self
    · exact ih fun q m => h q (List.mem_cons_of_mem _ m)

theorem wf_put {l : List (Nat × Octet)} {k : Nat} {o : Octet} (h : ∀ p ∈ l, p.2.scale.wf) (ho : o.scale.wf) :
    ∀ p ∈ put l k o, p.2.scale.wf := by
  induction l with
  | nil => simpa [put] using ho
  | cons q l ih =>
    have hl := fun p m => h p (List.mem_cons_of_mem q m)
    rw [put]
    split
    · exact List.forall_mem_cons.mpr ⟨ho, h⟩
    · split
      · exact List.forall_mem_cons.mpr ⟨ho, hl⟩
      · exact List.forall_mem_cons.mpr ⟨h q List.mem_cons_self, ih hl⟩

theorem wf_lookCore {l : List (CoreId × Core)} {id : CoreId} (h : ∀ p ∈ l, p.2.mem.wf) : (lookCore l id).mem.wf := by
  induction l with
  | nil => exact Memory.wf_nil
  | cons p l ih =>
    rw [lookCore]
    exact Core.wf_ite (h p List.mem_cons_self) (ih fun q m => h q (List.mem_cons_of_mem _ m))

theorem wf_putCore {l : List (CoreId × Core)} {id : CoreId} {c : Core} (h : ∀ p ∈ l, p.2.mem.wf) (hc : c.mem.wf) :
    ∀ p ∈ putCore l id c, p.2.mem.wf := by
  induction l with
  | nil => simpa [putCore] using hc
  | cons q l ih =>
    have hl := fun p m => h p (List.mem_cons_of_mem q m)
    rw [putCore]
    split
    · exact List.forall_mem_cons.mpr ⟨hc, hl⟩
    · exact List.forall_mem_cons.mpr ⟨h q List.mem_cons_self, ih hl⟩

namespace State.MemoryForm

variable {s : State}

theorem coreAt {id} (wf : s.MemoryForm) : (s.coreAt id).mem.wf := Core.wf_ite wf.core (wf_lookCore wf.others)

theorem setCoreAt {id c} (wf : s.MemoryForm) (hc : c.mem.wf) : (s.setCoreAt id c).MemoryForm :=
  .ite { wf with core := hc } { wf with others := wf_putCore wf.others hc }

theorem onCoreAt {id f} (wf : s.MemoryForm) (hf : ∀ c : Core, c.mem.wf → (f c).mem.wf := by exact fun _ k => k) :
    (s.onCoreAt id f).MemoryForm := wf.setCoreAt (hf _ wf.coreAt)

theorem focus {id} (wf : s.MemoryForm) : (s.focus id).MemoryForm :=
  .ite wf { wf with core := wf.coreAt, others := wf_putCore wf.others wf.core }

theorem mapCores {f} (wf : s.MemoryForm) (hf : ∀ id, ∀ c : Core, c.mem.wf → (f id c).mem.wf := by exact fun _ _ k => k) :
    (s.mapCores f).MemoryForm :=
  { wf with core := hf _ _ wf.core, others := List.forall_mem_map.mpr fun p m => hf _ _ (wf.others p m) }

theorem mapSlots {f} (wf : s.MemoryForm) : (s.mapSlots f).MemoryForm := wf.mapCores

end State.MemoryForm

/-! ## State -/

theorem State.memoryForm_reset : State.reset.MemoryForm where
  core := Memory.wf_nil
  others := List.forall_mem_nil _
  device := Memory.wf_nil
  host := Memory.wf_nil
  scales := List.forall_mem_nil _
  slotA := Memory.wf_nil
  slotB := Memory.wf_nil
  slotR := Memory.wf_nil

/-! ## Access -/

theorem State.MemoryForm.setReg {s : State} {r w} (wf : s.MemoryForm) : (s.setReg r w).MemoryForm := wf.of_eq

theorem State.MemoryForm.setField {s : State} {r hi lo v} (wf : s.MemoryForm) : (s.setField r hi lo v).MemoryForm := wf.setReg

theorem State.MemoryForm.udCount {s : State} {die i} (wf : s.MemoryForm) : (s.udCount die i).MemoryForm := wf.setReg

theorem State.MemoryForm.countErr {s : State} {n} (wf : s.MemoryForm) : (s.countErr n).MemoryForm := wf.of_eq

theorem State.MemoryForm.raiseIrq {s : State} {src} (wf : s.MemoryForm) : (s.raiseIrq src).MemoryForm := wf.setField

theorem Core.wf_count {c : Core} {e slot} (wf : c.mem.wf) : (Core.count c e slot).mem.wf := Core.wf_ite wf wf

theorem State.MemoryForm.count {s : State} {e} (wf : s.MemoryForm) : (s.count e).MemoryForm := wf.onCore (fun _ hu => Core.wf_count hu)

/-! ## Csr -/

theorem State.MemoryForm.writeCsr {s : State} {n w} (wf : s.MemoryForm) : (s.writeCsr n w).MemoryForm := by
  unfold State.writeCsr
  split
  · exact wf.onCore
  · exact wf.onCore
  · exact wf.onSl

theorem State.MemoryForm.applySeed {s : State} (wf : s.MemoryForm) : (s.applySeed).MemoryForm := by
  unfold State.applySeed
  split
  · exact wf.onSl
  · exact wf

theorem State.MemoryForm.applyCsr {s : State} (wf : s.MemoryForm) : (s.applyCsr).MemoryForm := by
  unfold State.applyCsr
  extract_lets s1
  split
  · exact wf.applySeed.writeCsr.onSl
  · exact wf.applySeed

/-! ## Records -/

theorem State.MemoryForm.setDw {s : State} {r i w} (wf : s.MemoryForm) : (s.setDw r i w).MemoryForm :=
  { wf with device := Memory.wf_writeDword wf.device _ _ }

theorem State.MemoryForm.setRecState {s : State} {r v} (wf : s.MemoryForm) : (s.setRecState r v).MemoryForm := wf.setDw

theorem State.MemoryForm.onJob {s : State} {r f} (wf : s.MemoryForm) : (s.onJob r f).MemoryForm := wf.of_eq

/-! ## Translate -/

theorem State.MemoryForm.placeDevice {s : State} {pa key bs} (wf : s.MemoryForm) : (s.placeDevice pa key bs).MemoryForm :=
  { wf with device := Memory.wf_write wf.device _ _ }

theorem State.MemoryForm.writeDevice {s : State} {pa key bs} (wf : s.MemoryForm) : (s.writeDevice pa key bs).MemoryForm := by
  unfold State.writeDevice
  extract_lets s1
  have ks1 : s1.MemoryForm := wf.placeDevice
  exact ks1.of_eq

theorem State.MemoryForm.deviceWrite {s : State} {pa bs} (wf : s.MemoryForm) : (s.deviceWrite pa bs).MemoryForm := wf.writeDevice

/-! ## Banks -/

theorem wf_tagUpkeep {old : Memory} {new : Memory} {off n slot} (hnew : new.wf) : (tagUpkeep old new off n slot).wf := by
  unfold tagUpkeep
  extract_lets a first last diff
  split
  · exact hnew
  · split
    · exact hnew
    · exact Memory.wf_writeDword hnew _ _

theorem Core.wf_bankWrite {c : Core} {off bs} (wf : c.mem.wf) : (Core.bankWrite c off bs).mem.wf := by
  unfold Core.bankWrite
  extract_lets new up
  have knew : new.wf := Memory.wf_write wf _ _
  have kup : up.wf := Memory.wf_foldl knew (fun _ hu _ => wf_tagUpkeep hu)
  exact kup

theorem State.MemoryForm.wakeWrite {s : State} {c off n} (wf : s.MemoryForm) : (s.wakeWrite c off n).MemoryForm := by
  unfold State.wakeWrite
  exact wf.foldl fun _ hu _ => hu.mapSlots

theorem State.MemoryForm.writeCore {s : State} {c off bs} (wf : s.MemoryForm) : (s.writeCore c off bs).MemoryForm :=
  (wf.onCoreAt (fun _ hu => Core.wf_bankWrite hu)).wakeWrite

theorem State.MemoryForm.onShum {s : State} {p f} (wf : s.MemoryForm) : (s.onShum p f).MemoryForm := wf.of_eq

theorem State.MemoryForm.sendFlit {s : State} {pa body} (wf : s.MemoryForm) : (s.sendFlit pa body).MemoryForm := by
  unfold State.sendFlit
  split
  · exact wf.onShum
  · exact wf

theorem State.MemoryForm.refuseRemote {s : State} {addr} (wf : s.MemoryForm) : (s.refuseRemote addr).MemoryForm := wf.setReg.countErr

theorem State.MemoryForm.asks {s : State} {d a n bs} (wf : s.MemoryForm) : (s.asks d a n bs).MemoryForm :=
  wf.foldl fun _ hu _ => .ite hu.sendFlit.refuseRemote hu.sendFlit

theorem State.MemoryForm.asked {s : State} {h'} (wf : s.MemoryForm) : (s.asked h').MemoryForm := by
  unfold State.asked
  split
  · exact wf.asks
  · exact wf

theorem State.MemoryForm.askedRuns {s : State} {rs} (wf : s.MemoryForm) : (s.askedRuns rs).MemoryForm :=
  wf.foldl fun _ hu _ => by
    split
    · exact hu.asks
    · exact hu

theorem State.MemoryForm.writeHome {s : State} {at' bs} (wf : s.MemoryForm) : (s.writeHome at' bs).MemoryForm := by
  unfold State.writeHome
  split
  · exact wf.writeCore
  · exact wf.writeDevice
  · exact { wf with host := Memory.wf_write wf.host _ _ }
  · exact wf.asks

theorem State.MemoryForm.writeRuns {s : State} {rs bs} (wf : s.MemoryForm) : (s.writeRuns rs bs).MemoryForm := by
  induction rs generalizing s bs with
  | nil => exact wf
  | cons r rs ih => exact ih wf.writeHome

theorem State.MemoryForm.addCtr {s : State} {die n v} (wf : s.MemoryForm) : (s.addCtr die n v).MemoryForm := wf.of_eq.mapSlots

theorem State.MemoryForm.performStore {s : State} {id slot e} (wf : s.MemoryForm) : (s.performStore id slot e).MemoryForm := by
  unfold State.performStore
  extract_lets s1 need
  split
  · exact wf.writeHome
  · exact .ite wf.writeHome wf.writeHome.onCoreAt

theorem State.MemoryForm.seeAll {s : State} (wf : s.MemoryForm) : (s.seeAll).MemoryForm := .ite wf wf.of_eq

theorem State.MemoryForm.delay {s : State} {id slot late e} (wf : s.MemoryForm) : (s.delay id slot late e).MemoryForm := by
  unfold State.delay
  extract_lets slow old go
  have kgo : go.MemoryForm := .ite wf wf.of_eq
  split
  · exact kgo
  · exact kgo
  · exact wf
  · exact wf

theorem State.MemoryForm.storeOut {s : State} {id slot late e} (wf : s.MemoryForm) : (s.storeOut id slot late e).MemoryForm :=
  .ite wf.seeAll.performStore wf.delay.performStore

theorem State.MemoryForm.drainSlot {s : State} {id slot} (wf : s.MemoryForm) : (s.drainSlot id slot).MemoryForm := by
  unfold State.drainSlot
  exact (wf.foldl fun _ hu _ => hu.storeOut).onCoreAt

theorem State.MemoryForm.drain {s : State} (wf : s.MemoryForm) : (s.drain).MemoryForm := .ite wf wf.drainSlot

theorem State.MemoryForm.buffer {s : State} {e} (wf : s.MemoryForm) : (s.buffer e).MemoryForm := wf.onSl

theorem State.MemoryForm.releaseLock {s : State} {id slot} (wf : s.MemoryForm) : (s.releaseLock id slot).MemoryForm := by
  unfold State.releaseLock
  split
  · exact wf
  · exact wf.onCoreAt.onCoreAt

theorem State.MemoryForm.ringPacket {s : State} {id bs} (wf : s.MemoryForm) : (s.ringPacket id bs).MemoryForm := by
  unfold State.ringPacket
  extract_lets ctl i at_
  split
  · exact wf.onCoreAt
  · exact State.MemoryForm.setReg { wf with device := Memory.wf_write wf.device _ _ }

theorem State.MemoryForm.sealTrace {s : State} {id} (wf : s.MemoryForm) : (s.sealTrace id).MemoryForm := by
  unfold State.sealTrace
  extract_lets c plain padded nonce
  split
  · exact wf
  · extract_lets key' out' s1' tag' s2'
    have ks1' : s1'.MemoryForm := wf.foldl fun _ hu _ => hu.ringPacket
    exact ks1'.ringPacket.onCoreAt

theorem State.MemoryForm.acceptPacket {s : State} {id typ slot pay} (wf : s.MemoryForm) : (s.acceptPacket id typ slot pay).MemoryForm := by
  unfold State.acceptPacket
  extract_lets c conf bs s1 s1'
  have ks1' : s1'.MemoryForm := .ite wf wf.onCoreAt.ringPacket
  exact .ite (.ite wf.onCoreAt.sealTrace wf.onCoreAt) ks1'.ringPacket

theorem State.MemoryForm.traceAt {s : State} {id slot typ pay} (wf : s.MemoryForm) : (s.traceAt id slot typ pay).MemoryForm :=
  .ite wf (.ite wf.acceptPacket.acceptPacket wf.acceptPacket)

theorem State.MemoryForm.trace {s : State} {typ pay} (wf : s.MemoryForm) : (s.trace typ pay).MemoryForm := wf.traceAt

/-! ## Entries -/

theorem State.MemoryForm.noteChan {s : State} {id ch} (wf : s.MemoryForm) : (s.noteChan id ch).MemoryForm :=
  wf.onCoreAt (fun _ hu => by
    split
    · exact hu
    · exact Core.wf_ite hu hu)

theorem Core.wf_offerEntry {c : Core} {ch i} (wf : c.mem.wf) : (Core.offerEntry c ch i).mem.wf := by
  unfold Core.offerEntry
  split <;> exact wf

theorem Core.wf_releaseTask {c : Core} (wf : c.mem.wf) : (Core.releaseTask c).mem.wf := by
  unfold Core.releaseTask
  split
  · exact wf
  · split
    · exact wf
    · split
      · exact wf
      · exact Core.wf_count wf

theorem Core.wf_giveEntry {c : Core} {ch i slot} (wf : c.mem.wf) : (Core.giveEntry c ch i slot).mem.wf := by
  unfold Core.giveEntry
  exact Core.wf_count wf

theorem State.MemoryForm.serveRecv {s : State} {id ch} (wf : s.MemoryForm) : (s.serveRecv id ch).MemoryForm := by
  unfold State.serveRecv
  extract_lets c
  split
  · exact wf
  · split
    · exact wf.setCoreAt (Core.wf_giveEntry wf.coreAt)
    · exact wf

theorem State.MemoryForm.landEntry {s : State} {id ch i header payload} (wf : s.MemoryForm) : (s.landEntry id ch i header payload).MemoryForm := by
  unfold State.landEntry
  extract_lets s1 s2
  have ks2 : s2.MemoryForm := wf.writeCore.onCoreAt (fun _ hu => Core.wf_ite hu (Core.wf_releaseTask (Core.wf_offerEntry hu)))
  exact ks2.serveRecv.noteChan

theorem State.MemoryForm.landNotice {s : State} {id i n} (wf : s.MemoryForm) : (s.landNotice id i n).MemoryForm := wf.onCoreAt.landEntry

theorem State.MemoryForm.admitNotices {s : State} {id fuel} (wf : s.MemoryForm) : (s.admitNotices id fuel).MemoryForm := by
  induction fuel generalizing s with
  | zero => exact wf
  | succ fuel ih =>
    unfold State.admitNotices
    extract_lets c
    split
    · exact wf
    · extract_lets s1
      have ks1 : s1.MemoryForm := wf.onCoreAt
      split
      · exact ih ks1.landNotice
      · exact .ite wf (ih ks1.onCoreAt)

theorem State.MemoryForm.drainNotices {s : State} {id fuel} (wf : s.MemoryForm) : (s.drainNotices id fuel).MemoryForm := by
  induction fuel generalizing s with
  | zero => exact wf
  | succ fuel ih =>
    unfold State.drainNotices
    extract_lets c
    split
    · exact ih wf.onCoreAt.landNotice
    · exact wf

theorem State.MemoryForm.admitAll {s : State} {id} (wf : s.MemoryForm) : (s.admitAll id).MemoryForm := wf.drainNotices.admitNotices

theorem State.MemoryForm.freeEntry {s : State} {id ch i} (wf : s.MemoryForm) : (s.freeEntry id ch i).MemoryForm := by
  unfold State.freeEntry
  exact State.MemoryForm.noteChan (.ite wf.onCoreAt wf.onCoreAt.admitAll)

/-! ## Dead -/

theorem State.MemoryForm.writeRec {s : State} {r va bs} (wf : s.MemoryForm) : (s.writeRec r va bs).MemoryForm := by
  unfold State.writeRec
  split
  · exact wf.writeRuns
  · exact wf

theorem State.MemoryForm.appendFault {s : State} {r code listed bs} (wf : s.MemoryForm) : (s.appendFault r code listed bs).MemoryForm := by
  unfold State.appendFault
  extract_lets base next pa s1
  have ks1 : s1.MemoryForm := wf.writeRec.writeRec
  exact .ite wf.writeRec (.ite ks1.of_eq ks1)

theorem State.MemoryForm.freeReserved {s : State} {m} (wf : s.MemoryForm) : (s.freeReserved m).MemoryForm := by
  unfold State.freeReserved
  split
  · exact wf
  · exact .ite wf.freeEntry wf

theorem State.MemoryForm.dropEmits {s : State} {id} (wf : s.MemoryForm) : (s.dropEmits id).MemoryForm := by
  unfold State.dropEmits
  extract_lets lost s1
  have ks1 : s1.MemoryForm := wf.foldl fun _ hu _ => hu.of_eq
  exact ks1.of_eq

theorem State.MemoryForm.dropInFlight {s : State} {id} (wf : s.MemoryForm) : (s.dropInFlight id).MemoryForm := by
  unfold State.dropInFlight
  extract_lets s0 s1
  have ks1 : s1.MemoryForm := wf.mapCores.dropEmits.foldl fun _ hu _ => hu.freeReserved
  exact ks1.of_eq

theorem State.MemoryForm.dropLocksOf {s : State} {queue die} (wf : s.MemoryForm) : (s.dropLocksOf queue die).MemoryForm :=
  wf.mapCores (fun _ _ hu => Core.wf_ite hu hu)

theorem State.MemoryForm.dropStreamPage {s : State} {id} (wf : s.MemoryForm) : (s.dropStreamPage id).MemoryForm := by
  unfold State.dropStreamPage
  exact wf.of_eq.onCoreAt

theorem State.MemoryForm.killCore {s : State} {id} (wf : s.MemoryForm) : (s.killCore id).MemoryForm := by
  unfold State.killCore
  extract_lets c s1 s2 s3
  have ks1 : s1.MemoryForm := wf.dropInFlight.dropLocksOf
  have ks2 : s2.MemoryForm := ks1.of_eq
  have ks3 : s3.MemoryForm := by
    unfold s3
    split
    · exact ks2.of_eq
    · exact ks2
  exact ks3.dropStreamPage.onCoreAt

theorem State.MemoryForm.onEngine {s : State} {die e f} (wf : s.MemoryForm) : (s.onEngine die e f).MemoryForm := wf.of_eq

theorem State.MemoryForm.setDmaState {s : State} {die e state err} (wf : s.MemoryForm) : (s.setDmaState die e state err).MemoryForm :=
  wf.setReg

theorem State.MemoryForm.abortEngine {s : State} {die e} (wf : s.MemoryForm) : (s.abortEngine die e).MemoryForm :=
  wf.of_eq.onEngine.setReg.setDmaState

theorem State.MemoryForm.abortColl {s : State} {die} (wf : s.MemoryForm) : (s.abortColl die).MemoryForm := wf.of_eq.setReg.setReg

theorem State.MemoryForm.abortEngines {s : State} {p} (wf : s.MemoryForm) : (s.abortEngines p).MemoryForm := by
  unfold State.abortEngines
  extract_lets s1
  have ks1 : s1.MemoryForm := wf.foldl fun _ hu _ => .ite hu.abortEngine hu
  exact ks1.foldl fun _ hu _ => .ite hu.abortColl hu

theorem State.MemoryForm.raiseQueue {s : State} {d} (wf : s.MemoryForm) : (s.raiseQueue d).MemoryForm := .ite wf.raiseIrq wf

theorem State.MemoryForm.setLeg {s : State} {k l} (wf : s.MemoryForm) : (s.setLeg k l).MemoryForm := wf.of_eq.deviceWrite

theorem State.MemoryForm.releaseLeg {s : State} {k} (wf : s.MemoryForm) : (s.releaseLeg k).MemoryForm := wf.setLeg

theorem State.MemoryForm.endLegs {s : State} {r ok} (wf : s.MemoryForm) : (s.endLegs r ok).MemoryForm :=
  wf.foldl fun _ hu _ => .ite (hu.of_eq.foldl fun _ hu1 _ => hu1.releaseLeg) hu.of_eq.raiseQueue

theorem State.MemoryForm.failRecord {s : State} {r} (wf : s.MemoryForm) : (s.failRecord r).MemoryForm := by
  unfold State.failRecord
  split
  · extract_lets s1
    have ks1 : s1.MemoryForm := wf.of_eq
    exact ks1.of_eq.abortEngines.endLegs.setRecState
  · exact wf

theorem State.MemoryForm.markDead {s : State} {id slot code ncode epc tval area} (wf : s.MemoryForm) :
    (s.markDead id slot code ncode epc tval area).MemoryForm := by
  unfold State.markDead
  extract_lets c s1
  split
  · exact wf.killCore
  · exact wf.killCore.failRecord.appendFault.raiseIrq

theorem State.MemoryForm.atControl {s : State} {r f} (wf : s.MemoryForm) : (s.atControl r f).MemoryForm := by
  unfold State.atControl
  extract_lets s1
  have ks1 : s1.MemoryForm := wf.foldl fun _ hu _ => hu.onCoreAt
  exact ks1.onJob

theorem State.MemoryForm.killJob {s : State} {r code withRecord} (wf : s.MemoryForm) : (s.killJob r code withRecord).MemoryForm :=
  wf.failRecord.foldl fun _ hu _ => .ite hu (.ite hu.markDead hu.killCore)

/-! ## Finish -/

theorem State.MemoryForm.finishDie {s : State} {r die} (wf : s.MemoryForm) : (s.finishDie r die).MemoryForm := by
  unfold State.finishDie
  extract_lets mine s1 d
  have ks1 : s1.MemoryForm := wf.foldl fun _ hu _ => hu.onCoreAt
  exact .ite (.ite ks1.addCtr ks1) wf

theorem State.MemoryForm.vacate {s : State} {id} (wf : s.MemoryForm) : (s.vacate id).MemoryForm := by
  unfold State.vacate
  extract_lets s1 s2
  have ks1 : s1.MemoryForm := wf.foldl fun _ hu _ => hu.drainSlot
  have ks2 : s2.MemoryForm := .ite ks1 ks1.sealTrace
  exact ks2.onCoreAt

theorem State.MemoryForm.checkJob {s : State} {r} (wf : s.MemoryForm) : (s.checkJob r).MemoryForm := by
  unfold State.checkJob
  extract_lets live all s1 s2 s3
  have ks1 : s1.MemoryForm := .ite (wf.foldl fun _ hu _ => hu.finishDie) wf
  have ks2 : s2.MemoryForm := ks1.foldl fun _ hu _ => hu.vacate
  split
  · exact wf.foldl fun _ hu _ => hu.vacate
  · exact .ite wf (.ite ks2.of_eq.endLegs.setRecState ks1)

theorem State.MemoryForm.checkMine {s : State} (wf : s.MemoryForm) : (s.checkMine).MemoryForm := by
  unfold State.checkMine
  split
  · exact wf.checkJob
  · exact wf

/-! ## Arbiter -/

theorem State.MemoryForm.passTime {s : State} (wf : s.MemoryForm) : (s.passTime).MemoryForm := wf.of_eq

theorem Core.wf_landVector {c : Core} {e i} (wf : c.mem.wf) : (Core.landVector c e i).mem.wf := Core.wf_ite wf wf

theorem Core.wf_completeVector {c : Core} (wf : c.mem.wf) : (Core.completeVector c).mem.wf := by
  unfold Core.completeVector
  split
  · exact wf
  · extract_lets c1
    have kc1 : c1.mem.wf := Core.wf_landVector wf
    exact kc1

theorem Core.wf_completeVectors {c : Core} (wf : c.mem.wf) : (Core.completeVectors c).mem.wf :=
  Core.wf_foldl wf (fun _ hu _ => Core.wf_completeVector hu)

theorem State.MemoryForm.bindQuad {s : State} {share n left} (wf : s.MemoryForm) : (s.bindQuad share n left).MemoryForm := by
  induction n generalizing s left with
  | zero => exact wf
  | succ n ih =>
    unfold State.bindQuad
    split
    · exact wf
    · exact ih wf.onCoreAt

theorem State.MemoryForm.arbitrate {s : State} {early} (wf : s.MemoryForm) : (s.arbitrate early).MemoryForm := by
  unfold State.arbitrate
  extract_lets quad ready s1 total k
  have ks1 : s1.MemoryForm := wf.foldl fun _ hu _ => .ite hu (hu.setCoreAt hu.coreAt)
  exact ks1.bindQuad

theorem State.MemoryForm.closeArbiter {s : State} (wf : s.MemoryForm) : (s.closeArbiter).MemoryForm := by
  unfold State.closeArbiter
  extract_lets s1
  have ks1 : s1.MemoryForm := .ite wf wf.arbitrate
  exact .ite ks1.onCore ks1

theorem State.MemoryForm.ageVectors {s : State} (wf : s.MemoryForm) : (s.ageVectors).MemoryForm :=
  .ite wf (wf.closeArbiter.onCore (fun _ hu => Core.wf_completeVectors hu))

theorem Core.wf_countSlot {c : Core} {n} (wf : c.mem.wf) : (Core.countSlot c n).mem.wf := by
  unfold Core.countSlot
  extract_lets t c1
  have kc1 : c1.mem.wf := Core.wf_count wf
  split
  · exact Core.wf_ite (Core.wf_count kc1) kc1
  · exact Core.wf_ite wf (Core.wf_count wf)
  · exact wf
  · exact wf
  · exact wf

theorem State.MemoryForm.closeQuad {s : State} (wf : s.MemoryForm) : (s.closeQuad).MemoryForm := wf.foldl fun _ hu _ => .ite hu.onCoreAt hu

theorem State.MemoryForm.waitCycle {s : State} (wf : s.MemoryForm) : (s.waitCycle).MemoryForm :=
  wf.passTime.onCore.ageVectors.closeQuad.onCore (fun _ hu => Core.wf_foldl hu (fun _ hu1 _ => Core.wf_countSlot hu1))

theorem State.MemoryForm.settleVector {s : State} {slot n} (wf : s.MemoryForm) : (State.settleVector slot n s).MemoryForm := by
  induction n generalizing s with
  | zero => exact wf
  | succ n ih => exact .ite (ih wf.waitCycle) wf

/-! ## Ops -/

theorem State.check_form {s : State} {k : Res} {bad code tval} (hk : k.Form) : (s.check bad code tval k).Form := .ite trivial hk

theorem State.MemoryForm.complete {s : State} {u q q2} (wf : s.MemoryForm) : (s.complete u q q2).MemoryForm := wf.onSl

theorem State.MemoryForm.launch {s : State} {u opc lo hi q q2} (wf : s.MemoryForm) : (s.launch u opc lo hi q q2).MemoryForm := wf.onSl

theorem State.MemoryForm.block {s : State} {u opc kind mode releaser object} (wf : s.MemoryForm) :
    (s.block u opc kind mode releaser object).Form := by
  unfold State.block
  exact .ite trivial (.ite wf wf.onSl.trace)

theorem holding_form {r : Res} {bs} (wf : r.Form) : (Res.holding r bs).Form := by
  unfold Res.holding
  split
  · exact wf.onSl
  · exact trivial
  · exact trivial
  · exact trivial

theorem State.withSpa_form {s : State} {t n writes tval k} (hk : ∀ a, (k a).Form) : (s.withSpa t n writes tval k).Form := by
  unfold State.withSpa
  split
  · exact hk _
  · split
    · exact trivial
    · exact hk _

theorem State.MemoryForm.leaveQueues {s : State} (wf : s.MemoryForm) : (s.leaveQueues).MemoryForm := by
  unfold State.leaveQueues
  extract_lets me s1 s2
  have ks2 : s2.MemoryForm := wf.mapCores.onCore
  exact ks2.of_eq

theorem State.MemoryForm.settle {s : State} (wf : s.MemoryForm) : (s.settle).MemoryForm := by
  unfold State.settle
  extract_lets s1 s2
  have ks1 : s1.MemoryForm := .ite wf.leaveQueues wf
  exact ks1.releaseLock.onSl.settleVector

theorem State.MemoryForm.endSlot {s : State} {exit} (wf : s.MemoryForm) : (s.endSlot exit).MemoryForm := by
  unfold State.endSlot
  extract_lets slot s1 s2
  have ks2 : s2.MemoryForm := by
    unfold s2
    split
    · exact wf.releaseLock.onCore.onCore
    · exact wf.releaseLock.onCore
  split
  · exact ks2.markDead
  · exact ks2.onSl

theorem enterTrap_form {s : State} {code tval at_} (wf : s.MemoryForm) : (enterTrap code tval at_ s).MemoryForm := by
  unfold enterTrap
  extract_lets t epc slot lvl user l dv rv s1 s2
  split
  · split
    · exact wf.markDead
    · exact .ite wf.settle.onSl.onSl.trace (.ite wf.markDead wf.markDead)
  · exact .ite wf.markDead (.ite wf.settle.onSl.onSl.trace wf.settle.onSl.writeCore.onCore.onSl.trace)

theorem State.MemoryForm.park {s : State} (wf : s.MemoryForm) : (s.park).MemoryForm := by
  unfold State.park
  extract_lets area s1
  have ks1 : s1.MemoryForm := .ite wf wf.writeCore
  exact ks1.onCore.onSl

theorem trapReturn_form {s : State} (wf : s.MemoryForm) : (trapReturn s).Form := by
  unfold trapReturn
  extract_lets t m img s1
  split
  · exact trivial
  · split
    · exact trivial
    · split
      · exact trivial
      · exact .ite wf.endSlot (.ite wf.park (.ite wf.onCore.onSl.trace wf.onCore.onSl.trace))

theorem State.MemoryForm.crossTrigger {s : State} (wf : s.MemoryForm) : (s.crossTrigger).MemoryForm := by
  unfold State.crossTrigger
  exact .ite (wf.foldl fun _ hu _ => hu.onCoreAt) wf

theorem State.MemoryForm.halt {s : State} {cause slot} (wf : s.MemoryForm) : (s.halt cause slot).MemoryForm := by
  unfold State.halt
  exact .ite wf.onCore (State.MemoryForm.traceAt (.ite wf.onCore.crossTrigger wf.onCore))

theorem State.MemoryForm.openBundle {s : State} {n} (wf : s.MemoryForm) : (s.openBundle n).MemoryForm := wf.onSl

theorem State.MemoryForm.repetitionEnd {s : State} (wf : s.MemoryForm) : (s.repetitionEnd).MemoryForm := by
  unfold State.repetitionEnd
  exact .ite wf.onSl.count wf.onSl

theorem State.MemoryForm.closeBundle {s : State} (wf : s.MemoryForm) : (s.closeBundle).MemoryForm := by
  unfold State.closeBundle
  extract_lets s1
  have ks1 : s1.MemoryForm := wf.onSl.count.applyCsr
  split
  · exact enterTrap_form (.ite ks1.repetitionEnd ks1)
  · exact .ite ks1.checkMine ks1

theorem State.MemoryForm.stallBundle {s : State} (wf : s.MemoryForm) : (s.stallBundle).MemoryForm := wf.onSl.count

theorem soloMove_form {s : State} {h' d} (wf : s.MemoryForm) : (soloMove h' d s).MemoryForm := by
  unfold soloMove
  extract_lets h' d' s1
  split
  · exact enterTrap_form wf
  · exact .ite wf.stallBundle (State.MemoryForm.closeBundle (.ite wf.openBundle.onSl wf.openBundle))

theorem execMoveTo_form {s : State} {h' d} (wf : s.MemoryForm) : Out.Form (execMoveTo h' d s) := by
  unfold execMoveTo
  split
  · exact soloMove_form wf
  · exact .ite wf.of_eq (State.MemoryForm.ite wf.of_eq.onSl wf.of_eq)

theorem soloTrigger_form {s : State} {u opc h' op} (hop : ∀ a, a.MemoryForm → (op a).Form) (wf : s.MemoryForm) :
    (soloTrigger u opc h' op s).MemoryForm := by
  unfold soloTrigger
  extract_lets h' s1
  split
  · exact enterTrap_form wf
  · split
    · exact wf.stallBundle
    · split
      · split
        · rename_i s2 e
          have hu := Res.Form.of_ok e (hop _ wf.openBundle.onSl)
          exact hu.closeBundle
        · exact enterTrap_form wf
        · exact wf.stallBundle
        · exact wf.halt
      · exact wf.openBundle.closeBundle

theorem besideWait_form {s : State} {u opc op} (hop : ∀ a, a.MemoryForm → (op a).Form) (wf : s.MemoryForm) : (besideWait u opc op s).Form := by
  unfold besideWait
  extract_lets t
  split
  · rename_i s1 e
    have hu := Res.Form.of_ok e (hop _ wf.onSl)
    exact .ite wf.onSl (.ite hu hu.onSl)
  · exact trivial
  · exact trivial
  · exact trivial

theorem busTrigger_form {s : State} {u opc b op} (hop : ∀ a, a.MemoryForm → (op a).Form) (wf : s.MemoryForm) :
    (busTrigger u opc b op s).MemoryForm := by
  unfold busTrigger
  dsimp only
  split
  · exact { wf with }
  · split
    · exact { wf with }
    · split
      · rename_i s2 e
        refine Res.Form.of_ok e ?_
        have k : (({ s with bus := some b.pop.2 } : State).onSl fun t => t.setPort u .t b.pop.1.2).MemoryForm := State.MemoryForm.onSl { wf with }
        split
        · exact besideWait_form hop k
        · exact hop _ k
      · exact { wf with }
      · exact { wf with }
      · exact { wf with }

theorem execTrigger_form {s : State} {u opc h' op} (hop : ∀ a, a.MemoryForm → (op a).Form) (wf : s.MemoryForm) :
    Out.Form (execTrigger u opc h' op s) := by
  unfold execTrigger
  split
  · exact soloTrigger_form (fun _ hu => hop _ hu) wf
  · exact busTrigger_form (fun _ hu => hop _ hu) wf

/-! ## Addr -/

theorem movePointer_form {s : State} {a d} (wf : s.MemoryForm) : (movePointer s a d).Form := by
  unfold movePointer
  exact .ite trivial wf.complete

theorem agPadd_form {s : State} (wf : s.MemoryForm) : (agPadd s).Form := by
  unfold agPadd
  exact movePointer_form wf

theorem agPsub_form {s : State} (wf : s.MemoryForm) : (agPsub s).Form := wf.complete

theorem agPtag_form {s : State} (wf : s.MemoryForm) : (agPtag s).Form := by
  unfold agPtag
  exact .ite trivial wf.complete

theorem agPfmt_form {s : State} (wf : s.MemoryForm) : (agPfmt s).Form := wf.complete

theorem agPblk_form {s : State} (wf : s.MemoryForm) : (agPblk s).Form := wf.complete

theorem agPclr_form {s : State} (wf : s.MemoryForm) : (agPclr s).Form := wf.complete

theorem agPidx_form {s : State} (wf : s.MemoryForm) : (agPidx s).Form := by
  unfold agPidx
  exact .ite trivial (.ite trivial (movePointer_form wf))

theorem agCadr_form {s : State} (wf : s.MemoryForm) : (agCadr s).Form := by
  unfold agCadr
  exact .ite trivial (.ite trivial (.ite trivial wf.complete))

theorem agLcl_form {s : State} (wf : s.MemoryForm) : (agLcl s).Form := by
  unfold agLcl
  exact .ite trivial (.ite trivial wf.complete)

theorem agCoord_form {s : State} (wf : s.MemoryForm) : (agCoord s).Form := by
  unfold agCoord
  exact .ite trivial (.ite trivial wf.complete)

theorem keeps_agOp {opc} : Keeps (agOp opc) := by
  unfold agOp
  split
  · exact .some fun _ k => agPadd_form k
  · exact .some fun _ k => agPsub_form k
  · exact .some fun _ k => agPtag_form k
  · exact .some fun _ k => agPfmt_form k
  · exact .some fun _ k => agPblk_form k
  · exact .some fun _ k => agPclr_form k
  · exact .some fun _ k => agPidx_form k
  · exact .some fun _ k => agCadr_form k
  · exact .some fun _ k => agLcl_form k
  · exact .some fun _ k => agCoord_form k
  · exact .none

/-! ## Alu -/

theorem alu_form {s : State} {u f} (wf : s.MemoryForm) : (alu u f s).Form := wf.complete

/-! ## Fetch -/

theorem State.MemoryForm.loadLine {s : State} {va} (wf : s.MemoryForm) : (s.loadLine va).MemoryForm := by
  unfold State.loadLine
  split
  · exact wf
  · extract_lets l s1
    have ks1 : s1.MemoryForm := wf.onCore
    exact .ite ks1.of_eq ks1

theorem State.MemoryForm.fillLine {s : State} {va} (wf : s.MemoryForm) : (s.fillLine va).MemoryForm := by
  unfold State.fillLine
  split
  · exact wf.onCore
  · exact wf.loadLine

/-! ## Control -/

theorem State.MemoryForm.branch {s : State} {target q} (wf : s.MemoryForm) : (s.branch target q).Form :=
  .ite trivial wf.complete.onSl.count.trace

theorem cfBr_form {s : State} (wf : s.MemoryForm) : (cfBr s).Form := wf.branch

theorem cfJmp_form {s : State} (wf : s.MemoryForm) : (cfJmp s).Form := wf.branch

theorem cfCall_form {s : State} (wf : s.MemoryForm) : (cfCall s).Form := wf.branch

theorem cfLoop_form {s : State} {level1} (wf : s.MemoryForm) : (cfLoop level1 s).Form := by
  unfold cfLoop
  extract_lets t l next e on s1 after
  split
  · exact trivial
  · exact .ite trivial (.ite trivial (.ite trivial (.ite trivial (.ite wf.complete.onSl wf.complete.onSl.onSl))))

theorem cfRep_form {s : State} (wf : s.MemoryForm) : (cfRep s).Form := by
  unfold cfRep
  extract_lets t l base size body
  split
  · exact trivial
  · exact .ite trivial (.ite trivial (.ite trivial (.ite trivial wf.complete.onSl)))

theorem cfBrk_form {s : State} (wf : s.MemoryForm) : (cfBrk s).Form := by
  unfold cfBrk
  exact .ite trivial wf.complete.onSl

theorem keeps_cfOp {opc} : Keeps (cfOp opc) := by
  unfold cfOp
  split
  · exact .some fun _ k => cfBr_form k
  · exact .some fun _ k => cfJmp_form k
  · exact .some fun _ k => cfCall_form k
  · exact .some fun _ k => cfLoop_form k
  · exact .some fun _ k => cfLoop_form k
  · exact .some fun _ k => cfRep_form k
  · exact .some fun _ k => cfBrk_form k
  · exact .none

theorem execLoopEndCheck_form {s : State} (wf : s.MemoryForm) : Out.Form (execLoopEndCheck s) := .ite wf.onSl wf

theorem execRepetitionEnd_form {s : State} (wf : s.MemoryForm) : Out.Form (execRepetitionEnd s) := .ite wf.repetitionEnd.onSl wf

/-! ## Berths -/

theorem State.MemoryForm.wakeBerth {s : State} {c b d} (wf : s.MemoryForm) : (s.wakeBerth c b d).MemoryForm := wf.mapSlots

theorem State.MemoryForm.setBerth {s : State} {c b d} (wf : s.MemoryForm) : (s.setBerth c b d).MemoryForm :=
  (wf.onCoreAt (fun _ hu => Memory.wf_write hu _ _)).wakeBerth

theorem State.MemoryForm.advancePi {s : State} {c b n} (wf : s.MemoryForm) : (s.advancePi c b n).MemoryForm := by
  unfold State.advancePi
  split
  · exact wf.setBerth
  · exact wf

theorem State.MemoryForm.advanceCi {s : State} {c b n} (wf : s.MemoryForm) : (s.advanceCi c b n).MemoryForm := by
  unfold State.advanceCi
  split
  · exact wf.setBerth
  · exact wf

theorem State.MemoryForm.finishPush {s : State} {p} (wf : s.MemoryForm) : (s.finishPush p).MemoryForm := by
  unfold State.finishPush
  split
  · exact wf
  · extract_lets s1 s2 s3
    have ks3 : s3.MemoryForm := by
      unfold s3
      split
      · exact wf.of_eq.writeCore.advancePi
      · exact wf.of_eq.writeCore
    split
    · exact ks3.addCtr
    · exact ks3

theorem State.MemoryForm.finishPull {s : State} {p} (wf : s.MemoryForm) : (s.finishPull p).MemoryForm := by
  unfold State.finishPull
  extract_lets s1 s2 s3
  have ks3 : s3.MemoryForm := by
    unfold s3
    split
    · exact wf.of_eq.writeCore.advanceCi
    · exact wf.of_eq.writeCore
  split
  · exact ks3.addCtr
  · exact ks3

theorem State.MemoryForm.flushPushes {s : State} (wf : s.MemoryForm) : (s.flushPushes).MemoryForm := wf.foldl fun _ hu _ => hu.finishPush

theorem State.MemoryForm.flushPulls {s : State} (wf : s.MemoryForm) : (s.flushPulls).MemoryForm := wf.foldl fun _ hu _ => hu.finishPull

theorem State.MemoryForm.ordered {s : State} {k} (wf : s.MemoryForm) (hk : ∀ a, a.MemoryForm → (k a).Form) : (s.ordered k).Form := by
  unfold State.ordered
  exact .ite trivial (hk _ wf.flushPulls.flushPushes.drain.seeAll)

/-! ## Matrix -/

theorem State.MemoryForm.enterLock {s : State} {party seq r} (wf : s.MemoryForm) : (s.enterLock party seq r).MemoryForm := wf.onCoreAt

theorem State.MemoryForm.acceptMatrix {s : State} {m} (wf : s.MemoryForm) : (s.acceptMatrix m).MemoryForm := by
  unfold State.acceptMatrix
  extract_lets s1 q m' s2 s3
  have ks2 : s2.MemoryForm := wf.drain.foldl fun _ hu _ => hu.enterLock
  exact ks2.onCore.complete.count

theorem State.MemoryForm.waitMatrix {s : State} {m} (wf : s.MemoryForm) : (s.waitMatrix m).MemoryForm := .ite wf wf.onCore

theorem State.MemoryForm.offerMatrix {s : State} {m} (wf : s.MemoryForm) : (s.offerMatrix m).Form := by
  unfold State.offerMatrix
  extract_lets q ahead
  split
  · exact wf.waitMatrix.block
  · split
    · exact wf.waitMatrix.block
    · exact wf.acceptMatrix

theorem mxCommand_form {s : State} {cls} (wf : s.MemoryForm) : (mxCommand cls s).Form := by
  unfold mxCommand
  extract_lets l m0 kept m
  split
  · exact wf.offerMatrix
  · split
    · exact trivial
    · split
      · exact trivial
      · exact wf.offerMatrix

theorem keeps_mxOp {opc} : Keeps (mxOp opc) := by
  unfold mxOp
  split
  · exact .some fun _ k => mxCommand_form k
  · exact .none

/-! ## Multiply -/

theorem multiply_form {s : State} {opc f} (wf : s.MemoryForm) : (multiply opc f s).Form := wf.launch

theorem divide_form {s : State} {opc n signed f} (wf : s.MemoryForm) : (divide opc n signed f s).Form := wf.launch

theorem keeps_muOp {opc} : Keeps (muOp opc) := by
  unfold muOp
  split
  · exact .some fun _ k => multiply_form k
  · exact .some fun _ k => multiply_form k
  · exact .some fun _ k => multiply_form k
  · exact .some fun _ k => multiply_form k
  · exact .some fun _ k => multiply_form k
  · exact .some fun _ k => divide_form k
  · exact .some fun _ k => divide_form k
  · exact .some fun _ k => divide_form k
  · exact .some fun _ k => divide_form k
  · exact .some fun _ k => divide_form k
  · exact .some fun _ k => divide_form k
  · exact .none

/-! ## HostPort -/

theorem State.MemoryForm.onPort {s : State} {p f} (wf : s.MemoryForm) : (s.onPort p f).MemoryForm := wf.of_eq

theorem State.MemoryForm.logAer {s : State} {p b} (wf : s.MemoryForm) : (s.logAer p b).MemoryForm := wf.setField

theorem execVfEnable_form {s : State} {port numVfs} (wf : s.MemoryForm) : Out.Form (execVfEnable port numVfs s) :=
  .ite wf (.ite wf.onPort.logAer wf.onPort)

theorem execHsemAcquire_form {s : State} {src n tag} (wf : s.MemoryForm) : Out.Form (execHsemAcquire src n tag s) := .ite wf wf.setReg

theorem execHsemRelease_form {s : State} {src n tag} (wf : s.MemoryForm) : Out.Form (execHsemRelease src n tag s) := .ite wf wf.setReg

theorem State.MemoryForm.guard {s : State} (wf : s.MemoryForm) : (s.guard).MemoryForm := wf.setField

theorem State.MemoryForm.loseSems {s : State} {p} (wf : s.MemoryForm) : (s.loseSems p).MemoryForm :=
  .ite wf (((wf.foldl fun _ hu _ => hu.setReg).setField).raiseIrq)

theorem execPortLinkDown_form {s : State} {port flr} (wf : s.MemoryForm) : Out.Form (execPortLinkDown port flr s) :=
  .ite wf (.ite wf.setReg.loseSems wf.onPort.loseSems)

theorem execHostLinkUp_form {s : State} {port cxl} (wf : s.MemoryForm) : Out.Form (execHostLinkUp port cxl s) :=
  .ite wf (.ite wf.onPort wf.guard)

theorem execMsixMessage_form {s : State} {source} (wf : s.MemoryForm) : Out.Form (execMsixMessage source s) := by
  unfold execMsixMessage
  extract_lets w vec
  split
  · split
    · exact wf
    · exact State.MemoryForm.ite wf.of_eq wf.of_eq.setField
  · exact wf

/-! ## Hamper -/

theorem State.MemoryForm.onHamper {s : State} {hk f} (wf : s.MemoryForm) : (s.onHamper hk f).MemoryForm := wf.of_eq

theorem State.MemoryForm.writeBucket {s : State} {r hk d set i bs} (wf : s.MemoryForm) (t : State)
    (e : s.writeBucket r hk d set i bs = some t) : t.MemoryForm := by
  unfold State.writeBucket at e
  split at e
  · cases e
    exact wf.writeRuns
  · cases e

theorem State.MemoryForm.spillFailed {s : State} {r} (wf : s.MemoryForm) : (s.spillFailed r).MemoryForm := wf.killJob

theorem State.MemoryForm.place {s : State} {r hk d k} (wf : s.MemoryForm) : (s.place r hk d k).1.MemoryForm := by
  unfold State.place
  extract_lets h set
  split
  · split
    · dsimp only
      exact wf.onHamper
    · exact wf
  · split
    · dsimp only
      exact wf.onHamper
    · split
      · split
        · dsimp only
          exact wf.spillFailed
        · dsimp only
          exact wf.onHamper
      · split
        · dsimp only
          exact wf.spillFailed
        · split
          · dsimp only
            exact wf.onHamper
          · exact wf

theorem State.MemoryForm.placeNew {s : State} {r hk d k} (wf : s.MemoryForm) : (s.placeNew r hk d k).1.MemoryForm := by
  unfold State.placeNew
  extract_lets h set
  split
  · exact wf
  · split
    · exact wf
    · exact wf.place

theorem State.MemoryForm.releaseHeld {s : State} {r hk set fuel} (wf : s.MemoryForm) : (s.releaseHeld r hk set fuel).MemoryForm := by
  induction fuel generalizing s with
  | zero => exact wf
  | succ fuel ih =>
    unfold State.releaseHeld
    extract_lets h
    split
    · exact wf
    · split
      · exact wf
      · split
        · exact wf
        · split
          · exact wf
          · exact ih wf.placeNew.onHamper

theorem State.MemoryForm.releaseSet {s : State} {r hk set} (wf : s.MemoryForm) : (s.releaseSet r hk set).MemoryForm := wf.releaseHeld

theorem State.MemoryForm.lateNearer {s : State} {r hk set} (wf : s.MemoryForm) : (s.lateNearer r hk set).MemoryForm := wf.onJob

theorem State.MemoryForm.serveRecord {s : State} {r hk set i} (wf : s.MemoryForm) : (s.serveRecord r hk set i).MemoryForm := by
  unfold State.serveRecord
  split
  · exact wf
  · split
    · exact wf
    · exact .ite wf.place wf.place.lateNearer.onHamper

theorem State.MemoryForm.serveOverflow {s : State} {r hk set} (wf : s.MemoryForm) : (s.serveOverflow r hk set).MemoryForm := by
  unfold State.serveOverflow
  extract_lets h first ofKey
  split
  · exact wf
  · clear_value first
    split
    · exact .ite (.ite wf.onJob.onHamper (.ite wf.spillFailed wf)) wf.serveRecord
    · exact wf.serveRecord
    · exact wf

theorem State.MemoryForm.noteStage {s : State} {r hk stage old} (wf : s.MemoryForm) : (s.noteStage r hk stage old).MemoryForm := by
  unfold State.noteStage
  extract_lets h now w set
  split
  · exact wf
  · clear_value now
    split <;> exact wf.onHamper

theorem State.MemoryForm.grantEmit {s : State} {hk k id slot} (wf : s.MemoryForm) : (s.grantEmit hk k id slot).MemoryForm := by
  unfold State.grantEmit
  extract_lets s1 lat s2
  have ks1 : s1.MemoryForm := wf.onHamper
  exact ks1.of_eq.onCoreAt

theorem State.MemoryForm.grantCredit {s : State} {r hk stage} (wf : s.MemoryForm) : (s.grantCredit r hk stage).MemoryForm := by
  unfold State.grantCredit
  extract_lets h
  split
  · exact wf
  · split
    · exact wf
    · split
      · exact wf
      · exact wf.grantEmit.noteStage

theorem State.MemoryForm.leaveFree {s : State} {r hk way} (wf : s.MemoryForm) : (s.leaveFree r hk way).MemoryForm := by
  unfold State.leaveFree
  split
  · exact wf
  · split
    · exact wf.onHamper
    · split
      · exact wf
      · exact .ite wf.spillFailed wf.onHamper

theorem State.MemoryForm.leaveIdle {s : State} {hk way carry loc rpc} (wf : s.MemoryForm) : (s.leaveIdle hk way carry loc rpc).MemoryForm := by
  unfold State.leaveIdle
  split
  · exact wf
  · exact .ite wf.onHamper wf.onHamper

theorem State.MemoryForm.checkDrains {s : State} {r} (wf : s.MemoryForm) : (s.checkDrains r).MemoryForm :=
  .ite wf.spillFailed (wf.onJob.foldl fun _ hu _ => hu.addCtr)

theorem State.MemoryForm.drainStage {s : State} {r hk stage d} (wf : s.MemoryForm) : (s.drainStage r hk stage d).MemoryForm := by
  unfold State.drainStage
  exact wf.onHamper.onHamper

theorem execCreditGrant_form {s : State} {stage} (wf : s.MemoryForm) : Out.Form (execCreditGrant stage s) := by
  unfold execCreditGrant
  split
  · exact wf.grantCredit
  · exact wf

theorem execHamperArrival_form {s : State} {k} (wf : s.MemoryForm) : Out.Form (execHamperArrival k s) := by
  unfold execHamperArrival
  split
  · exact wf
  · split
    · exact wf
    · extract_lets hk s1
      split
      · exact wf.of_eq
      · split
        · exact wf.of_eq
        · exact wf.of_eq.placeNew.onHamper

theorem spillVictim_form {s : State} {r hk set} (wf : s.MemoryForm) : (spillVictim r hk set s).MemoryForm := by
  unfold spillVictim
  extract_lets h
  split
  · split
    · exact wf.onHamper.releaseSet
    · split
      · exact wf
      · split
        · exact wf.spillFailed
        · split
          · exact wf.onHamper.releaseSet
          · split
            · exact wf.spillFailed
            · rename_i s1 e
              exact (wf.writeBucket s1 e).onHamper.releaseSet
  · exact wf

theorem State.MemoryForm.refill {s : State} {r hk d set i way bs drain} (wf : s.MemoryForm) :
    (s.refill r hk d set i way bs drain).MemoryForm := by
  unfold State.refill
  split
  · exact wf.spillFailed
  · rename_i s1 e
    exact (wf.writeBucket s1 e).onHamper

theorem State.MemoryForm.fetchNoWay {s : State} {r hk set stage key drain} (wf : s.MemoryForm) :
    (s.fetchNoWay r hk set stage key drain).MemoryForm := by
  unfold State.fetchNoWay
  extract_lets s1 ahead
  split
  · exact wf.onHamper.onJob
  · split
    · exact wf.onHamper.onHamper
    · exact wf.onHamper

theorem State.MemoryForm.fetchMiss {s : State} {r hk set stage key drain d} (wf : s.MemoryForm) :
    (s.fetchMiss r hk set stage key drain d).MemoryForm := by
  unfold State.fetchMiss
  split
  · exact wf.onHamper
  · split
    · exact .ite wf.spillFailed wf.onHamper
    · exact wf.onHamper
    · exact wf.fetchNoWay

theorem State.MemoryForm.fetchHit {s : State} {r hk set stage key drain d i bs} (wf : s.MemoryForm) :
    (s.fetchHit r hk set stage key drain d i bs).MemoryForm := by
  unfold State.fetchHit
  split
  · exact wf.refill.onHamper
  · exact wf.onHamper
  · exact wf.fetchNoWay

theorem bucketFetch_form {s : State} {r hk set} (wf : s.MemoryForm) : (bucketFetch r hk set s).MemoryForm := by
  unfold bucketFetch
  extract_lets h
  split
  · split
    · exact wf
    · split
      · exact wf.onHamper.releaseSet
      · split
        · exact wf.spillFailed
        · split
          · exact wf.spillFailed
          · extract_lets found' s1'
            have ks1' : s1'.MemoryForm := by
              unfold s1'
              clear_value found'
              split
              · exact wf.fetchHit
              · exact wf.fetchMiss
            exact ks1'.releaseSet.checkDrains.checkJob
  · exact wf

theorem execSpillVictimWrite_form {s : State} {set} (wf : s.MemoryForm) : Out.Form (execSpillVictimWrite set s) := by
  unfold execSpillVictimWrite
  split
  · exact spillVictim_form wf
  · exact wf

theorem execBucketFetch_form {s : State} {set} (wf : s.MemoryForm) : Out.Form (execBucketFetch set s) := by
  unfold execBucketFetch
  split
  · exact bucketFetch_form wf
  · exact wf

theorem execOverflowServe_form {s : State} {set} (wf : s.MemoryForm) : Out.Form (execOverflowServe set s) := by
  unfold execOverflowServe
  split
  · exact wf.serveOverflow
  · exact wf

theorem handOff_form {s : State} {r hk} (wf : s.MemoryForm) : (handOff r hk s).MemoryForm := by
  unfold handOff
  extract_lets kept
  split
  · exact wf
  · split
    · exact wf
    · exact wf.onHamper.onCoreAt

theorem State.MemoryForm.handOffAll {s : State} {r hk fuel} (wf : s.MemoryForm) : (s.handOffAll r hk fuel).MemoryForm := by
  induction fuel generalizing s with
  | zero => exact wf
  | succ fuel ih => exact ih (handOff_form wf)

theorem execActivationHandoff_form {s : State} (wf : s.MemoryForm) : Out.Form (execActivationHandoff s) := by
  unfold execActivationHandoff
  split
  · exact handOff_form wf
  · exact wf

theorem execIdleTimeout_form {s : State} {set way} (wf : s.MemoryForm) : Out.Form (execIdleTimeout set way s) := by
  unfold execIdleTimeout
  split
  · exact wf
  · split
    · exact wf
    · split
      · exact wf
      · exact .ite wf wf.onHamper

/-! ## Keyed -/

theorem State.MemoryForm.withStage {s : State} {g tval k} (wf : s.MemoryForm) (hk : ∀ a, ∀ b, (k a b).Form) : (s.withStage g tval k).Form := by
  unfold State.withStage
  split
  · exact trivial
  · split
    · exact hk _ _
    · exact .ite wf.complete.spillFailed trivial

theorem State.MemoryForm.emitOn {s0 : State} {r d pay} (wf : s0.MemoryForm) : (s0.emitOn r d pay).Form :=
  wf.ordered (fun _ hu => by
    extract_lets l g p hk me h k s1
    have ks1 : s1.MemoryForm := .ite hu hu.onHamper.noteStage
    exact .ite hu.grantEmit.noteStage (holding_form ks1.block))

theorem ksEmit_form {s : State} (wf : s.MemoryForm) : (ksEmit s).Form := by
  unfold ksEmit
  refine State.check_form (State.check_form (wf.withStage fun r d => ?_))
  split
  · exact wf.emitOn
  · split
    · exact wf.emitOn
    · dsimp only
      split
      · exact trivial
      · split
        · exact trivial
        · exact wf.emitOn

theorem State.MemoryForm.leftKey {s : State} (wf : s.MemoryForm) : (s.leftKey).MemoryForm := by
  unfold State.leftKey
  split
  · exact wf.checkDrains
  · exact wf

theorem ksYield_form {s : State} (wf : s.MemoryForm) : (ksYield s).Form := by
  unfold ksYield
  extract_lets t
  split
  · exact trivial
  · refine wf.ordered fun _ hu => ?_
    split
    · exact hu.endSlot
    · exact .ite hu.releaseLock.leaveFree.complete.onSl.leftKey hu.settleVector.leaveIdle.endSlot

theorem ksEnd_form {s : State} (wf : s.MemoryForm) : (ksEnd s).Form := by
  unfold ksEnd
  extract_lets t
  split
  · exact trivial
  · refine wf.ordered fun _ hu => ?_
    split
    · exact hu.endSlot
    · exact hu.leaveFree.endSlot.leftKey

theorem ksDrain_form {s : State} (wf : s.MemoryForm) : (ksDrain s).Form := by
  unfold ksDrain
  extract_lets l g ce
  split
  · exact trivial
  · split
    · exact trivial
    · split
      · exact trivial
      · refine wf.withStage fun _ _ => ?_
        split
        · exact trivial
        · extract_lets s1' s2'
          have ks1' : s1'.MemoryForm := wf.complete.foldl fun _ hu _ => hu.drainStage
          have ks2' : s2'.MemoryForm := .ite ks1'.onJob ks1'
          exact State.MemoryForm.ite ks2'.spillFailed ks2'.checkDrains

theorem ksStat_form {s : State} (wf : s.MemoryForm) : (ksStat s).Form := by
  unfold ksStat
  exact State.check_form wf.complete

theorem keeps_ksOp {opc} : Keeps (ksOp opc) := by
  unfold ksOp
  split
  · exact .some fun _ k => ksYield_form k
  · exact .some fun _ k => ksEnd_form k
  · exact .some fun _ k => ksEmit_form k
  · exact .some fun _ k => ksDrain_form k
  · exact .some fun _ k => ksStat_form k
  · exact .none

/-! ## Octet -/

theorem State.MemoryForm.within {s : State} {id f} (wf : s.MemoryForm) (hf : ∀ a, a.MemoryForm → (f a).MemoryForm) : (s.within id f).MemoryForm :=
  (hf _ wf.focus).focus

theorem State.MemoryForm.octet {s : State} {id} (wf : s.MemoryForm) : (s.octet id).scale.wf :=
  wf_look Memory.wf_nil wf.scales

theorem State.MemoryForm.onOctet {s : State} {id f} (wf : s.MemoryForm) (hf : ∀ o : Octet, o.scale.wf → (f o).scale.wf) :
    (s.onOctet id f).MemoryForm :=
  { wf with scales := wf_put wf.scales (hf _ wf.octet) }

theorem Octet.wf_setElem {o : Octet} {slot m n v} (wf : o.scale.wf) : (Octet.setElem o slot m n v).scale.wf := wf

theorem Octet.wf_region {o : Octet} {slot rows cols f} (wf : o.scale.wf) : (Octet.region o slot rows cols f).1.scale.wf :=
  List.foldlRecOn _ _ (motive := fun r : Octet × Nat => r.1.scale.wf) wf fun _ hr _ _ => Octet.wf_setElem hr

theorem State.MemoryForm.noteMatrix {s : State} (wf : s.MemoryForm) : (s.noteMatrix).MemoryForm := by
  unfold State.noteMatrix
  refine .ite wf ?_
  generalize s.matrixWait = w
  refine wf.onCore fun c hc => ?_
  cases w with
  | none => exact Core.wf_mq hc
  | some p => exact Core.wf_ite hc (Core.wf_mq hc)

theorem State.MemoryForm.onHead {s : State} {f} (wf : s.MemoryForm) : (s.onHead f).MemoryForm := wf.onCore

theorem State.MemoryForm.dropLocks {s : State} {m all} (wf : s.MemoryForm) : (s.dropLocks m all).MemoryForm := by
  unfold State.dropLocks
  exact wf.mapCores (fun _ _ hu => Core.wf_ite hu hu)

theorem State.MemoryForm.advanceBerths {s : State} {m source} (wf : s.MemoryForm) : (s.advanceBerths m source).MemoryForm :=
  wf.foldl fun _ hu _ => .ite hu.advanceCi hu.advancePi

theorem matrixFetch_form {s : State} (wf : s.MemoryForm) : (matrixFetch s).MemoryForm := by
  unfold matrixFetch
  split
  · exact wf
  · exact .ite wf (.ite wf.onHead.dropLocks.advanceBerths wf.onHead)

theorem State.MemoryForm.stepEffect {s : State} {m} (wf : s.MemoryForm) : (s.stepEffect m).1.scale.wf := by
  unfold State.stepEffect
  dsimp only
  split
  · exact Octet.wf_region wf.octet
  · exact Octet.wf_region wf.octet
  · exact Octet.wf_region wf.octet
  · exact Octet.wf_region wf.octet
  · exact Octet.wf_region wf.octet
  · exact wf.octet

theorem State.MemoryForm.runStep {s : State} (wf : s.MemoryForm) : (s.runStep).MemoryForm := by
  unfold State.runStep
  split
  · exact wf
  · exact (wf.onOctet fun _ _ => wf.stepEffect).onHead

theorem matrixStep_form {s : State} (wf : s.MemoryForm) : (matrixStep s).MemoryForm := by
  unfold matrixStep
  extract_lets qs rdy s1 total best
  have ks1 : s1.MemoryForm := wf.foldl fun _ hu _ => hu.onCoreAt
  clear_value best
  split
  · exact ks1
  · exact ks1.onCoreAt.within (fun _ hu => hu.runStep)

theorem State.MemoryForm.matrixWrites {s : State} {m} (wf : s.MemoryForm) : (s.matrixWrites m).1.MemoryForm := by
  unfold State.matrixWrites
  extract_lets o
  dsimp only
  split
  · dsimp only
    refine .ite (State.MemoryForm.onOctet ?_ fun _ hu => Octet.wf_region hu) ?_
    · exact wf.foldl fun _ hu _ => hu.writeCore
    · exact wf.foldl fun _ hu _ => hu.writeCore
  · split
    · exact wf
    · dsimp only
      exact wf.onOctet (fun _ hu => Memory.wf_write (Memory.wf_write hu _ _) _ _)
  · dsimp only
    exact State.MemoryForm.ite wf.writeCore.onCore wf.writeCore
  · exact wf

theorem State.MemoryForm.countMatrix {s : State} {ns} (wf : s.MemoryForm) : (s.countMatrix ns).MemoryForm := wf.foldl fun _ hu _ => hu.addCtr

theorem State.MemoryForm.completeHead {s : State} {m} (wf : s.MemoryForm) : (s.completeHead m).MemoryForm :=
  wf.matrixWrites.dropLocks.advanceBerths.onCore.countMatrix

theorem matrixComplete_form {s : State} (wf : s.MemoryForm) : (matrixComplete s).MemoryForm := by
  unfold matrixComplete
  split
  · exact wf
  · split
    · exact wf.completeHead
    · split
      · exact wf
      · exact .ite wf wf.onCore.countMatrix

theorem execMatrixAccept_form {s : State} (wf : s.MemoryForm) : Out.Form (execMatrixAccept s) := by
  unfold execMatrixAccept
  split
  · split
    · split
      · rename_i s1 e
        have hu := Res.Form.of_ok e (mxCommand_form wf)
        exact hu
      · exact wf
    · exact wf
  · exact wf

theorem execMatrixFetchDone_form {s : State} (wf : s.MemoryForm) : Out.Form (execMatrixFetchDone s) := matrixFetch_form wf

theorem execMatrixStepStart_form {s : State} (wf : s.MemoryForm) : Out.Form (execMatrixStepStart s) := matrixStep_form wf

theorem execMatrixCommandComplete_form {s : State} (wf : s.MemoryForm) : Out.Form (execMatrixCommandComplete s) := matrixComplete_form wf

/-! ## Launch -/

theorem State.MemoryForm.arm {s : State} {r} (wf : s.MemoryForm) : (s.arm r).MemoryForm := by
  unfold State.arm
  extract_lets sets bars base src j src' s1
  have ksrc' : src'.MemoryForm := wf.setRecState
  exact ksrc'.of_eq.writeRec

theorem syLaunch_form {s : State} (wf : s.MemoryForm) : (syLaunch s).Form := by
  unfold syLaunch
  extract_lets t r
  split
  · exact trivial
  · exact .ite trivial (.ite trivial (wf.ordered (fun _ hu => hu.arm.launch)))

theorem syLpatch_form {s : State} (wf : s.MemoryForm) : (syLpatch s).Form := by
  unfold syLpatch
  exact .ite trivial (.ite trivial (.ite trivial wf.setDw.launch))

theorem State.MemoryForm.fillSlot {s : State} {id n kind next f} (wf : s.MemoryForm) : (s.fillSlot id n kind next f).MemoryForm := by
  unfold State.fillSlot
  split
  · exact wf
  · split
    · exact wf.killJob
    · exact .ite wf (.ite wf.markDead wf.onCoreAt)

theorem State.MemoryForm.renameJoin {s : State} {id h' n} (wf : s.MemoryForm) : (s.renameJoin id h' n).MemoryForm := by
  unfold State.renameJoin
  exact wf.onCoreAt

theorem State.MemoryForm.fillKey {s : State} {id n k} (wf : s.MemoryForm) : (s.fillKey id n k).MemoryForm := by
  unfold State.fillKey
  extract_lets hk h way i rec_ win
  split
  · exact wf
  · extract_lets s1' s2'
    split
    · exact wf.fillSlot
    · clear_value i
      clear_value rec_
      split
      · exact wf.fillSlot.writeCore.writeCore.onHamper
      · exact wf.fillSlot.writeCore.onHamper

theorem State.MemoryForm.startActivation {s : State} {id n a} (wf : s.MemoryForm) : (s.startActivation id n a).MemoryForm := by
  unfold State.startActivation
  split
  · exact wf.fillKey
  · extract_lets s1
    split
    · exact wf.fillSlot.onCoreAt.renameJoin
    · exact wf.fillSlot

theorem execActivationFill_form {s : State} (wf : s.MemoryForm) : Out.Form (execActivationFill s) := by
  unfold execActivationFill
  extract_lets ready
  clear_value ready
  split
  · exact wf.onCore.startActivation
  · exact wf

theorem wf_placeMemory {k m tags img bm handler berths} (wf : m.wf) : (placeMemory k m tags img bm handler berths).1.wf := by
  unfold placeMemory
  extract_lets parts m1 t1 t2 m2 t3 m3 t4 m4
  have km1 : m1.wf := Memory.wf_foldl wf fun _ hu _ => Memory.wf_write hu _ _
  have km2 : m2.wf := by
    unfold m2
    split
    · exact Memory.wf_write km1 _ _
    · exact km1
  have km3 : m3.wf := Memory.wf_foldl km2 fun _ hu _ => by
    split
    · exact Memory.wf_write hu _ _
    · exact hu
  exact Memory.wf_write km3 _ _

theorem Octet.wf_clean {o : Octet} {first count} (wf : o.scale.wf) : (Octet.clean o first count).scale.wf := Memory.wf_write wf _ _

theorem State.MemoryForm.seat {s : State} {r p preempted} (wf : s.MemoryForm) : (s.seat r p preempted).MemoryForm := by
  unfold State.seat
  extract_lets e n a img bm cs bs ceil acc s1 s2
  have ks1 : s1.MemoryForm := wf.onCoreAt fun c hu => wf_placeMemory (tags := c.tags) (bm := bm) hu
  have ks2 : s2.MemoryForm := { ks1 with }
  exact .ite (ks2.onOctet fun _ hu => Octet.wf_clean hu) ks2

theorem State.MemoryForm.openHampers {s : State} {r} (wf : s.MemoryForm) : (s.openHampers r).MemoryForm := by
  unfold State.openHampers
  exact wf.of_eq.foldl fun _ hu _ => hu.foldl fun _ hu1 _ => hu1.onHamper

theorem State.MemoryForm.zeroCounters {s : State} {r dies} (wf : s.MemoryForm) : (s.zeroCounters r dies).MemoryForm := .ite wf wf.of_eq

theorem State.MemoryForm.placeJob {s : State} {r dies clusters} (wf : s.MemoryForm) : (s.placeJob r dies clusters).MemoryForm := by
  unfold State.placeJob
  extract_lets src j seats s1 s2 s2' s3 args
  have ks2' : s2'.MemoryForm := wf.of_eq.zeroCounters.setRecState.openHampers.foldl fun _ hu _ => hu.seat
  have ks3 : s3.MemoryForm := .ite ks2' ks2'.killJob
  exact ks3.foldl fun _ hu _ => hu.fillSlot

theorem execRecordPlace_form {s : State} {rec dies clusters} (wf : s.MemoryForm) : Out.Form (execRecordPlace rec dies clusters s) :=
  .ite wf.placeJob wf

/-! ## Pages -/

theorem State.MemoryForm.askPage {s : State} {who party asid vf va access} (wf : s.MemoryForm) :
    (s.askPage who party asid vf va access).1.MemoryForm := by
  unfold State.askPage
  split
  · exact wf
  · extract_lets tag tail next s0 s1
    have ks0 : s0.MemoryForm := wf.writeDevice.writeDevice
    exact ks0.of_eq.setReg

theorem State.MemoryForm.dropPage {s : State} {tag} (wf : s.MemoryForm) : (s.dropPage tag).MemoryForm := by
  unfold State.dropPage
  split
  · exact wf.of_eq
  · exact wf

/-! ## Queues -/

theorem State.MemoryForm.onQueue {s : State} {q f} (wf : s.MemoryForm) : (s.onQueue q f).MemoryForm := wf.of_eq

theorem State.MemoryForm.setQState {s : State} {q v} (wf : s.MemoryForm) : (s.setQState q v).MemoryForm := wf.setField

theorem State.MemoryForm.onLight {s : State} {die f} (wf : s.MemoryForm) : (s.onLight die f).MemoryForm := wf.of_eq

theorem State.MemoryForm.stopQueue {s : State} {q code} (wf : s.MemoryForm) : (s.stopQueue q code).MemoryForm := by
  unfold State.stopQueue
  exact .ite wf.setReg.onQueue.raiseQueue wf.setReg.onQueue

theorem State.MemoryForm.releaseEmpty {s : State} {q} (wf : s.MemoryForm) : (s.releaseEmpty q).MemoryForm := .ite wf.onQueue.setQState wf

theorem State.MemoryForm.newTail {s : State} {q v fromReg} (wf : s.MemoryForm) : (s.newTail q v fromReg).MemoryForm :=
  .ite wf (.ite (.ite wf.stopQueue wf) wf.onQueue.setReg.releaseEmpty)

theorem execQtailWrite_form {s : State} {q tail} (wf : s.MemoryForm) : Out.Form (execQtailWrite q tail s) := .ite wf wf.newTail

theorem sySubmit_form {s : State} (wf : s.MemoryForm) : (sySubmit s).Form := by
  unfold sySubmit
  extract_lets l q d old
  split
  · exact trivial
  · split
    · exact trivial
    · exact .ite trivial (.ite trivial (wf.ordered (fun _ hu => hu.newTail.launch)))

theorem State.MemoryForm.dropQueuePage {s : State} {q} (wf : s.MemoryForm) : (s.dropQueuePage q).MemoryForm := wf.dropPage.onQueue

theorem State.MemoryForm.resetQueue {s : State} {q} (wf : s.MemoryForm) : (s.resetQueue q).MemoryForm := by
  unfold State.resetQueue
  extract_lets s1 s2
  have ks1 : s1.MemoryForm := wf.dropQueuePage.onQueue
  exact ks1.of_eq.setReg.setReg

theorem execQctlReset_form {s : State} {q} (wf : s.MemoryForm) : Out.Form (execQctlReset q s) := .ite wf wf.resetQueue

theorem State.MemoryForm.notePending {s : State} {q} (wf : s.MemoryForm) : (s.notePending q).MemoryForm := by
  unfold State.notePending
  exact .ite wf wf.onQueue

theorem State.MemoryForm.leaveSlot {s : State} {q} (wf : s.MemoryForm) : (s.leaveSlot q).MemoryForm := wf.onQueue.setQState

theorem State.MemoryForm.takePacket {s : State} {q kind k} (wf : s.MemoryForm) (hk : ∀ a, ∀ b, b.MemoryForm → (k a b).MemoryForm) :
    Out.Form (s.takePacket q kind k) := by
  unfold State.takePacket
  split
  · exact wf
  · exact .ite wf (.ite wf.stopQueue (.ite wf (.ite wf.stopQueue (hk _ _ wf))))

theorem State.MemoryForm.endPacket {s : State} {q p} (wf : s.MemoryForm) : (s.endPacket q p).MemoryForm := by
  unfold State.endPacket
  extract_lets h s1 s2 s3
  have ks1 : s1.MemoryForm := .ite wf.addCtr wf
  have ks2 : s2.MemoryForm := .ite ks1.raiseQueue ks1
  exact .ite ks2.onQueue.setReg.onQueue.setQState ks2.onQueue.setReg.setQState

theorem State.MemoryForm.holdPacket {s : State} {q p reason} (wf : s.MemoryForm) : (s.holdPacket q p reason).MemoryForm := by
  unfold State.holdPacket
  extract_lets s1 f
  split
  · exact wf.onQueue.setQState
  · exact .ite wf.onQueue.setQState wf.onQueue.setQState.onQueue

theorem execPktNoop_form {s : State} {q} (wf : s.MemoryForm) : Out.Form (execPktNoop q s) := wf.takePacket (fun _ _ hu => hu.endPacket)

theorem State.MemoryForm.runLaunch {s : State} {q p} (wf : s.MemoryForm) : (s.runLaunch q p).MemoryForm := by
  unfold State.runLaunch
  extract_lets w r s1
  split
  · exact wf.stopQueue
  · exact .ite wf.stopQueue (.ite wf.stopQueue (.ite wf.arm.onQueue.holdPacket wf.arm.onQueue.endPacket))

theorem execPktLaunch_form {s : State} {q} (wf : s.MemoryForm) : Out.Form (execPktLaunch q s) := wf.takePacket (fun _ _ hu => hu.runLaunch)

theorem State.MemoryForm.testFence {s : State} {q p} (wf : s.MemoryForm) : (s.testFence q p).MemoryForm := by
  unfold State.testFence
  exact .ite wf.endPacket wf.onQueue.holdPacket

theorem execPktFence_form {s : State} {q} (wf : s.MemoryForm) : Out.Form (execPktFence q s) :=
  wf.takePacket (fun _ _ hu => .ite hu.testFence hu.stopQueue)

theorem State.MemoryForm.askQueuePage {s : State} {q addr access} (wf : s.MemoryForm) : (s.askQueuePage q addr access).MemoryForm := by
  unfold State.askQueuePage
  exact wf.askPage.onQueue

theorem State.MemoryForm.testWait {s : State} {q p} (wf : s.MemoryForm) : (s.testWait q p).MemoryForm := by
  unfold State.testWait
  extract_lets addr reason s1
  split
  · exact wf.stopQueue
  · exact wf.holdPacket.askQueuePage.onQueue.leaveSlot
  · exact .ite wf.endPacket wf.onQueue.holdPacket

theorem execPktWait_form {s : State} {q} (wf : s.MemoryForm) : Out.Form (execPktWait q s) :=
  wf.takePacket (fun _ _ hu => .ite hu.testWait hu.stopQueue)

theorem State.MemoryForm.storeSignal {s : State} {q p} (wf : s.MemoryForm) : (s.storeSignal q p).MemoryForm := by
  unfold State.storeSignal
  extract_lets addr
  split
  · exact wf.stopQueue
  · exact wf.holdPacket.askQueuePage
  · exact wf.writeHome.endPacket

theorem State.MemoryForm.signalJob {s : State} {r v} (wf : s.MemoryForm) : (s.signalJob r v).MemoryForm := .ite wf wf.atControl

theorem State.MemoryForm.runSignal {s : State} {q p op} (wf : s.MemoryForm) : (s.runSignal q p op).MemoryForm := by
  unfold State.runSignal
  extract_lets o w
  split
  · exact .ite wf.stopQueue wf
  · split
    · exact wf.stopQueue
    · split
      · exact .ite wf.storeSignal wf.stopQueue
      · exact .ite wf.stopQueue (.ite wf.stopQueue wf.signalJob.endPacket)

theorem execPktSignalStore_form {s : State} {q} (wf : s.MemoryForm) : Out.Form (execPktSignalStore q s) :=
  wf.takePacket (fun _ _ hu => hu.runSignal)

theorem execPktSignalHost_form {s : State} {q} (wf : s.MemoryForm) : Out.Form (execPktSignalHost q s) :=
  wf.takePacket (fun _ _ hu => hu.runSignal)

theorem State.MemoryForm.runLeg {s : State} {q p} (wf : s.MemoryForm) : (s.runLeg q p).MemoryForm := by
  unfold State.runLeg
  exact .ite wf.stopQueue (.ite wf.stopQueue (.ite wf.setLeg.onQueue.holdPacket wf.setLeg.onQueue.endPacket))

theorem execPktLeg_form {s : State} {q} (wf : s.MemoryForm) : Out.Form (execPktLeg q s) := wf.takePacket (fun _ _ hu => hu.runLeg)

theorem execLegFire_form {s : State} {q leg} (wf : s.MemoryForm) : Out.Form (execLegFire q leg s) := by
  unfold execLegFire
  extract_lets k
  split
  · exact wf
  · split
    · exact wf
    · split
      · exact wf.stopQueue
      · split
        · exact wf.stopQueue
        · split
          · exact wf
          · exact wf.setLeg.arm.onJob

theorem execPacketComplete_form {s : State} {q} (wf : s.MemoryForm) : Out.Form (execPacketComplete q s) := by
  unfold execPacketComplete
  extract_lets f
  split
  · exact wf
  · split
    · exact wf
    · split
      · exact State.MemoryForm.ite wf.endPacket wf
      · exact wf.testFence
      · exact wf.testWait
      · exact wf.storeSignal
      · exact State.MemoryForm.ite wf.endPacket wf
      · exact wf

theorem execQueueResident_form {s : State} {die} (wf : s.MemoryForm) : Out.Form (execQueueResident die s) := by
  unfold execQueueResident
  split
  · exact wf
  · split
    · exact wf
    · extract_lets d s1
      have ks1 : s1.MemoryForm := wf.onQueue.setQState
      split
      · exact ks1.stopQueue
      · split
        · exact State.MemoryForm.ite ks1.testWait ks1
        · exact ks1

theorem execQueueSlotYield_form {s : State} {q} (wf : s.MemoryForm) : Out.Form (execQueueSlotYield q s) := by
  unfold execQueueSlotYield
  extract_lets f die rival
  split
  · exact wf
  · exact .ite wf.leaveSlot wf

/-! ## Scratchpad -/

theorem lsLoad_form {s : State} {opc n signed} (wf : s.MemoryForm) : (lsLoad opc n signed s).Form := by
  unfold lsLoad
  exact State.withSpa_form (fun _ => wf.launch.count)

theorem lsStore_form {s : State} {n} (wf : s.MemoryForm) : (lsStore n s).Form := by
  unfold lsStore
  exact State.withSpa_form (fun _ => wf.complete.buffer.count)

theorem lsRelease_form {s : State} {sc} (wf : s.MemoryForm) : (lsRelease sc s).Form := by
  unfold lsRelease
  extract_lets l s1
  have ks1 : s1.MemoryForm := .ite wf.flushPulls.flushPushes wf.flushPulls
  exact State.withSpa_form (fun _ => .ite trivial ks1.complete.buffer.count)

theorem State.MemoryForm.lockGate {s : State} {opc c off k} (wf : s.MemoryForm) (hk : ∀ a, a.MemoryForm → (k a).Form) :
    (s.lockGate opc c off k).Form := by
  unfold State.lockGate
  extract_lets b m me queued
  have kqueued : queued.MemoryForm := .ite wf wf.onCoreAt
  split
  · exact kqueued.block
  · exact hk _ wf.onCoreAt

theorem lsLla_form {s : State} (wf : s.MemoryForm) : (lsLla s).Form := by
  unfold lsLla
  exact State.check_form (State.withSpa_form (fun _ => wf.ordered (fun _ hu => hu.lockGate (fun _ hu1 => hu1.onCoreAt.onSl.launch))))

theorem lsSsu_form {s : State} (wf : s.MemoryForm) : (lsSsu s).Form := by
  unfold lsSsu
  refine State.withSpa_form fun _ => ?_
  split
  · split
    · split
      · exact wf.ordered (fun _ hu => hu.launch)
      · exact .ite trivial (wf.ordered (fun _ hu => hu.writeCore.releaseLock.launch))

theorem lsAtomic_form {s : State} {opc f} (wf : s.MemoryForm) : (lsAtomic opc f s).Form := by
  unfold lsAtomic
  refine State.withSpa_form (fun _ => wf.ordered (fun _ hu => hu.lockGate (fun _ hu1 => ?_)))
  extract_lets old' new' s1'
  have ks1' : s1'.MemoryForm := by
    unfold s1'
    clear_value new'
    split
    · exact hu1.writeCore
    · exact hu1
  exact ks1'.launch

theorem lsFget_form {s : State} (wf : s.MemoryForm) : (lsFget s).Form := by
  unfold lsFget
  refine State.check_form (State.withSpa_form fun p => ?_)
  dsimp only
  split
  · exact wf.drain.launch
  · split
    · exact wf.drain.launch
    · exact .ite trivial wf.drain.block

theorem lsFclr_form {s : State} (wf : s.MemoryForm) : (lsFclr s).Form := by
  unfold lsFclr
  exact State.withSpa_form (fun _ => wf.ordered (fun _ hu => hu.lockGate (fun _ hu1 => hu1.onCoreAt.launch)))

theorem State.withBerth_form {s : State} {counted wait e k} (hk : ∀ a, ∀ b, ∀ c, (k a b c).Form) : (s.withBerth counted wait e k).Form := by
  unfold State.withBerth
  extract_lets l b c badA
  split
  · exact trivial
  · refine State.check_form (State.check_form (State.check_form ?_))
    split
    · exact trivial
    · exact State.check_form (State.check_form (hk _ _ _))

theorem lsBwait_form {s : State} (wf : s.MemoryForm) : (lsBwait s).Form := by
  unfold lsBwait
  exact State.withBerth_form (fun _ _ _ => .ite (.ite wf.block wf.launch) (.ite wf.block wf.launch))

theorem lsBadv_form {s : State} (wf : s.MemoryForm) : (lsBadv s).Form := by
  unfold lsBadv
  exact State.withBerth_form (fun _ _ _ => .ite trivial wf.drain.advanceCi.launch)

theorem lsBpush_form {s : State} (wf : s.MemoryForm) : (lsBpush s).Form := by
  unfold lsBpush
  exact State.withBerth_form (fun _ _ _ => .ite trivial wf.drain.advancePi.launch)

theorem lsBstat_form {s : State} (wf : s.MemoryForm) : (lsBstat s).Form := State.withBerth_form (fun _ _ _ => wf.launch)

theorem keeps_lsOp {opc} : Keeps (lsOp opc) := by
  unfold lsOp
  split
  · exact .some fun _ k => lsLoad_form k
  · exact .some fun _ k => lsLoad_form k
  · exact .some fun _ k => lsLoad_form k
  · exact .some fun _ k => lsLoad_form k
  · exact .some fun _ k => lsLoad_form k
  · exact .some fun _ k => lsLoad_form k
  · exact .some fun _ k => lsLoad_form k
  · exact .some fun _ k => lsStore_form k
  · exact .some fun _ k => lsStore_form k
  · exact .some fun _ k => lsStore_form k
  · exact .some fun _ k => lsStore_form k
  · exact .some fun _ k => lsLoad_form k
  · exact .some fun _ k => lsLoad_form k
  · exact .some fun _ k => lsLoad_form k
  · exact .some fun _ k => lsLoad_form k
  · exact .some fun _ k => lsLoad_form k
  · exact .some fun _ k => lsLoad_form k
  · exact .some fun _ k => lsRelease_form k
  · exact .some fun _ k => lsRelease_form k
  · exact .some fun _ k => lsRelease_form k
  · exact .some fun _ k => lsRelease_form k
  · exact .some fun _ k => lsRelease_form k
  · exact .some fun _ k => lsRelease_form k
  · exact .some fun _ k => lsLla_form k
  · exact .some fun _ k => lsSsu_form k
  · exact .some fun _ k => lsAtomic_form k
  · exact .some fun _ k => lsAtomic_form k
  · exact .some fun _ k => lsAtomic_form k
  · exact .some fun _ k => lsAtomic_form k
  · exact .some fun _ k => lsAtomic_form k
  · exact .some fun _ k => lsAtomic_form k
  · exact .some fun _ k => lsAtomic_form k
  · exact .some fun _ k => lsAtomic_form k
  · exact .some fun _ k => lsAtomic_form k
  · exact .some fun _ k => lsFget_form k
  · exact .some fun _ k => lsRelease_form k
  · exact .some fun _ k => lsFclr_form k
  · exact .some fun _ k => lsBwait_form k
  · exact .some fun _ k => lsBadv_form k
  · exact .some fun _ k => lsBpush_form k
  · exact .some fun _ k => lsBstat_form k
  · exact .none

/-! ## Quay -/

theorem State.withVa_form {s : State} {n a k} (hk : ∀ a, (k a).Form) : (s.withVa n a k).Form := by
  unfold State.withVa
  extract_lets t
  split
  · exact trivial
  · exact hk _

theorem qmLoad_form {s : State} {opc n signed} (wf : s.MemoryForm) : (qmLoad opc n signed s).Form :=
  State.withVa_form (fun _ => wf.asked.launch)

theorem qmStore_form {s : State} {n} (wf : s.MemoryForm) : (qmStore n s).Form := by
  unfold qmStore
  exact State.withVa_form (fun _ => wf.complete.buffer.count)

theorem qmRelease_form {s : State} {sc} (wf : s.MemoryForm) : (qmRelease sc s).Form := by
  unfold qmRelease
  extract_lets l s1
  have ks1 : s1.MemoryForm := .ite wf.flushPulls.flushPushes wf.flushPulls
  exact State.withVa_form (fun _ => .ite trivial ks1.complete.buffer.count)

theorem qmAtomic_form {s : State} {opc f} (wf : s.MemoryForm) : (qmAtomic opc f s).Form := by
  unfold qmAtomic
  refine State.withVa_form (fun _ => wf.ordered (fun _ hu => ?_))
  extract_lets old' new' s1'
  have ks1' : s1'.MemoryForm := by
    unfold s1'
    clear_value new'
    split
    · exact hu.writeHome
    · exact hu.asked
  exact ks1'.launch

theorem qmFence_form {s : State} (wf : s.MemoryForm) : (qmFence s).Form := wf.ordered (fun _ hu => hu.complete)

theorem State.MemoryForm.copyNow {s0 : State} {push} (wf : s0.MemoryForm) : (s0.copyNow push).Form := by
  unfold State.copyNow
  refine wf.ordered fun s hu => ?_
  extract_lets l opc len near far b obj ctr me go
  have kgo : ∀ off berth, (go off berth).Form := fun _ _ => State.MemoryForm.launch (.ite hu.of_eq hu.of_eq)
  split
  · exact kgo _ _
  · split
    · exact trivial
    · split
      · split
        · exact hu.block
        · split
          · exact hu.block
          · exact kgo _ _
      · exact .ite hu.block (kgo _ _)

theorem qmCopy_form {s : State} {push} (wf : s.MemoryForm) : (qmCopy push s).Form := by
  unfold qmCopy
  split
  · exact wf.copyNow
  · split
    · exact trivial
    · exact wf.copyNow

theorem keeps_qmOp {opc} : Keeps (qmOp opc) := by
  unfold qmOp
  split
  · exact .some fun _ k => qmLoad_form k
  · exact .some fun _ k => qmLoad_form k
  · exact .some fun _ k => qmLoad_form k
  · exact .some fun _ k => qmLoad_form k
  · exact .some fun _ k => qmLoad_form k
  · exact .some fun _ k => qmLoad_form k
  · exact .some fun _ k => qmLoad_form k
  · exact .some fun _ k => qmStore_form k
  · exact .some fun _ k => qmStore_form k
  · exact .some fun _ k => qmStore_form k
  · exact .some fun _ k => qmStore_form k
  · exact .some fun _ k => qmLoad_form k
  · exact .some fun _ k => qmLoad_form k
  · exact .some fun _ k => qmLoad_form k
  · exact .some fun _ k => qmLoad_form k
  · exact .some fun _ k => qmLoad_form k
  · exact .some fun _ k => qmLoad_form k
  · exact .some fun _ k => qmRelease_form k
  · exact .some fun _ k => qmRelease_form k
  · exact .some fun _ k => qmRelease_form k
  · exact .some fun _ k => qmRelease_form k
  · exact .some fun _ k => qmRelease_form k
  · exact .some fun _ k => qmRelease_form k
  · exact .some fun _ k => qmAtomic_form k
  · exact .some fun _ k => qmAtomic_form k
  · exact .some fun _ k => qmAtomic_form k
  · exact .some fun _ k => qmAtomic_form k
  · exact .some fun _ k => qmAtomic_form k
  · exact .some fun _ k => qmAtomic_form k
  · exact .some fun _ k => qmAtomic_form k
  · exact .some fun _ k => qmAtomic_form k
  · exact .some fun _ k => qmAtomic_form k
  · exact .some fun _ k => qmCopy_form k
  · exact .some fun _ k => qmCopy_form k
  · exact .some fun _ k => qmFence_form k
  · exact .some fun _ k => qmFence_form k
  · exact .some fun _ k => qmFence_form k
  · exact .some fun _ k => qmFence_form k
  · exact .some fun _ k => qmFence_form k
  · exact .some fun _ k => qmFence_form k
  · exact .none

theorem execPushWriteDone_form {s : State} (wf : s.MemoryForm) : Out.Form (execPushWriteDone s) := by
  unfold execPushWriteDone
  split
  · exact wf.finishPush
  · exact wf

theorem execPullWriteDone_form {s : State} (wf : s.MemoryForm) : Out.Form (execPullWriteDone s) := by
  unfold execPullWriteDone
  split
  · exact wf.finishPull
  · exact wf

/-! ## Stream -/

theorem State.MemoryForm.onStream {s : State} {f} (wf : s.MemoryForm) : (s.onStream f).MemoryForm := wf.onCore

theorem State.MemoryForm.noteStream {s : State} (wf : s.MemoryForm) : (s.noteStream).MemoryForm := wf.onStream

theorem State.MemoryForm.stopStream {s : State} {code} (wf : s.MemoryForm) : (s.stopStream code).MemoryForm := wf.onStream.noteStream

theorem State.MemoryForm.queueStream {s : State} {bs} (wf : s.MemoryForm) : (s.queueStream bs).Form := by
  unfold State.queueStream
  extract_lets e me mine s1 s1'
  have ks1' : s1'.MemoryForm := .ite wf wf.onStream
  exact .ite wf.onStream.complete ks1'.block

theorem qsRun_form {s : State} (wf : s.MemoryForm) : (qsRun s).Form := by
  unfold qsRun
  extract_lets t
  split
  · split
    · exact wf.queueStream
    · exact trivial
  · refine State.withSpa_form fun _ => ?_
    split
    · extract_lets bs'
      split
      · exact trivial
      · exact wf.queueStream

theorem qsStat_form {s : State} (wf : s.MemoryForm) : (qsStat s).Form := wf.complete

theorem State.MemoryForm.cancelRun {s : State} (wf : s.MemoryForm) : (s.cancelRun).MemoryForm := by
  unfold State.cancelRun
  split
  · exact .ite wf.dropPage.onCore.onStream wf.onStream
  · exact wf.onStream

theorem qsCancel_form {s : State} (wf : s.MemoryForm) : (qsCancel s).Form := by
  unfold qsCancel
  exact .ite trivial wf.cancelRun.onStream.noteStream.complete

theorem keeps_qsOp {opc} : Keeps (qsOp opc) := by
  unfold qsOp
  split
  · exact .some fun _ k => qsRun_form k
  · exact .some fun _ k => qsStat_form k
  · exact .some fun _ k => qsCancel_form k
  · exact .none

theorem State.MemoryForm.noteFed {s : State} (wf : s.MemoryForm) : (s.noteFed).MemoryForm := wf.foldl fun _ hu _ => .ite hu.noteChan hu

theorem State.MemoryForm.beginStream {s : State} {seq bs} (wf : s.MemoryForm) : (s.beginStream seq bs).MemoryForm :=
  wf.onStream.noteStream.noteFed

theorem State.MemoryForm.takeFed {s : State} {ch} (wf : s.MemoryForm) : (s.takeFed ch).MemoryForm := by
  unfold State.takeFed
  split
  · exact wf
  · extract_lets off n bs seq s0 s1
    have ks0 : s0.MemoryForm := wf.freeEntry.onCore (fun _ hu => Core.wf_count hu)
    split
    · exact ks0.onStream.stopStream.noteFed
    · split
      · exact ks0.onStream.stopStream.noteFed
      · exact ks0.onStream.beginStream

theorem streamTake_form {s : State} (wf : s.MemoryForm) : (streamTake s).MemoryForm := by
  unfold streamTake
  extract_lets e
  split
  · exact wf
  · split
    · exact wf
    · extract_lets s1'
      split
      · exact wf.onStream
      · exact wf.onStream.onStream.beginStream
    · exact wf.onStream.takeFed

theorem State.MemoryForm.commitSlot {s : State} {r i} (wf : s.MemoryForm) : (s.commitSlot r i).MemoryForm := wf.advancePi.onStream.noteStream

theorem State.MemoryForm.writeSlot {s : State} {r i d stop n} (wf : s.MemoryForm) : (s.writeSlot r i d stop n).MemoryForm := by
  unfold State.writeSlot
  exact .ite wf.writeCore.onStream.noteStream wf.writeCore.commitSlot

theorem State.MemoryForm.streamOn {s : State} {r i d stop n} (wf : s.MemoryForm) : (s.streamOn r i d stop n).MemoryForm := by
  unfold State.streamOn
  split
  · exact wf.stopStream
  · exact wf.askPage.onCore.noteStream
  · exact .ite wf.askedRuns.onStream.noteStream wf.askedRuns.writeSlot

theorem streamCommit_form {s : State} (wf : s.MemoryForm) : (streamCommit s).MemoryForm := by
  unfold streamCommit
  split
  · exact wf
  · split
    · exact wf
    · split
      · exact wf
      · exact wf.streamOn

theorem State.MemoryForm.streamDword {s : State} {r} (wf : s.MemoryForm) : (s.streamDword r).MemoryForm := by
  unfold State.streamDword
  split
  · exact wf
  · split
    · exact wf
    · exact .ite wf.streamOn wf

theorem streamStart_form {s : State} (wf : s.MemoryForm) : (streamStart s).MemoryForm := by
  unfold streamStart
  split
  · exact wf
  · exact .ite wf.streamDword (.ite wf.onStream.noteStream wf.noteStream)

theorem streamEnd_form {s : State} (wf : s.MemoryForm) : (streamEnd s).MemoryForm := by
  unfold streamEnd
  split
  · exact wf
  · exact .ite wf (.ite wf.onStream.noteStream.addCtr wf.onStream.noteStream)

theorem execStreamRecordTake_form {s : State} (wf : s.MemoryForm) : Out.Form (execStreamRecordTake s) := streamTake_form wf

theorem execStreamStart_form {s : State} (wf : s.MemoryForm) : Out.Form (execStreamStart s) := streamStart_form wf

theorem execStreamSlotCommit_form {s : State} (wf : s.MemoryForm) : Out.Form (execStreamSlotCommit s) := streamCommit_form wf

theorem execStreamRecordEnd_form {s : State} (wf : s.MemoryForm) : Out.Form (execStreamRecordEnd s) := streamEnd_form wf

/-! ## Dma -/

theorem State.MemoryForm.settleDma {s : State} {die e} (wf : s.MemoryForm) : (s.settleDma die e).MemoryForm := by
  unfold State.settleDma
  exact .ite wf wf.setDmaState

theorem State.MemoryForm.stopDma {s : State} {die e code} (wf : s.MemoryForm) : (s.stopDma die e code).MemoryForm :=
  wf.deviceWrite.onEngine.setReg.raiseIrq

theorem execDrtailWrite_form {s : State} {die e tail} (wf : s.MemoryForm) : Out.Form (execDrtailWrite die e tail s) := by
  unfold execDrtailWrite
  split
  · exact wf
  · exact .ite wf.stopDma (State.MemoryForm.ite wf.setReg wf.setReg.settleDma)

theorem execDrcfgWrite_form {s : State} {die e v} (wf : s.MemoryForm) : Out.Form (execDrcfgWrite die e v s) := by
  unfold execDrcfgWrite
  split
  · exact wf
  · exact State.MemoryForm.ite wf.setReg.onEngine wf.setReg.onEngine.settleDma

theorem execDmaAbort_form {s : State} {die e} (wf : s.MemoryForm) : Out.Form (execDmaAbort die e s) := .ite wf.abortEngine wf

theorem execDmaResume_form {s : State} {die e} (wf : s.MemoryForm) : Out.Form (execDmaResume die e s) := .ite wf.setReg.settleDma wf

theorem State.MemoryForm.noteDma {s : State} {die e d} (wf : s.MemoryForm) : (s.noteDma die e d).MemoryForm := by
  unfold State.noteDma
  split
  · exact wf.onEngine.setDmaState
  · exact .ite wf.setDmaState wf.setDmaState.onEngine

theorem execDmaDescriptorStart_form {s : State} {die e} (wf : s.MemoryForm) : Out.Form (execDmaDescriptorStart die e s) := by
  unfold execDmaDescriptorStart
  exact .ite wf (.ite wf.stopDma (.ite wf.stopDma wf.onEngine.noteDma))

theorem State.MemoryForm.dmaMiss {s : State} {die e access isHost x} (wf : s.MemoryForm) : (s.dmaMiss die e access isHost x).MemoryForm := by
  unfold State.dmaMiss
  split
  · exact wf.stopDma
  · exact wf
  · exact wf.stopDma
  · exact wf.askPage.onEngine

theorem State.MemoryForm.dmaDone {s : State} {die e d} (wf : s.MemoryForm) : (s.dmaDone die e d).MemoryForm := by
  unfold State.dmaDone
  extract_lets s1 cc s2 s3 head s4
  have ks2 : s2.MemoryForm := by
    unfold s2
    split
    · exact wf.deviceWrite.addCtr
    · exact wf.deviceWrite
  have ks3 : s3.MemoryForm := .ite ks2.raiseIrq ks2
  exact ks3.setReg.onEngine.settleDma

theorem State.MemoryForm.noteBefore {s : State} {die e rs} (wf : s.MemoryForm) : (s.noteBefore die e rs).MemoryForm := by
  unfold State.noteBefore
  exact .ite wf wf.onEngine

theorem State.MemoryForm.dmaAfter {s : State} {die e d off access x} (wf : s.MemoryForm) : (s.dmaAfter die e d off access x).MemoryForm := by
  unfold State.dmaAfter
  split
  · exact wf.dmaDone
  · exact wf.onEngine.dmaMiss

theorem State.MemoryForm.dmaIntoBerth {s : State} {die e d off n} (wf : s.MemoryForm) : (s.dmaIntoBerth die e d off n).1.MemoryForm := by
  unfold State.dmaIntoBerth
  split
  · split
    · exact wf
    · dsimp only
      exact wf.askedRuns.writeCore

theorem State.MemoryForm.dmaIntoMemory {s : State} {die e d off n} (wf : s.MemoryForm) : (s.dmaIntoMemory die e d off n).1.MemoryForm := by
  unfold State.dmaIntoMemory
  dsimp only
  split
  · exact wf.askedRuns.noteBefore.writeRuns
  · exact wf.askedRuns.noteBefore.writeRuns

theorem State.MemoryForm.dmaNext {s : State} {die e d off n} (wf : s.MemoryForm) : (s.dmaNext die e d off n).1.MemoryForm := by
  unfold State.dmaNext
  split
  · exact wf.dmaIntoBerth
  · exact wf.dmaIntoMemory

theorem State.MemoryForm.dmaRest {s : State} {die e d off} (wf : s.MemoryForm) : (s.dmaRest die e d off).MemoryForm := by
  unfold State.dmaRest
  dsimp only
  have hn : (s.dmaNext die e d off (dmaLen d - off)).1.MemoryForm := wf.dmaNext
  split
  · exact wf.stopDma
  · exact State.MemoryForm.dmaAfter (.ite hn.advancePi hn)
  · exact hn.dmaAfter

theorem State.MemoryForm.dmaAdvance {s : State} {die e d} (wf : s.MemoryForm) : (s.dmaAdvance die e d).MemoryForm := by
  unfold State.dmaAdvance
  exact .ite wf wf.dmaNext.onEngine

theorem execDmaDescriptorDone_form {s : State} {die e} (wf : s.MemoryForm) : Out.Form (execDmaDescriptorDone die e s) := by
  unfold execDmaDescriptorDone
  extract_lets g
  split
  · exact .ite wf.noteDma wf.dmaRest
  · exact wf

/-! ## Channels -/

theorem State.MemoryForm.sendNow {s : State} {opc dst entry pay} (wf : s.MemoryForm) : (s.sendNow opc dst entry pay).Form := by
  unfold State.sendNow
  extract_lets t header resv m s1 src s2 lat
  have ks1 : s1.MemoryForm := by
    unfold s1
    split
    · exact wf.onCoreAt
    · exact wf
  have ksrc : src.MemoryForm := ks1.noteChan
  have ks2 : s2.MemoryForm := .ite ks1.sendFlit ksrc.of_eq
  exact ks2.launch.count

theorem State.MemoryForm.sendOn {s0 : State} {opc dst pay} (wf : s0.MemoryForm) : (s0.sendOn opc dst pay).Form := by
  unfold State.sendOn
  split
  · exact trivial
  · refine wf.ordered fun _ hu => ?_
    extract_lets t ch c me k r s1
    have ks1 : s1.MemoryForm := .ite hu hu.onCoreAt
    split
    · split
      · exact hu.sendNow
      · exact holding_form hu.block
    · split
      · exact trivial
      · split
        · exact hu.sendNow
        · split
          · exact hu.sendNow
          · exact holding_form ks1.noteChan.block

theorem State.sendTo_form {s : State} {k} (hk : ∀ a, (k a).Form) : (s.sendTo k).Form := by
  unfold State.sendTo
  extract_lets t
  split
  · exact trivial
  · exact State.check_form (hk _)

theorem chSend_form {s : State} (wf : s.MemoryForm) : (chSend s).Form := by
  unfold chSend
  exact State.check_form (State.sendTo_form (fun _ => wf.sendOn))

theorem chSendm_form {s : State} (wf : s.MemoryForm) : (chSendm s).Form := by
  unfold chSendm
  refine State.check_form (State.check_form (State.check_form (State.sendTo_form fun _ => ?_)))
  split
  · exact wf.sendOn
  · split
    · exact wf.sendOn
    · refine State.withSpa_form fun _ => ?_
      split
      · split
        · exact trivial
        · exact wf.sendOn

theorem State.takeFrom_form {s : State} {k} (hk : ∀ a, ∀ b, (k a b).Form) : (s.takeFrom k).Form := by
  unfold State.takeFrom
  exact State.check_form (hk _ _)

theorem chRecv_form {s : State} (wf : s.MemoryForm) : (chRecv s).Form :=
  State.takeFrom_form (fun _ _ => by
    extract_lets me s1
    have ks1 : s1.MemoryForm := .ite wf wf.onCore
    split
    · exact wf.onCore (fun _ hu => Core.wf_giveEntry hu)
    · exact ks1.block)

theorem chPoll_form {s : State} (wf : s.MemoryForm) : (chPoll s).Form :=
  State.takeFrom_form (fun _ _ => by
    split
    · exact wf.complete
    · exact wf.complete.onCore.count)

theorem chFree_form {s : State} (wf : s.MemoryForm) : (chFree s).Form := by
  unfold chFree
  extract_lets t
  split
  · exact trivial
  · exact wf.ordered (fun _ hu => hu.complete.freeEntry)

theorem chMatch_form {s : State} (wf : s.MemoryForm) : (chMatch s).Form := by
  unfold chMatch
  extract_lets l n ch s1
  have ks1 : s1.MemoryForm := wf.complete.onCore (fun _ hu => by
      extract_lets c1' c2'
      have kc2' : c2'.mem.wf := Core.wf_foldl hu (fun _ hu1 _ => by
          split
          · exact Core.wf_ite (Core.wf_offerEntry hu1) hu1
          · exact hu1)
      exact Core.wf_foldl kc2' (fun _ hu1 _ => Core.wf_releaseTask hu1))
  exact State.check_form (State.check_form (State.check_form ks1))

theorem chUnmatch_form {s : State} (wf : s.MemoryForm) : (chUnmatch s).Form := by
  unfold chUnmatch
  exact State.check_form (wf.complete.onCore.foldl fun _ hu _ => hu.foldl fun _ hu1 _ => hu1.serveRecv)

theorem keeps_chOp {opc} : Keeps (chOp opc) := by
  unfold chOp
  split
  · exact .some fun _ k => chSend_form k
  · exact .some fun _ k => chSendm_form k
  · exact .some fun _ k => chRecv_form k
  · exact .some fun _ k => chPoll_form k
  · exact .some fun _ k => chFree_form k
  · exact .some fun _ k => chMatch_form k
  · exact .some fun _ k => chUnmatch_form k
  · exact .none

theorem State.MemoryForm.spillMsg {s : State} {r m} (wf : s.MemoryForm) : (s.spillMsg r m).MemoryForm := by
  unfold State.spillMsg
  extract_lets n
  split
  · split
    · exact wf.writeRuns.onJob
    · exact wf.killJob
  · exact wf.onJob

theorem State.MemoryForm.rejectMsg {s : State} {m} (wf : s.MemoryForm) : (s.rejectMsg m).MemoryForm := by
  unfold State.rejectMsg
  exact .ite wf.sendFlit wf.onCoreAt.admitAll

theorem State.MemoryForm.landMsg {s : State} {k m} (wf : s.MemoryForm) : (s.landMsg k m).MemoryForm := by
  unfold State.landMsg
  extract_lets c s1 away
  have ks1 : s1.MemoryForm := wf.of_eq
  split
  · exact .ite ks1.spillMsg (.ite wf.noteChan ks1.landEntry)
  · split
    · exact ks1
    · split
      · exact .ite ks1.spillMsg (.ite ks1.rejectMsg ks1)
      · split
        · exact ks1.rejectMsg
        · split
          · exact .ite wf.noteChan ks1.onCoreAt.landEntry
          · exact wf

theorem execMessageLand_form {s : State} {k} (wf : s.MemoryForm) : Out.Form (execMessageLand k s) := by
  unfold execMessageLand
  split
  · exact wf
  · exact .ite wf wf.landMsg

theorem execTaskRelease_form {s : State} (wf : s.MemoryForm) : Out.Form (execTaskRelease s) := wf.onCore (fun _ hu => Core.wf_releaseTask hu)

theorem execScopeMiss_form {s : State} (wf : s.MemoryForm) : Out.Form (execScopeMiss s) := wf.admitAll

/-! ## Exchange -/

theorem sySlack_form {s : State} (wf : s.MemoryForm) : (sySlack s).Form := by
  unfold sySlack
  extract_lets t
  split
  · exact wf.launch
  · split
    · exact trivial
    · split
      · exact trivial
      · split
        · exact trivial
        · exact trivial
        · split
          · exact trivial
          · exact wf.ordered (fun _ hu => .ite trivial (holding_form hu.block))

theorem execExchangeStart_form {s : State} {rec} (wf : s.MemoryForm) : Out.Form (execExchangeStart rec s) := by
  unfold execExchangeStart
  exact .ite wf.onJob wf

theorem State.MemoryForm.countWaiting {s : State} {f i ts} (wf : s.MemoryForm) : (s.countWaiting f i ts).1.MemoryForm := by
  unfold State.countWaiting
  extract_lets waits s1
  have ks1 : s1.MemoryForm := wf.foldl fun _ hu _ => hu.onCoreAt (fun _ hu1 => Core.wf_count hu1)
  exact ks1

theorem State.MemoryForm.putUnits {s : State} {r t us} (wf : s.MemoryForm) : (s.putUnits r t us).MemoryForm :=
  .ite (wf.foldl fun _ hu _ => hu.writeCore) (.ite wf wf.sendFlit)

theorem State.MemoryForm.writeTransfer {s : State} {r ts i us} (wf : s.MemoryForm) : (s.writeTransfer r ts i us).1.MemoryForm := by
  unfold State.writeTransfer
  split
  · exact wf
  · dsimp only
    exact wf.putUnits

theorem execTransferStart_form {s : State} {rec} (wf : s.MemoryForm) : Out.Form (execTransferStart rec s) := by
  unfold execTransferStart
  extract_lets j
  split
  · exact wf
  · rename_i ts _
    extract_lets f
    have h0 : (if f == j.fabric then (s, ts) else s.countWaiting j.fabric ts.length ts).1.MemoryForm := by
      split
      · exact wf
      · exact wf.countWaiting
    revert h0
    generalize (if f == j.fabric then (s, ts) else s.countWaiting j.fabric ts.length ts) = p
    intro h0
    dsimp only
    split
    · exact h0.onJob
    · rename_i i _
      have h1 : (p.1.countWaiting f i p.2).1.MemoryForm := h0.countWaiting
      split
      · exact wf
      · refine State.MemoryForm.onJob ?_
        split
        · exact h1
        · exact h1.writeTransfer

theorem execTransferEnd_form {s : State} {rec} (wf : s.MemoryForm) : Out.Form (execTransferEnd rec s) := by
  unfold execTransferEnd
  extract_lets j
  split
  · exact wf
  · split
    · exact wf
    · extract_lets f blocked
      clear_value blocked
      split
      · split
        · exact wf
        · dsimp only
          refine State.MemoryForm.onJob ?_
          split
          · exact wf.countWaiting
          · exact wf.countWaiting.writeTransfer
      · exact wf

theorem execExchangePhaseEnd_form {s : State} {rec} (wf : s.MemoryForm) : Out.Form (execExchangePhaseEnd rec s) := by
  unfold execExchangePhaseEnd
  split
  · exact .ite wf.onJob wf
  · exact wf

theorem execSlackRelease_form {s : State} {rec} (wf : s.MemoryForm) : Out.Form (execSlackRelease rec s) := by
  unfold execSlackRelease
  extract_lets j s1
  have ks1 : s1.MemoryForm := wf.foldl fun _ hu _ => hu.onCoreAt
  exact .ite ks1.onJob wf

theorem execDispenserAnswer_form {s : State} {rec k} (wf : s.MemoryForm) : Out.Form (execDispenserAnswer rec k s) := by
  unfold execDispenserAnswer
  extract_lets j
  split
  · exact wf
  · exact .ite wf wf.onJob.onCoreAt.writeCore

/-! ## Preempt -/

theorem State.MemoryForm.restoreQueues {s : State} {r die o bs} (wf : s.MemoryForm) : (s.restoreQueues r die o bs).MemoryForm :=
  wf.foldl fun _ hu _ => .ite hu.onCoreAt hu

theorem State.MemoryForm.writeFrame {s : State} {r a bs} (wf : s.MemoryForm) : (s.writeFrame r a bs).MemoryForm := by
  unfold State.writeFrame
  split
  · exact wf.writeRuns
  · exact wf.killJob

theorem execPreempt_form {s : State} (wf : s.MemoryForm) : Out.Form (execPreempt s) := by
  unfold execPreempt
  split
  · exact wf
  · exact .ite wf wf.onCore.onJob

theorem State.MemoryForm.handBack {s : State} {id} (wf : s.MemoryForm) : (s.handBack id).MemoryForm := by
  unfold State.handBack
  exact wf.foldl fun _ hu _ => hu.onHamper

theorem State.MemoryForm.freeCopied {s : State} {r id} (wf : s.MemoryForm) : (s.freeCopied r id).MemoryForm := by
  unfold State.freeCopied
  extract_lets s' mates c s1
  have ks' : s'.MemoryForm := .ite wf wf.sealTrace
  exact .ite ks'.onCoreAt (.ite (ks'.writeFrame.foldl fun _ hu _ => hu.onCoreAt) ks')

theorem State.MemoryForm.finishParking {s : State} {r} (wf : s.MemoryForm) : (s.finishParking r).MemoryForm := by
  unfold State.finishParking
  extract_lets j s0 s1 src s2
  have ks0 : s0.MemoryForm := wf.foldl fun _ hu _ => hu.writeFrame
  have ks1 : s1.MemoryForm := ks0.foldl fun _ hu _ => hu.writeFrame
  exact .ite (.ite ks1.of_eq.setRecState ks1.of_eq) wf

theorem execContextCopyOut_form {s : State} (wf : s.MemoryForm) : Out.Form (execContextCopyOut s) := by
  unfold execContextCopyOut
  split
  · exact wf
  · exact .ite wf (.ite wf.writeFrame.handBack.onJob.freeCopied.finishParking wf.writeFrame.handBack.onJob)

theorem Core.wf_restore {c : Core} {id bs parked notes} (wf : c.mem.wf) : (Core.restore id c bs parked notes).mem.wf := by
  unfold Core.restore
  extract_lets m sb act mem c1
  have kmem : mem.wf := Memory.wf_write wf _ _
  exact kmem

theorem State.MemoryForm.resumeSlot {s : State} {id p} (wf : s.MemoryForm) : (s.resumeSlot id p).MemoryForm := by
  unfold State.resumeSlot
  exact .ite wf.markDead wf.onCoreAt

theorem State.MemoryForm.moveCounters {s : State} {r old new} (wf : s.MemoryForm) : (s.moveCounters r old new).MemoryForm := by
  unfold State.moveCounters
  exact wf.foldl fun _ hu _ => .ite hu (hu.foldl fun _ hu1 _ => hu1.of_eq)

theorem State.MemoryForm.restoreOctet {s : State} {r id} (wf : s.MemoryForm) : (s.restoreOctet r id).MemoryForm := by
  unfold State.restoreOctet
  extract_lets c q
  split
  · exact wf.killJob
  · extract_lets s1
    have ks1 : s1.MemoryForm := wf.onOctet fun o hu => Memory.wf_write
      (List.foldlRecOn _ _ (motive := fun o : Octet => o.scale.wf) hu fun _ hr _ _ => Octet.wf_setElem hr) _ _
    exact ks1.restoreQueues.onCoreAt

theorem State.MemoryForm.restoreIdle {s : State} {r} (wf : s.MemoryForm) : (s.restoreIdle r).MemoryForm :=
  wf.foldl fun _ hu _ => by
    split
    · exact hu.restoreQueues
    · exact hu.killJob

theorem State.MemoryForm.restoreHampers {s : State} {r} (wf : s.MemoryForm) : (s.restoreHampers r).MemoryForm := by
  unfold State.restoreHampers
  extract_lets j free runs used held
  have kfree : free.MemoryForm := { wf with }
  split
  · exact kfree
  · refine kfree.foldl fun _ hu _ => ?_
    extract_lets hk
    split
    · exact hu
    · split
      · exact hu.killJob
      · exact hu.onHamper

theorem State.MemoryForm.landAll {s : State} {fuel k} (wf : s.MemoryForm) : (s.landAll fuel k).MemoryForm := by
  induction fuel generalizing s k with
  | zero => exact wf
  | succ fuel ih =>
    unfold State.landAll
    split
    · exact wf
    · exact .ite (ih wf) (.ite (ih wf.landMsg) (ih wf.landMsg))

theorem State.MemoryForm.reinject {s : State} {r} (wf : s.MemoryForm) : (s.reinject r).MemoryForm := by
  unfold State.reinject
  exact .ite wf.of_eq.onJob.landAll wf.onJob.killJob

theorem State.MemoryForm.running {s : State} {r} (wf : s.MemoryForm) : (s.running r).MemoryForm := .ite wf.setRecState wf

theorem State.MemoryForm.resumeJob {s : State} {r dies clusters} (wf : s.MemoryForm) : (s.resumeJob r dies clusters).MemoryForm := by
  unfold State.resumeJob
  extract_lets old j seats s1 s2 read s2' s3 s3' s4 s5
  have ks2 : s2.MemoryForm := wf.moveCounters.onJob.foldl fun _ hu _ => by
      extract_lets s1' c'
      split
      · exact hu.seat
      · exact hu.seat.onCoreAt (fun _ hu1 => Core.wf_restore hu1)
  have ks2' : s2'.MemoryForm := .ite ks2 ks2.killJob
  have ks3 : s3.MemoryForm := (ks2'.foldl fun _ hu _ => hu.restoreOctet).restoreIdle
  have ks3' : s3'.MemoryForm := ks3.restoreHampers.foldl fun _ hu _ => .ite hu.handOffAll hu
  have ks5 : s5.MemoryForm := ks3'.running.reinject.foldl fun _ hu _ => by
      split
      · exact .ite hu.resumeSlot hu
      · exact hu
  exact ks5.onJob.checkJob

theorem execJobResume_form {s : State} {rec dies clusters} (wf : s.MemoryForm) : Out.Form (execJobResume rec dies clusters s) := by
  unfold execJobResume
  exact .ite wf.resumeJob wf

theorem execTimer_form {s : State} {rec} (wf : s.MemoryForm) : Out.Form (execTimer rec s) := by
  unfold execTimer
  exact .ite wf.atControl.onJob wf

theorem execContextIdRecycle_form {s : State} {cid} (wf : s.MemoryForm) : Out.Form (execContextIdRecycle cid s) := by
  unfold execContextIdRecycle
  split
  · exact wf
  · extract_lets s1 full s2
    have ks2 : s2.MemoryForm := wf.of_eq.foldl fun _ hu _ => hu.sealTrace
    exact ks2.mapCores (fun _ _ hu => Core.wf_ite hu hu)

/-! ## System -/

theorem State.MemoryForm.releaseBar {s : State} {r g} (wf : s.MemoryForm) : (s.releaseBar r g).MemoryForm := by
  unfold State.releaseBar
  extract_lets j v
  split
  · exact wf
  · split
    · exact wf
    · extract_lets s1'
      have ks1' : s1'.MemoryForm := wf.foldl fun _ hu _ => by
          split
          · exact hu.onCoreAt
          · exact hu
      exact ks1'.onJob

theorem syBar_form {s : State} (wf : s.MemoryForm) : (syBar s).Form := by
  unfold syBar
  extract_lets t g
  split
  · exact wf.launch
  · refine State.check_form ?_
    split
    · split
      · exact trivial
      · refine wf.ordered fun _ hu => ?_
        split
        · rename_i s1 e
          have hu1 := Res.Form.of_ok e (hu.block)
          exact hu1.releaseBar
        · exact trivial
        · exact trivial
        · exact trivial
    · exact trivial

theorem syFence_form {s : State} (wf : s.MemoryForm) : (syFence s).Form := wf.ordered (fun _ hu => .ite trivial hu.complete)

theorem syWait_form {s : State} (wf : s.MemoryForm) : (syWait s).Form := by
  unfold syWait
  refine State.check_form (State.withSpa_form fun _ => ?_)
  split
  · split
    · exact wf.launch
    · exact .ite wf.launch wf.block

theorem State.withCounter_form {s : State} {k} (hk : ∀ a, (k a).Form) : (s.withCounter k).Form := by
  unfold State.withCounter
  exact State.check_form (State.check_form (hk _))

theorem syCwait_form {s : State} (wf : s.MemoryForm) : (syCwait s).Form := by
  unfold syCwait
  refine State.check_form (State.withCounter_form fun _ => ?_)
  split
  · exact wf.launch
  · exact .ite wf.launch wf.block

theorem syCinc_form {s : State} (wf : s.MemoryForm) : (syCinc s).Form := by
  unfold syCinc
  exact State.withCounter_form (fun _ => wf.ordered (fun _ hu => hu.complete.addCtr))

theorem syYield_form {s : State} (wf : s.MemoryForm) : (syYield s).Form := wf.complete.onSl

theorem syHstart_form {s : State} (wf : s.MemoryForm) : (syHstart s).Form := by
  unfold syHstart
  extract_lets l
  split
  · exact trivial
  · split
    · exact trivial
    · split
      · exact trivial
      · split
        · exact trivial
        · exact .ite trivial wf.complete.onCore

theorem endedIn_form {s : State} {h'} (wf : s.MemoryForm) : (Helper.endedIn h' s).MemoryForm := by
  unfold Helper.endedIn
  split
  · extract_lets mine s1
    have ks1 : s1.MemoryForm := wf.foldl fun _ hu _ => hu.finishPull
    exact (ks1.foldl fun _ hu _ => hu.finishPush).drainSlot
  · exact wf

theorem syHjoin_form {s : State} (wf : s.MemoryForm) : (syHjoin s).Form := by
  unfold syHjoin
  refine State.check_form ?_
  split
  · exact trivial
  · split
    · split <;> exact wf.block
    · exact ((endedIn_form wf).launch).onCore

theorem syTend_form {s : State} (wf : s.MemoryForm) : (syTend s).Form := by
  unfold syTend
  exact .ite trivial wf.endSlot

theorem syDreq_form {s : State} (wf : s.MemoryForm) : (syDreq s).Form := by
  unfold syDreq
  refine State.check_form (State.withSpa_form fun _ => ?_)
  split
  · split
    · exact trivial
    · exact .ite trivial (.ite trivial wf.drain.onCoreAt.onCore.complete.onJob)

theorem syCsr_form {s : State} {o} (wf : s.MemoryForm) : (syCsr o s).Form := by
  unfold syCsr
  extract_lets l n old
  split
  · exact trivial
  · split
    · exact trivial
    · split
      · exact wf.complete
      · exact .ite trivial (.ite trivial wf.complete.onSl)

theorem syTrap_form {s : State} (wf : s.MemoryForm) : (syTrap s).Form := wf.complete.onSl

theorem syTret_form {s : State} (wf : s.MemoryForm) : (syTret s).Form := trapReturn_form wf.drain

theorem syIflush_form {s : State} {sc} (wf : s.MemoryForm) : (syIflush sc s).Form := by
  unfold syIflush
  extract_lets l keep here s1 cached s2
  have ks1 : s1.MemoryForm := wf.mapCores (fun _ _ hu => Core.wf_ite hu hu)
  exact ks1.of_eq.complete

theorem syHalt_form {s : State} (wf : s.MemoryForm) : (syHalt s).Form := by
  unfold syHalt
  exact .ite trivial wf.drain.complete.onCore

theorem keeps_syOp {opc} : Keeps (syOp opc) := by
  unfold syOp
  split
  · exact .some fun _ k => syBar_form k
  · exact .some fun _ k => syWait_form k
  · exact .some fun _ k => syCwait_form k
  · exact .some fun _ k => syCinc_form k
  · exact .some fun _ k => syYield_form k
  · exact .some fun _ k => syHstart_form k
  · exact .some fun _ k => syHjoin_form k
  · exact .some fun _ k => syTend_form k
  · exact .some fun _ k => syDreq_form k
  · exact .some fun _ k => syFence_form k
  · exact .some fun _ k => syFence_form k
  · exact .some fun _ k => syFence_form k
  · exact .some fun _ k => syFence_form k
  · exact .some fun _ k => syFence_form k
  · exact .some fun _ k => syFence_form k
  · exact .some fun _ k => syCsr_form k
  · exact .some fun _ k => syCsr_form k
  · exact .some fun _ k => syCsr_form k
  · exact .some fun _ k => syCsr_form k
  · exact .some fun _ k => syTrap_form k
  · exact .some fun _ k => syTret_form k
  · exact .some fun _ k => syIflush_form k
  · exact .some fun _ k => syIflush_form k
  · exact .some fun _ k => syIflush_form k
  · exact .some fun _ k => syIflush_form k
  · exact .some fun _ k => syHalt_form k
  · exact .none

theorem dbCyc_form {s : State} (wf : s.MemoryForm) : (dbCyc s).Form := wf.complete

theorem dbPerf_form {s : State} (wf : s.MemoryForm) : (dbPerf s).Form := by
  unfold dbPerf
  exact State.check_form wf.complete

theorem dbPsel_form {s : State} (wf : s.MemoryForm) : (dbPsel s).Form := by
  unfold dbPsel
  exact State.check_form wf.complete.onCore

theorem dbMark_form {s : State} (wf : s.MemoryForm) : (dbMark s).Form := by
  unfold dbMark
  exact State.check_form wf.complete.trace

theorem keeps_dbOp {opc} : Keeps (dbOp opc) := by
  unfold dbOp
  split
  · exact .some fun _ k => dbCyc_form k
  · exact .some fun _ k => dbPerf_form k
  · exact .some fun _ k => dbPsel_form k
  · exact .some fun _ k => dbMark_form k
  · exact .none

/-! ## Undertow -/

theorem State.MemoryForm.tallyEpochs {s : State} (wf : s.MemoryForm) : (s.tallyEpochs).MemoryForm := wf.of_eq

theorem State.MemoryForm.onUndertow {s : State} {die f} (wf : s.MemoryForm) : (s.onUndertow die f).MemoryForm := wf.of_eq

theorem State.MemoryForm.takeUp {s : State} {die} (wf : s.MemoryForm) : (s.takeUp die).MemoryForm := wf.onUndertow

theorem State.MemoryForm.chaseOver {s : State} {die p gen} (wf : s.MemoryForm) : (s.chaseOver die p gen).MemoryForm := wf.onUndertow

theorem State.MemoryForm.runChase {s : State} {die p gen} (wf : s.MemoryForm) : (s.runChase die p gen).MemoryForm := by
  unfold State.runChase
  extract_lets s1
  split
  · split
    · exact wf.udCount.udCount.chaseOver
    · exact wf.udCount.udCount.chaseOver
    · exact wf.udCount.onUndertow

theorem execUndertowCandidate_form {s : State} {die} (wf : s.MemoryForm) : Out.Form (execUndertowCandidate die s) := by
  unfold execUndertowCandidate
  split
  · exact wf
  · split
    · exact wf.takeUp.onUndertow.runChase
    · exact wf.takeUp

theorem State.MemoryForm.writeOnly {s : State} {die ch r x bs} (wf : s.MemoryForm) : (s.writeOnly die ch r x bs).MemoryForm := by
  unfold State.writeOnly
  split
  · exact wf
  · extract_lets s1
    have ks1 : s1.MemoryForm := .ite wf wf.appendFault
    exact ks1.raiseIrq.udCount.onUndertow

theorem State.MemoryForm.deliver {s : State} {die ch} (wf : s.MemoryForm) : (s.deliver die ch).1.MemoryForm := by
  unfold State.deliver
  extract_lets x init r bs
  split
  · dsimp only
    exact wf.writeOnly
  · split
    · dsimp only
      exact wf.udCount
    · split
      · dsimp only
        exact wf.udCount
      · extract_lets s1'
        have ks1' : s1'.MemoryForm := wf.writeCore.appendFault
        split
        · dsimp only
          exact ks1'.udCount
        · split
          · dsimp only
            exact ks1'.onCoreAt
          · dsimp only
            exact ks1'.udCount

theorem State.MemoryForm.closeChase {s : State} {die ch delivered} (wf : s.MemoryForm) : (s.closeChase die ch delivered).MemoryForm := by
  unfold State.closeChase
  split
  · exact wf
  · extract_lets got
    clear_value got
    split
    · exact wf.onUndertow
    · exact wf.chaseOver

theorem execUndertowConfirm_form {s : State} {die} (wf : s.MemoryForm) : Out.Form (execUndertowConfirm die s) := by
  unfold execUndertowConfirm
  split
  · exact wf
  · extract_lets done
    split
    · exact wf
    · split
      · exact wf.onUndertow.udCount.closeChase
      · exact .ite wf.onUndertow.udCount.closeChase wf.onUndertow.deliver.closeChase

/-! ## Vector -/

theorem State.MemoryForm.enqueueVector {s : State} {opc lat ready late o} (wf : s.MemoryForm) : (s.enqueueVector opc lat ready late o).MemoryForm :=
  wf.onSl.onCore.count

theorem vecOp_form {s : State} {opc o} (wf : s.MemoryForm) : (vecOp opc o s).Form := by
  unfold vecOp
  extract_lets t ctl code mode
  split
  · exact trivial
  · exact .ite trivial wf.setSl.enqueueVector

theorem State.MemoryForm.vectorLoad {s : State} {opc c q flags} (wf : s.MemoryForm) : (s.vectorLoad opc c q flags).Form :=
  wf.enqueueVector.count

theorem State.MemoryForm.bufferBytes {s : State} {c off bs va} (wf : s.MemoryForm) : (s.bufferBytes c off bs va).MemoryForm :=
  wf.foldl fun _ hu _ => hu.buffer

theorem vpVld_form {s : State} (wf : s.MemoryForm) : (vpVld s).Form := by
  unfold vpVld
  exact State.withSpa_form (fun _ => wf.vectorLoad)

theorem vpVst_form {s : State} (wf : s.MemoryForm) : (vpVst s).Form := by
  unfold vpVst
  exact State.withSpa_form (fun _ => wf.bufferBytes.enqueueVector.count)

theorem vpVstm_form {s : State} (wf : s.MemoryForm) : (vpVstm s).Form := by
  unfold vpVstm
  extract_lets t ctl form f on
  split
  · exact trivial
  · split
    · exact trivial
    · exact State.withSpa_form (fun _ => ((wf.foldl fun _ hu _ => hu.buffer).enqueueVector).count)

theorem vpExpand_form {s : State} {opc bcast} (wf : s.MemoryForm) : (vpExpand opc bcast s).Form := by
  unfold vpExpand
  extract_lets t ctl f m form count n
  split
  · exact trivial
  · exact .ite trivial (State.withSpa_form (fun _ => wf.vectorLoad))

theorem vpVstx_form {s : State} (wf : s.MemoryForm) : (vpVstx s).Form := by
  unfold vpVstx
  extract_lets t ctl f m form code mode
  split
  · exact trivial
  · split
    · exact trivial
    · split
      · exact trivial
      · exact State.withSpa_form (fun _ => wf.setSl.bufferBytes.enqueueVector.count)

theorem keeps_vpOp {opc} : Keeps (vpOp opc) := by
  unfold vpOp
  split
  · exact .some fun _ k => vpVld_form k
  · exact .some fun _ k => vpExpand_form k
  · exact .some fun _ k => vpVst_form k
  · exact .some fun _ k => vpVstx_form k
  · exact .some fun _ k => vpVstm_form k
  · exact .some fun _ k => vpExpand_form k
  · exact .map fun _ _ k => vecOp_form k

theorem execVectorBind_form {s : State} (wf : s.MemoryForm) : Out.Form (execVectorBind s) := .ite wf.arbitrate wf

theorem execVectorComplete_form {s : State} (wf : s.MemoryForm) : Out.Form (execVectorComplete s) :=
  wf.onCore (fun _ hu => Core.wf_completeVector hu)

/-! ## Course -/

theorem keeps_triggerOp {u opc} : Keeps (triggerOp u opc) := by
  unfold triggerOp
  split
  · exact .map fun _ _ k => alu_form k
  · exact .map fun _ _ k => alu_form k
  · exact keeps_agOp
  · exact keeps_muOp
  · exact keeps_cfOp
  · exact keeps_lsOp
  · exact keeps_vpOp
  · exact keeps_mxOp
  · exact keeps_chOp
  · exact keeps_ksOp
  · split
    · exact .some fun _ k => sySlack_form k
    · exact .some fun _ k => syLaunch_form k
    · exact .some fun _ k => syLpatch_form k
    · exact .some fun _ k => sySubmit_form k
    · exact keeps_syOp
  · exact keeps_qmOp
  · exact keeps_qsOp
  · exact keeps_dbOp

theorem State.MemoryForm.withCur {s : State} {n f} (wf : s.MemoryForm) (hf : ∀ a, a.MemoryForm → (f a).MemoryForm) : (s.withCur n f).MemoryForm :=
  (hf _ wf.onCore).onCore

theorem State.MemoryForm.landUnit {s : State} {u} (wf : s.MemoryForm) : (s.landUnit u).MemoryForm := by
  unfold State.landUnit
  split
  · exact wf
  · exact State.MemoryForm.onSl (.ite wf.flushPulls wf)

theorem execResultComplete_form {s : State} {u} (wf : s.MemoryForm) : Out.Form (execResultComplete u s) := by
  unfold execResultComplete
  split
  · exact wf
  · exact .ite wf.landUnit wf

theorem State.MemoryForm.ageSlot {s : State} (wf : s.MemoryForm) : (s.ageSlot).MemoryForm := by
  unfold State.ageSlot
  exact wf.onSl.foldl fun _ hu _ => hu.landUnit

theorem execStorePerformed_form {s : State} {k} (wf : s.MemoryForm) : Out.Form (execStorePerformed k s) := by
  unfold execStorePerformed
  exact .ite wf (wf.onSl.foldl fun _ hu _ => hu.storeOut)

theorem State.MemoryForm.releaseWait {s : State} (wf : s.MemoryForm) : (s.releaseWait).MemoryForm := by
  unfold State.releaseWait
  split
  · exact wf
  · split
    · exact wf
    · split
      · exact wf
      · rename_i op eo
        split
        · rename_i s1 e
          exact Res.Form.of_ok e (keeps_triggerOp op eo s wf)
        · exact enterTrap_form wf
        · exact wf
        · exact wf

theorem State.MemoryForm.answerFar {s : State} (wf : s.MemoryForm) : (s.answerFar).MemoryForm := by
  unfold State.answerFar
  split
  · exact .ite wf.onSl wf
  · exact wf

theorem execWaitReleased_form {s : State} (wf : s.MemoryForm) : Out.Form (execWaitReleased s) := wf.answerFar.releaseWait

theorem State.MemoryForm.takeAsync {s : State} (wf : s.MemoryForm) : (s.takeAsync).MemoryForm := by
  unfold State.takeAsync
  split
  · exact wf
  · split
    · exact wf
    · extract_lets s1
      have ks1 : s1.MemoryForm := by
        unfold s1
        split
        · exact .ite wf.udCount wf
        · exact wf
      exact enterTrap_form ks1.onSl

theorem execTrapEntry_form {s : State} (wf : s.MemoryForm) : Out.Form (execTrapEntry s) := wf.takeAsync

theorem execFetchLineFill_form {s : State} {line} (wf : s.MemoryForm) : Out.Form (execFetchLineFill line s) := by
  unfold execFetchLineFill
  extract_lets va t needs
  split
  · exact wf
  · split
    · exact enterTrap_form wf
    · exact .ite wf (State.MemoryForm.ite wf.loadLine wf.fillLine)
    · exact .ite wf (State.MemoryForm.ite wf.loadLine wf.fillLine)

theorem State.MemoryForm.switchSlot {s : State} (wf : s.MemoryForm) : (s.switchSlot).MemoryForm := by
  unfold State.switchSlot
  split
  · exact wf
  · split
    · exact wf.onSl
    · exact wf.count.onSl.onCore.onSl.trace

theorem execStallSwitch_form {s : State} (wf : s.MemoryForm) : Out.Form (execStallSwitch s) := .ite wf wf.switchSlot

theorem State.MemoryForm.tick {s : State} (wf : s.MemoryForm) : (s.tick).MemoryForm := by
  unfold State.tick
  extract_lets s1 s2
  have ks2 : s2.MemoryForm := wf.passTime.onCore.foldl fun _ hu _ => hu.withCur (fun _ hu1 => hu1.ageSlot)
  exact ks2.ageVectors.onCore (fun _ hu => Core.wf_foldl hu (fun _ hu1 _ => Core.wf_countSlot hu1))

theorem State.MemoryForm.boundaries {s : State} (wf : s.MemoryForm) : (s.boundaries).MemoryForm :=
  wf.foldl fun _ hu _ => hu.withCur (fun _ hu1 => hu1.releaseWait.takeAsync)

/-! ## Debugging -/

theorem execDcmdHalt_form {s : State} (wf : s.MemoryForm) : Out.Form (execDcmdHalt s) := .ite wf wf.halt

theorem State.MemoryForm.resumeCore {s : State} {id} (wf : s.MemoryForm) : (s.resumeCore id).MemoryForm := by
  unfold State.resumeCore
  extract_lets d s'
  have ks' : s'.MemoryForm := .ite wf.onCoreAt wf
  exact .ite ks'.onCoreAt.traceAt ks'

theorem execDcmdResume_form {s : State} (wf : s.MemoryForm) : Out.Form (execDcmdResume s) := wf.resumeCore

theorem execDcmdStep_form {s : State} (wf : s.MemoryForm) : Out.Form (execDcmdStep s) := .ite wf.resumeCore.onCore wf

theorem State.MemoryForm.matchBreakpoint {s : State} {n} (wf : s.MemoryForm) : (s.matchBreakpoint n).MemoryForm := wf.onCore.halt

theorem execBreakpointMatch_form {s : State} (wf : s.MemoryForm) : Out.Form (execBreakpointMatch s) := by
  unfold execBreakpointMatch
  split
  · exact wf.matchBreakpoint
  · exact wf

theorem execCrossTriggerHalt_form {s : State} (wf : s.MemoryForm) : Out.Form (execCrossTriggerHalt s) := by
  unfold execCrossTriggerHalt
  exact .ite wf.onCore.halt wf.onCore

theorem execDgrpResume_form {s : State} {grp} (wf : s.MemoryForm) : Out.Form (execDgrpResume grp s) := wf.foldl fun _ hu _ => hu.resumeCore

theorem State.MemoryForm.refuseData {s : State} (wf : s.MemoryForm) : (s.refuseData).MemoryForm := wf.onCore

theorem execDdataRead_form {s : State} (wf : s.MemoryForm) : Out.Form (execDdataRead s) := by
  unfold execDdataRead
  dsimp only
  have k : s.refuseData.MemoryForm := wf.refuseData
  split
  · exact k.of_eq
  · exact wf.of_eq

theorem execDdataWrite_form {s : State} {v} (wf : s.MemoryForm) : Out.Form (execDdataWrite v s) :=
  .ite wf.refuseData (.ite wf.onCore (.ite wf (.ite wf.refuseData wf.onCore)))

theorem execFrzctlAssert_form {s : State} {rec} (wf : s.MemoryForm) : Out.Form (execFrzctlAssert rec s) := wf.setReg

theorem execFrzctlRelease_form {s : State} {rec} (wf : s.MemoryForm) : Out.Form (execFrzctlRelease rec s) := wf.setReg

theorem State.MemoryForm.traceStart {s : State} {id} (wf : s.MemoryForm) : (s.traceStart id).MemoryForm := wf.setReg.onCoreAt.acceptPacket

theorem State.MemoryForm.traceEnd {s : State} {id} (wf : s.MemoryForm) : (s.traceEnd id).MemoryForm :=
  State.MemoryForm.setField (.ite wf wf.sealTrace)

theorem execTraceStop_form {s : State} (wf : s.MemoryForm) : Out.Form (execTraceStop s) := .ite wf.traceEnd wf

theorem execTidemarkPulse_form {s : State} (wf : s.MemoryForm) : Out.Form (execTidemarkPulse s) := by
  unfold execTidemarkPulse
  extract_lets ctl past r off a src
  have ksrc : src.MemoryForm := wf.deviceWrite
  exact .ite wf ksrc.of_eq.setReg

/-! ## Firmware -/

theorem State.MemoryForm.raiseOn {s : State} {src port} (wf : s.MemoryForm) : (s.raiseOn src port).MemoryForm := by
  unfold State.raiseOn
  extract_lets src'
  have ksrc' : src'.MemoryForm := wf.raiseIrq
  exact ksrc'.of_eq

theorem State.MemoryForm.raiseFrom {s : State} {die src} (wf : s.MemoryForm) : (s.raiseFrom die src).MemoryForm := by
  unfold State.raiseFrom
  split
  · exact wf.raiseIrq
  · exact wf
  · exact wf.raiseOn

theorem State.MemoryForm.failOutside {s : State} {side} (wf : s.MemoryForm) : (s.failOutside side).MemoryForm := by
  unfold State.failOutside
  exact wf.foldl fun _ hu _ => hu.failRecord

theorem State.MemoryForm.renewed {s : State} {die acks} (wf : s.MemoryForm) : (s.renewed die acks).MemoryForm := by
  unfold State.renewed
  extract_lets s1
  have ks1 : s1.MemoryForm := wf.foldl fun _ hu _ => hu.onLight
  exact ks1.onLight

theorem execLeaseRenewal_form {s : State} {acks} (wf : s.MemoryForm) : Out.Form (execLeaseRenewal acks s) := by
  unfold execLeaseRenewal
  split
  · exact wf
  · exact .ite wf (.ite wf.renewed wf.onLight)

theorem State.MemoryForm.killApart {s : State} {id code} (wf : s.MemoryForm) : (s.killApart id code).MemoryForm := by
  unfold State.killApart
  split
  · exact wf
  · exact .ite wf.markDead wf.killCore.failRecord.raiseIrq

theorem State.MemoryForm.killDie {s : State} {die code} (wf : s.MemoryForm) : (s.killDie die code).MemoryForm :=
  wf.foldl fun _ hu _ => hu.killApart

theorem execLeaseLapse_form {s : State} {die} (wf : s.MemoryForm) : Out.Form (execLeaseLapse die s) := by
  unfold execLeaseLapse
  extract_lets l s1 s2 s3
  have ks1 : s1.MemoryForm := wf.onLight
  have ks2 : s2.MemoryForm := .ite ks1.of_eq ks1
  exact .ite wf (.ite ks2 (State.MemoryForm.ite ks2.onLight.killDie.raiseOn ks2.onLight.killDie))

theorem execVoteRequest_form {s : State} {die votes} (wf : s.MemoryForm) : Out.Form (execVoteRequest die votes s) := by
  unfold execVoteRequest
  extract_lets l due e got s1 s2
  have ks1 : s1.MemoryForm := (wf.foldl fun _ hu _ => hu.onLight).onLight
  have ks2 : s2.MemoryForm := ks1.of_eq.renewed.raiseFrom
  exact .ite wf (.ite ks1 (State.MemoryForm.ite ks2.failOutside.raiseFrom ks2))

theorem execMgmtLinkFail_form {s : State} {side} (wf : s.MemoryForm) : Out.Form (execMgmtLinkFail side s) := by
  unfold execMgmtLinkFail
  extract_lets mine s1
  split
  · exact wf
  · split
    · exact wf.of_eq
    · exact State.MemoryForm.ite wf.of_eq.failOutside.raiseFrom wf.of_eq

theorem State.MemoryForm.endMail {s : State} {port res len} (wf : s.MemoryForm) : (s.endMail port res len).MemoryForm :=
  wf.of_eq.setReg.raiseIrq

theorem State.MemoryForm.runMail {s : State} {port is k} (wf : s.MemoryForm) (hk : ∀ a, Out.Form (k a)) : Out.Form (s.runMail port is k) := by
  unfold State.runMail
  split
  · exact wf
  · split
    · exact wf.endMail
    · split
      · exact wf
      · split
        · exact hk _
        · exact wf

theorem execMbResync_form {s : State} {port addr} (wf : s.MemoryForm) : Out.Form (execMbResync port addr s) :=
  wf.runMail (fun _ => by
    extract_lets a size secs all cut before s1
    have ks1 : s1.MemoryForm := wf.deviceWrite
    exact .ite wf.endMail ks1.of_eq.endMail)

theorem execMbKill_form {s : State} {port rec} (wf : s.MemoryForm) : Out.Form (execMbKill port rec s) :=
  wf.runMail (fun _ => wf.killJob.endMail)

theorem execMbBadCommand_form {s : State} {port} (wf : s.MemoryForm) : Out.Form (execMbBadCommand port s) := wf.runMail (fun _ => wf.endMail)

theorem State.MemoryForm.landJob {s : State} {r fuel k} (wf : s.MemoryForm) : (s.landJob r fuel k).MemoryForm := by
  induction fuel generalizing s k with
  | zero => exact wf
  | succ fuel ih =>
    unfold State.landJob
    split
    · exact wf
    · exact .ite (ih wf) (ih wf.landMsg)

theorem State.MemoryForm.answerAll {s : State} {r fuel} (wf : s.MemoryForm) : (s.answerAll r fuel).MemoryForm := by
  induction fuel generalizing s with
  | zero => exact wf
  | succ fuel ih =>
    unfold State.answerAll
    split
    · rename_i s1 e
      exact ih (Out.Form.of_next e (execDispenserAnswer_form wf))
    · exact wf

theorem State.MemoryForm.landWrites {s : State} {r} (wf : s.MemoryForm) : (s.landWrites r).MemoryForm := by
  unfold State.landWrites
  extract_lets mine s1 s2 s3 s4
  have ks1 : s1.MemoryForm := wf.foldl fun _ hu _ => hu.finishPush
  have ks2 : s2.MemoryForm := ks1.foldl fun _ hu _ => hu.finishPull
  exact ks2.landJob.answerAll.foldl fun _ hu _ => .ite (hu.within (fun _ hu1 => matrixComplete_form hu1)) hu

/-- A dump leaves the state as it was, or writes what it holds and fails the record (R450). -/
theorem State.dump_cases {P : State → Prop} {s : State} {r cause} (same : P s)
    (dumped : ∀ a bs, P (((((s.onJob r fun j => { j with frozen := true }).landWrites r).deviceWrite a bs).failRecord r).raiseIrq 258)) :
    P (s.dump r cause) := by
  -- The definition is unfolded before it is applied: applied, the kernel would evaluate `size` to compare the two sides.
  generalize e : State.dump = f
  delta State.dump at e
  subst e
  beta_reduce
  extract_lets -underBinder size a
  clear_value size
  split
  · extract_lets -underBinder s1 secs
    generalize fitSections _ _ = p
    exact dumped _ _
  · exact same

theorem State.MemoryForm.dump {s : State} {r cause} (wf : s.MemoryForm) : (s.dump r cause).MemoryForm :=
  State.dump_cases wf fun _ _ => wf.onJob.landWrites.deviceWrite.failRecord.raiseIrq

theorem andThen_form {o : Out} {k} (wf : Out.Form o) (hk : ∀ a, a.MemoryForm → Out.Form (k a)) : Out.Form (andThen o k) := by
  unfold andThen
  split
  · exact hk _ wf
  · exact trivial
  · exact trivial

theorem execMbKillDump_form {s : State} {port rec} (wf : s.MemoryForm) : Out.Form (execMbKillDump port rec s) :=
  wf.runMail (fun _ => by
    extract_lets s1
    have ks1 : s1.MemoryForm := .ite wf.dump wf
    exact ks1.killJob.endMail)

theorem execFatalEcc_form {s : State} (wf : s.MemoryForm) : Out.Form (execFatalEcc s) := by
  unfold execFatalEcc
  extract_lets s1
  split
  · exact wf.countErr.markDead.dump
  · exact wf.countErr.markDead

/-! ## Virtual -/

theorem State.MemoryForm.startInval {s : State} {op asid first n} (wf : s.MemoryForm) : (s.startInval op asid first n).MemoryForm :=
  .ite wf wf.of_eq.setReg

theorem execTlbinvAll_form {s : State} (wf : s.MemoryForm) : Out.Form (execTlbinvAll s) := wf.startInval

theorem execTlbinvAsid_form {s : State} {asid} (wf : s.MemoryForm) : Out.Form (execTlbinvAsid asid s) := wf.startInval

theorem execTlbinvRange_form {s : State} {asid} (wf : s.MemoryForm) : Out.Form (execTlbinvRange asid s) := wf.startInval

theorem State.MemoryForm.rewatch {s : State} {q} (wf : s.MemoryForm) : (s.rewatch q).MemoryForm := by
  unfold State.rewatch
  extract_lets f
  split
  · exact wf.onQueue
  · exact wf

theorem execTlbinvComplete_form {s : State} (wf : s.MemoryForm) : Out.Form (execTlbinvComplete s) := by
  unfold execTlbinvComplete
  split
  · exact wf
  · split
    · exact wf
    · extract_lets s1 s2 kept s3
      have ks1 : s1.MemoryForm := wf.foldl fun _ hu _ => hu.foldl fun _ hu1 _ => hu1.drainSlot
      have ks2 : s2.MemoryForm := ks1.mapCores
      clear_value s2
      have ks3 : s3.MemoryForm := State.MemoryForm.setReg { ks2 with }
      exact ks3.foldl fun _ hu _ => hu.rewatch

theorem execTlbWalk_form {s : State} {die asid vf va _access _user party} (wf : s.MemoryForm) :
    Out.Form (execTlbWalk die asid vf va _access _user party s) := by
  unfold execTlbWalk
  split
  · exact .ite wf.of_eq.onCoreAt wf.of_eq
  · exact wf

theorem State.MemoryForm.retryPage {s : State} {who} (wf : s.MemoryForm) : (s.retryPage who).MemoryForm := by
  unfold State.retryPage
  split
  · exact wf.onCoreAt
  · exact wf.onEngine
  · exact wf.onQueue
  · exact wf.of_eq

theorem execPrqRetry_form {s : State} {tag} (wf : s.MemoryForm) : Out.Form (execPrqRetry tag s) := by
  unfold execPrqRetry
  split
  · exact wf.dropPage.retryPage
  · exact wf

theorem State.MemoryForm.stopColl {s : State} {die code} (wf : s.MemoryForm) : (s.stopColl die code).MemoryForm := by
  unfold State.stopColl
  extract_lets a s1 s2
  have ks1 : s1.MemoryForm := wf.deviceWrite
  exact ks1.of_eq.setReg

theorem State.MemoryForm.failPage {s : State} {who} (wf : s.MemoryForm) : (s.failPage who).MemoryForm := by
  unfold State.failPage
  extract_lets s1
  have ks1 : s1.MemoryForm := wf.retryPage
  split
  · exact ks1.focus.stopStream.focus
  · exact ks1.stopDma
  · exact ks1.stopQueue
  · exact ks1.stopColl

theorem execPrqFail_form {s : State} {tag} (wf : s.MemoryForm) : Out.Form (execPrqFail tag s) := by
  unfold execPrqFail
  split
  · exact wf.dropPage.failPage
  · exact wf

theorem execRegcmtGo_form {s : State} (wf : s.MemoryForm) : Out.Form (execRegcmtGo s) := .ite wf (.ite wf.setField wf.of_eq.setReg)

theorem execRegionClearDone_form {s : State} (wf : s.MemoryForm) : Out.Form (execRegionClearDone s) := by
  unfold execRegionClearDone
  split
  · exact wf
  · exact State.MemoryForm.setReg { wf with device := Memory.wf_filter wf.device _ }

theorem execVfctlReset_form {s : State} {v} (wf : s.MemoryForm) : Out.Form (execVfctlReset v s) := by
  unfold execVfctlReset
  split
  · exact wf
  · extract_lets s1 s2
    have ks1 : s1.MemoryForm := wf.foldl fun _ hu _ => hu.killJob.setRecState
    have ks2 : s2.MemoryForm := ks1.foldl fun _ hu _ => hu.resetQueue
    exact ks2.abortEngines.setReg

theorem execVfResetDrained_form {s : State} {v} (wf : s.MemoryForm) : Out.Form (execVfResetDrained v s) := by
  unfold execVfResetDrained
  split
  · exact wf
  · extract_lets s1
    have ks1 : s1.MemoryForm := wf.foldl fun _ hu _ => hu.setField
    exact ks1.setReg

/-! ## Scaleup -/

theorem State.MemoryForm.showPort {s : State} {p} (wf : s.MemoryForm) : (s.showPort p).MemoryForm := wf.setReg

theorem State.MemoryForm.failSpanning {s : State} {who} (wf : s.MemoryForm) : (s.failSpanning who).MemoryForm :=
  wf.foldl fun _ hu _ => hu.killJob

theorem State.MemoryForm.portDown {s : State} {port} (wf : s.MemoryForm) : (s.portDown port).MemoryForm := by
  unfold State.portDown
  extract_lets k s1
  split
  · exact wf.onShum.showPort.failSpanning.foldl fun _ hu _ => .ite hu.stopColl hu
  · exact wf.onShum.showPort.foldl fun _ hu _ => hu.sendFlit

theorem execShumbiviaPortDown_form {s : State} {port} (wf : s.MemoryForm) : Out.Form (execShumbiviaPortDown port s) := .ite wf wf.portDown

theorem execShumbiviaPortUp_form {s : State} {port twoLanes} (wf : s.MemoryForm) : Out.Form (execShumbiviaPortUp port twoLanes s) :=
  .ite wf wf.onShum.showPort

theorem State.MemoryForm.dropFlit {s : State} {port seq replay} (wf : s.MemoryForm) : (s.dropFlit port seq replay).MemoryForm := by
  unfold State.dropFlit
  extract_lets w s1
  have ks1 : s1.MemoryForm := wf.setReg.countErr.onShum
  exact .ite ks1.portDown ks1

theorem State.MemoryForm.answered {s : State} {port} (wf : s.MemoryForm) : (s.answered port).MemoryForm := by
  unfold State.answered
  extract_lets n s1
  have ks1 : s1.MemoryForm := wf.onShum
  split
  · exact .ite (.ite ks1.onShum.portDown ks1.onShum) ks1
  · exact ks1

theorem execFlitReceive_form {s : State} {port seq kg tagOk replay} (wf : s.MemoryForm) : Out.Form (execFlitReceive port seq kg tagOk replay s) := by
  unfold execFlitReceive
  extract_lets k s0
  have ks0 : s0.MemoryForm := .ite wf.countErr wf
  exact .ite wf (.ite ks0.dropFlit (.ite ks0 ks0.onShum.answered))

theorem execKeyRollover_form {s : State} {port key} (wf : s.MemoryForm) : Out.Form (execKeyRollover port key s) := by
  unfold execKeyRollover
  exact .ite wf (wf.onShum.showPort.foldl fun _ hu _ => hu.onShum)

theorem execKeyRetire_form {s : State} {port} (wf : s.MemoryForm) : Out.Form (execKeyRetire port s) := by
  unfold execKeyRetire
  extract_lets k s1
  have ks1 : s1.MemoryForm := .ite wf.onShum wf
  exact .ite wf (.ite ks1 ks1.onShum)

theorem State.MemoryForm.messageFrom {s : State} {dev r word sender pay} (wf : s.MemoryForm) : (s.messageFrom dev r word sender pay).MemoryForm :=
  .ite wf.of_eq wf

theorem State.MemoryForm.remoteAtomic {s : State} {addr f data} (wf : s.MemoryForm) : (s.remoteAtomic addr f data).MemoryForm := by
  unfold State.remoteAtomic
  extract_lets old s1
  have ks1 : s1.MemoryForm := by
    unfold s1
    split
    · exact wf.writeDevice
    · exact wf
  exact ks1.sendFlit

theorem execRemoteAccessArrival_form {s : State} {dev addr kind len data} (wf : s.MemoryForm) :
    Out.Form (execRemoteAccessArrival dev addr kind len data s) := by
  unfold execRemoteAccessArrival
  extract_lets n
  split
  · exact wf
  · split
    · exact wf.messageFrom
    · split
      · exact wf
      · split
        · exact State.MemoryForm.ite wf.refuseRemote wf.refuseRemote.sendFlit
        · split
          · exact wf.remoteAtomic
          · exact State.MemoryForm.ite wf.writeDevice wf.sendFlit

theorem execRemoteTimeout_form {s : State} {dev} (wf : s.MemoryForm) : Out.Form (execRemoteTimeout dev s) := .ite wf wf.failSpanning

theorem State.MemoryForm.settleColl {s : State} {die} (wf : s.MemoryForm) : (s.settleColl die).MemoryForm := by
  unfold State.settleColl
  exact .ite wf wf.setReg

theorem execCrtailWrite_form {s : State} {die tail} (wf : s.MemoryForm) : Out.Form (execCrtailWrite die tail s) := by
  unfold execCrtailWrite
  split
  · exact wf
  · exact .ite wf.stopColl (State.MemoryForm.ite wf.setReg wf.setReg.settleColl)

theorem State.MemoryForm.crcfgWrite {s : State} {die v} (wf : s.MemoryForm) : (s.crcfgWrite die v).MemoryForm :=
  .ite wf (.ite wf.setReg wf.setReg.settleColl)

theorem execCrAbort_form {s : State} {die} (wf : s.MemoryForm) : Out.Form (execCrAbort die s) := .ite wf wf.abortColl

theorem execCrResume_form {s : State} {die} (wf : s.MemoryForm) : Out.Form (execCrResume die s) := .ite wf.setReg.settleColl wf

theorem execCollectiveStart_form {s : State} {die} (wf : s.MemoryForm) : Out.Form (execCollectiveStart die s) := by
  unfold execCollectiveStart
  exact .ite wf (.ite wf.stopColl wf.of_eq.setReg)

theorem State.MemoryForm.collMiss {s : State} {die access x} (wf : s.MemoryForm) : (s.collMiss die access x).MemoryForm := by
  unfold State.collMiss
  split
  · exact wf.stopColl
  · dsimp only
    exact State.MemoryForm.of_eq wf.askPage

theorem State.MemoryForm.collDone {s : State} {die d flags} (wf : s.MemoryForm) : (s.collDone die d flags).MemoryForm := by
  unfold State.collDone
  extract_lets s1 cc s2 s3
  have ks2 : s2.MemoryForm := by
    unfold s2
    split
    · exact wf.deviceWrite.addCtr
    · exact wf.deviceWrite
  exact ks2.of_eq.setReg.settleColl

theorem execCollectiveComplete_form {s : State} {die peers} (wf : s.MemoryForm) : Out.Form (execCollectiveComplete die peers s) := by
  unfold execCollectiveComplete
  extract_lets g me
  split
  · extract_lets ms' f' es' n' others'
    split
    · exact wf
    · split
      · exact wf.stopColl
      · split
        · exact wf
        · split
          · exact wf.collMiss
          · exact wf.collMiss
          · exact wf.askedRuns.writeRuns.collDone
  · exact wf

/-! ## Boot -/

theorem State.MemoryForm.showFuses {s : State} (wf : s.MemoryForm) : (s.showFuses).MemoryForm := wf.setField.setField.setField

theorem State.MemoryForm.bootCode {s : State} {code} (wf : s.MemoryForm) : (s.bootCode code).MemoryForm := wf.setField

theorem State.MemoryForm.narrowLink {s : State} {u} (wf : s.MemoryForm) : (s.narrowLink u).MemoryForm := by
  unfold State.narrowLink
  split
  · exact .ite wf.onShum.showPort wf
  · exact wf.onPort
  · exact wf

theorem State.MemoryForm.removeUnit {s : State} {u test addr} (wf : s.MemoryForm) : (s.removeUnit u test addr).MemoryForm :=
  .ite wf wf.of_eq.countErr.narrowLink

theorem State.MemoryForm.bistFail {s : State} {b} (wf : s.MemoryForm) : (s.bistFail b).MemoryForm := wf.of_eq.removeUnit

theorem State.MemoryForm.retireUnit {s : State} {u addr} (wf : s.MemoryForm) : (s.retireUnit u addr).MemoryForm := by
  unfold State.retireUnit
  extract_lets s1 rs s2
  have ks2 : s2.MemoryForm := wf.removeUnit.foldl fun _ hu _ => hu.foldl fun _ hu1 _ => hu1.markDead
  exact ks2.foldl fun _ hu _ => hu.dump

theorem State.MemoryForm.spoil {s : State} {where_} (wf : s.MemoryForm) : (s.spoil where_).MemoryForm := by
  unfold State.spoil
  split
  · exact wf.onCore
  · exact wf.onCore
  · exact .ite wf.stopDma wf
  · exact wf

theorem execEccError_form {s : State} {where_ uncorrectable} (wf : s.MemoryForm) : Out.Form (execEccError where_ uncorrectable s) := by
  unfold execEccError
  extract_lets s1
  have ks1 : s1.MemoryForm := by
    unfold s1
    split
    · exact wf.countErr
    · exact wf
  split
  · exact State.MemoryForm.ite ks1.spoil ks1.retireUnit
  · split
    · exact ks1
    · exact State.MemoryForm.ite ks1.of_eq.retireUnit ks1.of_eq

theorem State.MemoryForm.afterReset {s : State} (wf : s.MemoryForm) : s.afterReset.MemoryForm :=
  { State.memoryForm_reset with
    device := wf.device, host := wf.host, slotA := wf.slotA, slotB := wf.slotB, slotR := wf.slotR }

theorem State.MemoryForm.electFirst {s : State} (wf : s.MemoryForm) : (s.electFirst).MemoryForm := by
  unfold State.electFirst
  extract_lets voters s1
  have ks1 : s1.MemoryForm := wf.foldl fun _ hu _ => hu.onLight
  split
  · exact ks1
  · exact .ite ks1 ks1.of_eq.renewed.raiseIrq

theorem State.MemoryForm.trainPorts {s : State} (wf : s.MemoryForm) : (s.trainPorts).MemoryForm := .ite wf wf.onPort.onPort.setField

theorem State.MemoryForm.bootUp {s : State} {thermal strap bist} (wf : s.MemoryForm) : (s.bootUp thermal strap bist).MemoryForm := by
  unfold State.bootUp
  extract_lets s0 s1 f s2 held
  have k0 : s0.MemoryForm := wf.afterReset
  have ks1 : s1.MemoryForm := { k0 with }
  have ks2 : s2.MemoryForm := State.MemoryForm.showFuses { ks1 with }
  split
  split
  · exact ks2.bootCode.setField
  · extract_lets m s2' s3 s4 logged s5 s6
    have k2' : s2'.MemoryForm := ks2.setField.setField
    have ks3 : s3.MemoryForm := { k2' with }
    have ks4 : s4.MemoryForm := (State.MemoryForm.bootCode (.ite ks3.countErr ks3)).foldl fun _ hu _ => hu.onLight
    have ks5 : s5.MemoryForm := State.MemoryForm.foldl { ks4 with } fun _ hu _ => hu.countErr.narrowLink
    have ks6 : s6.MemoryForm := ks5.foldl fun _ hu _ => hu.bistFail
    exact ks6.electFirst.trainPorts

theorem execPackageReset_form {s : State} {thermal strap bist} (wf : s.MemoryForm) : Out.Form (execPackageReset thermal strap bist s) :=
  wf.bootUp

theorem execDevrst_form {s : State} {src} (wf : s.MemoryForm) : Out.Form (execDevrst src s) := State.MemoryForm.ite wf.bootUp wf.guard

theorem State.MemoryForm.bootctl {s : State} {k : State} {src} (wf : s.MemoryForm) (hk : k.MemoryForm) : Out.Form (s.bootctl src k) :=
  State.MemoryForm.ite hk wf.guard

theorem State.MemoryForm.accepted {s : State} (wf : s.MemoryForm) : (s.accepted).MemoryForm := .ite wf.bootCode wf

theorem State.MemoryForm.burn {s : State} {f} (wf : s.MemoryForm) (ha : (f s.flash).slotA = s.flash.slotA := by rfl)
    (hb : (f s.flash).slotB = s.flash.slotB := by rfl) (hr : (f s.flash).slotR = s.flash.slotR := by rfl) : (s.burn f).MemoryForm :=
  (wf.of_eq (ha := ha) (hb := hb) (hr := hr)).showFuses.accepted

theorem execBootctlRecovery_form {s : State} {src} (wf : s.MemoryForm) : Out.Form (execBootctlRecovery src s) := wf.bootctl wf.burn

theorem execBootctlMain_form {s : State} {src} (wf : s.MemoryForm) : Out.Form (execBootctlMain src s) := wf.bootctl wf.burn

theorem execBootctlRaiseSvn_form {s : State} {src} (wf : s.MemoryForm) : Out.Form (execBootctlRaiseSvn src s) := wf.bootctl wf.burn

theorem execBootctlFuseOwner_form {s : State} {src slot addr} (wf : s.MemoryForm) : Out.Form (execBootctlFuseOwner src slot addr s) := by
  unfold execBootctlFuseOwner
  exact wf.bootctl (.ite wf.bootCode wf.burn)

theorem execBootctlRevokeOwner_form {s : State} {src slot} (wf : s.MemoryForm) : Out.Form (execBootctlRevokeOwner src slot s) := by
  unfold execBootctlRevokeOwner
  exact wf.bootctl (.ite wf.bootCode wf.burn)

theorem execBootctlSetOwnmode_form {s : State} {src mode} (wf : s.MemoryForm) : Out.Form (execBootctlSetOwnmode src mode s) :=
  wf.bootctl (.ite wf.bootCode wf.burn)

theorem execAttcmdGo_form {s : State} {addr} (wf : s.MemoryForm) : Out.Form (execAttcmdGo addr s) := by
  unfold execAttcmdGo
  exact .ite wf wf.deviceWrite.setReg

theorem State.MemoryForm.applyKeys {s : State} (wf : s.MemoryForm) : (s.applyKeys).MemoryForm := wf.foldl fun _ hu _ => .ite hu hu.of_eq

theorem execKeySlotWrite_form {s : State} {slot key} (wf : s.MemoryForm) : Out.Form (execKeySlotWrite slot key s) :=
  .ite wf (.ite wf.of_eq.applyKeys (.ite wf.onShum wf))

theorem State.MemoryForm.setAct {s : State} {n v} (wf : s.MemoryForm) : (s.setAct n v).MemoryForm := by
  unfold State.setAct
  exact .ite wf.setField (wf.setField.mapCores (fun _ _ hu => Core.wf_ite hu hu))

theorem execIslandClockChange_form {s : State} {n} (wf : s.MemoryForm) : Out.Form (execIslandClockChange n s) := .ite wf wf.setAct

theorem execCappingCheck_form {s : State} (wf : s.MemoryForm) : Out.Form (execCappingCheck s) := by
  unfold execCappingCheck
  generalize List.range islands = l
  extract_lets cap power s1 fast
  have ks1 : s1.MemoryForm := { wf with }
  split
  · exact wf
  · split
    · exact State.MemoryForm.foldl (State.MemoryForm.ite ks1 ks1.countErr) fun _ hu _ => hu.setAct
    · split
      · exact ks1.foldl fun _ hu _ => .ite hu.setAct hu
      · exact ks1

theorem execThermalTrip_form {s : State} {n temp} (wf : s.MemoryForm) : Out.Form (execThermalTrip n temp s) := by
  unfold execThermalTrip
  split
  · exact wf
  · split
    · exact wf.bootUp
    · exact State.MemoryForm.ite (.ite wf.setField.setAct wf.setField.setAct.countErr) wf.setField

/-! ## Regs -/

theorem State.MemoryForm.writeFields {s : State} {r mask v} (wf : s.MemoryForm) : (s.writeFields r mask v).MemoryForm := wf.setReg

theorem State.MemoryForm.writeOnce {s : State} {r hi lo v} (wf : s.MemoryForm) : (s.writeOnce r hi lo v).MemoryForm := .ite wf.setField wf

theorem onBit_form {s : State} {b k} (hk : ∀ a, a.MemoryForm → Out.Form (k a)) (wf : s.MemoryForm) : Out.Form (onBit b k s) :=
  .ite (hk _ wf) wf

theorem onFocus_form {s : State} {c k} (hk : ∀ a, a.MemoryForm → Out.Form (k a)) (wf : s.MemoryForm) : Out.Form (onFocus c k s) :=
  andThen_form (hk _ wf.focus) (fun _ hu => hu.focus)

theorem writeHsemcmd_form {s : State} {v src} (wf : s.MemoryForm) : Out.Form (writeHsemcmd v src s) := by
  unfold writeHsemcmd
  extract_lets tag
  split
  · exact execHsemAcquire_form wf
  · exact execHsemRelease_form wf
  · exact wf

theorem writeBootctl_form {s : State} {v src} (wf : s.MemoryForm) : Out.Form (writeBootctl v src s) := by
  unfold writeBootctl
  split
  · exact execBootctlRecovery_form wf
  · exact execBootctlMain_form wf
  · exact execBootctlRaiseSvn_form wf
  · exact execBootctlFuseOwner_form wf
  · exact execBootctlRevokeOwner_form wf
  · exact execBootctlSetOwnmode_form wf
  · exact wf.bootctl wf

theorem writeUdctl_form {s : State} {v} (wf : s.MemoryForm) : (writeUdctl v s).MemoryForm := wf.setReg

theorem writeUdclr_form {s : State} {die v} (wf : s.MemoryForm) : (writeUdclr die v s).MemoryForm := wf.foldl fun _ hu _ => .ite hu.setReg hu

theorem writeIotctl_form {s : State} {p v} (wf : s.MemoryForm) : (writeIotctl p v s).MemoryForm := by
  unfold writeIotctl
  exact .ite wf.setReg.setReg wf.setReg

theorem writeTrctl_form {s : State} {c v} (wf : s.MemoryForm) : (writeTrctl c v s).MemoryForm :=
  .ite (.ite wf wf.traceEnd) (.ite wf.setReg.traceStart wf.setReg)

theorem writeTmctl_form {s : State} {v} (wf : s.MemoryForm) : (writeTmctl v s).MemoryForm := by
  unfold writeTmctl
  extract_lets s1 src
  have ksrc : src.MemoryForm := wf.setReg.setReg
  exact .ite ksrc.of_eq wf.setReg

theorem State.MemoryForm.setCeilings {s : State} (wf : s.MemoryForm) : (s.setCeilings).MemoryForm :=
  wf.mapCores (fun _ _ hu => by
    split <;> exact hu)

theorem writeVfqos_form {s : State} {v w} (wf : s.MemoryForm) : (writeVfqos v w s).MemoryForm := wf.setReg.setCeilings

theorem writeMbcmd_form {s : State} {p v} (wf : s.MemoryForm) : (writeMbcmd p v s).MemoryForm := .ite wf wf.of_eq.setReg

theorem writeTlbinv_form {s : State} {v} (wf : s.MemoryForm) : Out.Form (writeTlbinv v s) := by
  unfold writeTlbinv
  split
  · exact execTlbinvAll_form wf
  · exact execTlbinvAsid_form wf
  · exact execTlbinvRange_form wf
  · exact wf

theorem writePrqresp_form {s : State} {v} (wf : s.MemoryForm) : Out.Form (writePrqresp v s) := by
  unfold writePrqresp
  split
  · exact execPrqRetry_form wf
  · exact execPrqFail_form wf
  · exact wf

theorem writeRegcmt_form {s : State} {v} (wf : s.MemoryForm) : Out.Form (writeRegcmt v s) :=
  onBit_form (fun _ hu => execRegcmtGo_form hu) (.ite wf.setField wf)

theorem writeDcmd_form {s : State} {c v} (wf : s.MemoryForm) : Out.Form (writeDcmd c v s) :=
  onFocus_form (fun _ hu => andThen_form (onBit_form (fun _ hu1 => execDcmdHalt_form hu1) hu)
    (fun _ hu1 => andThen_form (onBit_form (fun _ hu2 => execDcmdResume_form hu2) hu1)
      (fun _ hu2 => onBit_form (fun _ hu3 => execDcmdStep_form hu3) hu2))) wf

theorem State.MemoryForm.sliceAnew {s : State} (wf : s.MemoryForm) : (s.sliceAnew).MemoryForm := wf.of_eq

theorem State.MemoryForm.writeReg {s : State} {r v src} (wf : s.MemoryForm) : Out.Form (s.writeReg r v src) := by
  unfold State.writeReg
  split
  · exact State.MemoryForm.ite wf.writeFields.setCeilings (.ite wf.writeFields.sliceAnew wf.writeFields)
  · split
    · exact onBit_form (fun _ hu => execDevrst_form hu) wf
    · exact writeBootctl_form wf
    · exact writeHsemcmd_form wf
    · exact wf.setReg
    · exact wf.setReg
    · exact writeUdctl_form wf
    · exact writeUdclr_form wf
    · exact writeIotctl_form wf
    · exact State.MemoryForm.ite wf wf.writeFields
    · exact State.MemoryForm.ite wf wf.setReg
    · exact State.MemoryForm.ite wf wf.writeFields
    · exact execDrcfgWrite_form wf
    · exact execDrtailWrite_form wf
    · exact andThen_form (onBit_form (fun _ hu => execDmaAbort_form hu) wf) (fun _ hu => onBit_form (fun _ hu1 => execDmaResume_form hu1) hu)
    · exact wf.writeOnce
    · exact wf.writeOnce
    · exact execQtailWrite_form wf
    · exact onBit_form (fun _ hu => execQctlReset_form hu) wf
    · exact writeMbcmd_form wf
    · exact wf.writeOnce
    · exact writeTlbinv_form wf
    · exact writePrqresp_form wf
    · exact writeRegcmt_form wf
    · exact onBit_form (fun _ hu => execVfctlReset_form hu) wf
    · exact writeVfqos_form wf
    · exact wf.writeOnce.writeOnce
    · exact State.MemoryForm.ite wf wf.writeFields
    · exact wf.crcfgWrite
    · exact execCrtailWrite_form wf
    · exact andThen_form (onBit_form (fun _ hu => execCrAbort_form hu) wf) (fun _ hu => onBit_form (fun _ hu1 => execCrResume_form hu1) hu)
    · exact writeDcmd_form wf
    · exact State.MemoryForm.ite wf.onCoreAt wf
    · exact onFocus_form (fun _ hu => execDdataWrite_form hu) wf
    · exact writeTrctl_form wf
    · exact State.MemoryForm.ite wf wf.writeFields
    · exact onBit_form (fun _ hu => execDgrpResume_form hu) wf
    · exact .ite (execFrzctlAssert_form wf) (execFrzctlRelease_form wf)
    · exact writeTmctl_form wf
    · exact State.MemoryForm.ite wf wf.writeFields
    · exact State.MemoryForm.ite wf wf.writeFields
    · exact onBit_form (fun _ hu => execAttcmdGo_form hu) wf
    · exact wf.setField
    · exact wf

theorem State.MemoryForm.configWrite {s : State} {p high r n} (wf : s.MemoryForm) : Out.Form (s.configWrite p high r n) := by
  unfold State.configWrite
  split
  · exact wf.foldl fun _ hu _ => hu.writeFields
  · exact .ite wf (.ite wf.writeReg (.ite wf.writeReg wf.of_eq))

theorem execRegisterWrite_form {s : State} {r v src} (wf : s.MemoryForm) : Out.Form (execRegisterWrite r v src s) := by
  unfold execRegisterWrite
  split
  · exact wf.configWrite
  · exact .ite wf wf.writeReg
  · exact wf.writeReg
  · exact wf.writeReg

/-! ## Inbound -/

theorem State.MemoryForm.writeVector {s : State} {p vec bs} (wf : s.MemoryForm) : (s.writeVector p vec bs).MemoryForm :=
  wf.writeFields.writeFields.writeFields

theorem State.MemoryForm.bar4Write {s : State} {p off bs} (wf : s.MemoryForm) : (s.bar4Write p off bs).MemoryForm :=
  wf.foldl fun _ hu _ => .ite hu hu.writeVector

theorem State.MemoryForm.hostStore {s : State} {a bs} (wf : s.MemoryForm) : (s.hostStore a bs).MemoryForm := by
  unfold State.hostStore
  exact wf.writeDevice.foldl fun _ hu _ => hu.setDw

theorem State.MemoryForm.ioTrace {s : State} {p ev route wid piece} (wf : s.MemoryForm) : (s.ioTrace p ev route wid piece).MemoryForm := by
  unfold State.ioTrace
  exact .ite wf wf.writeDevice.setReg

theorem State.MemoryForm.refuseInbound {s : State} {p wid route k} (wf : s.MemoryForm) : (s.refuseInbound p wid route k).MemoryForm :=
  wf.setReg.logAer.raiseIrq.ioTrace

theorem execInboundWrite_form {s : State} {port dst bytes ro ido rid poisoned} (wf : s.MemoryForm) :
    Out.Form (execInboundWrite port dst bytes ro ido rid poisoned s) := by
  unfold execInboundWrite
  extract_lets p bad w s1 s2
  have ks2 : s2.MemoryForm := .ite wf.onPort.ioTrace.ioTrace wf.onPort.ioTrace
  split
  · exact wf
  · clear_value bad
    split
    · exact ks2.refuseInbound
    · exact ks2

theorem execPieceLeave_form {s : State} {port wid piece} (wf : s.MemoryForm) : Out.Form (execPieceLeave port wid piece s) := by
  unfold execPieceLeave
  extract_lets p s1
  split
  · exact wf
  · exact .ite wf wf.onPort.ioTrace

theorem State.MemoryForm.performPiece {s : State} {port k} (wf : s.MemoryForm) : Out.Form (s.performPiece port k) := by
  unfold State.performPiece
  split
  · exact wf.hostStore
  · exact wf.hostStore
  · exact .ite wf.writeReg wf
  · exact wf.writeReg
  · exact wf.bar4Write
  · exact wf
  · exact wf

theorem State.MemoryForm.answerPiece {s : State} {port wid piece} (wf : s.MemoryForm) : (s.answerPiece port wid piece).MemoryForm := by
  unfold State.answerPiece
  split
  · exact wf
  · split
    · exact wf
    · exact wf.onPort.ioTrace

theorem execPieceAck_form {s : State} {port wid piece} (wf : s.MemoryForm) : Out.Form (execPieceAck port wid piece s) := by
  unfold execPieceAck
  extract_lets p
  split
  · exact wf.answerPiece
  · split
    · exact wf
    · exact andThen_form (.ite wf wf.performPiece) (fun _ hu => hu.onPort.ioTrace)

theorem execInboundRead_form {s : State} {port src len ro ido rid poisoned} (wf : s.MemoryForm) :
    Out.Form (execInboundRead port src len ro ido rid poisoned s) := by
  unfold execInboundRead
  extract_lets p s1 r ks bs
  split
  · exact wf
  · split
    · exact wf.onPort.onPort.refuseInbound
    · exact .ite (wf.onPort.onPort.foldl fun _ hu _ => hu.ioTrace) wf.onPort.onPort.ioTrace.ioTrace

/-! ## Move -/

theorem execMove_form {s : State} {h' dst} (wf : s.MemoryForm) : Out.Form (execMove h' dst s) := execMoveTo_form wf

theorem execLinePad_form {s : State} (wf : s.MemoryForm) : Out.Form (execLinePad s) := wf.onSl

theorem illegalTrap_form {s : State} {code tval} (wf : s.MemoryForm) : Out.Form (illegalTrap s code tval) := by
  unfold illegalTrap
  split
  · exact enterTrap_form wf
  · exact wf.of_eq

theorem execIllegalOp_form {s : State} {h' u opc} (wf : s.MemoryForm) : Out.Form (execIllegalOp h' u opc s) := by
  unfold execIllegalOp
  extract_lets h' w
  split <;> exact illegalTrap_form wf

theorem execIllegalMove_form {s : State} {w reason} (wf : s.MemoryForm) : Out.Form (execIllegalMove w reason s) := by
  unfold execIllegalMove
  exact illegalTrap_form wf

/-! ## Dispatch -/

theorem exec_form {i : Instr} {s : State} (wf : s.MemoryForm) : Out.Form (exec i s) := by
  cases i
  case iaAdd | iaSub | iaAnd | iaOr | iaXor | iaAndn | iaSll | iaSrl | iaSra | iaRol | iaRor | iaMin | iaMax | iaMinu | iaMaxu | iaCeq |
    iaCne | iaClt | iaCltu | iaCge | iaCgeu | iaSel | iaPopc | iaClz | iaCtz | iaExt | iaExtu | iaIns | iaSxb | iaSxh | iaSxw | iaZxb |
    iaZxh | iaZxw | iaAddw | iaSubw | iaSllw | iaSrlw | iaSraw | ibAdd | ibSub | ibAnd | ibOr | ibXor | ibAndn | ibSll | ibSrl | ibSra |
    ibRol | ibRor | ibMin | ibMax | ibMinu | ibMaxu | ibCeq | ibCne | ibClt | ibCltu | ibCge | ibCgeu | ibSel | ibPopc | ibClz | ibCtz |
    ibExt | ibExtu | ibIns | ibSxb | ibSxh | ibSxw | ibZxb | ibZxh | ibZxw | ibAddw | ibSubw | ibSllw | ibSrlw | ibSraw =>
    exact execTrigger_form (fun _ k => alu_form k) wf
  case agPadd => exact execTrigger_form (fun _ k => agPadd_form k) wf
  case agPsub => exact execTrigger_form (fun _ k => agPsub_form k) wf
  case agPtag => exact execTrigger_form (fun _ k => agPtag_form k) wf
  case agPfmt => exact execTrigger_form (fun _ k => agPfmt_form k) wf
  case agPblk => exact execTrigger_form (fun _ k => agPblk_form k) wf
  case agPclr => exact execTrigger_form (fun _ k => agPclr_form k) wf
  case agPidx => exact execTrigger_form (fun _ k => agPidx_form k) wf
  case agCadr => exact execTrigger_form (fun _ k => agCadr_form k) wf
  case agLcl => exact execTrigger_form (fun _ k => agLcl_form k) wf
  case agCoord => exact execTrigger_form (fun _ k => agCoord_form k) wf
  case muMul | muMulh | muMulhu | muMulhsu | muMulw => exact execTrigger_form (fun _ k => multiply_form k) wf
  case muDiv | muDivu | muRem | muRemu | muDivw | muRemw => exact execTrigger_form (fun _ k => divide_form k) wf
  case cfBr => exact execTrigger_form (fun _ k => cfBr_form k) wf
  case cfJmp => exact execTrigger_form (fun _ k => cfJmp_form k) wf
  case cfCall => exact execTrigger_form (fun _ k => cfCall_form k) wf
  case cfLoop0 | cfLoop1 => exact execTrigger_form (fun _ k => cfLoop_form k) wf
  case cfRep => exact execTrigger_form (fun _ k => cfRep_form k) wf
  case cfBrk => exact execTrigger_form (fun _ k => cfBrk_form k) wf
  case lsLd8 | lsLd8u | lsLd16 | lsLd16u | lsLd32 | lsLd32u | lsLd64 | lsLdacqCore | lsLdacqCluster | lsLdacqDie | lsLdacqDevice |
    lsLdacqDomain | lsLdacqSystem =>
    exact execTrigger_form (fun _ k => lsLoad_form k) wf
  case lsSt8 | lsSt16 | lsSt32 | lsSt64 => exact execTrigger_form (fun _ k => lsStore_form k) wf
  case lsStrelCore | lsStrelCluster | lsStrelDie | lsStrelDevice | lsStrelDomain | lsStrelSystem | lsFput =>
    exact execTrigger_form (fun _ k => lsRelease_form k) wf
  case lsLla => exact execTrigger_form (fun _ k => lsLla_form k) wf
  case lsSsu => exact execTrigger_form (fun _ k => lsSsu_form k) wf
  case lsCas | lsSwap | lsAadd | lsAand | lsAor | lsAmin | lsAmax | lsAminu | lsAmaxu =>
    exact execTrigger_form (fun _ k => lsAtomic_form k) wf
  case lsFget => exact execTrigger_form (fun _ k => lsFget_form k) wf
  case lsFclr => exact execTrigger_form (fun _ k => lsFclr_form k) wf
  case lsBwait => exact execTrigger_form (fun _ k => lsBwait_form k) wf
  case lsBadv => exact execTrigger_form (fun _ k => lsBadv_form k) wf
  case lsBpush => exact execTrigger_form (fun _ k => lsBpush_form k) wf
  case lsBstat => exact execTrigger_form (fun _ k => lsBstat_form k) wf
  case vpVld => exact execTrigger_form (fun _ k => vpVld_form k) wf
  case vpVldx | vpVldb => exact execTrigger_form (fun _ k => vpExpand_form k) wf
  case vpVst => exact execTrigger_form (fun _ k => vpVst_form k) wf
  case vpVstx => exact execTrigger_form (fun _ k => vpVstx_form k) wf
  case vpVstm => exact execTrigger_form (fun _ k => vpVstm_form k) wf
  case vpBcast | vpDq | vpAdd | vpSub | vpMul | vpFma | vpFnma | vpMin | vpMax | vpMinu | vpMaxu | vpAbs | vpNeg | vpCeq | vpCne | vpClt
    | vpCle | vpCltu | vpCleu | vpSel | vpAnd | vpOr | vpXor | vpAndn | vpSll | vpSrl | vpSra | vpCvtRne | vpCvtRtz | vpCvtRup |
    vpCvtRdn | vpCvtRsr | vpCvtDyn | vpCvtSatRne | vpCvtSatRtz | vpCvtSatRup | vpCvtSatRdn | vpCvtSatRsr | vpCvtSatDyn | vpRadd | vpRmin
    | vpRmax | vpRminu | vpRmaxu | vpPerm | vpShuf | vpZiplo | vpZiphi | vpUnzipe | vpUnzipo | vpExt | vpIns | vpDot8 | vpDot8u |
    vpDot8su | vpExp2 | vpLog2 | vpRcp | vpRsqrt | vpNrcp | vpNrsq =>
    exact execTrigger_form (fun _ k => vecOp_form k) wf
  case mxMmac | mxMlut | mxMsemi | mxMzero | mxMload | mxMdrain | mxMscale | mxMbar | mxMstat =>
    exact execTrigger_form (fun _ k => mxCommand_form k) wf
  case qmLd8 | qmLd8u | qmLd16 | qmLd16u | qmLd32 | qmLd32u | qmLd64 | qmLdacqCore | qmLdacqCluster | qmLdacqDie | qmLdacqDevice |
    qmLdacqDomain | qmLdacqSystem =>
    exact execTrigger_form (fun _ k => qmLoad_form k) wf
  case qmSt8 | qmSt16 | qmSt32 | qmSt64 => exact execTrigger_form (fun _ k => qmStore_form k) wf
  case qmStrelCore | qmStrelCluster | qmStrelDie | qmStrelDevice | qmStrelDomain | qmStrelSystem =>
    exact execTrigger_form (fun _ k => qmRelease_form k) wf
  case qmCas | qmSwap | qmAadd | qmAand | qmAor | qmAmin | qmAmax | qmAminu | qmAmaxu =>
    exact execTrigger_form (fun _ k => qmAtomic_form k) wf
  case qmPush | qmPull => exact execTrigger_form (fun _ k => qmCopy_form k) wf
  case qmFenceCore | qmFenceCluster | qmFenceDie | qmFenceDevice | qmFenceDomain | qmFenceSystem =>
    exact execTrigger_form (fun _ k => qmFence_form k) wf
  case qsRun => exact execTrigger_form (fun _ k => qsRun_form k) wf
  case qsStat => exact execTrigger_form (fun _ k => qsStat_form k) wf
  case qsCancel => exact execTrigger_form (fun _ k => qsCancel_form k) wf
  case chSend => exact execTrigger_form (fun _ k => chSend_form k) wf
  case chSendm => exact execTrigger_form (fun _ k => chSendm_form k) wf
  case chRecv => exact execTrigger_form (fun _ k => chRecv_form k) wf
  case chPoll => exact execTrigger_form (fun _ k => chPoll_form k) wf
  case chFree => exact execTrigger_form (fun _ k => chFree_form k) wf
  case chMatch => exact execTrigger_form (fun _ k => chMatch_form k) wf
  case chUnmatch => exact execTrigger_form (fun _ k => chUnmatch_form k) wf
  case ksYield => exact execTrigger_form (fun _ k => ksYield_form k) wf
  case ksEnd => exact execTrigger_form (fun _ k => ksEnd_form k) wf
  case ksEmit => exact execTrigger_form (fun _ k => ksEmit_form k) wf
  case ksDrain => exact execTrigger_form (fun _ k => ksDrain_form k) wf
  case ksStat => exact execTrigger_form (fun _ k => ksStat_form k) wf
  case sySlack => exact execTrigger_form (fun _ k => sySlack_form k) wf
  case syBar => exact execTrigger_form (fun _ k => syBar_form k) wf
  case syWait => exact execTrigger_form (fun _ k => syWait_form k) wf
  case syCwait => exact execTrigger_form (fun _ k => syCwait_form k) wf
  case syCinc => exact execTrigger_form (fun _ k => syCinc_form k) wf
  case syYield => exact execTrigger_form (fun _ k => syYield_form k) wf
  case syHstart => exact execTrigger_form (fun _ k => syHstart_form k) wf
  case syHjoin => exact execTrigger_form (fun _ k => syHjoin_form k) wf
  case syTend => exact execTrigger_form (fun _ k => syTend_form k) wf
  case syDreq => exact execTrigger_form (fun _ k => syDreq_form k) wf
  case syLaunch => exact execTrigger_form (fun _ k => syLaunch_form k) wf
  case syLpatch => exact execTrigger_form (fun _ k => syLpatch_form k) wf
  case syFenceCore | syFenceCluster | syFenceDie | syFenceDevice | syFenceDomain | syFenceSystem =>
    exact execTrigger_form (fun _ k => syFence_form k) wf
  case syCsrr | syCsrw | syCsrs | syCsrc => exact execTrigger_form (fun _ k => syCsr_form k) wf
  case syTrap => exact execTrigger_form (fun _ k => syTrap_form k) wf
  case syTret => exact execTrigger_form (fun _ k => syTret_form k) wf
  case syIflushCore | syIflushCluster | syIflushDie | syIflushDevice => exact execTrigger_form (fun _ k => syIflush_form k) wf
  case sySubmit => exact execTrigger_form (fun _ k => sySubmit_form k) wf
  case syHalt => exact execTrigger_form (fun _ k => syHalt_form k) wf
  case dbCyc => exact execTrigger_form (fun _ k => dbCyc_form k) wf
  case dbPerf => exact execTrigger_form (fun _ k => dbPerf_form k) wf
  case dbPsel => exact execTrigger_form (fun _ k => dbPsel_form k) wf
  case dbMark => exact execTrigger_form (fun _ k => dbMark_form k) wf
  case move => exact execMove_form wf
  case linePad => exact execLinePad_form wf
  case resultComplete => exact execResultComplete_form wf
  case stallSwitch => exact execStallSwitch_form wf
  case loopEndCheck => exact execLoopEndCheck_form wf
  case repetitionEnd => exact execRepetitionEnd_form wf
  case fetchLineFill => exact execFetchLineFill_form wf
  case storePerformed => exact execStorePerformed_form wf
  case waitReleased => exact execWaitReleased_form wf
  case trapEntry => exact execTrapEntry_form wf
  case vectorBind => exact execVectorBind_form wf
  case vectorComplete => exact execVectorComplete_form wf
  case matrixAccept => exact execMatrixAccept_form wf
  case matrixFetchDone => exact execMatrixFetchDone_form wf
  case matrixStepStart => exact execMatrixStepStart_form wf
  case matrixCommandComplete => exact execMatrixCommandComplete_form wf
  case streamRecordTake => exact execStreamRecordTake_form wf
  case streamStart => exact execStreamStart_form wf
  case streamSlotCommit => exact execStreamSlotCommit_form wf
  case streamRecordEnd => exact execStreamRecordEnd_form wf
  case pushWriteDone => exact execPushWriteDone_form wf
  case pullWriteDone => exact execPullWriteDone_form wf
  case messageLand => exact execMessageLand_form wf
  case taskRelease => exact execTaskRelease_form wf
  case scopeMiss => exact execScopeMiss_form wf
  case activationFill => exact execActivationFill_form wf
  case creditGrant => exact execCreditGrant_form wf
  case hamperArrival => exact execHamperArrival_form wf
  case spillVictimWrite => exact execSpillVictimWrite_form wf
  case bucketFetch => exact execBucketFetch_form wf
  case overflowServe => exact execOverflowServe_form wf
  case activationHandoff => exact execActivationHandoff_form wf
  case idleTimeout => exact execIdleTimeout_form wf
  case dispenserAnswer => exact execDispenserAnswer_form wf
  case exchangeStart => exact execExchangeStart_form wf
  case transferStart => exact execTransferStart_form wf
  case transferEnd => exact execTransferEnd_form wf
  case exchangePhaseEnd => exact execExchangePhaseEnd_form wf
  case slackRelease => exact execSlackRelease_form wf
  case recordPlace => exact execRecordPlace_form wf
  case preempt => exact execPreempt_form wf
  case contextCopyOut => exact execContextCopyOut_form wf
  case jobResume => exact execJobResume_form wf
  case timer => exact execTimer_form wf
  case contextIdRecycle => exact execContextIdRecycle_form wf
  case undertowCandidate => exact execUndertowCandidate_form wf
  case undertowConfirm => exact execUndertowConfirm_form wf
  case inboundWrite => exact execInboundWrite_form wf
  case pieceLeave => exact execPieceLeave_form wf
  case pieceAck => exact execPieceAck_form wf
  case inboundRead => exact execInboundRead_form wf
  case msixMessage => exact execMsixMessage_form wf
  case vfEnable => exact execVfEnable_form wf
  case portLinkDown => exact execPortLinkDown_form wf
  case hsemAcquire => exact execHsemAcquire_form wf
  case hsemRelease => exact execHsemRelease_form wf
  case devrst => exact execDevrst_form wf
  case packageReset => exact execPackageReset_form wf
  case drtailWrite => exact execDrtailWrite_form wf
  case drcfgWrite => exact execDrcfgWrite_form wf
  case dmaAbort => exact execDmaAbort_form wf
  case dmaResume => exact execDmaResume_form wf
  case dmaDescriptorStart => exact execDmaDescriptorStart_form wf
  case dmaDescriptorDone => exact execDmaDescriptorDone_form wf
  case qtailWrite => exact execQtailWrite_form wf
  case qctlReset => exact execQctlReset_form wf
  case queueResident => exact execQueueResident_form wf
  case queueSlotYield => exact execQueueSlotYield_form wf
  case pktNoop => exact execPktNoop_form wf
  case pktLaunch => exact execPktLaunch_form wf
  case pktFence => exact execPktFence_form wf
  case pktWait => exact execPktWait_form wf
  case pktSignalStore => exact execPktSignalStore_form wf
  case pktSignalHost => exact execPktSignalHost_form wf
  case pktLeg => exact execPktLeg_form wf
  case packetComplete => exact execPacketComplete_form wf
  case legFire => exact execLegFire_form wf
  case mbResync => exact execMbResync_form wf
  case mbKill => exact execMbKill_form wf
  case mbKillDump => exact execMbKillDump_form wf
  case mbBadCommand => exact execMbBadCommand_form wf
  case fatalEcc => exact execFatalEcc_form wf
  case leaseRenewal => exact execLeaseRenewal_form wf
  case leaseLapse => exact execLeaseLapse_form wf
  case voteRequest => exact execVoteRequest_form wf
  case mgmtLinkFail => exact execMgmtLinkFail_form wf
  case tlbinvAll => exact execTlbinvAll_form wf
  case tlbinvAsid => exact execTlbinvAsid_form wf
  case tlbinvRange => exact execTlbinvRange_form wf
  case tlbinvComplete => exact execTlbinvComplete_form wf
  case tlbWalk access user _ => exact execTlbWalk_form (_access := access) (_user := user) wf
  case prqRetry => exact execPrqRetry_form wf
  case prqFail => exact execPrqFail_form wf
  case regcmtGo => exact execRegcmtGo_form wf
  case regionClearDone => exact execRegionClearDone_form wf
  case vfctlReset => exact execVfctlReset_form wf
  case vfResetDrained => exact execVfResetDrained_form wf
  case remoteAccessArrival => exact execRemoteAccessArrival_form wf
  case flitReceive => exact execFlitReceive_form wf
  case shumbiviaPortDown => exact execShumbiviaPortDown_form wf
  case remoteTimeout => exact execRemoteTimeout_form wf
  case keyRollover => exact execKeyRollover_form wf
  case keyRetire => exact execKeyRetire_form wf
  case crtailWrite => exact execCrtailWrite_form wf
  case crAbort => exact execCrAbort_form wf
  case crResume => exact execCrResume_form wf
  case collectiveStart => exact execCollectiveStart_form wf
  case collectiveComplete => exact execCollectiveComplete_form wf
  case dcmdHalt => exact execDcmdHalt_form wf
  case dcmdResume => exact execDcmdResume_form wf
  case dcmdStep => exact execDcmdStep_form wf
  case breakpointMatch => exact execBreakpointMatch_form wf
  case crossTriggerHalt => exact execCrossTriggerHalt_form wf
  case dgrpResume => exact execDgrpResume_form wf
  case ddataRead => exact execDdataRead_form wf
  case ddataWrite => exact execDdataWrite_form wf
  case frzctlAssert => exact execFrzctlAssert_form wf
  case frzctlRelease => exact execFrzctlRelease_form wf
  case traceStop => exact execTraceStop_form wf
  case tidemarkPulse => exact execTidemarkPulse_form wf
  case bootctlRecovery => exact execBootctlRecovery_form wf
  case bootctlMain => exact execBootctlMain_form wf
  case bootctlRaiseSvn => exact execBootctlRaiseSvn_form wf
  case bootctlFuseOwner => exact execBootctlFuseOwner_form wf
  case bootctlRevokeOwner => exact execBootctlRevokeOwner_form wf
  case bootctlSetOwnmode => exact execBootctlSetOwnmode_form wf
  case attcmdGo => exact execAttcmdGo_form wf
  case keySlotWrite => exact execKeySlotWrite_form wf
  case islandClockChange => exact execIslandClockChange_form wf
  case cappingCheck => exact execCappingCheck_form wf
  case thermalTrip => exact execThermalTrip_form wf
  case eccError => exact execEccError_form wf
  case registerWrite => exact execRegisterWrite_form wf
  case illegalOp => exact execIllegalOp_form wf
  case illegalMove => exact execIllegalMove_form wf
  case hostLinkUp => exact execHostLinkUp_form wf
  case shumbiviaPortUp => exact execShumbiviaPortUp_form wf

/-! ## Parties -/

theorem State.MemoryForm.settleSlot {s : State} {id n} (wf : s.MemoryForm) : (s.settleSlot id n).MemoryForm :=
  .ite (wf.within (fun _ hu => hu.withCur (fun _ hu1 => hu1.releaseWait))) wf

theorem State.MemoryForm.serveLocks {s : State} (wf : s.MemoryForm) : (s.serveLocks).MemoryForm :=
  wf.foldl fun _ hu _ => hu.foldl fun _ hu1 _ => .ite hu1.settleSlot hu1

theorem State.MemoryForm.settleWaits {s : State} (wf : s.MemoryForm) : (s.settleWaits).MemoryForm := by
  unfold State.settleWaits
  exact wf.serveLocks.foldl fun _ hu _ => hu.foldl fun _ hu1 _ => hu1.settleSlot

theorem State.MemoryForm.noteEngine {s : State} (wf : s.MemoryForm) : (s.noteEngine).MemoryForm := .ite wf wf.noteStream

theorem State.MemoryForm.noteCore {s : State} {id} (wf : s.MemoryForm) : (s.noteCore id).MemoryForm :=
  wf.within (fun _ hu => hu.noteMatrix.noteEngine)

theorem State.MemoryForm.noteDmaEngine {s : State} {k} (wf : s.MemoryForm) : (s.noteDmaEngine k).MemoryForm := by
  unfold State.noteDmaEngine
  split
  · exact wf.dmaAdvance.noteDma
  · exact wf

theorem State.MemoryForm.noteQueue {s : State} {q} (wf : s.MemoryForm) : (s.noteQueue q).MemoryForm := by
  unfold State.noteQueue
  extract_lets f
  split
  · exact wf
  · split
    · exact wf
    · split
      · exact wf.onQueue
      · split
        · exact .ite wf.onQueue wf
        · exact wf
      · exact wf

theorem State.MemoryForm.noteSlack {s : State} {r} (wf : s.MemoryForm) : (s.noteSlack r).MemoryForm :=
  .ite wf (wf.foldl fun _ hu _ => hu.onCoreAt)

theorem State.MemoryForm.noteChans {s : State} {id} (wf : s.MemoryForm) : (s.noteChans id).MemoryForm :=
  wf.foldl fun _ hu _ => .ite hu.noteChan hu

theorem State.MemoryForm.lostDelivery {s : State} {d} (wf : s.MemoryForm) : (s.lostDelivery d).MemoryForm := by
  unfold State.lostDelivery
  exact wf.udCount.onUndertow.foldl fun _ hu _ => hu.chaseOver

theorem State.MemoryForm.dropDeliveries {s : State} (wf : s.MemoryForm) : (s.dropDeliveries).MemoryForm := by
  unfold State.dropDeliveries
  exact .ite wf (wf.mapCores.foldl fun _ hu _ => hu.lostDelivery)

theorem State.MemoryForm.forgetWritten {s : State} (wf : s.MemoryForm) : (s.forgetWritten).MemoryForm := .ite wf wf.of_eq

theorem State.MemoryForm.noteWaits {s : State} (wf : s.MemoryForm) : (s.noteWaits).MemoryForm := by
  unfold State.noteWaits
  extract_lets s0 s1 s2
  have ks0 : s0.MemoryForm := wf.foldl fun _ hu _ => hu.noteSlack
  have ks1 : s1.MemoryForm := ks0.foldl fun _ hu _ => hu.noteCore.noteChans
  have ks2 : s2.MemoryForm := ks1.foldl fun _ hu _ => hu.noteDmaEngine
  exact ks2.foldl fun _ hu _ => hu.noteQueue

theorem State.MemoryForm.noteParties {s : State} (wf : s.MemoryForm) : (s.noteParties).MemoryForm := by
  unfold State.noteParties
  exact wf.settleWaits.noteWaits.dropDeliveries.forgetWritten.foldl fun _ hu _ => hu.notePending

/-! ## Issue -/

theorem onNext_form {o : Out} {f} (wf : Out.Form o) (hf : ∀ a, a.MemoryForm → (f a).MemoryForm) : Out.Form (onNext o f) := by
  unfold onNext
  split
  · exact hf _ wf
  · exact trivial
  · exact trivial

theorem State.MemoryForm.skipPads {s : State} {fuel} (wf : s.MemoryForm) : (State.skipPads fuel s).MemoryForm := by
  induction fuel generalizing s with
  | zero => exact wf
  | succ fuel ih =>
    unfold State.skipPads
    split
    · split
      · exact wf
      · split
        · rename_i s1 e
          exact ih (Out.Form.of_next e (exec_form wf))
        · exact wf
    · exact wf

theorem State.MemoryForm.resumeBody {s : State} (wf : s.MemoryForm) : (s.resumeBody).MemoryForm := .ite wf.onSl wf

theorem State.MemoryForm.nextBundle {s0 : State} (wf : s0.MemoryForm) : (s0.nextBundle).1.MemoryForm := by
  unfold State.nextBundle
  extract_lets s s1
  split
  · dsimp only
    exact wf.resumeBody.onSl
  · exact wf.resumeBody.skipPads

theorem runMoves_form {s : State} {is} (wf : s.MemoryForm) : Out.Form (runMoves is s) := by
  induction is generalizing s with
  | nil => exact wf
  | cons i is ih =>
    unfold runMoves
    split
    · rename_i s1 e
      exact ih (Out.Form.of_next e (exec_form wf))
    · exact trivial
    · exact trivial

theorem State.MemoryForm.raise {s0 : State} {code tval} (wf : s0.MemoryForm) : (s0.raise code tval).MemoryForm :=
  .ite wf.halt (enterTrap_form wf)

theorem State.MemoryForm.settleBus {s0 : State} {s : State} (wf : s0.MemoryForm) (hs : s.MemoryForm) : (s0.settleBus s).MemoryForm := by
  unfold State.settleBus
  split
  · exact hs.closeBundle
  · split
    · exact wf.stallBundle
    · split
      · exact wf.raise
      · exact hs.of_eq.closeBundle

theorem State.MemoryForm.issueMany {s : State} {ms n} (wf : s.MemoryForm) : Out.Form (s.issueMany ms n) := by
  unfold State.issueMany
  split
  · exact enterTrap_form wf
  · extract_lets is src s1
    have ksrc : src.MemoryForm := wf.openBundle
    split
    · exact wf.stallBundle
    · refine onNext_form (runMoves_form ksrc.of_eq) fun _ hu => ?_
      split
      · exact wf.raise
      · exact wf.settleBus hu

theorem State.MemoryForm.issueMoves {s : State} {ms n} (wf : s.MemoryForm) : Out.Form (s.issueMoves ms n) := by
  unfold State.issueMoves
  split
  · exact exec_form wf
  · exact wf.issueMany

theorem State.MemoryForm.moveOn {s : State} (wf : s.MemoryForm) : (s.moveOn).MemoryForm := by
  unfold State.moveOn
  split
  · exact .ite wf.repetitionEnd.onSl wf.onSl.onSl
  · exact wf.onSl
  · exact wf.onSl
  · exact wf
  · exact wf

theorem State.MemoryForm.leaveBoundary {s : State} {handler} (wf : s.MemoryForm) : (s.leaveBoundary handler).MemoryForm := by
  unfold State.leaveBoundary
  split
  · exact .ite wf.onJob wf
  · exact wf

theorem State.MemoryForm.endStep {s : State} (wf : s.MemoryForm) : (s.endStep).MemoryForm := .ite wf.onCore.halt wf

theorem State.MemoryForm.bundleDone {s : State} {handler} (wf : s.MemoryForm) : (State.bundleDone handler s).MemoryForm :=
  .ite wf wf.moveOn.leaveBoundary.endStep

theorem State.MemoryForm.reissueOne {s : State} (wf : s.MemoryForm) : (s.reissueOne).MemoryForm := by
  unfold State.reissueOne
  split
  · exact wf
  · split
    · exact wf.stallBundle
    · split
      · exact enterTrap_form wf
      · rename_i op eo
        split
        · exact wf.stallBundle
        · exact wf.halt
        · exact enterTrap_form wf
        · rename_i s1 e
          have k1 := Res.Form.of_ok e (keeps_triggerOp op eo _ wf.openBundle)
          extract_lets s2
          have ks2 : s2.MemoryForm := k1.onSl.applyCsr
          split
          · exact enterTrap_form ks2
          · exact .ite ks2.checkMine ks2.onSl

theorem State.MemoryForm.reissueAll {s : State} (wf : s.MemoryForm) : (s.reissueAll).MemoryForm := by
  unfold State.reissueAll
  exact .ite wf.onSl.reissueOne.reissueOne wf.onSl.reissueOne

theorem State.MemoryForm.awaitLine {s : State} (wf : s.MemoryForm) : (s.awaitLine).MemoryForm := by
  unfold State.awaitLine
  exact State.MemoryForm.stallBundle (.ite wf.fillLine wf)

theorem State.MemoryForm.standing {s : State} (wf : s.MemoryForm) : (s.standing).MemoryForm := wf.onSl

theorem State.MemoryForm.keepBody {s : State} {ms n} (wf : s.MemoryForm) : (s.keepBody ms n).MemoryForm := .ite wf.onSl wf

theorem State.MemoryForm.issue {s : State} (wf : s.MemoryForm) : Out.Form (s.issue) := by
  unfold State.issue
  extract_lets t
  split
  · exact wf
  · split
    · exact wf.onSl.stallBundle
    · split
      · split
        · exact wf.matchBreakpoint
        · exact wf.reissueAll.endStep
      · have hn : s.nextBundle.1.MemoryForm := wf.nextBundle
        generalize s.nextBundle = p at hn ⊢
        obtain ⟨s1, f⟩ := p
        dsimp only at hn ⊢
        split
        · exact hn.awaitLine
        · exact (enterTrap_form hn).bundleDone
        · exact (enterTrap_form hn).bundleDone
        · have hs : s1.standing.MemoryForm := hn.standing
          split
          · exact hs.matchBreakpoint
          · exact onNext_form hs.issueMoves fun _ hu => hu.keepBody.bundleDone

theorem State.MemoryForm.recheck {s : State} (wf : s.MemoryForm) : (s.recheck).MemoryForm := by
  unfold State.recheck
  extract_lets t va s1
  have ks1 : s1.MemoryForm := .ite wf.fillLine wf
  exact .ite wf (.ite wf.onSl (.ite wf.onSl ks1.onSl))

theorem State.MemoryForm.finishCycle {s : State} (wf : s.MemoryForm) : (s.finishCycle).MemoryForm := by
  unfold State.finishCycle
  split
  · exact wf
  · exact (wf.onSl.foldl fun _ hu _ => .ite hu (hu.withCur (fun _ hu1 => hu1.recheck))).switchSlot

theorem State.MemoryForm.toIssue {s : State} (wf : s.MemoryForm) : (s.toIssue).MemoryForm := by
  unfold State.toIssue
  exact .ite wf.tick.boundaries.onCore wf.tick.boundaries

theorem State.MemoryForm.cycle {s u : State} (wf : s.MemoryForm) (e : s.cycle = .next u) : u.MemoryForm := by
  unfold State.cycle at e
  extract_lets s1 at e
  have ks1 : s1.MemoryForm := wf.toIssue
  clear_value s1
  split at e
  · cases e
    exact ks1
  · split at e
    · cases e
      exact ks1.onCore
    · exact onNext_of_next (fun v k => Out.Form.of_next k ks1.issue) (fun _ hu => hu.finishCycle) e

theorem State.MemoryForm.atEvent {s : State} {e} (wf : s.MemoryForm) : (s.atEvent e).MemoryForm := by
  unfold State.atEvent
  exact .ite wf.focus wf.focus.onCore

theorem State.MemoryForm.afterEvent {s : State} {cur e} (wf : s.MemoryForm) : (State.afterEvent cur e s).MemoryForm :=
  .ite wf (wf.onCoreAt (fun _ hu => Core.wf_ite hu hu))

theorem State.MemoryForm.event {s : State} {e rest} (wf : s.MemoryForm) : Out.Form (s.event e rest) := by
  unfold State.event
  exact onNext_form (exec_form wf.of_eq.atEvent) fun _ hu => .ite hu.afterEvent hu.afterEvent.seeAll

theorem State.MemoryForm.afterStep {s : State} (wf : s.MemoryForm) : (s.afterStep).MemoryForm := wf.noteParties.tallyEpochs.applyKeys

/-! ## Step -/

theorem State.MemoryForm.step {s u : State} (wf : s.MemoryForm) (e : Machine.step s = .next u) : u.MemoryForm := by
  unfold Machine.step at e
  refine onNext_of_next (fun v k => ?_) (fun _ hu => hu.afterStep) e
  split at k
  · exact Out.Form.of_next k wf.event
  · exact wf.cycle k

/-- Settles O60: every operation of a step keeps every memory in its canonical form, operation by operation. -/
theorem memoryFormIsKept : Obligations.MemoryFormIsKept := fun _ _ wf e => State.MemoryForm.step wf e

end Sys2Proof.Machine
end

section
/-! SUPPORT. Bit fields, registers and memories: what a field reads as after another was set, and which operations leave every memory, or
every register but one, as it was. -/

set_option autoImplicit false
set_option Elab.async false

namespace Sys2Proof.Machine

open Sys2Proof.Claims

/-! ## Bit fields -/

theorem testBit_bits {x : Word} {hi lo i : Nat} : (bits x hi lo).testBit i = (decide (i < hi + 1 - lo) && x.toNat.testBit (i + lo)) := by
  rw [bits, Nat.testBit_mod_two_pow, Nat.testBit_div_two_pow]

/-- The number that a field's replacement makes fits a word. -/
theorem toNat_setBits {x : Word} {hi lo v : Nat} (h : lo ≤ hi) (hh : hi < 64) :
    (setBits x hi lo v).toNat = 2 ^ (hi + 1) * (x.toNat / 2 ^ (hi + 1)) + (2 ^ lo * (v % 2 ^ (hi + 1 - lo)) + x.toNat % 2 ^ lo) ∧
      2 ^ lo * (v % 2 ^ (hi + 1 - lo)) + x.toNat % 2 ^ lo < 2 ^ (hi + 1) := by
  have field : v % 2 ^ (hi + 1 - lo) < 2 ^ (hi + 1 - lo) := Nat.mod_lt _ (Nat.two_pow_pos _)
  have low : x.toNat % 2 ^ lo < 2 ^ lo := Nat.mod_lt _ (Nat.two_pow_pos _)
  have split : 2 ^ (hi + 1) = 2 ^ lo * 2 ^ (hi + 1 - lo) := by rw [← Nat.pow_add]; congr 1; omega
  have below : 2 ^ lo * (v % 2 ^ (hi + 1 - lo)) + x.toNat % 2 ^ lo < 2 ^ (hi + 1) := by
    have := Nat.mul_le_mul_left (2 ^ lo) (Nat.succ_le_of_lt field)
    rw [Nat.mul_succ] at this
    omega
  have word : 2 ^ 64 = 2 ^ (hi + 1) * 2 ^ (64 - (hi + 1)) := by rw [← Nat.pow_add]; congr 1; omega
  have high : x.toNat / 2 ^ (hi + 1) < 2 ^ (64 - (hi + 1)) :=
    Nat.div_lt_of_lt_mul (by rw [← word]; exact x.isLt)
  have fits : 2 ^ (hi + 1) * (x.toNat / 2 ^ (hi + 1)) + 2 ^ (hi + 1) ≤ 2 ^ 64 := by
    have := Nat.mul_le_mul_left (2 ^ (hi + 1)) (Nat.succ_le_of_lt high)
    rw [Nat.mul_succ] at this
    omega
  refine ⟨?_, below⟩
  rw [setBits, BitVec.toNat_ofNat, Nat.mul_comm _ (2 ^ lo), Nat.mul_comm (x.toNat / _), Nat.mod_eq_of_lt (by omega)]
  omega

theorem testBit_setBits {x : Word} {hi lo v i : Nat} (h : lo ≤ hi) (hh : hi < 64) :
    (setBits x hi lo v).toNat.testBit i = if lo ≤ i ∧ i ≤ hi then v.testBit (i - lo) else x.toNat.testBit i := by
  obtain ⟨e, below⟩ := toNat_setBits (x := x) (v := v) h hh
  rw [e, Nat.testBit_two_pow_mul_add _ below]
  by_cases hi1 : i < hi + 1
  · rw [if_pos hi1, Nat.testBit_two_pow_mul_add _ (Nat.mod_lt _ (Nat.two_pow_pos _))]
    by_cases lo1 : i < lo
    · simp [lo1, Nat.testBit_mod_two_pow, show ¬ (lo ≤ i ∧ i ≤ hi) by omega]
    · simp [lo1, Nat.testBit_mod_two_pow, show lo ≤ i ∧ i ≤ hi by omega, show i - lo < hi + 1 - lo by omega]
  · rw [if_neg hi1, if_neg (by omega), Nat.testBit_div_two_pow]
    congr 1
    omega

/-- A field that was set reads as what was set. -/
theorem bits_setBits {x : Word} {hi lo v : Nat} (h : lo ≤ hi) (hh : hi < 64) : bits (setBits x hi lo v) hi lo = v % 2 ^ (hi + 1 - lo) := by
  apply Nat.eq_of_testBit_eq
  intro i
  rw [testBit_bits, testBit_setBits h hh, Nat.testBit_mod_two_pow, Nat.add_sub_cancel]
  by_cases k : i < hi + 1 - lo
  · rw [if_pos ⟨by omega, by omega⟩]
  · simp [k]

/-- A field that lies apart from the one that was set reads as before. -/
theorem bits_setBits_apart {x : Word} {hi lo v a b : Nat} (h : lo ≤ hi) (hh : hi < 64) (d : a < lo ∨ hi < b) :
    bits (setBits x hi lo v) a b = bits x a b := by
  apply Nat.eq_of_testBit_eq
  intro i
  rw [testBit_bits, testBit_bits, testBit_setBits h hh]
  by_cases k : i < a + 1 - b
  · rw [if_neg (by omega)]
  · simp [k]

theorem bits_lt {x : Word} {hi lo : Nat} : bits x hi lo < 2 ^ (hi + 1 - lo) := Nat.mod_lt _ (Nat.two_pow_pos _)

/-! ## Fields of registers -/

@[simp] theorem State.reg_setField (s : State) (r : Reg) (hi lo v : Nat) : (s.setField r hi lo v).reg r = setBits (s.reg r) hi lo v :=
  State.reg_setReg _ _ _

theorem State.reg_setField_ne (s : State) (r k : Reg) (hi lo v : Nat) (h : k ≠ r) : (s.setField r hi lo v).reg k = s.reg k :=
  State.reg_setReg_ne _ _ _ _ h

/-! ## Sorted numbers -/

theorem mem_insertNat {l : List Nat} {a b : Nat} : b ∈ insertNat l a ↔ b = a ∨ b ∈ l := by
  induction l with
  | nil => simp [insertNat]
  | cons k l ih =>
    rw [insertNat]
    split
    · simp
    · split
      · rename_i h
        have e : a = k := eq_of_beq h
        subst e
        simp
      · simp only [List.mem_cons, ih]
        tauto

/-! ## The cores of a state -/

theorem lookCore_map {f : CoreId → Core → Core} (hf : ∀ id c, (f id c).mem = c.mem) (l : List (CoreId × Core)) (id : CoreId) :
    (lookCore (l.map fun p => (p.1, f p.1 p.2)) id).mem = (lookCore l id).mem := by
  induction l with
  | nil => rfl
  | cons p l ih =>
    simp only [List.map_cons, lookCore]
    split
    · exact hf _ _
    · exact ih

theorem State.mem_coreAt_mapCores (s : State) {f : CoreId → Core → Core} (hf : ∀ id c, (f id c).mem = c.mem) (id : CoreId) :
    ((s.mapCores f).coreAt id).mem = (s.coreAt id).mem := by
  by_cases h : id = s.coreId
  · subst h
    simpa [State.coreAt, State.mapCores] using hf _ _
  · simpa [State.coreAt, State.mapCores, h] using lookCore_map hf _ _

/-! ## What an operation leaves of the memories -/

theorem SameMemory.trans {s t u : State} (a : SameMemory s t) (b : SameMemory t u) : SameMemory s u := fun p => (b p).trans (a p)

/-- A change that keeps the memories, the key slots and the time, and every core's memory, keeps what every home reads as. -/
theorem sameMemory_of_cores {s t : State} (hc : ∀ id, (t.coreAt id).mem = (s.coreAt id).mem) (hd : t.dm = s.dm := by rfl)
    (hh : t.hm = s.hm := by rfl) (hk : t.keySlots = s.keySlots := by rfl) (ht : t.time = s.time := by rfl) : SameMemory s t := by
  intro p
  cases p with
  | core c off => exact congrArg (·.bytes off 1) (hc c)
  | device pa key => simp only [State.readHome, State.readDevice, State.unseal, hd, hk]
  | host a key => simp only [State.readHome, State.unseal, hh, hk]
  | remote d a key => simp only [State.readHome, State.unseal, State.remoteBytes, hk, ht]

theorem sameMemory_mapCores (s : State) {f : CoreId → Core → Core} (hf : ∀ id c, (f id c).mem = c.mem) : SameMemory s (s.mapCores f) :=
  sameMemory_of_cores (s.mem_coreAt_mapCores hf)

theorem sameMemory_foldl {α : Type} {f : State → α → State} (hf : ∀ s a, SameMemory s (f s a)) (l : List α) (s : State) :
    SameMemory s (l.foldl f s) := by
  induction l generalizing s with
  | nil => exact fun _ => rfl
  | cons a l ih => exact (hf s a).trans (ih _)

theorem onlyReg_trans {r : Reg} {s t u : State} (a : OnlyReg r s t) (b : OnlyReg r t u) : OnlyReg r s u :=
  ⟨a.1.trans b.1, fun q h => (b.2 q h).trans (a.2 q h)⟩

theorem onlyReg_setReg {s : State} {r : Reg} {w : Word} : OnlyReg r s (s.setReg r w) :=
  ⟨fun _ => rfl, fun _ h => State.reg_setReg_ne _ _ _ _ h⟩

theorem onlyReg_setField {s : State} {r : Reg} {hi lo v : Nat} : OnlyReg r s (s.setField r hi lo v) := onlyReg_setReg

theorem onlyReg_ite {c : Prop} [Decidable c] {r : Reg} {s t u : State} (ht : OnlyReg r s t) (hu : OnlyReg r s u) :
    OnlyReg r s (if c then t else u) := by
  split
  · exact ht
  · exact hu

theorem onlyReg_rfl {s : State} {r : Reg} : OnlyReg r s s := ⟨fun _ => rfl, fun _ _ => rfl⟩

end Sys2Proof.Machine
end

section
/-! SUPPORT. The units out of service: none of the operations by which a context dies or a job is dumped changes them (R258, R450, R504). One
lemma says it of each operation, named after the operation. -/

set_option autoImplicit false
set_option Elab.async false

namespace Sys2Proof.Machine

/-- The units out of service are these. -/
def State.OosIs (us : List UnitId) (s : State) : Prop := s.oos = us

namespace State.OosIs

variable {s t : State} {us : List UnitId}

theorem ite {c : Prop} [Decidable c] {a b : State} (ha : a.OosIs us) (hb : b.OosIs us) : (if c then a else b).OosIs us := by
  split
  · exact ha
  · exact hb

theorem of_eq (hs : s.OosIs us) (e : t.oos = s.oos := by rfl) : t.OosIs us := Eq.trans e hs

theorem foldl {α : Type} {f : State → α → State} {l : List α} (hs : s.OosIs us)
    (hf : ∀ u : State, u.OosIs us → ∀ a, (f u a).OosIs us) : (l.foldl f s).OosIs us :=
  List.foldlRecOn _ _ hs fun _ hu a _ => hf _ hu a

theorem onCore {f} (hs : s.OosIs us) : (s.onCore f).OosIs us := hs.of_eq

theorem setCoreAt {id c} (hs : s.OosIs us) : (s.setCoreAt id c).OosIs us := .ite hs.of_eq hs.of_eq

theorem onCoreAt {id f} (hs : s.OosIs us) : (s.onCoreAt id f).OosIs us := hs.setCoreAt

theorem focus {id} (hs : s.OosIs us) : (s.focus id).OosIs us := .ite hs hs.of_eq

theorem mapCores {f} (hs : s.OosIs us) : (s.mapCores f).OosIs us := hs.of_eq

theorem mapSlots {f} (hs : s.OosIs us) : (s.mapSlots f).OosIs us := hs.mapCores

end State.OosIs

theorem State.OosIs.setReg {s : State} {us r w} (hs : s.OosIs us) : (s.setReg r w).OosIs us := hs.of_eq

theorem State.OosIs.setField {s : State} {us r hi lo v} (hs : s.OosIs us) : (s.setField r hi lo v).OosIs us := hs.setReg

theorem State.OosIs.countErr {s : State} {us n} (hs : s.OosIs us) : (s.countErr n).OosIs us := hs.of_eq

theorem State.OosIs.raiseIrq {s : State} {us src} (hs : s.OosIs us) : (s.raiseIrq src).OosIs us := hs.setField

theorem State.OosIs.setDw {s : State} {us r i w} (hs : s.OosIs us) : (s.setDw r i w).OosIs us :=
  hs.of_eq

theorem State.OosIs.setRecState {s : State} {us r v} (hs : s.OosIs us) : (s.setRecState r v).OosIs us := hs.setDw

theorem State.OosIs.onJob {s : State} {us r f} (hs : s.OosIs us) : (s.onJob r f).OosIs us := hs.of_eq

theorem State.OosIs.placeDevice {s : State} {us pa key bs} (hs : s.OosIs us) : (s.placeDevice pa key bs).OosIs us :=
  hs.of_eq

theorem State.OosIs.writeDevice {s : State} {us pa key bs} (hs : s.OosIs us) : (s.writeDevice pa key bs).OosIs us := by
  unfold State.writeDevice
  extract_lets s1
  have ks1 : s1.OosIs us := hs.placeDevice
  exact ks1.of_eq

theorem State.OosIs.deviceWrite {s : State} {us pa bs} (hs : s.OosIs us) : (s.deviceWrite pa bs).OosIs us := hs.writeDevice

theorem State.OosIs.wakeWrite {s : State} {us c off n} (hs : s.OosIs us) : (s.wakeWrite c off n).OosIs us := by
  unfold State.wakeWrite
  exact hs.foldl fun _ hu _ => hu.mapSlots

theorem State.OosIs.writeCore {s : State} {us c off bs} (hs : s.OosIs us) : (s.writeCore c off bs).OosIs us :=
  hs.onCoreAt.wakeWrite

theorem State.OosIs.onShum {s : State} {us p f} (hs : s.OosIs us) : (s.onShum p f).OosIs us := hs.of_eq

theorem State.OosIs.sendFlit {s : State} {us pa body} (hs : s.OosIs us) : (s.sendFlit pa body).OosIs us := by
  unfold State.sendFlit
  split
  · exact hs.onShum
  · exact hs

theorem State.OosIs.refuseRemote {s : State} {us addr} (hs : s.OosIs us) : (s.refuseRemote addr).OosIs us := hs.setReg.countErr

theorem State.OosIs.asks {s : State} {us d a n bs} (hs : s.OosIs us) : (s.asks d a n bs).OosIs us :=
  hs.foldl fun _ hu _ => .ite hu.sendFlit.refuseRemote hu.sendFlit

theorem State.OosIs.writeHome {s : State} {us at' bs} (hs : s.OosIs us) : (s.writeHome at' bs).OosIs us := by
  unfold State.writeHome
  split
  · exact hs.writeCore
  · exact hs.writeDevice
  · exact hs.of_eq
  · exact hs.asks

theorem State.OosIs.writeRuns {s : State} {us rs bs} (hs : s.OosIs us) : (s.writeRuns rs bs).OosIs us := by
  induction rs generalizing s bs with
  | nil => exact hs
  | cons r rs ih => exact ih hs.writeHome

theorem State.OosIs.addCtr {s : State} {us die n v} (hs : s.OosIs us) : (s.addCtr die n v).OosIs us := hs.of_eq.mapSlots

theorem State.OosIs.noteChan {s : State} {us id ch} (hs : s.OosIs us) : (s.noteChan id ch).OosIs us :=
  hs.onCoreAt

theorem State.OosIs.serveRecv {s : State} {us id ch} (hs : s.OosIs us) : (s.serveRecv id ch).OosIs us := by
  unfold State.serveRecv
  extract_lets c
  split
  · exact hs
  · split
    · exact hs.setCoreAt
    · exact hs

theorem State.OosIs.landEntry {s : State} {us id ch i header payload} (hs : s.OosIs us) : (s.landEntry id ch i header payload).OosIs us := by
  unfold State.landEntry
  extract_lets s1 s2
  have ks2 : s2.OosIs us := hs.writeCore.onCoreAt
  exact ks2.serveRecv.noteChan

theorem State.OosIs.landNotice {s : State} {us id i n} (hs : s.OosIs us) : (s.landNotice id i n).OosIs us := hs.onCoreAt.landEntry

theorem State.OosIs.admitNotices {s : State} {us id fuel} (hs : s.OosIs us) : (s.admitNotices id fuel).OosIs us := by
  induction fuel generalizing s with
  | zero => exact hs
  | succ fuel ih =>
    unfold State.admitNotices
    extract_lets c
    split
    · exact hs
    · extract_lets s1
      have ks1 : s1.OosIs us := hs.onCoreAt
      split
      · exact ih ks1.landNotice
      · exact .ite hs (ih ks1.onCoreAt)

theorem State.OosIs.drainNotices {s : State} {us id fuel} (hs : s.OosIs us) : (s.drainNotices id fuel).OosIs us := by
  induction fuel generalizing s with
  | zero => exact hs
  | succ fuel ih =>
    unfold State.drainNotices
    extract_lets c
    split
    · exact ih hs.onCoreAt.landNotice
    · exact hs

theorem State.OosIs.admitAll {s : State} {us id} (hs : s.OosIs us) : (s.admitAll id).OosIs us := hs.drainNotices.admitNotices

theorem State.OosIs.freeEntry {s : State} {us id ch i} (hs : s.OosIs us) : (s.freeEntry id ch i).OosIs us := by
  unfold State.freeEntry
  exact State.OosIs.noteChan (.ite hs.onCoreAt hs.onCoreAt.admitAll)

theorem State.OosIs.writeRec {s : State} {us r va bs} (hs : s.OosIs us) : (s.writeRec r va bs).OosIs us := by
  unfold State.writeRec
  split
  · exact hs.writeRuns
  · exact hs

theorem State.OosIs.appendFault {s : State} {us r code listed bs} (hs : s.OosIs us) : (s.appendFault r code listed bs).OosIs us := by
  unfold State.appendFault
  extract_lets base next pa s1
  have ks1 : s1.OosIs us := hs.writeRec.writeRec
  exact .ite hs.writeRec (.ite ks1.of_eq ks1)

theorem State.OosIs.freeReserved {s : State} {us m} (hs : s.OosIs us) : (s.freeReserved m).OosIs us := by
  unfold State.freeReserved
  split
  · exact hs
  · exact .ite hs.freeEntry hs

theorem State.OosIs.dropEmits {s : State} {us id} (hs : s.OosIs us) : (s.dropEmits id).OosIs us := by
  unfold State.dropEmits
  extract_lets lost s1
  have ks1 : s1.OosIs us := hs.foldl fun _ hu _ => hu.of_eq
  exact ks1.of_eq

theorem State.OosIs.dropInFlight {s : State} {us id} (hs : s.OosIs us) : (s.dropInFlight id).OosIs us := by
  unfold State.dropInFlight
  extract_lets s0 s1
  have ks1 : s1.OosIs us := hs.mapCores.dropEmits.foldl fun _ hu _ => hu.freeReserved
  exact ks1.of_eq

theorem State.OosIs.dropLocksOf {s : State} {us queue die} (hs : s.OosIs us) : (s.dropLocksOf queue die).OosIs us :=
  hs.mapCores

theorem State.OosIs.dropStreamPage {s : State} {us id} (hs : s.OosIs us) : (s.dropStreamPage id).OosIs us := by
  unfold State.dropStreamPage
  exact hs.of_eq.onCoreAt

theorem State.OosIs.killCore {s : State} {us id} (hs : s.OosIs us) : (s.killCore id).OosIs us := by
  unfold State.killCore
  extract_lets c s1 s2 s3
  have ks1 : s1.OosIs us := hs.dropInFlight.dropLocksOf
  have ks2 : s2.OosIs us := ks1.of_eq
  have ks3 : s3.OosIs us := by
    unfold s3
    split
    · exact ks2.of_eq
    · exact ks2
  exact ks3.dropStreamPage.onCoreAt

theorem State.OosIs.onEngine {s : State} {us die e f} (hs : s.OosIs us) : (s.onEngine die e f).OosIs us := hs.of_eq

theorem State.OosIs.setDmaState {s : State} {us die e state err} (hs : s.OosIs us) : (s.setDmaState die e state err).OosIs us :=
  hs.setReg

theorem State.OosIs.abortEngine {s : State} {us die e} (hs : s.OosIs us) : (s.abortEngine die e).OosIs us :=
  hs.of_eq.onEngine.setReg.setDmaState

theorem State.OosIs.abortColl {s : State} {us die} (hs : s.OosIs us) : (s.abortColl die).OosIs us := hs.of_eq.setReg.setReg

theorem State.OosIs.abortEngines {s : State} {us p} (hs : s.OosIs us) : (s.abortEngines p).OosIs us := by
  unfold State.abortEngines
  extract_lets s1
  have ks1 : s1.OosIs us := hs.foldl fun _ hu _ => .ite hu.abortEngine hu
  exact ks1.foldl fun _ hu _ => .ite hu.abortColl hu

theorem State.OosIs.raiseQueue {s : State} {us d} (hs : s.OosIs us) : (s.raiseQueue d).OosIs us := .ite hs.raiseIrq hs

theorem State.OosIs.setLeg {s : State} {us k l} (hs : s.OosIs us) : (s.setLeg k l).OosIs us := hs.of_eq.deviceWrite

theorem State.OosIs.releaseLeg {s : State} {us k} (hs : s.OosIs us) : (s.releaseLeg k).OosIs us := hs.setLeg

theorem State.OosIs.endLegs {s : State} {us r ok} (hs : s.OosIs us) : (s.endLegs r ok).OosIs us :=
  hs.foldl fun _ hu _ => .ite (hu.of_eq.foldl fun _ hu1 _ => hu1.releaseLeg) hu.of_eq.raiseQueue

theorem State.OosIs.failRecord {s : State} {us r} (hs : s.OosIs us) : (s.failRecord r).OosIs us := by
  unfold State.failRecord
  split
  · extract_lets s1
    have ks1 : s1.OosIs us := hs.of_eq
    exact ks1.of_eq.abortEngines.endLegs.setRecState
  · exact hs

theorem State.OosIs.markDead {s : State} {us id slot code ncode epc tval area} (hs : s.OosIs us) :
    (s.markDead id slot code ncode epc tval area).OosIs us := by
  unfold State.markDead
  extract_lets c s1
  split
  · exact hs.killCore
  · exact hs.killCore.failRecord.appendFault.raiseIrq

theorem State.OosIs.killJob {s : State} {us r code withRecord} (hs : s.OosIs us) : (s.killJob r code withRecord).OosIs us :=
  hs.failRecord.foldl fun _ hu _ => .ite hu (.ite hu.markDead hu.killCore)

theorem State.OosIs.wakeBerth {s : State} {us c b d} (hs : s.OosIs us) : (s.wakeBerth c b d).OosIs us := hs.mapSlots

theorem State.OosIs.setBerth {s : State} {us c b d} (hs : s.OosIs us) : (s.setBerth c b d).OosIs us :=
  hs.onCoreAt.wakeBerth

theorem State.OosIs.advancePi {s : State} {us c b n} (hs : s.OosIs us) : (s.advancePi c b n).OosIs us := by
  unfold State.advancePi
  split
  · exact hs.setBerth
  · exact hs

theorem State.OosIs.advanceCi {s : State} {us c b n} (hs : s.OosIs us) : (s.advanceCi c b n).OosIs us := by
  unfold State.advanceCi
  split
  · exact hs.setBerth
  · exact hs

theorem State.OosIs.finishPush {s : State} {us p} (hs : s.OosIs us) : (s.finishPush p).OosIs us := by
  unfold State.finishPush
  split
  · exact hs
  · extract_lets s1 s2 s3
    have ks3 : s3.OosIs us := by
      unfold s3
      split
      · exact hs.of_eq.writeCore.advancePi
      · exact hs.of_eq.writeCore
    split
    · exact ks3.addCtr
    · exact ks3

theorem State.OosIs.finishPull {s : State} {us p} (hs : s.OosIs us) : (s.finishPull p).OosIs us := by
  unfold State.finishPull
  extract_lets s1 s2 s3
  have ks3 : s3.OosIs us := by
    unfold s3
    split
    · exact hs.of_eq.writeCore.advanceCi
    · exact hs.of_eq.writeCore
  split
  · exact ks3.addCtr
  · exact ks3

theorem State.OosIs.onPort {s : State} {us p f} (hs : s.OosIs us) : (s.onPort p f).OosIs us := hs.of_eq

theorem State.OosIs.within {s : State} {us id f} (hs : s.OosIs us) (hf : ∀ a, a.OosIs us → (f a).OosIs us) : (s.within id f).OosIs us :=
  (hf _ hs.focus).focus

theorem State.OosIs.onOctet {s : State} {us id f} (hs : s.OosIs us) :
    (s.onOctet id f).OosIs us :=
  hs.of_eq

theorem State.OosIs.dropLocks {s : State} {us m all} (hs : s.OosIs us) : (s.dropLocks m all).OosIs us := by
  unfold State.dropLocks
  exact hs.mapCores

theorem State.OosIs.advanceBerths {s : State} {us m source} (hs : s.OosIs us) : (s.advanceBerths m source).OosIs us :=
  hs.foldl fun _ hu _ => .ite hu.advanceCi hu.advancePi

theorem State.OosIs.matrixWrites {s : State} {us m} (hs : s.OosIs us) : (s.matrixWrites m).1.OosIs us := by
  unfold State.matrixWrites
  extract_lets o
  dsimp only
  split
  · dsimp only
    refine .ite (State.OosIs.onOctet ?_) ?_
    · exact hs.foldl fun _ hu _ => hu.writeCore
    · exact hs.foldl fun _ hu _ => hu.writeCore
  · split
    · exact hs
    · dsimp only
      exact hs.onOctet
  · dsimp only
    exact State.OosIs.ite hs.writeCore.onCore hs.writeCore
  · exact hs

theorem State.OosIs.countMatrix {s : State} {us ns} (hs : s.OosIs us) : (s.countMatrix ns).OosIs us := hs.foldl fun _ hu _ => hu.addCtr

theorem State.OosIs.completeHead {s : State} {us m} (hs : s.OosIs us) : (s.completeHead m).OosIs us :=
  hs.matrixWrites.dropLocks.advanceBerths.onCore.countMatrix

theorem State.OosIs.matrixComplete {s : State} {us} (hs : s.OosIs us) : (Machine.matrixComplete s).OosIs us := by
  unfold Machine.matrixComplete
  split
  · exact hs
  · split
    · exact hs.completeHead
    · split
      · exact hs
      · exact .ite hs hs.onCore.countMatrix

theorem State.OosIs.stopDma {s : State} {us die e code} (hs : s.OosIs us) : (s.stopDma die e code).OosIs us :=
  hs.deviceWrite.onEngine.setReg.raiseIrq

theorem State.OosIs.spillMsg {s : State} {us r m} (hs : s.OosIs us) : (s.spillMsg r m).OosIs us := by
  unfold State.spillMsg
  extract_lets n
  split
  · split
    · exact hs.writeRuns.onJob
    · exact hs.killJob
  · exact hs.onJob

theorem State.OosIs.rejectMsg {s : State} {us m} (hs : s.OosIs us) : (s.rejectMsg m).OosIs us := by
  unfold State.rejectMsg
  exact .ite hs.sendFlit hs.onCoreAt.admitAll

theorem State.OosIs.landMsg {s : State} {us k m} (hs : s.OosIs us) : (s.landMsg k m).OosIs us := by
  unfold State.landMsg
  extract_lets c s1 away
  have ks1 : s1.OosIs us := hs.of_eq
  split
  · exact .ite ks1.spillMsg (.ite hs.noteChan ks1.landEntry)
  · split
    · exact ks1
    · split
      · exact .ite ks1.spillMsg (.ite ks1.rejectMsg ks1)
      · split
        · exact ks1.rejectMsg
        · split
          · exact .ite hs.noteChan ks1.onCoreAt.landEntry
          · exact hs

theorem State.OosIs.of_dispenserAnswer {s t : State} {us rec k} (hs : s.OosIs us) (e : execDispenserAnswer rec k s = .next t) :
    t.OosIs us := by
  unfold execDispenserAnswer at e
  extract_lets j at e
  split at e
  · cases e
    exact hs
  · split at e
    · cases e
      exact hs
    · cases e
      exact hs.onJob.onCoreAt.writeCore

theorem State.OosIs.landJob {s : State} {us r fuel k} (hs : s.OosIs us) : (s.landJob r fuel k).OosIs us := by
  induction fuel generalizing s k with
  | zero => exact hs
  | succ fuel ih =>
    unfold State.landJob
    split
    · exact hs
    · exact .ite (ih hs) (ih hs.landMsg)

theorem State.OosIs.answerAll {s : State} {us r fuel} (hs : s.OosIs us) : (s.answerAll r fuel).OosIs us := by
  induction fuel generalizing s with
  | zero => exact hs
  | succ fuel ih =>
    unfold State.answerAll
    split
    · rename_i s1 e
      exact ih (hs.of_dispenserAnswer e)
    · exact hs

theorem State.OosIs.landWrites {s : State} {us r} (hs : s.OosIs us) : (s.landWrites r).OosIs us := by
  unfold State.landWrites
  extract_lets mine s1 s2 s3 s4
  have ks1 : s1.OosIs us := hs.foldl fun _ hu _ => hu.finishPush
  have ks2 : s2.OosIs us := ks1.foldl fun _ hu _ => hu.finishPull
  exact ks2.landJob.answerAll.foldl fun _ hu _ => .ite (hu.within fun _ hu1 => hu1.matrixComplete) hu

theorem State.OosIs.dump {s : State} {us r cause} (hs : s.OosIs us) : (s.dump r cause).OosIs us :=
  State.dump_cases hs fun _ _ => hs.onJob.landWrites.deviceWrite.failRecord.raiseIrq

theorem State.OosIs.showPort {s : State} {us p} (hs : s.OosIs us) : (s.showPort p).OosIs us := hs.setReg

theorem State.OosIs.narrowLink {s : State} {us u} (hs : s.OosIs us) : (s.narrowLink u).OosIs us := by
  unfold State.narrowLink
  split
  · exact .ite hs.onShum.showPort hs
  · exact hs.onPort
  · exact hs

/-- A unit that goes out of service stands among those that are. -/
theorem State.mem_oos_removeUnit {s : State} {u test addr} : u ∈ (s.removeUnit u test addr).oos := by
  unfold State.removeUnit
  split
  · rename_i h
    exact List.contains_iff_mem.mp h
  · extract_lets e f s1
    have k1 : s1.OosIs (s.oos ++ [u]) := rfl
    have k2 : (s1.countErr 9 |>.narrowLink u).oos = s.oos ++ [u] := k1.countErr.narrowLink
    rw [k2]
    exact List.mem_append_right _ List.mem_cons_self

theorem State.mem_oos_retireUnit {s : State} {u addr} : u ∈ (s.retireUnit u addr).oos := by
  unfold State.retireUnit
  extract_lets s1 rs s2
  have k1 : s1.OosIs s1.oos := rfl
  have k2 : s2.OosIs s1.oos := k1.foldl fun _ hu _ => hu.foldl fun _ hu1 _ => hu1.markDead
  have k3 : (rs.foldl (fun s r => s.dump r 0x3F) s2).oos = s1.oos := k2.foldl fun _ hu _ => hu.dump
  rw [k3]
  exact State.mem_oos_removeUnit

end Sys2Proof.Machine
end

section
/-! PROOF. Boot control, attestation, key slots, islands, errors and register writes (spec/22_boot_operations.md R496 to R507; spec/00_scope.md R6;
spec/17_host_interface.md R405, R422). -/

set_option autoImplicit false
set_option Elab.async false

namespace Sys2Proof.Machine

open Sys2Proof.Claims

/-! ## Fuses (R499) -/

theorem bootctl_of_holds {s k : State} {src : RegSource} (h : s.holds src 1 = true) : s.bootctl src k = .next k := by
  rw [State.bootctl, if_pos h]

theorem bootctl_of_not_holds {s k : State} {src : RegSource} (h : s.holds src 1 = false) : s.bootctl src k = .next s.guard := by
  rw [State.bootctl, if_neg (by rw [h]; decide)]

/-- GUARD is set by a source that does not hold the semaphore, and nothing else is. -/
theorem guard_sets {s : State} : OnlyReg .hsemst s s.guard ∧ (s.guard.reg .hsemst).toNat / 2 % 2 = 1 ∧ s.guard.flash = s.flash := by
  refine ⟨onlyReg_setField, ?_, rfl⟩
  have := bits_setBits (x := s.reg .hsemst) (hi := 1) (lo := 1) (v := 1) (by omega) (by omega)
  rw [← State.reg_setField] at this
  simpa [bits, State.guard] using this

/-- An operation that was refused shows CODE 6 and leaves the fuses. -/
theorem bootCode_refused {s : State} :
    OnlyReg .bootst s (s.bootCode 6) ∧ (s.bootCode 6).flash = s.flash ∧ ((s.bootCode 6).reg .bootst).toNat / 2 ^ 32 % 2 ^ 8 = 6 := by
  refine ⟨onlyReg_setField, rfl, ?_⟩
  have := bits_setBits (x := s.reg .bootst) (hi := 39) (lo := 32) (v := 6) (by omega) (by omega)
  rw [← State.reg_setField] at this
  exact this

theorem onlyReg_showFuses {s : State} : OnlyReg .bootst s s.showFuses :=
  onlyReg_trans (onlyReg_trans onlyReg_setField onlyReg_setField) onlyReg_setField

theorem onlyReg_accepted {s : State} : OnlyReg .bootst s s.accepted := onlyReg_ite onlyReg_setField onlyReg_rfl

theorem onlyReg_burn {s : State} {f : Persistent → Persistent} : OnlyReg .bootst s (s.burn f) :=
  onlyReg_trans (t := { s with flash := f s.flash }) ⟨fun _ => rfl, fun _ _ => rfl⟩ (onlyReg_trans onlyReg_showFuses onlyReg_accepted)

theorem flash_accepted {s : State} : s.accepted.flash = s.flash := by
  unfold State.accepted
  split
  · rfl
  · rfl

theorem flash_burn {s : State} {f : Persistent → Persistent} : (s.burn f).flash = f s.flash := flash_accepted

/-- Clearing CODE leaves the other fields of BOOTST. -/
theorem bits_accepted {s : State} {hi lo : Nat} (d : hi < 32 ∨ 39 < lo) : bits (s.accepted.reg .bootst) hi lo = bits (s.reg .bootst) hi lo := by
  unfold State.accepted
  split
  · rw [State.bootCode, State.reg_setField, bits_setBits_apart (by omega) (by omega) d]
  · rfl

/-- BOOTST shows the fuses that were burned. -/
theorem bits_burn {s : State} {f : Persistent → Persistent} :
    bits ((s.burn f).reg .bootst) 31 0 = (f s.flash).svnFloor % 2 ^ 32 ∧ bits ((s.burn f).reg .bootst) 59 58 = (f s.flash).ownMode % 4 := by
  constructor
  · rw [State.burn, bits_accepted (by omega), State.showFuses, State.reg_setField, bits_setBits (by omega) (by omega)]
  · rw [State.burn, bits_accepted (by omega), State.showFuses, State.reg_setField, bits_setBits_apart (by omega) (by omega) (by omega),
      State.reg_setField, bits_setBits_apart (by omega) (by omega) (by omega), State.reg_setField, bits_setBits (by omega) (by omega)]
    rfl

/-- Every operation of a source that does not hold semaphore 1 sets GUARD alone. -/
theorem bootctl_guarded {s : State} {src : RegSource} {e : Instr} (h : s.holds src 1 = false)
    (k : e = .bootctlRecovery src ∨ e = .bootctlMain src ∨ e = .bootctlRaiseSvn src ∨ (∃ slot addr, e = .bootctlFuseOwner src slot addr) ∨
      (∃ slot, e = .bootctlRevokeOwner src slot) ∨ ∃ mode, e = .bootctlSetOwnmode src mode) :
    ∃ t, exec e s = .next t ∧ OnlyReg .hsemst s t ∧ (t.reg .hsemst).toNat / 2 % 2 = 1 ∧ t.flash = s.flash := by
  refine ⟨s.guard, ?_, guard_sets⟩
  rcases k with rfl | rfl | rfl | ⟨slot, addr, rfl⟩ | ⟨slot, rfl⟩ | ⟨mode, rfl⟩
  · exact bootctl_of_not_holds h
  · exact bootctl_of_not_holds h
  · exact bootctl_of_not_holds h
  · exact bootctl_of_not_holds h
  · exact bootctl_of_not_holds h
  · exact bootctl_of_not_holds h

section
variable {s : State} {src : RegSource} (h : s.holds src 1 = true)
include h

theorem bootctlRaiseSvn_burns : ∃ t, exec (.bootctlRaiseSvn src) s = .next t ∧ OnlyReg .bootst s t ∧
    t.flash = { s.flash with svnFloor := max s.flash.svnFloor s.image.svn } ∧
    (t.reg .bootst).toNat % 2 ^ 32 = max s.flash.svnFloor s.image.svn % 2 ^ 32 := by
  refine ⟨_, bootctl_of_holds h, onlyReg_burn, flash_burn, ?_⟩
  have := (bits_burn (s := s) (f := fun f => { f with svnFloor := max f.svnFloor s.image.svn })).1
  simpa [bits] using this

theorem bootctlFuseOwner_burns {slot addr : Nat} (lo : 1 ≤ slot) (hi : slot ≤ 4) (fits : addr / 256 * 256 + 64 ≤ Config.deviceBytes)
    (free : s.flash.owners.getD (slot - 1) none = none) :
    ∃ t, exec (.bootctlFuseOwner src slot addr) s = .next t ∧ OnlyReg .bootst s t ∧
      t.flash.owners.getD (slot - 1) none = some (s.dm.bytes (addr / 256 * 256) 64) ∧
      ∀ i, i < 4 → i + 1 ≠ slot → t.flash.owners.getD i none = s.flash.owners.getD i none := by
  have e : exec (.bootctlFuseOwner src slot addr) s = .next _ := bootctl_of_holds h
  have slots : (slot == 0 || decide (4 < slot) || (s.flash.owners.getD (slot - 1) none).isSome) = false := by
    rw [free]
    simp only [Option.isSome_none, Bool.or_false, Bool.or_eq_false_iff, beq_eq_false_iff_ne, decide_eq_false_iff_not]
    omega
  rw [slots, if_neg Bool.false_ne_true] at e
  refine ⟨_, e, onlyReg_burn, ?_, fun i hi ne => ?_⟩
  · rw [flash_burn]
    simp [List.getD_eq_getElem?_getD, show slot - 1 < 4 by omega, show slot - 1 + 1 = slot by omega, State.deviceRead, if_pos fits]
  · rw [flash_burn]
    simp [List.getD_eq_getElem?_getD, hi, ne]

theorem bootctlFuseOwner_refused {slot addr : Nat} (fused : s.flash.owners.getD (slot - 1) none ≠ none) :
    ∃ t, exec (.bootctlFuseOwner src slot addr) s = .next t ∧ OnlyReg .bootst s t ∧
      t.flash = s.flash ∧ (t.reg .bootst).toNat / 2 ^ 32 % 2 ^ 8 = 6 := by
  have e : exec (.bootctlFuseOwner src slot addr) s = .next _ := bootctl_of_holds h
  rw [if_pos (by rw [Option.isSome_iff_ne_none.mpr fused, Bool.or_true])] at e
  exact ⟨_, e, bootCode_refused⟩

theorem bootctlRevokeOwner_burns {slot : Nat} (lo : 1 ≤ slot) (hi : slot ≤ 4) (mode : s.flash.ownMode ≠ 2) :
    ∃ t, exec (.bootctlRevokeOwner src slot) s = .next t ∧ OnlyReg .bootst s t ∧
      slot ∈ t.flash.revoked ∧ ∀ i ∈ s.flash.revoked, i ∈ t.flash.revoked := by
  have e : exec (.bootctlRevokeOwner src slot) s = .next _ := bootctl_of_holds h
  rw [if_neg (by simp [mode]; omega)] at e
  refine ⟨_, e, onlyReg_burn, ?_, fun i m => ?_⟩
  · rw [flash_burn]
    exact mem_insertNat.mpr (.inl rfl)
  · rw [flash_burn]
    exact mem_insertNat.mpr (.inr m)

theorem bootctlSetOwnmode_burns {mode : Nat} (up : s.flash.ownMode ≤ mode) (hi : mode ≤ 2) :
    ∃ t, exec (.bootctlSetOwnmode src mode) s = .next t ∧ OnlyReg .bootst s t ∧
      t.flash = { s.flash with ownMode := mode } ∧ (t.reg .bootst).toNat / 2 ^ 58 % 4 = mode := by
  have e : exec (.bootctlSetOwnmode src mode) s = .next _ := bootctl_of_holds h
  rw [if_neg (by simp; omega)] at e
  refine ⟨_, e, onlyReg_burn, flash_burn, ?_⟩
  have := (bits_burn (s := s) (f := fun f => { f with ownMode := mode })).2
  exact this.trans (Nat.mod_eq_of_lt (by dsimp only; omega))

theorem bootctlSetOwnmode_refused {mode : Nat} (down : mode < s.flash.ownMode) :
    ∃ t, exec (.bootctlSetOwnmode src mode) s = .next t ∧ t.flash = s.flash ∧ (t.reg .bootst).toNat / 2 ^ 32 % 2 ^ 8 = 6 := by
  have e : exec (.bootctlSetOwnmode src mode) s = .next _ := bootctl_of_holds h
  rw [if_pos (by simp [down])] at e
  exact ⟨_, e, bootCode_refused.2⟩

end

theorem acting_of_leads {s : State} {d : Nat} (lead : Leads s d) : s.acting = some d := by
  obtain ⟨leader, lease⟩ := lead
  rw [State.acting, leader, Option.filter_some, if_pos (decide_eq_true lease)]

/-! ## The attestation report (R500) -/

theorem length_padTo_take (n : Nat) (bs : List Byte) : ((padTo n bs).take n).length = n := by
  simp [padTo]
  omega

theorem length_identityPublic : identityPublic.length = 57 := length_padTo_take _ _

/-- The report's fields make 197 bytes, after a nonce of 32. -/
theorem length_report {s : State} {nonce : List Byte} (h : nonce.length = 32) : (s.report nonce).length = 197 := by
  simp only [State.report, List.length_append, List.length_replicate, length_leBytes, length_padTo_take, length_identityPublic, h]

theorem report_nonce {s : State} {nonce : List Byte} : ∃ r, s.report nonce = nonce ++ r := by
  simp only [State.report, List.append_assoc]
  exact ⟨_, rfl⟩

/-- A write of an engine that fits the device's memory is a write of its bytes. -/
theorem dm_deviceWrite {s : State} {a : Nat} {bs : List Byte} (h : a + bs.length ≤ Config.deviceBytes) :
    (s.deviceWrite a bs).dm = s.dm.write a bs := by
  have e : bs.take (Config.deviceBytes - a) = bs := List.take_of_length_le (by omega)
  rw [State.deviceWrite, e]
  rfl

theorem deviceWrite_writesOnly {s : State} {a : Nat} {bs : List Byte} (h : a + bs.length ≤ Config.deviceBytes) :
    DeviceWritesOnly a bs.length s (s.deviceWrite a bs) := by
  refine ⟨fun b hb => ?_, fun _ => rfl, fun _ _ => rfl⟩
  rw [dm_deviceWrite h]
  exact Memory.byte_write_apart _ hb

theorem deviceWritesOnly_setReg {s t : State} {a n : Nat} {r : Reg} {w : Word} (h : DeviceWritesOnly a n s t) :
    DeviceWritesOnly a n s (t.setReg r w) := ⟨h.1, h.2.1, h.2.2⟩

/-- The first bytes of a run that was written read as written. -/
theorem Memory.bytes_write_append (m : Memory) (a : Nat) (bs cs : List Byte) : (m.write a (bs ++ cs)).bytes a bs.length = bs := by
  apply List.ext_getElem (Memory.length_bytes _ _ _)
  intro i h1 h2
  rw [Memory.getElem_bytes, Memory.byte_write m (by simp; omega), List.getElem_append_left h2]

/-- The report over a nonce, and its signature. -/
def State.signedReport (s : State) (nonce : List Byte) : List Byte :=
  padTo 256 (s.report nonce) ++ (padTo 114 (Config.ed448Sign identityKey (s.report nonce))).take 114

theorem length_signedReport {s : State} {nonce : List Byte} (h : nonce.length = 32) : (s.signedReport nonce).length = 370 := by
  rw [State.signedReport, List.length_append, length_padTo_take, padTo, List.length_append, List.length_replicate, length_report h]

theorem signedReport_nonce {s : State} {nonce : List Byte} : ∃ cs, s.signedReport nonce = nonce ++ cs := by
  obtain ⟨r, hr⟩ := report_nonce (s := s) (nonce := nonce)
  refine ⟨r ++ (List.replicate (256 - (nonce ++ r).length) 0 ++ (padTo 114 (Config.ed448Sign identityKey (nonce ++ r))).take 114), ?_⟩
  rw [State.signedReport, hr, padTo, List.append_assoc, List.append_assoc]

theorem exec_attcmdGo {s : State} {addr : Nat} (acts : s.acting.isNone = false) (aligned : addr % 64 = 0) (fits : addr + 32 ≤ Config.deviceBytes) :
    exec (.attcmdGo addr) s = .next ((s.deviceWrite addr (s.signedReport (s.dm.bytes addr 32))).setReg .attst (w64 (2 ^ 63))) := by
  have at_ : addr / 64 * 64 = addr := by omega
  have nonce : s.deviceRead addr 32 = s.dm.bytes addr 32 := if_pos fits
  show execAttcmdGo addr s = _
  rw [execAttcmdGo, acts, if_neg Bool.false_ne_true, at_, nonce, State.signedReport]

theorem attcmdGo_reports {s : State} {addr d : Nat} (lead : Leads s d) (aligned : addr % 64 = 0) (fits : addr + 370 ≤ Config.deviceBytes) :
    ∃ t, exec (.attcmdGo addr) s = .next t ∧ t.reg .attst = BitVec.ofNat 64 (2 ^ 63) ∧ t.dm.bytes addr 32 = s.dm.bytes addr 32 ∧
      DeviceWritesOnly addr 370 s t := by
  have acts : s.acting.isNone = false := by rw [acting_of_leads lead, Option.isNone_some]
  have len := length_signedReport (s := s) (Memory.length_bytes s.dm addr 32)
  refine ⟨_, exec_attcmdGo acts aligned (by omega), State.reg_setReg _ _ _, ?_, ?_⟩
  · obtain ⟨cs, hcs⟩ := signedReport_nonce (s := s) (nonce := s.dm.bytes addr 32)
    have wrote := Memory.bytes_write_append s.dm addr (s.dm.bytes addr 32) cs
    rw [Memory.length_bytes, ← hcs, ← dm_deviceWrite (by omega)] at wrote
    rw [State.dm_setReg]
    exact wrote
  · have only := deviceWrite_writesOnly (s := s) (a := addr) (bs := s.signedReport (s.dm.bytes addr 32)) (by omega)
    rw [len] at only
    exact deviceWritesOnly_setReg only

/-! ## Key slots (R501) -/

/-- A key that is written while its slot is not in use takes effect at once; else it waits. -/
theorem keySlotWrite_key {s : State} {slot : Nat} {key : List Byte} (lo : 1 ≤ slot) (hi : slot < 256) (none_ : s.keyWaits = []) :
    exec (.keySlotWrite slot key) s = .next (if s.keyInUse slot then { s with keyWaits := [(slot, key)] }
      else { s with keySlots := put s.keySlots slot key, keyWaits := [] }) := by
  show execKeySlotWrite slot key s = _
  unfold execKeySlotWrite
  rw [if_neg (by simp; omega), if_pos hi, none_]
  simp only [State.applyKeys, put, List.foldl_cons, List.foldl_nil, del]
  show Host.Outcome.next (if s.keyInUse slot then _ else _) = _
  split
  · rfl
  · simp

theorem keySlotWrite_link {s : State} {slot : Nat} {key : List Byte} (lo : 256 ≤ slot) (hi : slot < 292)
    (keys : (s.shumPort ((slot - 256) / 2)).keys.length = 2) (rkeys : (s.shumPort ((slot - 256) / 2)).rkeys.length = 2) :
    ∃ t, exec (.keySlotWrite slot key) s = .next t ∧ SameMemory s t ∧
      (t.shumPort ((slot - 256) / 2)).keys.getD ((slot - 256) % 2) none = some key ∧
      (t.shumPort ((slot - 256) / 2)).rkeys.getD ((slot - 256) % 2) none = some key := by
  have e : exec (.keySlotWrite slot key) s = .next (s.onShum ((slot - 256) / 2) fun k =>
      { k with keys := k.keys.set ((slot - 256) % 2) (some key), rkeys := k.rkeys.set ((slot - 256) % 2) (some key),
               expect := k.expect.set ((slot - 256) % 2) 0 }) := by
    show execKeySlotWrite slot key s = _
    unfold execKeySlotWrite
    rw [if_neg (by simp; omega), if_neg (by omega), if_pos (by omega)]
  refine ⟨_, e, fun _ => rfl, ?_, ?_⟩
  · rw [State.shumPort, State.onShum, look_put]
    simp [List.getD_eq_getElem?_getD, keys, show (slot - 256) % 2 < 2 by omega]
  · rw [State.shumPort, State.onShum, look_put]
    simp [List.getD_eq_getElem?_getD, rkeys, show (slot - 256) % 2 < 2 by omega]

/-! ## Islands (R505, R506) -/

theorem mem_onSlots (c : Core) (f : Nat → Slot → Slot) : (c.onSlots f).mem = c.mem := rfl

/-- A change of an island's clock sets ACT, and re-clocks what is in flight on its cores. -/
theorem setAct_cases {P : State → Prop} {s : State} {n v : Nat} (plain : P (s.setField (.isl n) 52 42 v))
    (reclocked : ∀ f : CoreId → Core → Core, (∀ id c, (f id c).mem = c.mem) → P ((s.setField (.isl n) 52 42 v).mapCores f)) :
    P (s.setAct n v) := by
  unfold State.setAct
  extract_lets old s1
  split
  · exact plain
  · refine reclocked _ fun id c => ?_
    split
    · exact mem_onSlots _ _
    · rfl

theorem regs_setAct (s : State) (n v : Nat) : (s.setAct n v).regs = (s.setField (.isl n) 52 42 v).regs :=
  setAct_cases (P := fun t => t.regs = (s.setField (.isl n) 52 42 v).regs) rfl fun _ _ => rfl

theorem reg_setAct (s : State) (n v : Nat) (r : Reg) : (s.setAct n v).reg r = (s.setField (.isl n) 52 42 v).reg r := by
  rw [State.reg, regs_setAct, State.reg]

theorem capped_setAct (s : State) (n v : Nat) : (s.setAct n v).capped = s.capped :=
  setAct_cases (P := fun t => t.capped = s.capped) rfl fun _ _ => rfl

theorem sameMemory_setAct (s : State) (n v : Nat) : SameMemory s (s.setAct n v) :=
  setAct_cases (P := SameMemory s) (fun _ => rfl) fun _ hf => sameMemory_mapCores (s.setField (.isl n) 52 42 v) hf

theorem onlyReg_setAct {s : State} {n v : Nat} : OnlyReg (.isl n) s (s.setAct n v) :=
  ⟨sameMemory_setAct s n v, fun q h => by rw [reg_setAct, State.reg_setField_ne _ _ _ _ _ _ h]⟩

theorem act_setAct {s : State} {n v : Nat} (h : v < 2 ^ 11) : (s.setAct n v).act n = v := by
  rw [State.act, reg_setAct, State.reg_setField, bits_setBits (by omega) (by omega)]
  exact Nat.mod_eq_of_lt h

theorem act_setAct_ne {s : State} {n m v : Nat} (h : m ≠ n) : (s.setAct n v).act m = s.act m := by
  rw [State.act, reg_setAct, State.reg_setField_ne _ _ _ _ _ _ (fun e => h (by injection e)), State.act]

/-- ACT apart, a change of an island's clock leaves the fields of every island. -/
theorem bits_setAct {s : State} {n m v a b : Nat} (d : a < 42 ∨ 52 < b) : bits ((s.setAct n v).reg (.isl m)) a b = bits (s.reg (.isl m)) a b := by
  rw [reg_setAct]
  by_cases h : m = n
  · rw [h, State.reg_setField, bits_setBits_apart (by omega) (by omega) d]
  · rw [State.reg_setField_ne _ _ _ _ _ _ (fun e => h (by injection e))]

theorem tgt_setAct {s : State} {n m v : Nat} : (s.setAct n v).tgt m = s.tgt m := bits_setAct (.inl (by omega))

theorem hot_setAct {s : State} {n m v : Nat} : (s.setAct n v).hot m = s.hot m := by
  rw [State.hot, bits_setAct (.inl (by omega)), State.hot]

theorem act_lt (s : State) (n : Nat) : s.act n < 2 ^ 11 := bits_lt

theorem tgt_lt (s : State) (n : Nat) : s.tgt n < 2 ^ 11 := bits_lt

theorem islandClockChange_sets {s : State} {n : Nat} (h : n < 528) :
    ∃ t, exec (.islandClockChange n) s = .next t ∧ OnlyReg (.isl n) s t ∧
      t.act n = if s.hot n then 470 else if (s.reg .pcap).toNat % 2 ^ 13 ≠ 0 then min (s.act n) (s.tgt n) else s.tgt n := by
  have cap : (bits (s.reg .pcap) 12 0 != 0) = true ↔ (s.reg .pcap).toNat % 2 ^ 13 ≠ 0 := by simp [bits]
  have e : exec (.islandClockChange n) s =
      .next (s.setAct n (if s.hot n then 470 else if bits (s.reg .pcap) 12 0 != 0 then min (s.act n) (s.tgt n) else s.tgt n)) := by
    show execIslandClockChange n s = _
    rw [execIslandClockChange, if_neg (by unfold islands; omega)]
  refine ⟨_, e, onlyReg_setAct, ?_⟩
  have ha := act_lt s n
  have ht := tgt_lt s n
  rw [act_setAct]
  · simp only [cap]
  · split
    · omega
    · split
      · omega
      · omega

/-- A pass over islands, each step of which sets the clock of its island by what that island holds, sets each by what it held before. -/
theorem act_foldl {f : State → Nat → State} {v : State → Nat → Nat} (same : ∀ s n, (f s n).act n = v s n)
    (other : ∀ s n m, m ≠ n → (f s n).act m = s.act m) (later : ∀ s n m, m ≠ n → v (f s n) m = v s m) {l : List Nat} (distinct : l.Nodup)
    (s : State) (m : Nat) : (l.foldl f s).act m = if m ∈ l then v s m else s.act m := by
  induction l generalizing s with
  | nil => simp
  | cons n l ih =>
    obtain ⟨new, distinct⟩ := List.nodup_cons.mp distinct
    rw [List.foldl_cons, ih distinct]
    by_cases h : m = n
    · subst h
      rw [if_neg new, if_pos List.mem_cons_self, same]
    · simp only [List.mem_cons, h, false_or, other _ _ _ h, later _ _ _ h]

theorem foldl_keeps {α β : Type} {f : State → α → State} {p : State → β} (hf : ∀ s a, p (f s a) = p s) (l : List α) (s : State) :
    p (l.foldl f s) = p s :=
  List.foldlRecOn l f (motive := fun t => p t = p s) rfl fun t ht a _ => (hf t a).trans ht

/-- One step down of the islands above 470 MHz (R506). -/
def State.capDown (s : State) (n : Nat) : State := s.setAct n (max 470 (s.act n - 10))

/-- One step up of an island towards its target, unless it is hot (R506). -/
def State.capUp (s : State) (n : Nat) : State := if s.act n < s.tgt n && !s.hot n then s.setAct n (min (s.tgt n) (s.act n + 10)) else s

/-- What a step up makes of an island's clock. -/
def State.raisedAct (s : State) (n : Nat) : Nat := if s.act n < s.tgt n ∧ s.hot n = false then min (s.tgt n) (s.act n + 10) else s.act n

theorem act_capDown_foldl {l : List Nat} (distinct : l.Nodup) (s : State) (m : Nat) :
    (l.foldl State.capDown s).act m = if m ∈ l then max 470 (s.act m - 10) else s.act m := by
  refine act_foldl (v := fun s n => max 470 (s.act n - 10)) (fun s n => ?_) (fun s n m h => act_setAct_ne h) (fun s n m h => ?_) distinct s m
  · have := act_lt s n
    exact act_setAct (by omega)
  · exact congrArg (fun a => max 470 (a - 10)) (act_setAct_ne h)

theorem capUp_cases {P : State → Prop} {s : State} {n : Nat} (same : P s) (raised : P (s.setAct n (min (s.tgt n) (s.act n + 10)))) :
    P (s.capUp n) := by
  unfold State.capUp
  split
  · exact raised
  · exact same

theorem act_capUp (s : State) (n : Nat) : (s.capUp n).act n = s.raisedAct n := by
  have := tgt_lt s n
  unfold State.capUp State.raisedAct
  simp only [Bool.and_eq_true, decide_eq_true_eq, Bool.not_eq_true']
  split
  · exact act_setAct (by omega)
  · rfl

theorem raisedAct_capUp {s : State} {n m : Nat} (h : m ≠ n) : (s.capUp n).raisedAct m = s.raisedAct m :=
  capUp_cases (P := fun t => t.raisedAct m = s.raisedAct m) rfl
    (by simp only [State.raisedAct, act_setAct_ne h, tgt_setAct, hot_setAct])

theorem act_capUp_foldl {l : List Nat} (distinct : l.Nodup) (s : State) (m : Nat) :
    (l.foldl State.capUp s).act m = if m ∈ l then s.raisedAct m else s.act m :=
  act_foldl act_capUp (fun s _ m h => capUp_cases (P := fun t => t.act m = s.act m) rfl (act_setAct_ne h)) (fun _ _ _ h => raisedAct_capUp h)
    distinct s m

theorem sameMemory_capUp (s : State) (n : Nat) : SameMemory s (s.capUp n) :=
  capUp_cases (P := SameMemory s) (fun _ => rfl) (sameMemory_setAct s n _)

theorem capped_capUp (s : State) (n : Nat) : (s.capUp n).capped = s.capped :=
  capUp_cases (P := fun t => t.capped = s.capped) rfl (capped_setAct s n _)

/-! ## Capping and heat (R506) -/

/-- A check that is due compares the summed power with the cap (R506). -/
theorem exec_cappingCheck {s : State} {d : Nat} (cap : bits (s.reg .pcap) 12 0 * 10 ≠ 0) (lead : Leads s d) (due : s.capped + 10000 ≤ s.time) :
    exec .cappingCheck s = .next (
      if bits (s.reg .pcap) 12 0 * 10 < ((List.range islands).map s.islandPower).sum then
        ((List.range islands).filter fun n => decide (470 < s.act n)).foldl State.capDown
          (if ((List.range islands).filter fun n => decide (470 < s.act n)).isEmpty then { s with capped := s.time }
           else State.countErr { s with capped := s.time } 8)
      else if ((List.range islands).map s.islandPower).sum * 100 < bits (s.reg .pcap) 12 0 * 10 * 98 then
        (List.range islands).foldl State.capUp { s with capped := s.time }
      else { s with capped := s.time }) := by
  show execCappingCheck s = _
  unfold execCappingCheck
  generalize List.range islands = l
  extract_lets c power s1 fast
  rw [if_neg]
  · split
    · rfl
    · split
      · rfl
      · rfl
  · simp [c, cap, acting_of_leads lead]
    omega

theorem cappingCheck_caps {s : State} {d : Nat} (capped : (s.reg .pcap).toNat % 2 ^ 13 * 10 ≠ 0) (lead : Leads s d)
    (due : s.capped + 10000 ≤ s.time) : ∃ t, exec .cappingCheck s = .next t ∧ SameMemory s t ∧ t.capped = s.time ∧
      ((s.reg .pcap).toNat % 2 ^ 13 * 10 < ((List.range 528).map s.islandPower).sum → ∀ n, n < 528 →
        t.act n = if 470 < s.act n then max 470 (s.act n - 10) else s.act n) ∧
      (((List.range 528).map s.islandPower).sum ≤ (s.reg .pcap).toNat % 2 ^ 13 * 10 →
        ((List.range 528).map s.islandPower).sum * 100 < (s.reg .pcap).toNat % 2 ^ 13 * 10 * 98 → ∀ n, n < 528 →
        t.act n = if s.act n < s.tgt n ∧ s.hot n = false then min (s.tgt n) (s.act n + 10) else s.act n) ∧
      (((List.range 528).map s.islandPower).sum ≤ (s.reg .pcap).toNat % 2 ^ 13 * 10 →
        (s.reg .pcap).toNat % 2 ^ 13 * 10 * 98 ≤ ((List.range 528).map s.islandPower).sum * 100 → ∀ n, t.act n = s.act n) := by
  have field : bits (s.reg .pcap) 12 0 = (s.reg .pcap).toNat % 2 ^ 13 := by simp [bits]
  have e := exec_cappingCheck (by rw [field]; exact capped) lead due
  rw [field, islands] at e
  have isle : ∀ n, n < 528 → n ∈ List.range 528 := fun n h => List.mem_range.mpr h
  have distinct : (List.range 528).Nodup := List.nodup_range
  generalize List.range 528 = l at *
  generalize (l.map s.islandPower).sum = power at *
  generalize (s.reg .pcap).toNat % 2 ^ 13 * 10 = cap at *
  let s1 : State := { s with capped := s.time }
  by_cases above : cap < power
  · rw [if_pos above] at e
    let fast := l.filter fun n => decide (470 < s.act n)
    let s2 := if fast.isEmpty then s1 else s1.countErr 8
    have start : SameMemory s s2 ∧ s2.capped = s.time ∧ ∀ n, s2.act n = s.act n := by
      unfold s2
      split
      · exact ⟨fun _ => rfl, rfl, fun _ => rfl⟩
      · exact ⟨fun _ => rfl, rfl, fun _ => rfl⟩
    obtain ⟨memory, checked, act⟩ := start
    refine ⟨_, e, SameMemory.trans memory (sameMemory_foldl (fun s n => sameMemory_setAct s n _) fast s2),
      (foldl_keeps (p := State.capped) (fun s n => capped_setAct s n _) fast s2).trans checked, fun _ n h => ?_, by omega, by omega⟩
    rw [act_capDown_foldl (distinct.filter _)]
    simp only [List.mem_filter, isle n h, true_and, decide_eq_true_eq]
    rw [act n]
  · rw [if_neg above] at e
    by_cases below : power * 100 < cap * 98
    · rw [if_pos below] at e
      refine ⟨_, e, sameMemory_foldl (s := s1) sameMemory_capUp l, foldl_keeps (p := State.capped) capped_capUp l s1, by omega,
        fun _ _ n h => ?_, by omega⟩
      rw [act_capUp_foldl distinct, if_pos (isle n h)]
      rfl
    · rw [if_neg below] at e
      exact ⟨_, e, fun _ => rfl, rfl, by omega, by omega, fun _ _ _ => rfl⟩

theorem thermalTrip_holds {s : State} {n temp : Nat} (h : n < 528) (cool : temp < 920) :
    ∃ t, exec (.thermalTrip n temp) s = .next t ∧ OnlyReg (.isl n) s t ∧ (t.reg (.isl n)).toNat / 2 ^ 16 % 2 ^ 15 = temp ∧
      t.act n = if 840 ≤ temp then 470 else s.act n := by
  let s1 := s.setField (.isl n) 30 16 temp
  have e : exec (.thermalTrip n temp) s =
      .next (if 840 ≤ temp then (if s.hot n then s1.setAct n 470 else (s1.setAct n 470).countErr 7) else s1) := by
    show execThermalTrip n temp s = _
    rw [execThermalTrip, if_neg (by unfold islands; omega), if_neg (by omega)]
  have seen : bits (s1.reg (.isl n)) 30 16 = temp := by
    rw [State.reg_setField, bits_setBits (by omega) (by omega)]
    exact Nat.mod_eq_of_lt (by omega)
  have only : OnlyReg (.isl n) s s1 := onlyReg_setField
  have slowed : OnlyReg (.isl n) s (s1.setAct n 470) ∧ bits ((s1.setAct n 470).reg (.isl n)) 30 16 = temp ∧ (s1.setAct n 470).act n = 470 :=
    ⟨onlyReg_trans only onlyReg_setAct, (bits_setAct (.inl (by omega))).trans seen, act_setAct (by omega)⟩
  rw [e]
  by_cases hot : 840 ≤ temp
  · simp only [if_pos hot]
    split
    · exact ⟨_, rfl, slowed⟩
    · exact ⟨_, rfl, slowed⟩
  · simp only [if_neg hot]
    refine ⟨_, rfl, only, seen, ?_⟩
    rw [State.act, State.reg_setField, bits_setBits_apart (by omega) (by omega) (by omega), State.act]

/-! ## Errors (R503) -/

/-- Counting an error changes the counts alone. -/
theorem exec_eccError_uncorrectable (u : UnitId) (s : State) : ∃ es, exec (.eccError u true) s =
    .next (if dataError u then State.spoil { s with errs := es } u else State.retireUnit { s with errs := es } u.whole 0) := by
  show ∃ es, execEccError u true s = _
  unfold execEccError
  cases errNumber u.kind true with
  | none => exact ⟨s.errs, rfl⟩
  | some n => exact ⟨_, rfl⟩

theorem exec_eccError_corrected (u : UnitId) (s : State) : ∃ es, exec (.eccError u false) s =
    .next (match s.errorUnit u with
      | none => { s with errs := es }
      | some v =>
        let recent := (s.corrected.filter fun e => decide (s.time < e.2 + hourTicks)) ++ [(v, s.time)]
        let s2 : State := { s with errs := es, corrected := recent }
        if 16 < (recent.filter fun e => decide (e.1 = v)).length then s2.retireUnit v.whole 0 else s2) := by
  show ∃ es, execEccError u false s = _
  unfold execEccError
  cases errNumber u.kind false with
  | none =>
    refine ⟨s.errs, ?_⟩
    cases s.errorUnit u with
    | none => rfl
    | some v => rfl
  | some n =>
    refine ⟨put s.errs n (look 0 s.errs n + 1), ?_⟩
    cases s.errorUnit u with
    | none => rfl
    | some v => rfl

theorem eccError_retires {s : State} {u : UnitId} (h : dataError u = false) : ∃ t, exec (.eccError u true) s = .next t ∧ u.whole ∈ t.oos := by
  obtain ⟨es, e⟩ := exec_eccError_uncorrectable u s
  rw [h, if_neg Bool.false_ne_true] at e
  exact ⟨_, e, State.mem_oos_retireUnit⟩

theorem eccError_spoils {s : State} {u : UnitId} (h : dataError u = true) :
    ∃ es, exec (.eccError u true) s = .next (State.spoil { s with errs := es } u) := by
  obtain ⟨es, e⟩ := exec_eccError_uncorrectable u s
  rw [h, if_pos rfl] at e
  exact ⟨es, e⟩

theorem eccError_saveArea {s : State} {u : UnitId} (h : u.kind = .saveArea) :
    ∃ t, exec (.eccError u true) s = .next t ∧ SameMemory s t ∧ t.oos = s.oos ∧ u.row % 4 ∈ t.core.badAreas := by
  obtain ⟨es, e⟩ := eccError_spoils (s := s) (u := u) (by rw [dataError, h]; rfl)
  rw [State.spoil, h] at e
  exact ⟨_, e, sameMemory_of rfl rfl rfl rfl rfl rfl rfl, rfl, mem_insertNat.mpr (.inl rfl)⟩

theorem eccError_codeLine {s : State} {u : UnitId} (h : u.kind = .codeLine) :
    ∃ t, exec (.eccError u true) s = .next t ∧ SameMemory s t ∧ t.oos = s.oos ∧ (s.asid, 64 * u.row) ∈ t.core.badLines := by
  obtain ⟨es, e⟩ := eccError_spoils (s := s) (u := u) (by rw [dataError, h]; rfl)
  rw [State.spoil, h] at e
  exact ⟨_, e, sameMemory_of rfl rfl rfl rfl rfl rfl rfl, rfl, List.mem_cons_self⟩

/-- A DMA engine that stops shows state 3 and its code. -/
theorem dmast_stopDma {s : State} {die n code : Nat} (h : code < 2 ^ 8) :
    ((s.stopDma die n code).reg (.dmast die n)).toNat / 2 ^ 61 = 3 ∧ ((s.stopDma die n code).reg (.dmast die n)).toNat / 2 ^ 48 % 2 ^ 8 = code := by
  have head : s.dmaHead die n < 2 ^ 32 := bits_lt
  have shown : ((s.stopDma die n code).reg (.dmast die n)).toNat = 3 * 2 ^ 61 + code * 2 ^ 48 + s.dmaHead die n := by
    rw [State.stopDma, State.raiseIrq, State.reg_setField_ne _ _ _ _ _ _ (fun c => by cases c), State.reg_setReg, w64, BitVec.toNat_ofNat]
    exact Nat.mod_eq_of_lt (by omega)
  rw [shown]
  omega

theorem eccError_dma {s : State} {u : UnitId} (h : u.kind = .dmaData) (runs : (s.engine u.die u.row).run.isSome = true) :
    ∃ t, exec (.eccError u true) s = .next t ∧ t.oos = s.oos ∧ (t.reg (.dmast u.die u.row)).toNat / 2 ^ 61 = 3 ∧
      (t.reg (.dmast u.die u.row)).toNat / 2 ^ 48 % 2 ^ 8 = 0x3F := by
  obtain ⟨es, e⟩ := eccError_spoils (s := s) (u := u) (by rw [dataError, h]; rfl)
  rw [State.spoil, h] at e
  dsimp only at e
  rw [if_pos (show (State.engine { s with errs := es } u.die u.row).run.isSome = true from runs)] at e
  have same : (State.stopDma { s with errs := es } u.die u.row 0x3F).OosIs s.oos := State.OosIs.stopDma rfl
  exact ⟨_, e, same, dmast_stopDma (by omega)⟩

theorem eccError_dma_corrected {s : State} {u : UnitId} (h : u.kind = .dmaData) :
    ∃ t, exec (.eccError u false) s = .next t ∧ SameMemory s t ∧ t.oos = s.oos ∧ t.core = s.core := by
  obtain ⟨es, e⟩ := exec_eccError_corrected u s
  have none_ : s.errorUnit u = none := by rw [State.errorUnit, h]
  rw [none_] at e
  exact ⟨_, e, fun _ => rfl, rfl, rfl⟩

theorem errorUnit_of {s : State} {u : UnitId} (h : u.kind ≠ .dmaData) :
    s.errorUnit u = some (if u.kind = .saveArea ∨ u.kind = .codeLine then coreUnit s.coreId u.part else u) := by
  obtain ⟨die, kind, row, col, part⟩ := u
  cases kind with
  | dmaData => exact absurd rfl h
  | _ => rfl

theorem count_append_self (l : List (UnitId × Nat)) (v : UnitId) (t : Nat) :
    ((l ++ [(v, t)]).filter fun e => decide (e.1 = v)).length = (l.filter fun e => decide (e.1 = v)).length + 1 := by
  have one : [(v, t)].filter (fun e => decide (e.1 = v)) = [(v, t)] := List.filter_cons_of_pos (decide_eq_true rfl)
  rw [List.filter_append, List.length_append, one, List.length_singleton]

/-- The seventeenth corrected error of a unit within the hour takes it out of service. -/
theorem eccError_corrected {s : State} {u v : UnitId} (h : s.errorUnit u = some v) :
    let n := ((s.corrected.filter fun e => decide (s.time < e.2 + hourTicks)).filter fun e => decide (e.1 = v)).length
    (n < 16 → ∃ t, exec (.eccError u false) s = .next t ∧ SameMemory s t ∧ t.oos = s.oos ∧ (v, s.time) ∈ t.corrected) ∧
      (16 ≤ n → ∃ t, exec (.eccError u false) s = .next t ∧ v.whole ∈ t.oos) := by
  obtain ⟨es, e⟩ := exec_eccError_corrected u s
  rw [h] at e
  dsimp only at e
  rw [count_append_self] at e
  intro n
  constructor
  · intro few
    rw [if_neg (by omega)] at e
    exact ⟨_, e, fun _ => rfl, rfl, List.mem_append_right _ List.mem_cons_self⟩
  · intro many
    rw [if_pos (by omega)] at e
    exact ⟨_, e, State.mem_oos_retireUnit⟩

/-! ## Register writes (R6) -/

/-- A write to a plain register sets its RW fields; two of them change what the cores and the jobs keep of it as well. -/
theorem writeReg_plain {s : State} {r : Reg} {m v : Word} {src : RegSource} (h : plainMask r = some m) :
    s.writeReg r v src = .next (if r = .clsceil then (s.writeFields r m v).setCeilings
      else if r = .fetslc then (s.writeFields r m v).sliceAnew else s.writeFields r m v) := by
  unfold State.writeReg
  split
  · rename_i k e
    rw [h] at e
    cases e
    rfl
  · rename_i e
    rw [h] at e
    cases e

theorem sameMemory_setCeilings (s : State) : SameMemory s s.setCeilings :=
  sameMemory_mapCores s fun _ c => by
    split
    · rfl
    · rfl

theorem registerWrite_plain {s : State} {r : Reg} {m v : Word} {src : RegSource} (h : plainMask r = some m)
    (reach : ∀ p, src = .port p → managed r = false) (direct : ∀ p high, src ≠ .config p high) :
    ∃ t, exec (.registerWrite r v src) s = .next t ∧ t.reg r = (v &&& m) ||| (s.reg r &&& ~~~m) ∧ OnlyReg r s t := by
  have e : exec (.registerWrite r v src) s = s.writeReg r v src := by
    show execRegisterWrite r v src s = _
    cases src with
    | port p => rw [execRegisterWrite, reach p rfl, if_neg Bool.false_ne_true]
    | config p high => exact absurd rfl (direct p high)
    | harbour => rfl
    | leader => rfl
  have fields : (s.writeFields r m v).reg r = (v &&& m) ||| (s.reg r &&& ~~~m) := State.reg_setReg _ _ _
  have only : OnlyReg r s (s.writeFields r m v) := onlyReg_setReg
  rw [e, writeReg_plain h]
  split
  · exact ⟨_, rfl, fields, SameMemory.trans only.1 (sameMemory_setCeilings _), only.2⟩
  · split
    · exact ⟨_, rfl, fields, only⟩
    · exact ⟨_, rfl, fields, only⟩

/-- Half a doubleword from a host's configuration access, put into the register's own other half. -/
theorem setBits_half {w v : Word} {high : Bool} : (if high then setBits w 63 32 (bits v 31 0) else setBits w 31 0 (bits v 31 0)) =
    BitVec.ofNat 64 (if high then v.toNat % 2 ^ 32 * 2 ^ 32 + w.toNat % 2 ^ 32 else w.toNat / 2 ^ 32 * 2 ^ 32 + v.toNat % 2 ^ 32) := by
  have hw := w.isLt
  cases high with
  | true =>
    simp only [if_true, setBits, bits]
    congr 1
    omega
  | false =>
    simp only [Bool.false_eq_true, if_false, setBits, bits]
    congr 1
    omega

theorem registerWrite_config {s : State} {r : Reg} {m v : Word} {p : Nat} {high : Bool} (h : plainMask r = some m) (cap : inCapability r = true)
    (single : ∀ k, r ≠ .region k) :
    exec (.registerWrite r v (.config p high)) s =
      exec (.registerWrite r (BitVec.ofNat 64 (if high then v.toNat % 2 ^ 32 * 2 ^ 32 + (s.reg r).toNat % 2 ^ 32
        else (s.reg r).toNat / 2 ^ 32 * 2 ^ 32 + v.toNat % 2 ^ 32)) (.port p)) s := by
  have kind : managed r = false ∧ actsWithHigh r = false := by
    cases r with
    | tlbinva => exact ⟨rfl, rfl⟩
    | prqbase => exact ⟨rfl, rfl⟩
    | prqhead => exact ⟨rfl, rfl⟩
    | clsceil => exact ⟨rfl, rfl⟩
    | region k => exact absurd rfl (single k)
    | astbase | tlbinv | tlbst | prqtail | prqresp | regcmt | vfctl _ | vfqos _ => cases h
    | _ => cases cap
  show s.configWrite p high r (bits v 31 0) = if managed r then _ else s.writeReg r _ (.port p)
  rw [kind.1, if_neg Bool.false_ne_true, ← setBits_half]
  unfold State.configWrite
  split
  · exact absurd rfl (single _)
  · rw [cap, kind.2]
    rfl

/-- Settles O56: each of BOOTCTL's operations, the report, the key slots, the islands, the errors and the register writes by its own lemma. -/
theorem bootEvents : Obligations.BootEvents := by
  intro s
  refine ⟨fun src e h k => bootctl_guarded h k,
    fun src h => ⟨⟨_, bootctl_of_holds h, onlyReg_burn, flash_burn⟩, ⟨_, bootctl_of_holds h, onlyReg_burn, flash_burn⟩,
      bootctlRaiseSvn_burns h, fun slot addr lo hi => ⟨bootctlFuseOwner_burns h lo hi, bootctlFuseOwner_refused h⟩,
      fun slot lo hi => bootctlRevokeOwner_burns h lo hi, fun mode => bootctlSetOwnmode_burns h, fun mode => bootctlSetOwnmode_refused h⟩,
    fun addr ⟨d, lead⟩ => attcmdGo_reports lead, fun slot key lo hi none_ => ?key, fun slot key => keySlotWrite_link,
    fun n => islandClockChange_sets, fun capped ⟨d, lead⟩ => cappingCheck_caps capped lead, fun n temp => thermalTrip_holds,
    fun n temp h hot => ?trip, fun u => eccError_retires, fun u => eccError_saveArea, fun u => eccError_codeLine, fun u => eccError_dma,
    fun u => eccError_dma_corrected, fun u h => eccError_corrected (errorUnit_of h), fun r m v src => registerWrite_plain,
    fun r v p h => ?managed, fun r m v p high => registerWrite_config⟩
  case key =>
    have e := keySlotWrite_key (key := key) lo hi none_
    constructor
    · intro free
      rw [free, if_neg Bool.false_ne_true] at e
      exact ⟨_, e, look?_put _ _ _, rfl⟩
    · intro used
      rw [used, if_pos rfl] at e
      exact ⟨_, e, rfl, rfl⟩
  case trip =>
    show execThermalTrip n temp s = execPackageReset true s.strap s.unfit s
    rw [execThermalTrip, if_neg (by unfold islands; omega), if_pos hot, execPackageReset]
  case managed =>
    show execRegisterWrite r v (.port p) s = _
    rw [execRegisterWrite, if_pos h]

end Sys2Proof.Machine
end

section
/-! PROOF. What reset leaves (spec/00_scope.md R4, R6). -/

set_option autoImplicit false
set_option Elab.async false

namespace Sys2Proof.Machine

open Sys2Proof.Claims

/-! ## Reset -/

/-- Every core is as its own reset leaves it. -/
theorem coreAt_reset (c : CoreId) : State.reset.coreAt c = Core.reset c := by
  unfold State.coreAt
  split
  · rename_i h
    rw [h]
    rfl
  · rfl

theorem slots_reset (c : CoreId) (n : Fin 4) : (Core.reset c).slots[n] = Slot.reset c.kind := Vector.getElem_replicate _

/-- Settles O59: a core, a register or a memory that nothing has written yet is as its reset gives it. -/
theorem resetLeavesWhatTheSpecGives : Obligations.ResetLeavesWhatTheSpecGives := by
  refine ⟨State.memoryForm_reset, rfl, rfl, rfl, fun c n => ?_, fun c => ?_, rfl, fun _ => rfl, rfl, fun _ => rfl, rfl, rfl⟩
  · rw [coreAt_reset, slots_reset]
    cases c.kind with
    | compute => exact ⟨rfl, rfl, rfl, rfl, rfl, rfl⟩
    | quay => exact ⟨rfl, rfl, rfl, rfl, rfl, rfl⟩
    | harbour => exact ⟨rfl, rfl, rfl, rfl, rfl, rfl⟩
    | lighthouse => exact ⟨rfl, rfl, rfl, rfl, rfl, rfl⟩
  · rw [coreAt_reset]
    exact ⟨rfl, rfl, rfl, rfl, rfl⟩

end Sys2Proof.Machine
end

section
/-! PROOF. Moves, and bundles that change only their slot (spec/01_transport_core.md R14, R17, R23, R24; spec/03_encoding.md R83). -/

set_option autoImplicit false
set_option Elab.async false

namespace Sys2Proof.Machine

open Sys2Proof.Claims

variable {h : Hdr} {d : Dst} {s : State}

/-! ## Bundles that change only their slot -/

/-- A slot whose bundle of `n` words is open (R122). -/
def Slot.opened (t : Slot) (n : Nat) : Slot :=
  { t with npc := t.pc + w64 (4 * n), next := t.pc + w64 (4 * n), flow := .seq, after := none, csrw := none, seedw := none }

/-- A slot whose bundle has retired (R41). -/
def Slot.retired (t : Slot) : Slot := { t with csr := { t.csr with iret := t.csr.iret + 1 }, stall := 0 }

theorem openBundle_eq (s : State) (n : Nat) : s.openBundle n = s.setSl (s.sl.opened n) := rfl

/-- A bundle that has written the slot alone retires it and counts. -/
theorem closeBundle_setSl {t : Slot} (h0 : t.seedw = none) (h1 : t.csrw = none) (h2 : t.after = none) (h3 : t.flow ≠ .ended) :
    (s.setSl t).closeBundle.sl = t.retired ∧ OnlySlot s (s.setSl t).closeBundle := by
  have e : (s.setSl t).closeBundle = (s.setSl t.retired).count 1 := by
    rw [closeBundle_plain (by simpa using h0) (by simpa using h1) (by simpa using h2) (by simpa using h3), State.setSl_onSl]
    rfl
  obtain ⟨p, hp, hb⟩ := (s.setSl t.retired).count_perf 1
  rw [e]
  refine ⟨by simp, ?_⟩
  rw [hp]
  exact onlySlot_mk s _ p hb

/-- Only the slot and counts have changed in a bundle that stalls. -/
theorem stallBundle_slot : s.stallBundle.sl = { s.sl with run := .stalled, stall := s.sl.stall + 1 } ∧ OnlySlot s s.stallBundle := by
  obtain ⟨p, hp, hb⟩ := (s.onSl fun t => { t with run := .stalled, stall := t.stall + 1 }).count_perf 2
  rw [State.stallBundle]
  refine ⟨by simp, ?_⟩
  rw [hp]
  exact onlySlot_mk s _ p hb

/-! ## What a move writes -/

theorem movable_rename (rpc : Word) : movable (renameDst rpc d) = movable d := by cases d <;> rfl

theorem dstUnit_rename (rpc : Word) : dstUnit (renameDst rpc d) = dstUnit d := by cases d <;> rfl

theorem srcUnit_rename (rpc : Word) (x : Src) : srcUnit (renameSrc rpc x) = srcUnit x := by cases x <;> rfl

/-- A port that a move may write is an operand port. -/
theorem port_of_canWrite {u : FU} {p : Port} (m : u.canWrite p = true) : p = .a ∨ p = .b ∨ p = .c := by
  cases p with
  | a => exact .inl rfl
  | b => exact .inr (.inl rfl)
  | c => exact .inr (.inr rfl)
  | t | q | q2 => simp [FU.canWrite] at m

/-- The model writes a destination as R14, R23 and R24 say. -/
theorem writeDst_eq_placed (t : Slot) (v : VWord) (m : movable d = true) : t.writeDst d v = placed t d v := by
  cases d with
  | x n => simp only [Slot.writeDst, Slot.writeX, placed, narrow, Fin.ext_iff]; rfl
  | v n => rfl
  | o n => rfl
  | g n =>
    have hn : n ≠ 0 := fun e => by simp [movable, e] at m
    have e : (narrow v != 0) = decide (v.setWidth 64 ≠ 0) := Bool.eq_iff_iff.2 (by simp [narrow])
    rw [Slot.writeDst, Slot.writeG, if_neg hn, e, placed]
  | port u p => rcases port_of_canWrite m with rfl | rfl | rfl <;> cases u <;> rfl

/-- A move writes registers, guards and latches, and none of what a bundle notes of its course. -/
theorem placed_opened (t : Slot) (v : VWord) (n : Nat) : placed (t.opened n) d v = (placed t d v).opened n := by
  cases d with
  | x i =>
    by_cases hi : i.val = 0
    · simp only [placed, if_pos hi]
    · simp only [placed, if_neg hi]
      rfl
  | v i => rfl
  | o i => rfl
  | g i => rfl
  | port u p => cases u <;> cases p <;> rfl

theorem fields_placed (t : Slot) (v : VWord) : (placed t d v).pc = t.pc ∧ (placed t d v).csr = t.csr := by
  cases d with
  | x i => by_cases hi : i.val = 0 <;> simp [placed, hi]
  | v i => exact ⟨rfl, rfl⟩
  | o i => exact ⟨rfl, rfl⟩
  | g i => exact ⟨rfl, rfl⟩
  | port u p => cases u <;> cases p <;> exact ⟨rfl, rfl⟩

/-- The slot of a retired bundle that lies at `a`. -/
theorem retired_opened {t : Slot} {a : Word} (n : Nat) (e : t.pc = a) : (t.opened n).retired =
    { t with csr := { t.csr with iret := t.csr.iret + 1 }, npc := a + w64 (4 * n), next := a + w64 (4 * n), flow := .seq, after := none,
             csrw := none, seedw := none, stall := 0 } := by
  subst e
  rfl

/-! ## A move as a bundle -/

theorem Reads.noFault {du : Option FU} (r : Reads h s) (c : carried s.coreId.kind du = true) (w : HWord) :
    s.soloFault (renameSrc s.sl.csr.rpc h.src) du w = none := by
  have h1 := r.source
  have h2 := r.valid
  simp only [State.srcOf] at h1 h2
  simp [State.soloFault, h1, h2, c]

theorem exec_move (b : s.bus = none) : exec (.move h d) s = .next (soloMove h d s) := by
  show execMoveTo h d s = _
  rw [execMoveTo, b]

/-- Settles O7: a move's bundle writes its destination where its guard takes it, and retires. -/
theorem moveResults : Obligations.MoveResults := by
  intro h d s r m c
  have nf := r.noFault (dstUnit_rename s.sl.csr.rpc ▸ c)
  have ready : s.srcStall (renameSrc s.sl.csr.rpc h.src) = false := r.ready
  constructor
  · intro taken free
    let k := placed s.sl (renameDst s.sl.csr.rpc d) (s.moved h)
    have e : soloMove h d s = (s.setSl (k.opened (moveWords h.src))).closeBundle := by
      have w := writeDst_eq_placed (s.sl.opened (moveWords h.src)) (s.moved h) ((movable_rename s.sl.csr.rpc).trans m)
      rw [placed_opened] at w
      simp only [soloMove, renameHdr_src, nf, ready, takes_rename, taken, free, Bool.and_false, Bool.or_false, Bool.false_eq_true, if_false, if_true,
        moveWords_rename, openBundle_eq, State.setSl_onSl]
      exact congrArg (fun t => (s.setSl t).closeBundle) w
    obtain ⟨hs, hf⟩ := closeBundle_setSl (s := s) (t := k.opened (moveWords h.src)) rfl rfl rfl nofun
    exact ⟨_, exec_move r.alone, by rw [e, hs, retired_opened _ (fields_placed _ _).1]; rfl, e ▸ hf⟩
  · intro taken
    have e : soloMove h d s = (s.setSl (s.sl.opened (moveWords h.src))).closeBundle := by
      simp only [soloMove, renameHdr_src, nf, ready, takes_rename, taken, Bool.false_and, Bool.or_false, Bool.false_eq_true, if_false,
        moveWords_rename, openBundle_eq]
    obtain ⟨hs, hf⟩ := closeBundle_setSl (s := s) (t := s.sl.opened (moveWords h.src)) rfl rfl rfl nofun
    exact ⟨_, exec_move r.alone, by rw [e, hs, retired_opened _ rfl]; rfl, e ▸ hf⟩

/-! ## Several moves in one bundle (R17) -/

/-- Where a move's guard took it, the slot in which its value has been written; the guard and the value are those that stood before the bundle. -/
def State.placing (s : State) (k : Slot) (m : Hdr × Dst) : Slot :=
  if s.sl.takes m.1 then placed k (renameDst s.sl.csr.rpc m.2) (s.moved m.1) else k

/-- A move whose destination waits for nothing, where its guard takes it. -/
def State.Placeable (s : State) (m : Hdr × Dst) : Prop :=
  movable m.2 = true ∧ s.srcStall (s.srcOf m.1) = false ∧ (s.sl.takes m.1 = true → s.dstStall (renameDst s.sl.csr.rpc m.2) = false)

/-- The bus from which moves take their guards and values, as they stood in `s`. -/
def State.busOf (s : State) (mv : List (Hdr × Dst)) : Bus := ⟨mv.map fun m => (s.sl.takes m.1, s.moved m.1), none, false⟩

/-- Within a bundle of `n` words: the moves so far have made the slot `k` of the one before the bundle, and those of `mv` are to come. -/
def State.amid (s : State) (n : Nat) (k : Slot) (mv : List (Hdr × Dst)) : State := { s.setSl (k.opened n) with bus := some (s.busOf mv) }

/-- A move changes no operation in flight. -/
theorem fly_placed (t : Slot) (v : VWord) (w : FU) : ((placed t d v).lat w).fly = (t.lat w).fly := by
  have onLat (u : FU) (f : Lat → Lat) (hf : ∀ l, (f l).fly = l.fly) : ((t.onLat u f).lat w).fly = (t.lat w).fly := by
    by_cases e : w = u
    · rw [e, Slot.lat_onLat, hf]
    · rw [Slot.lat_onLat_ne _ _ _ _ e]
  cases d with
  | x n =>
    rw [placed]
    split <;> rfl
  | v n | o n | g n => rfl
  | port u p =>
    cases u with
    | vp => cases p <;> rfl
    | _ =>
      cases p with
      | a | b | c => exact onLat _ _ fun _ => rfl
      | t | q | q2 => rfl

/-- What the moves of a bundle leave as it was while they run. -/
structure Beside (t k : Slot) : Prop where
  pc : k.pc = t.pc
  csr : k.csr = t.csr
  fly : ∀ w, (k.lat w).fly = (t.lat w).fly

theorem Beside.placing {k : Slot} {m : Hdr × Dst} (b : Beside s.sl k) : Beside s.sl (s.placing k m) := by
  unfold State.placing
  split
  · have f := fields_placed (d := renameDst s.sl.csr.rpc m.2) k (s.moved m.1)
    exact ⟨f.1.trans b.pc, f.2.trans b.csr, fun w => (fly_placed _ _ w).trans (b.fly w)⟩
  · exact b

@[simp] theorem sl_amid (s : State) (n : Nat) (k : Slot) (mv : List (Hdr × Dst)) : (s.amid n k mv).sl = k.opened n := State.sl_setSl s _

theorem onSl_amid {n : Nat} {k k' : Slot} {mv : List (Hdr × Dst)} {f : Slot → Slot} (e : f (k.opened n) = k'.opened n) :
    (s.amid n k mv).onSl f = s.amid n k' mv := by
  rw [State.onSl, sl_amid, e]
  simp only [State.amid, State.setSl, Vector.set_set]

theorem dstStall_amid {n : Nat} {k : Slot} {mv : List (Hdr × Dst)} (b : Beside s.sl k) : (s.amid n k mv).dstStall d = s.dstStall d := by
  cases d with
  | port u p =>
    show ((s.amid n k mv).sl.lat u).fly.isSome = (s.sl.lat u).fly.isSome
    rw [sl_amid, ← b.fly u]
    rfl
  | x | v | o | g => rfl

/-- A move on the bus writes the value that its source had before the bundle. -/
theorem exec_move_amid {n : Nat} {k : Slot} {m : Hdr × Dst} {mv : List (Hdr × Dst)} (b : Beside s.sl k) (p : s.Placeable m) :
    exec (.move m.1 m.2) (s.amid n k (m :: mv)) = .next (s.amid n (s.placing k m) mv) := by
  obtain ⟨mo, -, free⟩ := p
  have rpc : (s.amid n k (m :: mv)).sl.csr.rpc = s.sl.csr.rpc := by
    rw [sl_amid, ← b.csr]
    rfl
  have run : exec (.move m.1 m.2) (s.amid n k (m :: mv)) =
      let d := renameDst (s.amid n k (m :: mv)).sl.csr.rpc m.2
      if s.sl.takes m.1 && (s.amid n k (m :: mv)).dstStall d then
        .next { s.amid n k (m :: mv) with bus := some { s.busOf mv with stalled := true } }
      else .next (if s.sl.takes m.1 then (s.amid n k mv).onSl fun t => t.writeDst d (s.moved m.1) else s.amid n k mv) := rfl
  rw [run, rpc]
  simp only [dstStall_amid b, State.placing]
  by_cases tk : s.sl.takes m.1
  · have w : (k.opened n).writeDst (renameDst s.sl.csr.rpc m.2) (s.moved m.1) = (placed k (renameDst s.sl.csr.rpc m.2) (s.moved m.1)).opened n := by
      rw [writeDst_eq_placed _ _ ((movable_rename s.sl.csr.rpc).trans mo), placed_opened]
    rw [if_neg (by simp [tk, free]), if_pos tk, if_pos tk, onSl_amid w]
  · rw [if_neg (by simp [tk]), if_neg tk, if_neg tk]

theorem runMoves_amid {n : Nat} (mv : List (Hdr × Dst)) : ∀ k : Slot, Beside s.sl k → (∀ m ∈ mv, s.Placeable m) →
    runMoves (mv.map fun m => .move m.1 m.2) (s.amid n k mv) = .next (s.amid n (mv.foldl s.placing k) []) := by
  induction mv with
  | nil => exact fun k b p => rfl
  | cons m mv ih =>
    intro k b p
    rw [List.map_cons, runMoves, exec_move_amid b (p m List.mem_cons_self)]
    exact ih (s.placing k m) b.placing fun x hx => p x (List.mem_cons_of_mem _ hx)

theorem Beside.foldl (mv : List (Hdr × Dst)) : ∀ {k : Slot}, Beside s.sl k → Beside s.sl (mv.foldl s.placing k) := by
  induction mv with
  | nil => exact fun b => b
  | cons m mv ih => exact fun b => ih b.placing

/-- Moves act in the order of their words. -/
theorem actingOrder_moves (mv : List (Hdr × Dst)) :
    actingOrder (mv.map fun m => .move m.1 m.2) = mv.map fun m => .move m.1 m.2 := by
  have h1 : ∀ i ∈ mv.map (fun m => Instr.move m.1 m.2), triggerOf i = none := by
    intro i hi
    obtain ⟨m, -, rfl⟩ := List.mem_map.1 hi
    rfl
  rw [actingOrder, List.filter_eq_self.2 fun i hi => by rw [h1 i hi]; rfl, List.filter_eq_nil_iff.2 fun i hi => by rw [h1 i hi]; decide,
    List.append_nil]

/-- Settles O11: the moves run in turn, each with the guard and the value that the bus took from the state before the bundle. -/
theorem bundleReadsBeforeItWrites : Obligations.BundleReadsBeforeItWrites := by
  intro s ms mv n two b dec fault ok
  let k := mv.foldl s.placing s.sl
  have beside : Beside s.sl k := Beside.foldl mv ⟨rfl, rfl, fun _ => rfl⟩
  have many : s.issueMoves ms n = s.issueMany ms n := by
    match ms, two with
    | _ :: _ :: _, _ => rfl
  have start : ({ s.openBundle n with bus := some ⟨(mv.map fun m => Instr.move m.1 m.2).map s.moveValue, none, false⟩ } : State) =
      s.amid n s.sl mv := by
    rw [List.map_map]
    rfl
  have run := runMoves_amid (n := n) mv s.sl ⟨rfl, rfl, fun _ => rfl⟩ ok
  have idle : (mv.map fun m => Instr.move m.1 m.2).any s.moveStall = false := by
    rw [List.any_map, List.any_eq_false]
    exact fun m hm => Bool.eq_false_iff.1 (ok m hm).2.1
  have unlocked : (s.amid n s.sl mv).lockFirst (s.amid n k []) (mv.map fun m => Instr.move m.1 m.2) = none := by
    rw [State.lockFirst, if_pos (by simp [State.amid, State.setSl])]
  have settled : s.settleBus (s.amid n k []) = (s.setSl (k.opened n)).closeBundle := by
    rw [State.amid, State.settleBus, ← b]
    rfl
  have issued : s.issueMoves ms n = .next (s.setSl (k.opened n)).closeBundle := by
    rw [many, State.issueMany, fault, dec]
    simp only [actingOrder_moves, idle, start, run, Bool.false_eq_true, if_false, onNext]
    rw [unlocked, settled]
  obtain ⟨hs, hf⟩ := closeBundle_setSl (s := s) (t := k.opened n) rfl rfl rfl nofun
  exact ⟨_, issued, hf, hs.trans (retired_opened n beside.pc)⟩

end Sys2Proof.Machine
end

section
/-! PROOF. The checks of a move's units, triggers that do not start, and the step that issues one move (spec/01_transport_core.md R17 to R22, R27;
spec/03_encoding.md R80, R81, R92, R93). -/

set_option autoImplicit false
set_option Elab.async false

namespace Sys2Proof.Machine

open Sys2Proof.Claims

variable {h : Hdr} {d : Dst} {s : State} {i : Instr} {u : FU} {opc : Nat}

/-! ## The words of a move (R80, R83, R93) -/

theorem portCode_lt (u : FU) (p : Port) : 0x80 ≤ portCode u p ∧ portCode u p < 0x400 := by
  cases u <;> cases p <;> decide

theorem srcCode_lt (x : Src) : srcCode x < 0x400 := by
  cases x with
  | port u p => exact (portCode_lt u p).2
  | x n | v n | o n | g n | imm8 n => simp only [srcCode]; omega
  | imm32 w => exact (by decide : 0x3FE < 0x400)
  | imm64 w => exact (by decide : 0x3FF < 0x400)

theorem dstCode_lt (d : Dst) : dstCode d < 0x400 := by
  cases d with
  | port u p => exact (portCode_lt u p).2
  | x n | v n | o n | g n => simp only [dstCode]; omega

theorem renameCode_x (rpc : Word) (n : Fin 32) : renameCode rpc n.val = (renameReg rpc n).val := by
  rw [renameCode, if_pos n.isLt, Fin.ofNat_val_eq_self]

theorem renameCode_v (rpc : Word) (n : Fin 32) : renameCode rpc (0x20 + n.val) = 0x20 + (renameReg rpc n).val := by
  rw [renameCode, if_neg (by omega), if_pos (by omega), Nat.add_sub_cancel_left, Fin.ofNat_val_eq_self]

/-- A code that names no x or v register is not renamed. -/
theorem renameCode_other (rpc : Word) {c : Nat} (e : 0x40 ≤ c) : renameCode rpc c = c := by
  rw [renameCode, if_neg (by omega), if_neg (by omega)]

theorem renameCode_src (rpc : Word) (x : Src) : renameCode rpc (srcCode x) = srcCode (renameSrc rpc x) := by
  cases x with
  | x n => exact renameCode_x rpc n
  | v n => exact renameCode_v rpc n
  | port u p => exact renameCode_other rpc (Nat.le_trans (by decide) (portCode_lt u p).1)
  | o n | g n | imm8 n | imm32 n | imm64 n => exact renameCode_other rpc (by simp only [srcCode]; omega)

theorem renameCode_dst (rpc : Word) (d : Dst) : renameCode rpc (dstCode d) = dstCode (renameDst rpc d) := by
  cases d with
  | x n => exact renameCode_x rpc n
  | v n => exact renameCode_v rpc n
  | port u p => exact renameCode_other rpc (Nat.le_trans (by decide) (portCode_lt u p).1)
  | o n | g n => exact renameCode_other rpc (by simp only [dstCode]; omega)

/-- The renamed word of a move is the word of the renamed move. -/
theorem renameWord_moveWord (rpc : Word) (h : Hdr) {dst opc : Nat} (hd : dst < 0x400) (ho : opc < 0x100) :
    renameWord rpc (moveWord h dst opc) = moveWord (renameHdr rpc h) (renameCode rpc dst) opc := by
  have hs := srcCode_lt h.src
  have hl := Bool.toNat_le h.last
  have hi := Bool.toNat_le h.inv
  have hg := h.gi.isLt
  have e : (moveWord h dst opc).toNat = h.last.toNat * 2 ^ 31 + h.inv.toNat * 2 ^ 30 + h.gi.val * 2 ^ 28 + dst * 2 ^ 18 + srcCode h.src * 2 ^ 8 + opc := by
    rw [moveWord, BitVec.toNat_ofNat]
    omega
  have hdst : fieldDst (moveWord h dst opc) = dst := by rw [fieldDst, e]; omega
  have hsrc : fieldSrc (moveWord h dst opc) = srcCode h.src := by rw [fieldSrc, e]; omega
  have hopc : fieldOpc (moveWord h dst opc) = opc := by rw [fieldOpc, e]; omega
  have top : (moveWord h dst opc).toNat / 2 ^ 28 * 2 ^ 28 = h.last.toNat * 2 ^ 31 + h.inv.toNat * 2 ^ 30 + h.gi.val * 2 ^ 28 := by
    rw [e]
    omega
  rw [renameWord, hdst, hsrc, hopc, top, renameCode_src, moveWord, renameHdr]

theorem opc_lt (a : u.assigns opc = true) : opc < 0x100 := by
  cases u <;> simp only [FU.assigns, Bool.or_eq_true, Bool.and_eq_true, decide_eq_true_eq, beq_iff_eq] at a <;> omega

/-! ## Triggers -/

/-- A trigger row runs as a trigger, unless its word names no operation. -/
theorem exec_trigger (e : triggerOf i = some (u, opc, h)) :
    (∃ op, ∀ s, exec i s = execTrigger u opc h op s) ∨ ∃ o, i = .illegalOp h u o ∧ opc = o.toNat := by
  cases i with
  | illegalOp => cases e; exact .inr ⟨_, rfl, rfl⟩
  | _ => cases e; all_goals exact .inl ⟨_, fun _ => rfl⟩

/-- The words of a trigger row. -/
theorem encode_trigger (e : triggerOf i = some (u, opc, h)) : encode i = moveWord h (portCode u .t) opc :: srcWords h.src := by
  cases i with
  | _ => cases e; all_goals rfl

/-! ## The checks of a move's units -/

/-- A decode trap of a one-move bundle shows its renamed word. -/
theorem decodeTval_renamed {dst reason : Nat} (hd : dst < 0x400) (ho : opc < 0x100) :
    decodeTval reason 0 (moveWord (renameHdr s.sl.csr.rpc h) (renameCode s.sl.csr.rpc dst) opc) = decodeInfo s reason (moveWord h dst opc) := by
  rw [decodeInfo, renameWord_moveWord _ _ hd ho, decodeTval, Nat.zero_mul, Nat.add_zero, w64]

/-- A fault of a move's units is taken on the state before its bundle, whatever the move would do. -/
theorem exec_soloFault {du : Option FU} {code : Nat} {tval : Word} (b : s.bus = none) (hd : du = dstUnit d)
    (f : s.soloFault (renameSrc s.sl.csr.rpc h.src) du (moveWord (renameHdr s.sl.csr.rpc h) (dstCode (renameDst s.sl.csr.rpc d)) 0) = some (code, tval)) :
    exec (.move h d) s = .next (enterTrap code tval s.sl.pc s) := by
  rw [exec_move b, soloMove]
  simp only [renameHdr_src, dstUnit_rename, ← hd, f]

theorem exec_triggerFault {code : Nat} {tval : Word} (b : s.bus = none) (e : triggerOf i = some (u, opc, h))
    (f : s.soloFault (renameSrc s.sl.csr.rpc h.src) (some u) (moveWord (renameHdr s.sl.csr.rpc h) (portCode u .t) opc) = some (code, tval)) :
    exec i s = .next (enterTrap code tval s.sl.pc s) := by
  rcases exec_trigger e with ⟨op, ex⟩ | ⟨o, rfl, rfl⟩
  · rw [ex, execTrigger, b]
    simp only [soloTrigger, renameHdr_src, f]
  · show execIllegalOp h u o s = _
    simp only [execIllegalOp, renameHdr_src, f, illegalTrap, b]

/-- The two faults of a move's units (R92). -/
theorem soloFault_cases {du : Option FU} {w : HWord} :
    (¬ (carried s.coreId.kind (srcUnit (s.srcOf h)) = true ∧ carried s.coreId.kind du = true) →
      s.soloFault (renameSrc s.sl.csr.rpc h.src) du w = some (0x01, decodeTval 8 0 w)) ∧
    (carried s.coreId.kind (srcUnit (s.srcOf h)) = true → carried s.coreId.kind du = true → s.validSrc (s.srcOf h) = false →
      s.soloFault (renameSrc s.sl.csr.rpc h.src) du w = some (0x01, decodeTval 13 0 w)) := by
  constructor
  · intro n
    rw [State.soloFault, if_pos (by rw [Bool.not_eq_true', ← Bool.not_eq_true, Bool.and_eq_true]; exact n)]
  · intro c1 c2 v
    simp only [State.srcOf] at c1 v
    simp [State.soloFault, c1, c2, v]

/-- A fault of a move's units, as a row of either kind meets it. -/
theorem unitFault_traps {du : Option FU} {reason : Nat} (b : s.bus = none)
    (row : (∃ d, i = .move h d ∧ du = dstUnit d) ∨ (∃ u opc, triggerOf i = some (u, opc, h) ∧ u.assigns opc = true ∧ du = some u))
    (f : ∀ w, s.soloFault (renameSrc s.sl.csr.rpc h.src) du w = some (0x01, decodeTval reason 0 w)) :
    exec i s = .next (enterTrap 0x01 (decodeInfo s reason (headWord i)) s.sl.pc s) := by
  rcases row with ⟨d, rfl, hd⟩ | ⟨u, opc, e, a, rfl⟩
  · rw [exec_soloFault b hd (f _), ← renameCode_dst, decodeTval_renamed (dstCode_lt d) (by decide)]
    rfl
  · have c : renameCode s.sl.csr.rpc (portCode u .t) = portCode u .t := renameCode_other _ (Nat.le_trans (by decide) (portCode_lt u .t).1)
    rw [exec_triggerFault b e (f _), headWord, encode_trigger e]
    conv_lhs => rw [← c, decodeTval_renamed (portCode_lt u .t).2 (opc_lt a)]
    rfl

/-- Settles O9: a move, and a trigger, makes the checks of its units before anything else. -/
theorem unitChecksTrap : Obligations.UnitChecksTrap := by
  intro i h du s b row
  exact ⟨fun n => unitFault_traps b row fun _ => soloFault_cases.1 n, fun c1 c2 v => unitFault_traps b row fun _ => soloFault_cases.2 c1 c2 v⟩

/-! ## Triggers that do not start (R17, R18, R21, R22) -/

theorem soloFault_none {du : Option FU} (c1 : carried s.coreId.kind (srcUnit (s.srcOf h)) = true) (c2 : carried s.coreId.kind du = true)
    (v : s.validSrc (s.srcOf h) = true) (w : HWord) : s.soloFault (renameSrc s.sl.csr.rpc h.src) du w = none := by
  simp only [State.srcOf] at c1 v
  simp [State.soloFault, c1, c2, v]

/-- A trigger of an operation whose guard does not take it retires its bundle. -/
theorem trigger_untaken {op : State → Res} (r : Reads h s) (c : s.coreId.kind.carries u = true) (tk : s.sl.takes h = false) :
    ∃ t, execTrigger u opc h op s = .next t ∧ t.sl = stepped s h s.sl ∧ OnlySlot s t := by
  have ready : s.srcStall (renameSrc s.sl.csr.rpc h.src) = false := r.ready
  have cu : carried s.coreId.kind (some u) = true := c
  have e : execTrigger u opc h op s = .next (s.setSl (s.sl.opened (moveWords h.src))).closeBundle := by
    rw [execTrigger, r.alone]
    simp only [soloTrigger, renameHdr_src, soloFault_none r.source cu r.valid, ready, takes_rename, tk, Bool.false_and, Bool.or_false,
      Bool.false_eq_true, if_false, moveWords_rename, openBundle_eq]
  obtain ⟨hs, hf⟩ := closeBundle_setSl (s := s) (t := s.sl.opened (moveWords h.src)) rfl rfl rfl nofun
  exact ⟨_, e, hs.trans (retired_opened _ rfl), hf⟩

/-- A trigger of an operation whose source or whose unit is not free stalls its bundle. -/
theorem trigger_stalls {op : State → Res} (b : s.bus = none) (c1 : carried s.coreId.kind (srcUnit (s.srcOf h)) = true)
    (c2 : s.coreId.kind.carries u = true) (v : s.validSrc (s.srcOf h) = true)
    (busy : s.srcStall (s.srcOf h) = true ∨ (s.sl.takes h = true ∧ s.unitStall u opc = true)) :
    execTrigger u opc h op s = .next s.stallBundle := by
  have st : (s.srcStall (renameSrc s.sl.csr.rpc h.src) || (s.sl.takes h && s.unitStall u opc)) = true := by
    rw [Bool.or_eq_true, Bool.and_eq_true]
    exact busy
  have cu : carried s.coreId.kind (some u) = true := c2
  rw [execTrigger, b]
  simp only [soloTrigger, renameHdr_src, soloFault_none c1 cu v, takes_rename, st, if_true]

/-- A move whose source is in flight, or whose destination an operation holds, stalls its bundle. -/
theorem move_stalls (b : s.bus = none) (c1 : carried s.coreId.kind (srcUnit (s.srcOf h)) = true) (c2 : carried s.coreId.kind (dstUnit d) = true)
    (v : s.validSrc (s.srcOf h) = true)
    (busy : s.srcStall (s.srcOf h) = true ∨ (s.sl.takes h = true ∧ s.dstStall (renameDst s.sl.csr.rpc d) = true)) : Stalls (.move h d) s := by
  have st : (s.srcStall (renameSrc s.sl.csr.rpc h.src) || (s.sl.takes h && s.dstStall (renameDst s.sl.csr.rpc d))) = true := by
    rw [Bool.or_eq_true, Bool.and_eq_true]
    exact busy
  refine ⟨s.stallBundle, ?_, stallBundle_slot⟩
  rw [exec_move b, soloMove]
  simp only [renameHdr_src, dstUnit_rename, soloFault_none c1 c2 v, takes_rename, st, if_true]

/-- What stands of O8: it holds of every move, and of every trigger row but `illegalOp`, so of every word whose opcode holds an operation. -/
theorem triggersThatDoNotStart_of_operation :
    (∀ o, i ≠ .illegalOp h u o) → triggerOf i = some (u, opc, h) →
    (Reads h s → s.coreId.kind.carries u = true → s.sl.takes h = false →
      ∃ t, exec i s = .next t ∧ t.sl = stepped s h s.sl ∧ OnlySlot s t) ∧
    (s.bus = none → s.coreId.kind.carries u = true → carried s.coreId.kind (srcUnit (s.srcOf h)) = true → s.validSrc (s.srcOf h) = true →
      s.srcStall (s.srcOf h) = true ∨ (s.sl.takes h = true ∧ s.unitStall u opc = true) → Stalls i s) := by
  intro ne e
  rcases exec_trigger e with ⟨op, ex⟩ | ⟨o, eo, -⟩
  · rw [Stalls, ex]
    exact ⟨trigger_untaken, fun b c2 c1 v busy => ⟨_, trigger_stalls b c1 c2 v busy, stallBundle_slot⟩⟩
  · exact absurd eo (ne o)

/-- The device after reset, a slot of its core in focus issuing. -/
def issuingAtReset : State := State.reset.onSl fun t => { t with run := .issuing }

/-- A header whose guard, clear at reset, does not take its move. -/
def guarded : Hdr := ⟨true, false, 1, .imm8 0⟩

theorem reads_guarded : Reads guarded issuingAtReset := ⟨rfl, by decide +kernel, rfl, rfl, rfl⟩

/-- An `illegalOp` row traps though its guard does not take it, whatever its opcode; no vector being enabled, its context dies. -/
theorem illegalOp_traps : ∃ t, exec (.illegalOp guarded .ia 0x01) issuingAtReset = .next t ∧ t.sl.run = .free := ⟨_, rfl, by decide +kernel⟩

/-- Refutes O8: the row `illegalOp` with an opcode that holds an operation, which no word decodes to, traps where its guard does not take it. -/
theorem not_triggersThatDoNotStart : ¬ Obligations.TriggersThatDoNotStart := by
  rintro ⟨starts, -⟩
  obtain ⟨t, ht, hs, -⟩ := starts (.illegalOp guarded .ia 0x01) .ia 0x01 guarded issuingAtReset rfl rfl reads_guarded rfl (by decide +kernel)
  obtain ⟨k, hk, free⟩ := illegalOp_traps
  obtain rfl : t = k := Host.Outcome.next.inj (ht.symm.trans hk)
  rw [hs] at free
  exact absurd free (by decide +kernel)

/-! ## A step that issues one move (R27, R81) -/

/-- A core that may issue spends its cycle on the issue of its slot's next bundle. -/
theorem cycle_issues {c : State} (e : s.toIssue = c) (halted : c.core.dbg.halted = false) (still : c.still c.core = false) (swap : c.core.swap = 0) :
    s.cycle = onNext c.issue State.finishCycle := by
  simp only [State.cycle, e, halted, still, swap, Bool.or_self, Bool.false_eq_true, if_false, bne_self_eq_false]

/-- A slot that may issue, and whose next bundle is one move, runs the instruction of its words. -/
theorem issue_move {s1 : State} {m : HWord × List HWord} {n : Nat} (step_ : s.core.dbg.step = false) (run : s.sl.run = .ready ∨ s.sl.run = .issuing)
    (bubble : s.sl.bubble = 0) (reissue : s.sl.reissue = []) (bundle : s.nextBundle = (s1, .bundle [m] n)) (breaks : s1.standing.breaks = none) :
    s.issue = onNext (exec (decodeMove m.1 m.2) s1.standing) fun s3 => (s3.keepBody [m] n).bundleDone s.sl.inh := by
  have idle : ((s.sl.run == .free) || (s.sl.run == .blocked)) = false := by rcases run with e | e <;> rw [e] <;> rfl
  simp only [State.issue, idle, bubble, reissue, bundle, step_, breaks, Bool.false_eq_true, if_false, bne_self_eq_false, List.isEmpty_nil,
    Bool.not_true, State.issueMoves]

/-- Settles O12: the core cycle of a step issues the slot's next bundle. -/
theorem stepRunsTheDecodedMove : Obligations.StepRunsTheDecodedMove := by
  intro s s1 m n inbox c halted step_ still swap run bubble reissue bundle breaks
  have cycle : s.cycle = onNext c.issue State.finishCycle := cycle_issues rfl halted still swap
  rw [issue_move step_ run bubble reissue bundle breaks] at cycle
  simp only [step, inbox, cycle]

end Sys2Proof.Machine
end

section
/-! PROOF. Branches, jumps and calls (spec/01_transport_core.md R32, R34; spec/04_scalar_control_ops.md R123). -/

set_option autoImplicit false
set_option Elab.async false

namespace Sys2Proof.Machine

open Sys2Proof.Claims

variable {h : Hdr} {s : State}

theorem trace_untraced (hu : s.untraced) (typ : Nat) (pay : Word) : s.trace typ pay = s := by
  have hu2 : bit (s.reg (.trctl s.coreId)) 0 = false := hu
  simp [State.trace, State.traceAt, hu2]

theorem onSl_congr {f g : Slot → Slot} (e : f s.sl = g s.sl) : s.onSl f = s.onSl g := by rw [State.onSl, State.onSl, e]

/-- What a branch makes of its slot, before its bundle is retired. -/
def Slot.branched (target q : Word) (t : Slot) : Slot :=
  { (t.setResult .cf q 0).branchLoops target with npc := target, flow := .branch, bubble := 2 }

/-- The operation of a branch to an aligned target changes the slot and counts the branch. -/
theorem State.branch_aligned {target q : Word} (ha : target.toNat % 4 = 0) (hi : s.sl.run = .issuing) (hu : s.untraced) :
    s.branch target q = .ok ((s.onSl (Slot.branched target q)).count 12) := by
  have hb : (bits target 1 0 != 0) = false := by simp [bits, ha]
  have hc : (s.complete .cf q 0).onSl (fun t => { t.branchLoops target with npc := target, flow := .branch, bubble := 2 }) =
      s.onSl (Slot.branched target q) := by
    rw [State.complete, State.onSl_onSl]
    exact onSl_congr (by rw [unblock_issuing hi]; rfl)
  have hu2 : ((s.onSl (Slot.branched target q)).count 12).untraced := hu
  rw [State.branch, hb, if_neg Bool.false_ne_true, hc, trace_untraced hu2]

theorem within_eq (b e x : Word) : within b e x = (b.ule x && x.ule e) := Bool.decide_and _ _

/-- The slot of a trigger's retired bundle, from the slot in which its operation begins. -/
theorem ran_eq {u : FU} {f : Lat → Lat} : s.ran u h f = { (s.latched u h).sl.onLat u f with
    csr := { s.sl.csr with iret := s.sl.csr.iret + 1 }, stall := 0 } := by
  rw [sl_latched]
  simp only [State.ran, Slot.onLat, Slot.lat, Vector.set_set, Fin.getElem_fin, Vector.getElem_set_self]

/-- The slot that a branch leaves when its bundle is retired. -/
theorem afterBranch_eq (target q : Word) : afterBranch s h target q =
    let t := Slot.branched target q (s.latched .cf h).sl
    { t with csr := { t.csr with iret := t.csr.iret + 1 }, stall := 0 } := by
  simp only [afterBranch, within_eq, Nat.mul_comm 2, ran_eq]
  rw [sl_latched]
  rfl

/-- A trigger whose operation is a branch to an aligned target. -/
theorem branch_result {opc : Nat} {op : State → Res} {target q : Word} (g : Goes .cf opc h s) (hu : s.untraced) (ha : target.toNat % 4 = 0)
    (ho : op (s.latched .cf h) = (s.latched .cf h).branch target q) :
    ∃ t, execTrigger .cf opc h op s = .next t ∧ t.sl = afterBranch s h target q ∧ OnlySlot s t := by
  rw [State.branch_aligned ha (latched_issuing g) (show (s.latched .cf h).untraced from hu)] at ho
  rw [afterBranch_eq]
  exact exec_slot_count g _ 12 ho (by rw [sl_latched]; rfl) (by rw [sl_latched]; rfl) (by rw [sl_latched]; rfl) nofun

/-- Settles O4: a branch, a jump and a call are each a branch to their target, which leaves the slot so. -/
theorem branchResults : Obligations.BranchResults := by
  intro r hr h s g hu ha
  have hl : ((s.latched .cf h).lat .cf).t = s.moved64 h := by rw [lat_latched]
  simp only [branchTable, List.mem_cons, List.not_mem_nil, or_false] at hr
  rcases hr with rfl | rfl | rfl
  · exact branch_result g hu ha (by rw [cfBr, hl, sl_latched]; rfl)
  · exact branch_result g hu ha (by rw [cfJmp, hl])
  · exact branch_result g hu ha (by rw [cfCall, hl, sl_latched])

end Sys2Proof.Machine
end

section
/-! PROOF. The debug unit (spec/01_transport_core.md R41; spec/08_system_ops.md R237). -/

set_option autoImplicit false
set_option Elab.async false

namespace Sys2Proof.Machine

open Sys2Proof.Claims

variable {u : FU} {opc : Nat} {h : Hdr} {s : State}

/-- A trigger that goes out is not one released from its wait, so its checks are made. -/
theorem check_latched (g : Goes u opc h s) (bad : Bool) (code : Nat) (tval : Word) (k : Res) :
    (s.latched u h).check bad code tval k = if bad then .trap code tval else k := by
  rw [State.check, State.resuming, latched_issuing g]
  simp

theorem trigger_latch (s : State) (u : FU) (h : Hdr) : ((s.latched u h).lat u).t = s.moved64 h := by rw [lat_latched]

/-- Counting an event leaves what the counters count, and the count of one that counts another event. -/
theorem perf_count (s : State) (e : Nat) (n : Fin 8) :
    (s.count e).core.perf[n].event = s.core.perf[n].event ∧ (s.count e).core.perf[n].all = s.core.perf[n].all ∧
      (s.count e).core.perf[n].slot = s.core.perf[n].slot ∧
      (s.core.perf[n].event ≠ e → (s.count e).core.perf[n].count = s.core.perf[n].count) := by
  by_cases hh : s.core.dbg.halted
  · simp [State.count, State.onCore, Core.count, hh]
  · simp only [State.count, State.onCore, Core.count, if_neg hh, Fin.getElem_fin, Vector.getElem_map]
    split
    · rename_i hc
      rw [Bool.and_eq_true, beq_iff_eq] at hc
      exact ⟨rfl, rfl, rfl, fun ne => absurd hc.1 ne⟩
    · exact ⟨rfl, rfl, rfl, fun _ => rfl⟩

theorem sameMemory_count (s : State) (e : Nat) : SameMemory s (s.count e) := by
  obtain ⟨p, hp, -⟩ := s.count_perf e
  rw [hp]
  exact sameMemory_of rfl rfl rfl rfl rfl rfl rfl

/-- The control word of `psel` is one that the unit takes (R237). -/
def pselBad (t : Word) : Bool := bits t 63 19 != 0 || bits t 15 13 != 0 || bits t 7 3 != 0 || decide (15 < bits t 12 8)

theorem pselBad_iff (t : Word) : pselBad t = true ↔
    t.toNat / 2 ^ 13 % 8 ≠ 0 ∨ t.toNat / 2 ^ 3 % 32 ≠ 0 ∨ 2 ^ 19 ≤ t.toNat ∨ 15 < t.toNat / 2 ^ 8 % 32 := by
  have lt := t.isLt
  rw [pselBad, Bool.or_eq_true, Bool.or_eq_true, Bool.or_eq_true, bne_iff_ne, bne_iff_ne, bne_iff_ne, decide_eq_true_iff]
  simp only [bits]
  omega

/-- The counter that a control word of `psel` asks for. -/
def pselPerf (t : Word) : Perf := ⟨bits t 12 8, bit t 16, bits t 18 17, 0⟩

/-! ### The operations, from the word in the trigger latch -/

theorem dbPerf_eq {t : Word} {n : Fin 8} (e : (s.lat .db).t = t) (en : Fin.ofNat 8 (bits t 2 0) = n) : dbPerf s =
    s.check (bits t 63 3 != 0) trapIllegalOp t (.ok (s.complete .db s.core.perf[n].count 0)) := by
  subst e en
  rfl

theorem dbPsel_eq {t : Word} {n : Fin 8} (e : (s.lat .db).t = t) (en : Fin.ofNat 8 (bits t 2 0) = n) : dbPsel s =
    s.check (pselBad t) trapIllegalOp t (.ok ((s.complete .db 0 0).onCore fun c => { c with perf := c.perf.set n (pselPerf t) })) := by
  subst e en
  rfl

theorem dbMark_eq {t : Word} (e : (s.lat .db).t = t) : dbMark s =
    s.check (bits t 63 32 != 0) trapIllegalOp t (.ok ((s.complete .db 0 0).trace 6 (w64 (bits t 31 0)))) := by
  subst e
  rfl

/-- The number of a counter, from a word whose low bits name it. -/
theorem counter_number {t : Word} {n : Fin 8} (e : t.toNat % 8 = n.val) : Fin.ofNat 8 (bits t 2 0) = n := by
  apply Fin.ext
  simp only [Fin.val_ofNat, bits]
  omega

/-- `psel` sets its counter, and its bundle then counts itself. -/
theorem psel_sets (g : Goes .db 0x03 h s) (n : Fin 8) (hn : (s.moved64 h).toNat % 256 = n.val) (ok : pselBad (s.moved64 h) = false) :
    ∃ t, exec (.dbPsel h) s = .next t ∧ t.sl = s.ran .db h (answered 0 0) ∧ SameMemory s t ∧
      t.core.perf[n].event = (pselPerf (s.moved64 h)).event ∧ t.core.perf[n].all = (pselPerf (s.moved64 h)).all ∧
      t.core.perf[n].slot = (pselPerf (s.moved64 h)).slot ∧ ((pselPerf (s.moved64 h)).event ≠ 1 → t.core.perf[n].count = 0) := by
  let k : State := (((s.latched .db h).onSl fun t => t.onLat .db (answered 0 0)).onCore fun c =>
    { c with perf := c.perf.set n (pselPerf (s.moved64 h)) })
  have low : Fin.ofNat 8 (bits (s.moved64 h) 2 0) = n := counter_number (by omega)
  have op : dbPsel (s.latched .db h) = .ok k := by
    rw [dbPsel_eq (trigger_latch s .db h) low, check_latched g, ok, if_neg Bool.false_ne_true, State.complete, State.onSl,
      unblock_issuing (latched_issuing g)]
    rfl
  have ksl : k.sl = (s.latched .db h).sl.onLat .db (answered 0 0) := State.sl_setSl _ _
  have close : k.closeBundle = (k.onSl fun t => { t with csr := { t.csr with iret := t.csr.iret + 1 }, stall := 0 }).count 1 := by
    have l := sl_latched s .db h
    exact closeBundle_plain (by rw [ksl, l]; rfl) (by rw [ksl, l]; rfl) (by rw [ksl, l]; rfl) (by rw [ksl, l]; nofun)
  have get : k.core.perf[n] = pselPerf (s.moved64 h) := Vector.getElem_set_self _
  have count := perf_count (k.onSl fun t => { t with csr := { t.csr with iret := t.csr.iret + 1 }, stall := 0 }) 1 n
  rw [← close, State.core_perf_onSl, get] at count
  refine ⟨_, execTrigger_ok g op, ?_, ?_, count⟩
  · rw [close, State.sl_count, State.sl_onSl, ksl, ran_eq, sl_latched]
    rfl
  · rw [close]
    refine SameMemory.trans (t := k.onSl _) ?_ (sameMemory_count _ 1)
    exact sameMemory_of rfl rfl rfl rfl rfl rfl rfl

/-- Settles O40: `cyc`, `perf` and `mark` answer from their latches, `psel` sets its counter. -/
theorem debugUnitResults : Obligations.DebugUnitResults := by
  intro h s t
  have htoNat := t.isLt
  have in_range {k : Nat} : t.toNat < 2 ^ k → (bits t 63 k != 0) = false := fun lt => by
    rw [bits, Nat.div_eq_of_lt lt, Nat.zero_mod]
    rfl
  have out_of_range {k : Nat} (hk : k < 64) : 2 ^ k ≤ t.toNat → (bits t 63 k != 0) = true := fun le => by
    rw [bits, bne_iff_ne, Nat.mod_eq_of_lt (Nat.div_lt_of_lt_mul (by rw [← Nat.pow_add]; convert t.isLt using 2; omega))]
    exact (Nat.div_pos le (Nat.two_pow_pos k)).ne'
  refine ⟨fun g => answers_complete g rfl, fun n g hn => answers_complete g ?perf, fun g big => execTrigger_trap g ?perfBad,
    fun n g hn res lt ev => ?psel, fun g bad => execTrigger_trap g ?pselBad, fun g lt un => answers_complete g ?mark,
    fun g big => execTrigger_trap g ?markBad⟩
  case perf =>
    rw [dbPerf_eq (trigger_latch s .db h) (counter_number (t := t) (n := n) (by omega)), check_latched g, in_range (k := 3) (by omega),
      if_neg Bool.false_ne_true]
    rfl
  case perfBad =>
    rw [dbPerf_eq (trigger_latch s .db h) rfl, check_latched g, out_of_range (k := 3) (by decide) big, if_pos rfl]
    rfl
  case psel =>
    have ok : pselBad t = false := Bool.eq_false_iff.2 fun b => by
      have := (pselBad_iff t).1 b
      omega
    exact psel_sets g n hn ok
  case pselBad =>
    rw [dbPsel_eq (trigger_latch s .db h) rfl, check_latched g, if_pos ((pselBad_iff t).2 bad)]
    rfl
  case mark =>
    rw [dbMark_eq (trigger_latch s .db h), check_latched g, in_range lt, if_neg Bool.false_ne_true, trace_untraced (s := (s.latched .db h).complete .db 0 0) un]
  case markBad =>
    rw [dbMark_eq (trigger_latch s .db h), check_latched g, out_of_range (by decide) big, if_pos rfl]
    rfl

end Sys2Proof.Machine
end

section
/-! PROOF. The CSR instructions (spec/01_transport_core.md R38, R41, R45; spec/06_vector_ops.md R165; spec/08_system_ops.md R232). -/

set_option autoImplicit false
set_option Elab.async false

namespace Sys2Proof.Machine

open Sys2Proof.Claims

variable {h : Hdr} {s : State}

/-! ## The numbers and the refusals -/

theorem csrKnown_iff {k : CoreKind} {n : Nat} : csrKnown k n = true ↔ n ∈ csrNumbers k := by
  by_cases hk : k = .compute
  · simp [csrKnown, csrNumbers, hk]
    omega
  · simp [csrKnown, csrNumbers, hk]
    omega

theorem csrUser_iff {n : Nat} : csrUser n = true ↔ n ∈ userCsrs := by simp [csrUser, userCsrs, or_assoc]

theorem csrRefused_iff {n : Nat} {w : Word} : csrRefused n w = true ↔ csrRejects n w := by
  simp only [csrRefused, rpcRefused, csrRejects, Bool.or_eq_true, Bool.and_eq_true, decide_eq_true_iff, beq_iff_eq, bne_iff_ne]
  simp only [bits, Nat.reduceAdd, Nat.reduceSub, Nat.pow_zero, Nat.div_one, Nat.reducePow]
  tauto

/-! ## Reading and writing -/

theorem bundleAddr_eq (w : Word) : bundleAddr w = BitVec.ofNat 64 (w.toNat % 2 ^ 52 / 4 * 4) := by
  simp only [bundleAddr, bits, w64]
  congr 1
  omega

theorem vecWrite_eq (w : Word) : vecWrite w = BitVec.ofNat 64 (w.toNat % 2 ^ 52 / 4 * 4 + w.toNat % 2) := by
  simp only [vecWrite, bundleAddr_eq, setBits, bits, BitVec.toNat_ofNat]
  congr 1
  omega

theorem weightWrite_eq (old w : Word) : weightWrite old w =
    BitVec.ofNat 64 (old.toNat / 16 * 16 + min (if w.toNat % 16 = 0 then 1 else w.toNat % 16) (old.toNat / 2 ^ 8 % 16)) := by
  simp only [weightWrite, setBits, bits]
  congr 1
  split <;> omega

/-- Two words whose bits agree are equal. -/
theorem word_ext {v w : Word} (e : ∀ i < 64, v.toNat.testBit i = w.toNat.testBit i) : v = w := by
  apply BitVec.eq_of_getLsbD_eq
  intro i hi
  exact e i hi

theorem rpcWrite_eq (w : Word) : rpcWrite w = w &&& 0xFFFEFF0FFF000FFF := by
  have fields : rpcWrite w = setBits (setBits (setBits w 48 48 0) 39 36 0) 23 12 0 := by
    have := w.isLt
    simp only [rpcWrite, setBits, bits, w64, BitVec.toNat_ofNat]
    congr 1
    omega
  have mask : ∀ i : Fin 64, (0xFFFEFF0FFF000FFF : Word).toNat.testBit i =
      !(decide (12 ≤ i.val ∧ i.val ≤ 23) || decide (36 ≤ i.val ∧ i.val ≤ 39) || decide (48 ≤ i.val ∧ i.val ≤ 48)) := by decide
  rw [fields]
  refine word_ext fun i hi => ?_
  rw [testBit_setBits (by decide) (by decide), testBit_setBits (by decide) (by decide), testBit_setBits (by decide) (by decide),
    BitVec.toNat_and, Nat.testBit_and, mask ⟨i, hi⟩]
  simp only [Nat.zero_testBit]
  by_cases low : 12 ≤ i ∧ i ≤ 23 <;> by_cases mid : 36 ≤ i ∧ i ≤ 39 <;> by_cases act : 48 ≤ i ∧ i ≤ 48 <;> simp [low, mid, act]

theorem estatWrite_eq (old w : Word) : setBits old 11 11 (bits w 11 11) = (old &&& ~~~ 0x800) ||| (w &&& 0x800) := by
  have mask : ∀ i : Fin 64, (0x800 : Word).toNat.testBit i = decide (11 ≤ i.val ∧ i.val ≤ 11) := by decide
  have rest : ∀ i : Fin 64, (~~~ 0x800 : Word).toNat.testBit i = !decide (11 ≤ i.val ∧ i.val ≤ 11) := by decide
  refine word_ext fun i hi => ?_
  rw [testBit_setBits (by decide) (by decide), BitVec.toNat_or, BitVec.toNat_and, BitVec.toNat_and, Nat.testBit_or, Nat.testBit_and,
    Nat.testBit_and, mask ⟨i, hi⟩, rest ⟨i, hi⟩, testBit_bits]
  by_cases e : 11 ≤ i ∧ i ≤ 11
  · obtain rfl : i = 11 := by omega
    simp
  · simp [e]

theorem State.coordOfSlot_onSl (s : State) (f : Slot → Slot) : (s.onSl f).core.coordOfSlot (s.onSl f).core.cur = s.core.coordOfSlot s.core.cur := rfl

theorem csr_writeCsr_same (s : State) (n : Nat) (w : Word) : (s.writeCsr n w).csr n = csrWritten n (s.csr n) w := by
  unfold State.writeCsr
  split
  · exact weightWrite_eq _ w
  · exact weightWrite_eq _ w
  · have estat := estatWrite_eq s.sl.csr.estat w
    have zero : w.toNat = 0 ↔ w = 0 := ⟨fun e => BitVec.eq_of_toNat_eq e, fun e => e ▸ rfl⟩
    simp only [bits] at estat
    simp only [State.csr, State.sl_onSl, State.coordOfSlot_onSl]
    split <;> simp_all [Csrs.write, csrWritten, bundleAddr_eq, vecWrite_eq, rpcWrite_eq, bits, w64]

theorem csr_writeCsr_other (s : State) {n m : Nat} (hm : m ≠ n) (w : Word) : (s.writeCsr n w).csr m = s.csr m := by
  unfold State.writeCsr
  split
  · unfold State.csr
    split
    case h_10 => exact absurd rfl hm
    all_goals rfl
  · unfold State.csr
    split
    case h_11 => exact absurd rfl hm
    all_goals rfl
  · simp only [State.csr, State.sl_onSl, Csrs.write]
    split <;> try rfl
    all_goals split <;> first | rfl | exact absurd rfl hm

/-! ## The bundle of a CSR write -/

theorem csr_count (s : State) (e n : Nat) : (s.count e).csr n = s.csr n := by
  obtain ⟨p, hp, -⟩ := s.count_perf e
  rw [hp]
  rfl

theorem csr_onSl {f : Slot → Slot} (e : (f s.sl).csr = s.sl.csr) (n : Nat) : (s.onSl f).csr n = s.csr n := by
  simp only [State.csr, State.sl_onSl, e]
  rfl

/-- A slot that differs in the retired count alone among its CSRs. -/
theorem csr_retired {t : Slot} (e : t.csr = { s.sl.csr with iret := s.sl.csr.iret + 1 }) (n : Nat) :
    (s.setSl t).csr n = if n = 7 then s.csr 7 + 1 else s.csr n := by
  have sl : (s.setSl t).sl.csr = { s.sl.csr with iret := s.sl.csr.iret + 1 } := by rw [State.sl_setSl, e]
  by_cases h7 : n = 7
  · subst h7
    exact congrArg Csrs.iret sl
  · rw [if_neg h7]
    simp only [State.csr, sl]
    split
    case h_8 => exact absurd rfl h7
    all_goals rfl

/-- What a write of a CSR leaves: the slot but for its CSRs, and every memory. -/
theorem writeCsr_slot (s : State) (n : Nat) (w : Word) : ∃ c, (s.writeCsr n w).sl = { s.sl with csr := c } ∧ SameMemory s (s.writeCsr n w) := by
  unfold State.writeCsr
  split
  · exact ⟨_, rfl, sameMemory_of rfl rfl rfl rfl rfl rfl rfl⟩
  · exact ⟨_, rfl, sameMemory_of rfl rfl rfl rfl rfl rfl rfl⟩
  · exact ⟨_, State.sl_onSl _ _, sameMemory_of rfl rfl rfl rfl rfl rfl rfl⟩

theorem applyCsr_csrw {n : Nat} {w : Word} (h0 : s.sl.seedw = none) (h1 : s.sl.csrw = some (n, w)) :
    s.applyCsr = (s.writeCsr n w).onSl fun t => { t with csrw := none } := by
  simp [State.applyCsr, State.applySeed, h0, h1]

/-- A bundle that notes a CSR write performs it at its end (R232). -/
theorem closeBundle_csrw {t : Slot} {n : Nat} {w : Word} (h0 : t.seedw = none) (h1 : t.csrw = some (n, w)) (h2 : t.after = none)
    (h3 : t.flow ≠ .ended) :
    (s.setSl t).closeBundle = (((s.setSl t.retired).count 1).writeCsr n w).onSl fun t => { t with csrw := none } := by
  have e : ((s.setSl t).onSl fun t => { t with csr := { t.csr with iret := t.csr.iret + 1 }, stall := 0 }) = s.setSl t.retired :=
    State.setSl_onSl ..
  have slot : ((s.setSl t.retired).count 1).sl = t.retired := by rw [State.sl_count, State.sl_setSl]
  obtain ⟨c, hc, -⟩ := writeCsr_slot ((s.setSl t.retired).count 1) n w
  have after : (((s.setSl t.retired).count 1).writeCsr n w).sl.after = none := by rw [hc, slot]; exact h2
  have flow : (((s.setSl t.retired).count 1).writeCsr n w).sl.flow ≠ .ended := by rw [hc, slot]; exact h3
  rw [State.closeBundle, e, applyCsr_csrw (by rw [slot]; exact h0) (by rw [slot]; exact h1)]
  simp only [State.sl_onSl, after, beq_iff_eq, if_neg flow]

theorem latched_setSl (s : State) (u : FU) (h : Hdr) : s.latched u h = s.setSl (s.latched u h).sl := by
  rw [State.latched, openBundle_eq, State.setSl_onSl, State.sl_setSl]

/-- A change of the slot once the moved value lies in the trigger latch is a change of the slot of the state before. -/
theorem onSl_latched (s : State) (u : FU) (h : Hdr) (f : Slot → Slot) : (s.latched u h).onSl f = s.setSl (f (s.latched u h).sl) := by
  calc (s.latched u h).onSl f = (s.setSl (s.latched u h).sl).onSl f := congrArg (State.onSl · f) (latched_setSl s u h)
    _ = s.setSl (f (s.latched u h).sl) := State.setSl_onSl ..

/-- The CSR instruction that answers `old` and notes a write of `w` to CSR `n`. -/
theorem csr_bundle {n : Nat} {old w : Word} {op : State → Res} {opc : Nat} (g : Goes .sy opc h s)
    (ho : op (s.latched .sy h) = .ok (((s.latched .sy h).complete .sy old 0).onSl fun t => { t with csrw := some (n, w) })) :
    ∃ u, execTrigger .sy opc h op s = .next u ∧ u.lat .sy = answered old 0 { s.lat .sy with t := s.moved64 h } ∧ u.sl.npc = s.nextPc h ∧
      (∀ m, u.csr m = if m = 7 then s.csr 7 + 1 else if m = n then csrWritten n (s.csr n) w else s.csr m) ∧
      u.sl.x = s.sl.x ∧ u.sl.v = s.sl.v ∧ u.sl.o = s.sl.o ∧ u.sl.g = s.sl.g ∧ SameMemory s u := by
  let k : Slot := { (s.latched .sy h).sl.onLat .sy (answered old 0) with csrw := some (n, w) }
  have noted : (((s.latched .sy h).complete .sy old 0).onSl fun t => { t with csrw := some (n, w) }) = s.setSl k := by
    rw [State.complete, State.onSl_onSl, onSl_latched, unblock_issuing (latched_issuing g)]
    rfl
  have csrs : k.retired.csr = { s.sl.csr with iret := s.sl.csr.iret + 1 } := by
    simp only [k, sl_latched]
    rfl
  rw [noted] at ho
  refine ⟨_, execTrigger_ok g ho, ?_⟩
  rw [closeBundle_csrw (n := n) (w := w) (by simp only [k, sl_latched]; rfl) rfl (by simp only [k, sl_latched]; rfl)
    (by simp only [k, sl_latched]; nofun)]
  let b : State := (s.setSl k.retired).count 1
  obtain ⟨c, hc, mem⟩ := writeCsr_slot b n w
  have slot : ((b.writeCsr n w).onSl fun t => { t with csrw := none }).sl = { k.retired with csr := c, csrw := none } := by
    rw [State.sl_onSl, hc, State.sl_count, State.sl_setSl]
  have shape : k.retired = { s.ran .sy h (answered old 0) with csrw := some (n, w) } := by
    simp only [k, ran_eq, sl_latched]
    rfl
  rw [shape] at slot
  have lat : (s.ran .sy h (answered old 0)).lat .sy = answered old 0 { s.lat .sy with t := s.moved64 h } :=
    Slot.lat_onLat s.sl .sy fun l => answered old 0 { l with t := s.moved64 h }
  refine ⟨?_, ?_, fun m => ?_, ?_, ?_, ?_, ?_, ?_⟩
  · rw [State.lat, slot]
    exact lat
  · rw [slot]
    rfl
  · have read (x : Nat) : b.csr x = if x = 7 then s.csr 7 + 1 else s.csr x := (csr_count _ 1 x).trans (csr_retired csrs x)
    refine (csr_onSl rfl m : _ = (b.writeCsr n w).csr m).trans ?_
    by_cases hm : m = n
    · subst hm
      rw [csr_writeCsr_same, read, if_pos rfl]
      by_cases h7 : m = 7
      · subst h7
        rfl
      · rw [if_neg h7, if_neg h7]
    · rw [csr_writeCsr_other b hm, read, if_neg hm]
  · rw [slot]
    rfl
  · rw [slot]
    rfl
  · rw [slot]
    rfl
  · rw [slot]
    rfl
  · have count : SameMemory s b := SameMemory.trans (t := s.setSl k.retired) (sameMemory_of rfl rfl rfl rfl rfl rfl rfl) (sameMemory_count _ 1)
    exact SameMemory.trans (t := b.writeCsr n w) (SameMemory.trans (t := b) count mem) (sameMemory_of rfl rfl rfl rfl rfl rfl rfl)

/-! ## The CSR instructions -/

/-- The word of a CSR number, and its reading. -/
theorem csr_number {k : CoreKind} {t : Word} (m : t.toNat ∈ csrNumbers k) : bits t 63 12 = 0 ∧ bits t 11 0 = t.toNat := by
  have small : t.toNat < 2 ^ 12 := by
    have known := csrKnown_iff.2 m
    simp only [csrKnown, Bool.or_eq_true, Bool.and_eq_true, decide_eq_true_iff, beq_iff_eq] at known
    omega
  simp only [bits]
  omega

section
variable {o : CsrOp} {t old : Word} {n : Nat} (et : (s.lat .sy).t = t)
include et

theorem syCsr_unknown (m : t.toNat ∉ csrNumbers s.coreId.kind) : syCsr o s = .trap trapIllegalOp t := by
  have bad : (bits t 63 12 != 0 || !csrKnown s.coreId.kind (bits t 11 0)) = true := by
    by_cases high : bits t 63 12 = 0
    · have low : bits t 11 0 = t.toNat := by
        have := t.isLt
        simp only [bits] at high ⊢
        omega
      rw [low, Bool.eq_false_iff.2 (mt csrKnown_iff.1 m), Bool.not_false, Bool.or_true]
    · rw [bne_iff_ne.2 high, Bool.true_or]
  simp only [syCsr, et, bad, if_true]

variable (m : t.toNat ∈ csrNumbers s.coreId.kind) (free : ¬ (t.toNat = 1 ∧ s.core.hasVector s.core.cur = true))
include m free

theorem syCsr_none (e : o.value (s.csr t.toNat) (s.lat .sy).a = none) : syCsr o s = .ok (s.complete .sy (s.csr t.toNat) 0) := by
  obtain ⟨high, low⟩ := csr_number m
  have ready : (t.toNat == 1 && s.core.hasVector s.core.cur) = false := by
    rw [Bool.eq_false_iff, ne_eq, Bool.and_eq_true, beq_iff_eq]
    exact free
  simp only [syCsr, et, high, low, csrKnown_iff.2 m, ready, e, bne_self_eq_false, Bool.not_true, Bool.or_false, Bool.false_eq_true, if_false]

theorem syCsr_some {w : Word} (e : o.value (s.csr t.toNat) (s.lat .sy).a = some w) : syCsr o s =
    if s.sl.priv == 0 && !csrUser t.toNat then .trap trapPriv t
    else if csrRefused t.toNat w then .trap trapIllegalOp w
    else .ok ((s.complete .sy (s.csr t.toNat) 0).onSl fun k => { k with csrw := some (t.toNat, w) }) := by
  obtain ⟨high, low⟩ := csr_number m
  have ready : (t.toNat == 1 && s.core.hasVector s.core.cur) = false := by
    rw [Bool.eq_false_iff, ne_eq, Bool.and_eq_true, beq_iff_eq]
    exact free
  simp only [syCsr, et, high, low, csrKnown_iff.2 m, ready, e, bne_self_eq_false, Bool.not_true, Bool.or_false, Bool.false_eq_true, if_false]
end

/-- What the CSR instructions find once their word lies in the trigger latch is what the state before the bundle held. -/
theorem latched_csr (s : State) (h : Hdr) (n : Nat) : (s.latched .sy h).csr n = s.csr n ∧ ((s.latched .sy h).lat .sy).a = (s.lat .sy).a ∧
    (s.latched .sy h).sl.priv = s.sl.priv := by
  have slot := sl_latched s .sy h
  have csrs : (s.latched .sy h).sl.csr = s.sl.csr := by rw [slot]; rfl
  refine ⟨?_, by rw [lat_latched], by rw [slot]; rfl⟩
  exact (congrArg (State.csr · n) (latched_setSl s .sy h)).trans (csr_onSl (f := fun _ => (s.latched .sy h).sl) csrs n)

/-- The row of a CSR instruction in the specification's table is the model's operation. -/
theorem csrTable_row {r : Nat × (Hdr → Instr) × (Word → Word → Option Word)} (hr : r ∈ csrTable) :
    ∃ o : CsrOp, (∀ h s, exec (r.2.1 h) s = execTrigger .sy r.1 h (syCsr o) s) ∧ ∀ old a, r.2.2 old a = o.value old a := by
  simp only [csrTable, List.mem_cons, List.not_mem_nil, or_false] at hr
  obtain rfl | rfl | rfl | rfl := hr
  · exact ⟨.read, fun _ _ => rfl, fun _ _ => rfl⟩
  · exact ⟨.write, fun _ _ => rfl, fun _ _ => rfl⟩
  · exact ⟨.setBits, fun _ _ => rfl, fun _ _ => by simp [CsrOp.value]⟩
  · exact ⟨.clearBits, fun _ _ => rfl, fun _ _ => by simp [CsrOp.value]⟩

/-- Settles O38: by the row's operation; a write that nothing refuses is noted and performed when its bundle closes. -/
theorem csrResults : Obligations.CsrResults := by
  intro r hr h s g
  obtain ⟨o, hexec, hval⟩ := csrTable_row hr
  simp only [hexec, hval]
  obtain ⟨ecsr, ea, epriv⟩ := latched_csr s h (s.moved64 h).toNat
  have et := trigger_latch s .sy h
  refine ⟨fun m => execTrigger_trap g (syCsr_unknown et m), fun m free => ?_⟩
  have some_eq {x : Word} := syCsr_some (o := o) (w := x) et m free
  have none_eq := syCsr_none (o := o) et m free
  rw [ea, ecsr] at none_eq
  simp only [ea, ecsr, epriv] at some_eq
  have allowed (p : ¬ (s.sl.priv = 0 ∧ (s.moved64 h).toNat ∉ userCsrs)) : ¬ (s.sl.priv == 0 && !csrUser (s.moved64 h).toNat) = true := by
    rw [Bool.and_eq_true, beq_iff_eq, Bool.not_eq_true', Bool.eq_false_iff, ne_eq, csrUser_iff]
    exact p
  refine ⟨fun e => answers_complete g (none_eq e), fun x e p u => execTrigger_trap g ?_, fun x e p rej => execTrigger_trap g ?_,
    fun x e p ok => csr_bundle g ?_⟩
  · rw [some_eq e, Bool.eq_false_iff.2 (mt csrUser_iff.1 u), p]
    rfl
  · rw [some_eq e, if_neg (allowed p), csrRefused_iff.2 rej, if_pos rfl]
    rfl
  · rw [some_eq e, if_neg (allowed p), if_neg (mt csrRefused_iff.1 ok)]

end Sys2Proof.Machine
end

section
/-! PROOF. What a slot switch traces (spec/01_transport_core.md R27; spec/21_debug_trace.md R492). -/

set_option autoImplicit false
set_option Elab.async false

namespace Sys2Proof.Machine

open Sys2Proof.Claims

variable {s : State}

/-- Core zero with its trace enabled, its own slot blocked, and slot 1 Ready. -/
def tracedSwitch : State :=
  (((State.reset.onCore fun c => c.onSlot 1 fun t => { t with run := .ready }).onSl fun t => { t with run := .blocked }).setReg (.trctl coreZero) 1)

/-- The byte of the first packet of the ring that holds its TYPE: 3, a slot switch (R492). -/
theorem tracedSwitch_writes : ∃ t, exec .stallSwitch tracedSwitch = .next t ∧ t.readHome (.device 6 0) 1 = [3] ∧
    tracedSwitch.readHome (.device 6 0) 1 ≠ [3] := ⟨_, rfl, by decide +kernel, by decide +kernel⟩

/-- Refutes O43: where the core's trace is enabled, a slot switch writes its packet into device memory. -/
theorem not_coreEvents : ¬ Obligations.CoreEvents := by
  intro events
  obtain ⟨-, switch, -⟩ := events tracedSwitch
  obtain ⟨t, ht, -, -, -, same⟩ := switch 1 (by unfold Awake; decide +kernel) (.inl (by decide +kernel)) (by decide +kernel) (by decide +kernel)
    (by decide +kernel)
  obtain ⟨k, hk, wrote, before⟩ := tracedSwitch_writes
  obtain rfl : t = k := Host.Outcome.next.inj (ht.symm.trans hk)
  exact before ((same (.device 6 0)).symm.trans wrote)

/-! ### What stands of the slot switch -/

/-- The one slot but the core's own that is Ready is the one that a switch goes to. -/
theorem nextReady_only {c : Core} {n : Fin 4} (other : n ≠ c.cur) (ready : c.slots[n].run = .ready)
    (only : ∀ m : Fin 4, m ≠ n → m ≠ c.cur → c.slots[m].run ≠ .ready) : c.nextReady = some n := by
  have others : ∀ a b : Fin 4, b ∈ [a + 1, a + 2, a + 3] ↔ b ≠ a := by decide
  cases found : c.nextReady with
  | none => exact absurd (beq_iff_eq.2 ready) (List.find?_eq_none.1 found n ((others _ _).2 other))
  | some m =>
    have run : c.slots[m].run = .ready := beq_iff_eq.1 (List.find?_some found :)
    have mem : m ≠ c.cur := (others _ _).1 (List.mem_of_find?_eq_some found)
    exact congrArg some (Classical.not_not.1 fun ne => only m ne mem run)

/-- The core once it has left its slot for slot `n`, before it traces the switch (R27). -/
def State.switched (s : State) (n : Fin 4) : State :=
  (((s.count 4).onSl fun t =>
      { t with run := if t.run == .issuing then (if t.bubble == 0 then .ready else .stalled) else t.run, yielded := false, issued := 0 }).onCore
    fun c => { c with cur := n, swap := 1 }).onSl fun t => { t with run := .issuing, issued := 0 }

theorem switchSlot_eq {n : Fin 4} (leaves : s.sl.leaves = true) (next : s.core.nextReady = some n) :
    s.switchSlot = (s.switched n).trace 3 (s.switched n).sl.pc := by
  simp only [State.switchSlot, leaves, next, Bool.not_true, Bool.false_eq_true, if_false]
  rfl

theorem switched_untraced (n : Fin 4) (u : s.untraced) : (s.switched n).untraced := by
  obtain ⟨p, hp, -⟩ := s.count_perf 4
  rw [State.switched, hp]
  exact u

theorem sameMemory_switched (n : Fin 4) : SameMemory s (s.switched n) := by
  refine SameMemory.trans (t := s.count 4) (sameMemory_count s 4) ?_
  exact sameMemory_of rfl rfl rfl rfl rfl rfl rfl

/-- What stands of the clause that O43 fails by: it holds of a core that writes no trace. -/
theorem stallSwitch_untraced {n : Fin 4} (untraced : s.untraced) (awake : Awake s) (leaves : s.sl.run = .blocked ∨ s.sl.run = .free)
    (other : n ≠ s.core.cur) (ready : s.core.slots[n].run = .ready)
    (only : ∀ m : Fin 4, m ≠ n → m ≠ s.core.cur → s.core.slots[m].run ≠ .ready) :
    ∃ t, exec .stallSwitch s = .next t ∧ t.core.cur = n ∧ t.sl.run = .issuing ∧ t.core.swap = 1 ∧ SameMemory s t := by
  obtain ⟨halted, still⟩ := awake
  have leave : s.sl.leaves = true := by rcases leaves with e | e <;> rw [Slot.leaves, e]
  have switch : s.switchSlot = s.switched n := by
    rw [switchSlot_eq leave (nextReady_only other ready only), trace_untraced (switched_untraced n untraced)]
  refine ⟨s.switched n, ?_, rfl, by rw [State.switched, State.sl_onSl], rfl, sameMemory_switched n⟩
  show execStallSwitch s = _
  rw [execStallSwitch, halted, still, switch]
  rfl

end Sys2Proof.Machine
end

section
/-! PROOF. The decoder reads every well-formed instruction back from its words, and reads the words that the spec writes out as it says
(spec/03_encoding.md R80 to R87, R92, R95). -/

set_option autoImplicit false
set_option Elab.async false

namespace Sys2Proof.Machine

variable {h : Hdr} {d : Dst} {i : Instr} {u : FU} {opc dst : Nat}

/-! ## The fields of a move word (R80) -/

theorem toNat_moveWord (h : Hdr) (hd : dst < 0x400) (ho : opc < 0x100) : (moveWord h dst opc).toNat =
    h.last.toNat * 2 ^ 31 + h.inv.toNat * 2 ^ 30 + h.gi.val * 2 ^ 28 + dst * 2 ^ 18 + srcCode h.src * 2 ^ 8 + opc := by
  have hs := srcCode_lt h.src
  have hl := Bool.toNat_le h.last
  have hi := Bool.toNat_le h.inv
  have hg := h.gi.isLt
  rw [moveWord, BitVec.toNat_ofNat]
  omega

theorem fieldOpc_moveWord (h : Hdr) (hd : dst < 0x400) (ho : opc < 0x100) : fieldOpc (moveWord h dst opc) = opc := by
  rw [fieldOpc, toNat_moveWord h hd ho]
  omega

theorem fieldSrc_moveWord (h : Hdr) (hd : dst < 0x400) (ho : opc < 0x100) : fieldSrc (moveWord h dst opc) = srcCode h.src := by
  have hs := srcCode_lt h.src
  rw [fieldSrc, toNat_moveWord h hd ho]
  omega

theorem fieldDst_moveWord (h : Hdr) (hd : dst < 0x400) (ho : opc < 0x100) : fieldDst (moveWord h dst opc) = dst := by
  have hs := srcCode_lt h.src
  rw [fieldDst, toNat_moveWord h hd ho]
  omega

theorem fieldGi_moveWord (h : Hdr) (hd : dst < 0x400) (ho : opc < 0x100) : fieldGi (moveWord h dst opc) = h.gi := by
  have hs := srcCode_lt h.src
  have hg := h.gi.isLt
  rw [fieldGi, toNat_moveWord h hd ho]
  ext
  simp only [Fin.ofNat]
  omega

/-- Bit `n` of a word, by division. -/
theorem getLsbD_eq_div (w : HWord) (n : Nat) (b : Bool) (e : w.toNat / 2 ^ n % 2 = b.toNat) : w.getLsbD n = b := by
  rw [BitVec.getLsbD, Nat.testBit_eq_decide_div_mod_eq, e]
  cases b <;> rfl

theorem fieldInv_moveWord (h : Hdr) (hd : dst < 0x400) (ho : opc < 0x100) : fieldInv (moveWord h dst opc) = h.inv := by
  have hs := srcCode_lt h.src
  have hg := h.gi.isLt
  have hi := Bool.toNat_le h.inv
  refine getLsbD_eq_div _ _ _ ?_
  rw [toNat_moveWord h hd ho]
  omega

theorem fieldE_moveWord (h : Hdr) (hd : dst < 0x400) (ho : opc < 0x100) : fieldE (moveWord h dst opc) = h.last := by
  have hs := srcCode_lt h.src
  have hg := h.gi.isLt
  have hi := Bool.toNat_le h.inv
  have hl := Bool.toNat_le h.last
  refine getLsbD_eq_div _ _ _ ?_
  rw [toNat_moveWord h hd ho]
  omega

/-! ## Sources and destinations (R81, R83) -/

theorem portOf_portCode (u : FU) (p : Port) : portOf (portCode u p) = some (u, p) := by
  cases u <;> cases p <;> rfl

theorem isPortCode_portCode (u : FU) (p : Port) : isPortCode (portCode u p) = true := by
  cases u <;> cases p <;> rfl

theorem isTriggerCode_portCode (u : FU) : isTriggerCode (portCode u .t) = true := by
  cases u <;> rfl

/-- A source is read back from its code and its long-immediate words. -/
theorem decodeSrc_srcCode {x : Src} (wf : x.wf = true) : decodeSrc (srcCode x) (srcWords x) = .ok x := by
  cases x with
  | x n => simp [decodeSrc, srcCode]
  | v n =>
    have lt := n.isLt
    simp [decodeSrc, srcCode, show 32 + n.val < 64 by omega]
  | o n => revert n; decide
  | g n => revert n; decide
  | port u p =>
    have low := (portCode_lt u p).1
    have readable : u.canRead p = true := wf
    simp only [decodeSrc.eq_def, srcCode, isPortCode_portCode, portOf_portCode, readable, if_true]
    rw [if_neg (by omega), if_neg (by omega), if_neg (by omega), if_neg (by omega)]
  | imm8 b =>
    have lt := b.isLt
    have noPort : isPortCode (0x200 + b.toNat) = false := by
      rw [isPortCode, Bool.and_eq_false_iff]
      exact .inr (decide_eq_false (by omega))
    have inRange : (decide (0x200 ≤ 0x200 + b.toNat) && decide (0x200 + b.toNat < 0x300)) = true :=
      Bool.and_eq_true_iff.2 ⟨decide_eq_true (by omega), decide_eq_true (by omega)⟩
    simp only [decodeSrc.eq_def, srcCode, noPort, inRange, Bool.false_eq_true, if_false, if_true]
    rw [if_neg (by omega), if_neg (by omega), if_neg (by omega), if_neg (by omega), Nat.add_sub_cancel_left, BitVec.ofNat_toNat,
      BitVec.setWidth_eq]
  | imm32 w => rfl
  | imm64 w =>
    have halves : w.extractLsb' 32 32 ++ w.extractLsb' 0 32 = w :=
      (BitVec.extractLsb'_append_extractLsb'_eq_extractLsb' (x := w) (by rfl)).trans BitVec.extractLsb'_eq_self
    exact congrArg (fun x => Except.ok (Src.imm64 x)) halves

theorem decodeDst_trigger (u : FU) : decodeDst (portCode u .t) = .trigger u := by
  cases u <;> rfl

/-- A destination that is no trigger port is read back from its code. -/
theorem decodeDst_dstCode (wf : d.wf = true) : decodeDst (dstCode d) = .dst d := by
  cases d with
  | x n => simp [decodeDst, dstCode]
  | v n =>
    have lt := n.isLt
    simp [decodeDst, dstCode, show 32 + n.val < 64 by omega]
  | o n => revert n; decide
  | g n => revert n; decide
  | port u p =>
    have low := (portCode_lt u p).1
    have writable : u.canWrite p = true := wf
    have operand : p ≠ .t := by
      rintro rfl
      exact absurd writable (by simp [FU.canWrite])
    simp only [decodeDst, dstCode, isPortCode_portCode, portOf_portCode, writable, if_true]
    rw [if_neg (by omega), if_neg (by omega), if_neg (by omega), if_neg (by simp; omega), if_neg (by omega)]

/-! ## Opcodes (R87) -/

/-- A cell of a unit's opcode map that holds no operation decodes to none. -/
theorem decodeTrigger_unassigned (h : Hdr) {n : Nat} (free : u.assigns n = false) :
    decodeTrigger u n h = .illegalOp h u (BitVec.ofNat 8 n) := by
  cases u with
  | ia =>
    show decodeIa n h = _
    fun_cases decodeIa n h with
    | case40 => rfl
    | _ => cases free
  | ib =>
    show decodeIb n h = _
    fun_cases decodeIb n h with
    | case40 => rfl
    | _ => cases free
  | ag =>
    show decodeAg n h = _
    fun_cases decodeAg n h with
    | case11 => rfl
    | _ => cases free
  | mu =>
    show decodeMu n h = _
    fun_cases decodeMu n h with
    | case12 => rfl
    | _ => cases free
  | cf =>
    show decodeCf n h = _
    fun_cases decodeCf n h with
    | case8 => rfl
    | _ => cases free
  | ls =>
    show decodeLs n h = _
    fun_cases decodeLs n h with
    | case42 => rfl
    | _ => cases free
  | vp =>
    show decodeVp n h = _
    fun_cases decodeVp n h with
    | case68 => rfl
    | _ => cases free
  | mx =>
    show decodeMx n h = _
    fun_cases decodeMx n h with
    | case10 => rfl
    | _ => cases free
  | ch =>
    show decodeCh n h = _
    fun_cases decodeCh n h with
    | case8 => rfl
    | _ => cases free
  | ks =>
    show decodeKs n h = _
    fun_cases decodeKs n h with
    | case6 => rfl
    | _ => cases free
  | sy =>
    show decodeSy n h = _
    fun_cases decodeSy n h with
    | case31 => rfl
    | _ => cases free
  | qm =>
    show decodeQm n h = _
    fun_cases decodeQm n h with
    | case41 => rfl
    | _ => cases free
  | qs =>
    show decodeQs n h = _
    fun_cases decodeQs n h with
    | case4 => rfl
    | _ => cases free
  | db =>
    show decodeDb n h = _
    fun_cases decodeDb n h with
    | case5 => rfl
    | _ => cases free

/-- A trigger row is what its unit's opcode map holds. -/
theorem decodeTrigger_of_triggerOf (e : triggerOf i = some (u, opc, h)) (wf : i.wf = true) : decodeTrigger u opc h = i := by
  cases i with
  | illegalOp k v o =>
    cases e
    obtain ⟨-, free⟩ := Bool.and_eq_true_iff.1 wf
    rw [decodeTrigger_unassigned _ ((Bool.not_eq_true' _).mp free), BitVec.ofNat_toNat, BitVec.setWidth_eq]
  | _ => cases e; all_goals rfl

/-- A well-formed trigger row has a well-formed header and an opcode of 8 bits. -/
theorem wf_of_triggerOf (e : triggerOf i = some (u, opc, h)) (wf : i.wf = true) : h.wf = true ∧ opc < 0x100 := by
  cases i with
  | illegalOp k v o =>
    cases e
    exact ⟨(Bool.and_eq_true_iff.1 wf).1, o.isLt⟩
  | _ => cases e; all_goals exact ⟨wf, by decide⟩

/-! ## Words and what is read from them -/

theorem longWords_moveWord (h : Hdr) (hd : dst < 0x400) (ho : opc < 0x100) : longWords (moveWord h dst opc) = (srcWords h.src).length := by
  rw [longWords, fieldSrc_moveWord h hd ho]
  cases h.src with
  | port u p => cases u <;> cases p <;> rfl
  | x n | v n | o n | g n | imm8 n =>
    have lt := n.isLt
    simp only [srcCode, beq_iff_eq]
    rw [if_neg (by omega), if_neg (by omega)]
    rfl
  | imm32 w | imm64 w => rfl

/-- The line pad names no destination, so no legal move's word is it. -/
theorem moveWord_ne_pad (h : Hdr) (hd : dst < 0x400) (ho : opc < 0x100) (named : decodeDst dst ≠ .bad 5) : moveWord h dst opc ≠ padWord := by
  intro e
  have pad : fieldDst padWord = dst := e ▸ fieldDst_moveWord h hd ho
  exact named (pad ▸ rfl)

/-- A bundle that begins with a move's words begins with the move that the decoder reads from them, and takes no word more (R81). -/
theorem decodeFirst_moveWord (h : Hdr) (hd : dst < 0x400) (ho : opc < 0x100) (named : decodeDst dst ≠ .bad 5) (rest : List HWord) :
    decodeFirst (moveWord h dst opc :: srcWords h.src ++ rest) = some (decodeMove (moveWord h dst opc) (srcWords h.src), rest) := by
  have noPad : (moveWord h dst opc == padWord) = false := beq_false_of_ne (moveWord_ne_pad h hd ho named)
  rw [List.cons_append, decodeFirst, noPad, longWords_moveWord h hd ho, List.take_left, List.drop_left, if_neg (by simp), if_neg (by simp)]

/-- The checks of R92 on a move's word, but for its destination, are those of a well-formed header. -/
theorem decodeMove_moveWord (wf : h.wf = true) (hd : dst < 0x400) (ho : opc < 0x100) (named : decodeDst dst ≠ .bad 5)
    (plain : opc ≠ 0 → isTriggerCode dst = true) :
    decodeMove (moveWord h dst opc) (srcWords h.src) =
      match decodeDst dst with
      | .trigger u => decodeTrigger u opc h
      | .dst d => .move h d
      | .bad _ => .illegalMove (moveWord h dst opc) 9 := by
  obtain ⟨src, guard⟩ := Bool.and_eq_true_iff.1 wf
  have guarded : (h.gi == 0 && h.inv) = false := (Bool.not_eq_true' _).mp guard
  have known : (opc != 0 && !isTriggerCode dst) = false := by simpa using plain
  simp only [decodeMove, fieldE_moveWord h hd ho, fieldInv_moveWord h hd ho, fieldGi_moveWord h hd ho, fieldSrc_moveWord h hd ho,
    fieldDst_moveWord h hd ho, fieldOpc_moveWord h hd ho, decodeSrc_srcCode src, guarded, known, Bool.false_eq_true, if_false]
  cases decodeDst dst <;> rfl

/-- A move is read back from its words. -/
theorem decodeFirst_move (wf : h.wf = true) (dwf : d.wf = true) (rest : List HWord) :
    decodeFirst (moveWord h (dstCode d) 0 :: srcWords h.src ++ rest) = some (.move h d, rest) := by
  have dst := decodeDst_dstCode dwf
  have named : decodeDst (dstCode d) ≠ .bad 5 := by simp [dst]
  rw [decodeFirst_moveWord h (dstCode_lt d) (by decide) named, decodeMove_moveWord wf (dstCode_lt d) (by decide) named (absurd rfl), dst]

/-- A trigger is read back from its words as what its unit's opcode map holds. -/
theorem decodeFirst_trigger (wf : h.wf = true) (ho : opc < 0x100) (u : FU) (rest : List HWord) :
    decodeFirst (moveWord h (portCode u .t) opc :: srcWords h.src ++ rest) = some (decodeTrigger u opc h, rest) := by
  have dst := decodeDst_trigger u
  have lt := (portCode_lt u .t).2
  have named : decodeDst (portCode u .t) ≠ .bad 5 := by simp [dst]
  rw [decodeFirst_moveWord h lt ho named, decodeMove_moveWord wf lt ho named (fun _ => isTriggerCode_portCode u), dst]

/-- The rows that have words: moves, the line pad, words that are no legal move, and triggers. -/
theorem row_of_encode (words : encode i ≠ []) :
    i = .linePad ∨ (∃ h d, i = .move h d) ∨ (∃ w r, i = .illegalMove w r) ∨ ∃ u opc h, triggerOf i = some (u, opc, h) := by
  cases e : triggerOf i with
  | some row => exact .inr (.inr (.inr ⟨_, _, _, rfl⟩))
  | none =>
    cases i with
    | linePad => exact .inl rfl
    | move h d => exact .inr (.inl ⟨h, d, rfl⟩)
    | illegalMove w r => exact .inr (.inr (.inl ⟨w, r, rfl⟩))
    | _ => cases e; all_goals exact absurd rfl words

/-- Settles O58: a move's word gives back its fields, its source and its destination, and a trigger's opcode its operation. -/
theorem encodeThenDecode : Obligations.EncodeThenDecode := by
  intro i rest wf words legal
  rcases row_of_encode words with rfl | ⟨h, d, rfl⟩ | ⟨w, r, e⟩ | ⟨u, opc, h, e⟩
  · rfl
  · obtain ⟨hwf, dwf⟩ := Bool.and_eq_true_iff.1 wf
    exact decodeFirst_move hwf dwf rest
  · exact absurd e (legal w r)
  · obtain ⟨hwf, ho⟩ := wf_of_triggerOf e wf
    rw [encode_trigger e, decodeFirst_trigger hwf ho u rest, decodeTrigger_of_triggerOf e wf]

/-- The words of a legal instruction are read as that instruction. -/
theorem reads_encoded {ws : List HWord} (e : encode i = ws) (wf : i.wf = true) (words : ws ≠ [])
    (legal : ∀ w r, i ≠ .illegalMove w r) : decodeFirst ws = some (i, []) := by
  subst e
  simpa only [List.append_nil] using encodeThenDecode i [] wf words legal

/-- Settles O57: the words of legal instructions are their encodings; the checks of R92 refuse the others. -/
theorem wordsDecodeAsTheSpecWritesThem : Obligations.WordsDecodeAsTheSpecWritesThem := by
  refine ⟨?_, ?_, ?_, ?_, ?_, ?_, ?_, ?_, ?_, ?_, ?_, ?_, rfl, rfl, rfl, rfl⟩
  all_goals exact reads_encoded (by decide) (by decide) nofun nofun

end Sys2Proof.Machine
end

section
/-! PROOF. Words that are no legal move, and the line pad (spec/03_encoding.md R86, R87, R92, R93). -/

set_option autoImplicit false
set_option Elab.async false

namespace Sys2Proof.Machine

open Sys2Proof.Claims

variable {s : State} {h : Hdr} {u : FU}

/-- A decode trap of a word that is its whole bundle is taken on the state before it. -/
theorem illegalTrap_alone (alone : s.bus = none) (code : Nat) (tval : Word) :
    illegalTrap s code tval = .next (enterTrap code tval s.sl.pc s) := by
  rw [illegalTrap, alone]

/-- The renamed word of a trigger names the same trigger port. -/
theorem decodeTval_trigger (s : State) (h : Hdr) (u : FU) (reason : Nat) (o : BitVec 8) :
    decodeTval reason 0 (moveWord (renameHdr s.sl.csr.rpc h) (portCode u .t) o.toNat) =
      decodeInfo s reason (moveWord h (portCode u .t) o.toNat) := by
  obtain ⟨low, high⟩ := portCode_lt u .t
  rw [← decodeTval_renamed high o.isLt, renameCode_other _ (Nat.le_trans (by decide) low)]

/-- A trigger whose opcode names no operation traps, once the checks of its unit and its source are passed. -/
theorem exec_illegalOp (reads : Reads h s) (carries : s.coreId.kind.carries u = true) (o : BitVec 8) :
    exec (.illegalOp h u o) s = .next (enterTrap 0x02 (decodeInfo s 15 (moveWord h (portCode u .t) o.toNat)) s.sl.pc s) := by
  have noFault := soloFault_none (du := some u) reads.source carries reads.valid
  show execIllegalOp h u o s = _
  simp only [execIllegalOp, renameHdr_src, noFault, decodeTval_trigger]
  exact illegalTrap_alone reads.alone _ _

/-- A word that is no legal move traps with its reason; a port of a unit that the core lacks turns reason 9 into 8. -/
theorem exec_illegalMove (alone : s.bus = none) (w : HWord) (reason : Nat) :
    let ok := carried s.coreId.kind (unitOfCode (fieldSrc w)) && carried s.coreId.kind (unitOfCode (fieldDst w))
    exec (.illegalMove w reason) s = .next (enterTrap 0x01 (decodeInfo s (if reason == 9 && !ok then 8 else reason) w) s.sl.pc s) := by
  show execIllegalMove w reason s = _
  simp only [execIllegalMove, illegalTrap_alone alone, decodeTval, decodeInfo, w64, Nat.zero_mul, Nat.add_zero]

/-- The line pad goes on at the next line, where there is one below the end of the address space. -/
theorem exec_linePad (below : s.sl.pc.toNat < 2 ^ 52 - 64) :
    let next := BitVec.ofNat 64 (s.sl.pc.toNat / 64 * 64 + 64)
    exec .linePad s = .next (s.setSl { s.sl with pc := next, npc := next, flow := .entered }) := by
  have line : (s.sl.pc.toNat / 64 + 1) * 64 % 2 ^ 52 = s.sl.pc.toNat / 64 * 64 + 64 := by omega
  show execLinePad s = _
  rw [execLinePad, State.onSl, line]
  rfl

/-- Settles O10: each row that is no legal move by its own lemma. -/
theorem illegalWordsTrap : Obligations.IllegalWordsTrap := by
  refine ⟨fun h u o s reads carries => exec_illegalOp reads carries o, fun w reason s alone ne => ?_, fun w s alone => ?_,
    fun s below => exec_linePad below⟩
  · rw [exec_illegalMove alone, beq_false_of_ne ne, Bool.false_and, if_neg Bool.false_ne_true]
  · rw [exec_illegalMove alone]
    cases carried s.coreId.kind (unitOfCode (fieldSrc w)) && carried s.coreId.kind (unitOfCode (fieldDst w)) <;> rfl

end Sys2Proof.Machine
end

section
/-! PROOF. The trigger of the matrix port: its checks, the wait for a place in the queue, and acceptance (spec/03_encoding.md R91;
spec/07_engine_ops.md R183 to R187). -/

set_option autoImplicit false
set_option Elab.async false

namespace Sys2Proof.Machine

open Sys2Proof.Claims

variable {s : State} {h : Hdr} {m : MCmd} {cls : Nat} {t : Slot}

/-! ## What the checks read of the state -/

/-- A part of a core that a change of the core in focus keeps is the same in every core. -/
theorem State.coreAt_onCore_keeps {α : Type} (part : Core → α) {f : Core → Core} (keeps : part (f s.core) = part s.core) (c : CoreId) :
    part ((s.onCore f).coreAt c) = part (s.coreAt c) := by
  by_cases e : c = s.coreId
  · subst e
    exact (congrArg part (State.coreAt_self (s.onCore f))).trans (keeps.trans (congrArg part (State.coreAt_self s)).symm)
  · simp only [State.coreAt, State.coreId_onCore, State.others_onCore, if_neg e]

theorem berths_setSl (s : State) (t : Slot) (c : CoreId) : ((s.setSl t).coreAt c).berths = (s.coreAt c).berths :=
  s.coreAt_onCore_keeps (·.berths) (f := fun c => { c with slots := c.slots.set c.cur t }) rfl c

theorem meetsDescriptor_setSl (s : State) (t : Slot) (c : CoreId) (off n : Nat) :
    ((s.setSl t).coreAt c).meetsDescriptor off n = (s.coreAt c).meetsDescriptor off n := by
  simp only [Core.meetsDescriptor, berths_setSl]

theorem rangeFault_setSl (level : t.priv = s.sl.priv) (adr n align : Nat) (writes : Bool) :
    (s.setSl t).rangeFault adr n align writes = s.rangeFault adr n align writes := by
  have target : (s.setSl t).spaTarget (w64 adr) = s.spaTarget (w64 adr) := rfl
  simp only [State.rangeFault, target, State.sl_setSl, level, meetsDescriptor_setSl]

theorem berthFault_setSl (s : State) (t : Slot) (w : Word) (count rb : Nat) (source : Bool) :
    (s.setSl t).berthFault w count rb source = s.berthFault w count rb source := by
  have core : (s.setSl t).operandBerth w = s.operandBerth w := rfl
  have span : (s.setSl t).clusterInSpan = s.clusterInSpan := rfl
  have party : queueParty (s.setSl t).core = queueParty s.core := rfl
  simp only [State.berthFault, core, span, party, State.berthAt, berths_setSl]

theorem scaleRecord_setSl (buffer : t.sb = s.sl.sb) (m : MCmd) : (s.setSl t).scaleRecord m = s.scaleRecord m := by
  have place (c : CoreId) (off : Nat) : (s.setSl t).loadHome (.core c off) 32 = s.loadHome (.core c off) 32 := by
    have mem : ((s.setSl t).coreAt c).mem = (s.coreAt c).mem :=
      s.coreAt_onCore_keeps (·.mem) (f := fun c => { c with slots := c.slots.set c.cur t }) rfl c
    simp only [State.loadHome, State.readHome, State.sl_setSl, buffer, mem]
  simp only [State.scaleRecord, place]
  rfl

/-- The checks that come before the record of an `mscale` is read (R186). -/
def State.mxBefore (s : State) (m : MCmd) : Option (Nat × Word) := s.mxEarly m <|> s.berthFaults m <|> s.rangeFaults m

theorem mxFault_eq (s : State) (m : MCmd) : s.mxFault m = (s.mxBefore m <|>
    (if m.cls == 7 then (if m.layoutBad then some (trapFormat, m.p) else s.scaleFaults m) else none) <|>
    (if m.cls == 8 && bits m.p 7 0 == 0 then some (trapIllegalOp, m.p) else none)) := by
  rw [State.mxFault, State.mxBefore]
  cases s.mxEarly m with
  | some e => rfl
  | none => cases s.berthFaults m <;> rfl

theorem mxBefore_setSl (level : t.priv = s.sl.priv) (m : MCmd) : (s.setSl t).mxBefore m = s.mxBefore m := by
  have early : (s.setSl t).mxEarly m = s.mxEarly m := rfl
  simp only [State.mxBefore, early, State.berthFaults, berthFault_setSl, State.rangeFaults, rangeFault_setSl level]

/-- A command's checks are the same in two slots of one level. -/
theorem mxFault_setSl (level : t.priv = s.sl.priv) (m : MCmd) : (s.setSl t).mxFault m = s.mxFault m := by
  have scales : (s.setSl t).scaleFaults m = s.scaleFaults m := by simp only [State.scaleFaults, rangeFault_setSl level]
  rw [mxFault_eq, mxFault_eq, mxBefore_setSl level, scales]

/-! ## The trigger (R183, R186) -/

theorem priv_latched (s : State) (u : FU) (h : Hdr) : (s.latched u h).sl.priv = s.sl.priv := by
  rw [sl_latched]
  rfl

theorem mxFault_of_before {e : Nat × Word} (f : s.mxBefore m = some e) : s.mxFault m = some e := by
  rw [mxFault_eq, f]
  rfl

/-- The command of a trigger before the record of an `mscale` is read into it. -/
def bareCommand (s : State) (cls : Nat) (h : Hdr) : MCmd :=
  ⟨cls, (s.lat .mx).a, (s.lat .mx).b, (s.lat .mx).c, s.moved64 h, 0, [], [], [], 0, none, false, 0⟩

theorem offered_eq (s : State) (cls : Nat) (h : Hdr) : ∃ layout, offered s cls h = { bareCommand s cls h with layout := layout } := by
  by_cases e : cls = 7
  · exact ⟨s.scaleRecord (bareCommand s cls h), if_pos e⟩
  · exact ⟨[], if_neg e⟩

@[simp] theorem cls_offered (s : State) (cls : Nat) (h : Hdr) : (offered s cls h).cls = cls := by
  obtain ⟨layout, e⟩ := offered_eq s cls h
  rw [e]
  rfl

theorem mxBefore_offered (s : State) (cls : Nat) (h : Hdr) : s.mxBefore (offered s cls h) = s.mxBefore (bareCommand s cls h) := by
  obtain ⟨layout, e⟩ := offered_eq s cls h
  rw [e]
  rfl

/-- A trigger is trapped by the first check that its command fails, and offers it else. -/
theorem mxCommand_latched (g : Goes .mx cls h s) : mxCommand cls (s.latched .mx h) =
    match s.mxFault (offered s cls h) with
    | some (code, tval) => .trap code tval
    | none => (s.latched .mx h).offerMatrix (offered s cls h) := by
  have first : (s.latched .mx h).resuming = false := by simp [State.resuming, latched_issuing g]
  have before : (s.latched .mx h).mxBefore = s.mxBefore := by
    funext m
    rw [latched_setSl, mxBefore_setSl (priv_latched s .mx h)]
  have fault : (s.latched .mx h).mxFault = s.mxFault := by
    funext m
    rw [latched_setSl, mxFault_setSl (priv_latched s .mx h)]
  have record : (s.latched .mx h).scaleRecord = s.scaleRecord := by
    funext m
    rw [latched_setSl, scaleRecord_setSl (by rw [sl_latched]; rfl)]
  rw [mxCommand]
  simp only [first, lat_latched, ← State.mxBefore.eq_def, before, fault, record, Bool.false_eq_true, if_false, beq_iff_eq]
  cases e : s.mxBefore (bareCommand s cls h) with
  | some e' =>
    rw [mxFault_of_before ((mxBefore_offered s cls h).trans e)]
    rw [bareCommand] at e
    rw [e]
  | none =>
    rw [bareCommand] at e
    rw [e]
    rfl

theorem exec_matrix {r : Nat × (Hdr → Instr)} (hr : r ∈ matrixTable) (h : Hdr) (s : State) :
    exec (r.2 h) s = execTrigger .mx r.1 h (mxCommand r.1) s := by
  simp only [matrixTable, List.mem_cons, List.not_mem_nil, or_false] at hr
  rcases hr with rfl | rfl | rfl | rfl | rfl | rfl | rfl | rfl | rfl <;> rfl

/-- A command that fails a check traps and is not queued. -/
theorem exec_matrix_trap {r : Nat × (Hdr → Instr)} (hr : r ∈ matrixTable) (g : Goes .mx r.1 h s) {code : Nat} {tval : Word}
    (f : s.mxFault (offered s r.1 h) = some (code, tval)) : exec (r.2 h) s = .next (enterTrap code tval s.sl.pc s) := by
  rw [exec_matrix hr]
  exact execTrigger_trap g (by rw [mxCommand_latched g, f])

/-! ## Unused fields (R185, R186) -/

theorem useBad_iff (u : MUse) (w : Word) : useBad u w = true ↔
    (u = .no ∧ w ≠ 0) ∨ (u = .operand ∧ w.toNat / 2 ^ 48 % 256 ≠ 0) ∨ (u = .mask ∧ w.toNat / 2 ^ 8 ≠ 0) := by
  have lt := w.isLt
  cases u with
  | no => simp [useBad]
  | operand => simp [useBad, bits]
  | raw => simp [useBad]
  | mask =>
    have whole : bits w 63 8 = w.toNat / 2 ^ 8 := Nat.mod_eq_of_lt (by omega)
    simp [useBad, whole]

/-- `.c` sets a bit that its class does not use, has K of zero, or has a rounding code above 3. -/
def MCmd.controlBad (m : MCmd) : Bool :=
  m.c &&& ~~~mxMaskC m.cls m.fmtQ != 0 || ((m.cls ≤ 3 || m.cls == 7) && m.inner == 0) || (m.cls == 6 && 4 ≤ bits m.c 2 0)

/-- `.t` sets a bit that its class does not use. -/
def MCmd.triggerBad (m : MCmd) : Bool := m.t &&& ~~~mxMaskT m.cls != 0

theorem fmtQ_eq (m : MCmd) : m.fmtQ = m.q.toNat / 2 ^ 59 := by
  have lt := m.q.isLt
  exact Nat.mod_eq_of_lt (by omega)

theorem inner_eq (m : MCmd) : m.inner = m.c.toNat / 2 ^ 48 := by
  have lt := m.c.isLt
  exact Nat.mod_eq_of_lt (by omega)

theorem mxMaskC_eq (low : 1 ≤ cls) (high : cls ≤ 9) (f : Nat) : mxMaskC cls f = BitVec.ofNat 64 (usedC cls (decide (f = 13))) := by
  by_cases e : f = 13
  · subst e
    interval_cases cls <;> rfl
  · have other : (f == 13) = false := beq_false_of_ne e
    interval_cases cls <;> simp [mxMaskC, usedC, w64, e, other]

theorem mxMaskT_eq (low : 1 ≤ cls) (high : cls ≤ 9) : mxMaskT cls = BitVec.ofNat 64
    (if cls ≤ 3 then 0xFFFFFFFF0D000FFF else if cls = 5 ∨ cls = 6 then 0x05000FFF else 0x01000FFF) := by
  interval_cases cls <;> rfl

theorem controlBad_iff (low : 1 ≤ m.cls) (high : m.cls ≤ 9) : m.controlBad = true ↔
    m.c &&& ~~~ BitVec.ofNat 64 (usedC m.cls (m.q.toNat / 2 ^ 59 = 13)) ≠ 0 ∨
      (m.cls ∈ [1, 2, 3, 7] ∧ m.c.toNat / 2 ^ 48 = 0) ∨ (m.cls = 6 ∧ m.c.toNat % 8 ∉ [0, 1, 2, 3]) := by
  have counted : (m.cls ≤ 3 ∨ m.cls = 7) ↔ m.cls ∈ [1, 2, 3, 7] := by
    simp only [List.mem_cons, List.not_mem_nil, or_false]
    omega
  have rounding : 4 ≤ bits m.c 2 0 ↔ m.c.toNat % 8 ∉ [0, 1, 2, 3] := by
    simp only [bits, List.mem_cons, List.not_mem_nil, or_false]
    omega
  simp only [MCmd.controlBad, mxMaskC_eq low high, fmtQ_eq, inner_eq, Bool.or_eq_true, Bool.and_eq_true, bne_iff_ne, beq_iff_eq,
    decide_eq_true_eq, counted, rounding, or_assoc]

theorem triggerBad_iff (low : 1 ≤ m.cls) (high : m.cls ≤ 9) : m.triggerBad = true ↔ m.t &&& ~~~ BitVec.ofNat 64
    (if m.cls ≤ 3 then 0xFFFFFFFF0D000FFF else if m.cls = 5 ∨ m.cls = 6 then 0x05000FFF else 0x01000FFF) ≠ 0 := by
  rw [MCmd.triggerBad, mxMaskT_eq low high, bne_iff_ne]

/-- The first item of R186, in its order. -/
theorem mxEarly_unused (s : State) (m : MCmd) :
    (useBad (mxUse m.cls).1 m.p = true → s.mxEarly m = some (0x02, m.p)) ∧
    (useBad (mxUse m.cls).1 m.p = false → useBad (mxUse m.cls).2 m.q = true → s.mxEarly m = some (0x02, m.q)) ∧
    (useBad (mxUse m.cls).1 m.p = false → useBad (mxUse m.cls).2 m.q = false → m.controlBad = true → s.mxEarly m = some (0x02, m.c)) ∧
    (useBad (mxUse m.cls).1 m.p = false → useBad (mxUse m.cls).2 m.q = false → m.controlBad = false → m.triggerBad = true →
      s.mxEarly m = some (0x02, m.t)) := by
  unfold State.mxEarly
  simp only [← MCmd.controlBad.eq_def, ← MCmd.triggerBad.eq_def]
  refine ⟨fun p => ?_, fun p q => ?_, fun p q c => ?_, fun p q c t => ?_⟩
  · rw [if_pos p]; rfl
  · rw [p, if_neg Bool.false_ne_true, if_pos q]; rfl
  · rw [p, q, if_neg Bool.false_ne_true, if_neg Bool.false_ne_true, if_pos c]; rfl
  · rw [p, q, c, if_neg Bool.false_ne_true, if_neg Bool.false_ne_true, if_neg Bool.false_ne_true, if_pos t]; rfl

theorem mxBefore_of_early {e : Nat × Word} (f : s.mxEarly m = some e) : s.mxBefore m = some e := by
  rw [State.mxBefore, f]
  rfl

/-! ## The end of the trigger's bundle -/

theorem sameMemory_onSl (s : State) (f : Slot → Slot) : SameMemory s (s.onSl f) := sameMemory_of rfl rfl rfl rfl rfl rfl rfl

theorem sameMemory_latched (s : State) (u : FU) (h : Hdr) : SameMemory s (s.latched u h) := by
  rw [latched_setSl]
  exact sameMemory_onSl s fun _ => (s.latched u h).sl

/-- The commands queued at the matrix port and the range locks of every core, which the end of a bundle leaves. -/
def MatrixKept (s t : State) : Prop := t.core.mq = s.core.mq ∧ ∀ c, (t.coreAt c).ranges = (s.coreAt c).ranges

theorem MatrixKept.trans {s t u : State} (a : MatrixKept s t) (b : MatrixKept t u) : MatrixKept s u :=
  ⟨b.1.trans a.1, fun c => (b.2 c).trans (a.2 c)⟩

theorem matrixKept_onCore (s : State) {f : Core → Core} (mq : (f s.core).mq = s.core.mq) (ranges : (f s.core).ranges = s.core.ranges) :
    MatrixKept s (s.onCore f) := ⟨mq, s.coreAt_onCore_keeps (·.ranges) ranges⟩

theorem matrixKept_onSl (s : State) (f : Slot → Slot) : MatrixKept s (s.onSl f) :=
  matrixKept_onCore s (f := fun c => { c with slots := c.slots.set c.cur (f s.sl) }) rfl rfl

theorem matrixKept_count (s : State) (e : Nat) : MatrixKept s (s.count e) := by
  obtain ⟨p, hp, -⟩ := s.count_perf e
  rw [hp]
  exact matrixKept_onCore s rfl rfl

/-- A trigger whose operation leaves a plain slot retires its bundle, which leaves the memories and the matrix port. -/
theorem execTrigger_retires {u : FU} {opc : Nat} {op : State → Res} {x : State} (g : Goes u opc h s) (ho : op (s.latched u h) = .ok x)
    (h0 : x.sl.seedw = none) (h1 : x.sl.csrw = none) (h2 : x.sl.after = none) (h3 : x.sl.flow ≠ .ended) :
    ∃ t, execTrigger u opc h op s = .next t ∧ t.sl = x.sl.retired ∧ SameMemory x t ∧ MatrixKept x t := by
  refine ⟨_, execTrigger_ok g ho, ?_⟩
  rw [closeBundle_plain h0 h1 h2 h3]
  exact ⟨by rw [State.sl_count, State.sl_onSl, Slot.retired], (sameMemory_onSl x _).trans (sameMemory_count _ 1),
    (matrixKept_onSl x _).trans (matrixKept_count _ 1)⟩

/-! ## The wait for a place (R91, R187) -/

/-- A slot that waits for acceptance is noted in its core's queue; the commands, the slot and the memories stay. -/
theorem waitMatrix_keeps (s : State) (m : MCmd) : (s.waitMatrix m).sl = s.sl ∧ (s.waitMatrix m).reg = s.reg ∧
    (s.waitMatrix m).coreId = s.coreId ∧ (s.waitMatrix m).time = s.time ∧ (s.waitMatrix m).core.mq.cmds = s.core.mq.cmds ∧
    SameMemory s (s.waitMatrix m) := by
  rw [State.waitMatrix]
  split
  · exact ⟨rfl, rfl, rfl, rfl, rfl, fun _ => rfl⟩
  · exact ⟨rfl, rfl, rfl, rfl, rfl, sameMemory_of rfl rfl rfl rfl rfl rfl rfl⟩

theorem wrrWord_eq (old : Word) (kind mode releaser object : Nat) :
    wrrWord old kind mode releaser object = reasonWord old kind mode releaser object := rfl

/-- The slot in a wait of a unit's operation, with its reason (R381). -/
def Slot.waits (t : Slot) (u : FU) (opc since : Nat) (reason : Word) : Slot :=
  { t with run := .blocked, wait := some ⟨u, BitVec.ofNat 8 opc, none, []⟩, since := since, csr := { t.csr with wrr := reason } }

/-- The slot that waits once its trigger's bundle is retired. -/
theorem waiting_eq (s : State) (u : FU) (opc : Nat) (h : Hdr) (kind mode releaser object : Nat) :
    Claims.waiting s u opc h kind mode releaser object [] =
      ((s.latched u h).sl.waits u opc s.time (reasonWord s.sl.csr.wrr kind mode releaser object)).retired := by
  rw [Claims.waiting, sl_latched]
  simp only [State.ran, Slot.waits, Slot.retired, id, Slot.csr_onLat]

/-- A slot that has gone out enters a wait, where none is refused and its core writes no trace. -/
theorem block_enters (awake : s.sl.run = .issuing) (may : MayWait s) (untraced : s.untraced) (u : FU) (opc kind mode releaser object : Nat) :
    ∃ x, s.block u opc kind mode releaser object = .ok x ∧ SameMemory s x ∧ MatrixKept s x ∧
      x.sl = s.sl.waits u opc s.time (reasonWord s.sl.csr.wrr kind mode releaser object) := by
  have level : (s.sl.inh && s.sl.hlvl != 0) = false := by
    rw [← Bool.not_eq_true, Bool.and_eq_true, bne_iff_ne]
    exact may
  have fresh : (s.sl.run == .blocked) = false := by rw [awake]; rfl
  have silent (f : Slot → Slot) : (s.onSl f).untraced := untraced
  simp only [State.block, level, fresh, Bool.false_and, Bool.false_eq_true, if_false, trace_untraced (silent _), wrrWord_eq]
  exact ⟨_, rfl, sameMemory_onSl s _, matrixKept_onSl s _, State.sl_onSl ..⟩

theorem time_latched (s : State) (u : FU) (h : Hdr) : (s.latched u h).time = s.time := rfl

theorem csr_latched (s : State) (u : FU) (h : Hdr) : (s.latched u h).sl.csr = s.sl.csr := by
  rw [sl_latched]
  rfl

theorem party_latched (s : State) (u : FU) (h : Hdr) : queueParty (s.latched u h).core = myQueue s := by
  rw [latched_setSl]
  rfl

/-- A command that passes its checks and finds the queue full waits for a place in it. -/
theorem matrix_waits (g : Goes .mx cls h s) (passes : s.mxFault (offered s cls h) = none) (full : 4 ≤ s.core.mq.cmds.length)
    (untraced : s.untraced) (may : MayWait s) :
    ∃ t, execTrigger .mx cls h (mxCommand cls) s = .next t ∧ t.sl = Claims.waiting s .mx cls h 11 0 (myQueue s) 0 [] ∧ SameMemory s t ∧
      t.core.mq.cmds = s.core.mq.cmds := by
  have noPlace : decide (4 ≤ (s.latched .mx h).core.mq.cmds.length) = true := decide_eq_true full
  obtain ⟨slot, reg, core, time, cmds, memory⟩ := waitMatrix_keeps (s.latched .mx h) (offered s cls h)
  have op : mxCommand cls (s.latched .mx h) =
      ((s.latched .mx h).waitMatrix (offered s cls h)).block .mx cls 11 0 (myQueue s) 0 := by
    rw [mxCommand_latched g, passes]
    simp only [State.offerMatrix, noPlace, Bool.or_true, if_true, cls_offered, party_latched]
  generalize (s.latched .mx h).waitMatrix (offered s cls h) = w at *
  have mayWait : MayWait w := by
    rw [MayWait, slot, sl_latched]
    exact may
  have silent : w.untraced := by
    rw [State.untraced, reg, core]
    exact untraced
  obtain ⟨x, blocked, memory2, kept, entered⟩ := block_enters (slot ▸ latched_issuing g) mayWait silent .mx cls 11 0 (myQueue s) 0
  rw [slot, time, time_latched, csr_latched] at entered
  obtain ⟨t, next, retired, memory3, kept2⟩ := execTrigger_retires g (op.trans blocked) (by rw [entered, sl_latched]; rfl)
    (by rw [entered, sl_latched]; rfl) (by rw [entered, sl_latched]; rfl) (by rw [entered, sl_latched]; nofun)
  refine ⟨t, next, ?_, (((sameMemory_latched s .mx h).trans memory).trans memory2).trans memory3, ?_⟩
  · rw [retired, entered, waiting_eq]
  · rw [(kept.trans kept2).1, cmds]
    rfl

/-! ## Acceptance (R187) -/

/-- The entry of a scratchpad's lock table for a range of a command (R325). -/
def lockOf (party seq : Nat) (r : CoreId × Nat × Nat × Bool × Nat) : RangeLock := ⟨r.2.1, r.2.2.1, r.2.2.2.1, party, seq⟩

theorem coreAt_enterLock (s : State) (party seq : Nat) (r : CoreId × Nat × Nat × Bool × Nat) (c : CoreId) :
    (s.enterLock party seq r).coreAt c =
      { s.coreAt c with ranges := (s.coreAt c).ranges ++ if r.1 = c then [lockOf party seq r] else [] } := by
  by_cases e : r.1 = c
  · subst e
    rw [State.enterLock, State.coreAt_onCoreAt, if_pos rfl]
    rfl
  · rw [State.enterLock, State.coreAt_onCoreAt_ne _ _ _ _ (Ne.symm e), if_neg e, List.append_nil]

/-- A lock changes cores alone. -/
theorem enterLock_cores (s : State) (party seq : Nat) (r : CoreId × Nat × Nat × Bool × Nat) :
    ∃ core others, s.enterLock party seq r = { s with core := core, others := others } := by
  rw [State.enterLock, State.onCoreAt, State.setCoreAt]
  split
  · exact ⟨_, _, rfl⟩
  · exact ⟨_, _, rfl⟩

/-- The state once a command's ranges have entered the lock tables. -/
def State.enterLocks (s : State) (party seq : Nat) (rs : List (CoreId × Nat × Nat × Bool × Nat)) : State :=
  rs.foldl (fun s r => s.enterLock party seq r) s

/-- Each scratchpad's locks are those it held, and behind them the command's, in their order. -/
theorem coreAt_enterLocks (s : State) (party seq : Nat) (rs : List (CoreId × Nat × Nat × Bool × Nat)) (c : CoreId) :
    (s.enterLocks party seq rs).coreAt c =
      { s.coreAt c with ranges := (s.coreAt c).ranges ++ (rs.filter fun x => x.1 = c).map (lockOf party seq) } := by
  induction rs generalizing s with
  | nil => simp [State.enterLocks]
  | cons r rs ih =>
    have step : s.enterLocks party seq (r :: rs) = (s.enterLock party seq r).enterLocks party seq rs := rfl
    rw [step, ih, coreAt_enterLock]
    by_cases e : r.1 = c <;> simp [e]

theorem enterLocks_cores (s : State) (party seq : Nat) (rs : List (CoreId × Nat × Nat × Bool × Nat)) :
    ∃ core others, s.enterLocks party seq rs = { s with core := core, others := others } := by
  induction rs generalizing s with
  | nil => exact ⟨_, _, rfl⟩
  | cons r rs ih =>
    obtain ⟨core, others, e⟩ := enterLock_cores s party seq r
    obtain ⟨core2, others2, e2⟩ := ih (s.enterLock party seq r)
    exact ⟨core2, others2, e2.trans (by rw [e])⟩

/-- Locks leave the memories, and the core in focus but for its lock table. -/
theorem enterLocks_keeps (s : State) (party seq : Nat) (rs : List (CoreId × Nat × Nat × Bool × Nat)) :
    SameMemory s (s.enterLocks party seq rs) ∧
      ∃ ranges, (s.enterLocks party seq rs).core = { s.core with ranges := ranges } := by
  obtain ⟨core, others, e⟩ := enterLocks_cores s party seq rs
  have cores := coreAt_enterLocks s party seq rs
  constructor
  · refine sameMemory_of_cores (fun id => by rw [cores id]) ?_ ?_ ?_ ?_ <;> rw [e]
  · have focus := cores s.coreId
    rw [State.coreAt_self] at focus
    have same : (s.enterLocks party seq rs).coreId = s.coreId := by rw [e]
    rw [← same, State.coreAt_self] at focus
    exact ⟨_, focus⟩

/-- The command as it stands in its queue. -/
def State.queued (s : State) (m : MCmd) : MCmd :=
  { m with seq := s.core.mq.next, before := if m.cls == 8 then s.outstanding (bits m.p 7 0) else [] }

/-- The state with another command queue of the core in focus. -/
def State.withQueue (s : State) (q : MatQ) : State := s.onCore fun c => { c with mq := q }

/-- Acceptance, where no store is buffered: the ranges enter the lock tables, the command its queue, and the trigger completes. -/
theorem acceptMatrix_eq (empty : s.sl.sb = []) (m : MCmd) :
    ∃ q, s.acceptMatrix m =
        (((s.enterLocks (queueParty s.core) s.core.mq.next (m.ranges s.coreId)).withQueue q).complete .mx (w64 s.core.mq.next) 0).count 9 ∧
      q.cmds = (s.enterLocks (queueParty s.core) s.core.mq.next (m.ranges s.coreId)).core.mq.cmds ++ [s.queued m] ∧
      q.next = nextSeq s.core.mq.next := by
  have drained : s.drain = s := by rw [State.drain, empty]; rfl
  rw [State.acceptMatrix, drained]
  exact ⟨_, rfl, rfl, rfl⟩

/-- What acceptance leaves. -/
theorem acceptMatrix_leaves (awake : s.sl.run = .issuing) (empty : s.sl.sb = []) (m : MCmd) :
    (s.acceptMatrix m).sl = s.sl.setResult .mx (w64 s.core.mq.next) 0 ∧ SameMemory s (s.acceptMatrix m) ∧
      (s.acceptMatrix m).core.mq.cmds = s.core.mq.cmds ++ [s.queued m] ∧ (s.acceptMatrix m).core.mq.next = nextSeq s.core.mq.next ∧
      ∀ c, ((s.acceptMatrix m).coreAt c).ranges = (s.coreAt c).ranges ++
        ((m.ranges s.coreId).filter fun x => x.1 = c).map (lockOf (queueParty s.core) s.core.mq.next) := by
  obtain ⟨q, e, cmds, next⟩ := acceptMatrix_eq empty m
  have locks := coreAt_enterLocks s (queueParty s.core) s.core.mq.next (m.ranges s.coreId)
  obtain ⟨memory, ranges, core⟩ := enterLocks_keeps s (queueParty s.core) s.core.mq.next (m.ranges s.coreId)
  rw [e]
  generalize s.enterLocks (queueParty s.core) s.core.mq.next (m.ranges s.coreId) = locked at *
  have slot : locked.sl = s.sl := (congrArg (fun c : Core => c.slots[c.cur]) core :)
  have kept : MatrixKept (locked.withQueue q) (((locked.withQueue q).complete .mx (w64 s.core.mq.next) 0).count 9) :=
    (matrixKept_onSl _ _).trans (matrixKept_count _ 9)
  refine ⟨?_, ?_, ?_, ?_, fun c => ?_⟩
  · have focus : (locked.withQueue q).sl = s.sl := slot
    rw [State.sl_count, State.complete, State.sl_onSl, focus, unblock_issuing awake]
  · have stored : SameMemory locked (locked.withQueue q) := sameMemory_of rfl rfl rfl rfl rfl rfl rfl
    exact ((memory.trans stored).trans (sameMemory_onSl _ _)).trans (sameMemory_count _ 9)
  · rw [kept.1]
    exact cmds.trans (by rw [core])
  · rw [kept.1]
    exact next
  · have behind : ((locked.withQueue q).coreAt c).ranges = (locked.coreAt c).ranges := locked.coreAt_onCore_keeps (·.ranges) rfl c
    rw [kept.2 c, behind, locks c]

theorem noRoom_none (room : ∀ c, (s.coreAt c).ranges.length + ((m.ranges s.coreId).filter fun x => x.1 = c).length ≤ 64) :
    s.noRoom (m.ranges s.coreId) = none := by
  simp only [State.noRoom, List.find?_eq_none, decide_eq_true_eq, Nat.not_lt]
  exact fun r _ => room r.1

/-- The slot of an accepted trigger once its bundle is retired. -/
theorem ran_answered (s : State) (u : FU) (h : Hdr) (q q2 : Word) :
    s.ran u h (answered q q2) = ((s.latched u h).sl.setResult u q q2).retired := by
  rw [ran_eq, ← csr_latched s u h]
  rfl

/-- A command that passes its checks, and finds a place and room, is accepted. -/
theorem matrix_accepted (g : Goes .mx cls h s) (passes : s.mxFault (offered s cls h) = none) (empty : s.sl.sb = [])
    (first : s.core.mq.waiting = []) (place : s.core.mq.cmds.length < 4)
    (room : ∀ c, (s.coreAt c).ranges.length + (((offered s cls h).ranges s.coreId).filter fun x => x.1 = c).length ≤ 64) :
    ∃ t, execTrigger .mx cls h (mxCommand cls) s = .next t ∧ t.sl = s.ran .mx h (answered (w64 s.core.mq.next) 0) ∧
      t.core.mq.cmds = s.core.mq.cmds ++ [(s.latched .mx h).queued (offered s cls h)] ∧ t.core.mq.next = nextSeq s.core.mq.next ∧
      SameMemory s t ∧ ∀ c, (t.coreAt c).ranges = (s.coreAt c).ranges ++
        (((offered s cls h).ranges s.coreId).filter fun x => x.1 = c).map (lockOf (myQueue s) s.core.mq.next) := by
  have kept : MatrixKept s (s.latched .mx h) := by
    rw [latched_setSl]
    exact matrixKept_onSl s fun _ => (s.latched .mx h).sl
  have core : (s.latched .mx h).coreId = s.coreId := rfl
  have fits : (s.latched .mx h).noRoom ((offered s cls h).ranges s.coreId) = none := by
    refine noRoom_none (s := s.latched .mx h) fun c => ?_
    rw [kept.2 c]
    exact room c
  have op : mxCommand cls (s.latched .mx h) = .ok ((s.latched .mx h).acceptMatrix (offered s cls h)) := by
    have noOther : (s.latched .mx h).core.mq.waiting = [] := by rw [kept.1, first]
    have free : decide (4 ≤ (s.latched .mx h).core.mq.cmds.length) = false := by
      rw [kept.1]
      exact decide_eq_false (Nat.not_le.2 place)
    rw [mxCommand_latched g, passes]
    simp only [State.offerMatrix, noOther, free, core, fits, List.head?_nil, Option.map_none, Option.any_none, Bool.or_self,
      Bool.false_eq_true, if_false]
  have noStore : (s.latched .mx h).sl.sb = [] := by rw [sl_latched]; exact empty
  obtain ⟨slot, memory, cmds, next, ranges⟩ := acceptMatrix_leaves (latched_issuing g) noStore (offered s cls h)
  obtain ⟨t, e, retired, memory2, kept2⟩ := execTrigger_retires g op (by rw [slot, sl_latched]; rfl) (by rw [slot, sl_latched]; rfl)
    (by rw [slot, sl_latched]; rfl) (by rw [slot, sl_latched]; nofun)
  rw [kept.1] at slot cmds next
  refine ⟨t, e, ?_, ?_, ?_, ((sameMemory_latched s .mx h).trans memory).trans memory2, fun c => ?_⟩
  · rw [retired, slot, ran_answered]
  · rw [kept2.1, cmds]
  · rw [kept2.1, next]
  · rw [kept2.2 c, ranges c, kept.2 c, party_latched, kept.1, core]

/-! ## The statements -/

theorem class_bounds {r : Nat × (Hdr → Instr)} (hr : r ∈ matrixTable) : 1 ≤ r.1 ∧ r.1 ≤ 9 := by
  simp only [matrixTable, List.mem_cons, List.not_mem_nil, or_false] at hr
  rcases hr with rfl | rfl | rfl | rfl | rfl | rfl | rfl | rfl | rfl <;> decide

/-- Settles O28: a command that passes its checks is offered, and accepted where there are a place and room. -/
theorem matrixCommandsAreAccepted : Obligations.MatrixCommandsAreAccepted := by
  intro r hr h s g empty first place m passes room n
  obtain ⟨t, e, slot, cmds, next, memory, ranges⟩ := matrix_accepted g passes empty first place room
  obtain ⟨layout, command⟩ := offered_eq s r.1 h
  refine ⟨t, (exec_matrix hr h s).trans e, slot, ⟨_, cmds, ?_, ?_⟩, next, memory, ranges⟩
  · rfl
  · simp only [m, State.queued, command]
    rfl

/-- Settles O29: the first item of R186 in its order, every other check by the trap of the first one failed, and the wait for a place. -/
theorem matrixCommandsTrapOrWait : Obligations.MatrixCommandsTrapOrWait := by
  intro r hr h s g m bad badP badQ badC badT
  obtain ⟨low, high⟩ := class_bounds hr
  have cls : m.cls = r.1 := cls_offered s r.1 h
  have trap {value : Word} (early : s.mxEarly m = some (0x02, value)) : exec (r.2 h) s = .next (enterTrap 0x02 value s.sl.pc s) :=
    exec_matrix_trap hr g (mxFault_of_before (mxBefore_of_early early))
  have p : useBad (mxUse m.cls).1 m.p = true ↔ badP := by rw [useBad_iff, cls]
  have q : useBad (mxUse m.cls).2 m.q = true ↔ badQ := by rw [useBad_iff, cls]
  have c : m.controlBad = true ↔ badC := by rw [controlBad_iff (cls ▸ low) (cls ▸ high), cls]
  have t : m.triggerBad = true ↔ badT := by rw [triggerBad_iff (cls ▸ low) (cls ▸ high), cls]
  obtain ⟨one, two, three, four⟩ := mxEarly_unused s m
  simp only [← p, ← q, ← c, ← t, Bool.not_eq_true]
  exact ⟨fun a => trap (one a), fun a b => trap (two a b), fun a b d => trap (three a b d), fun a b d e => trap (four a b d e),
    fun code tval f => exec_matrix_trap hr g f,
    fun passes full _ untraced may => exec_matrix hr h s ▸ matrix_waits g passes full untraced may⟩

end Sys2Proof.Machine
end

section
/-! PROOF. The integer units (spec/04_scalar_control_ops.md R102 to R107): each operation of the model is the one that the table gives over
numbers, and an operation answers from its unit's latches. -/

set_option autoImplicit false
set_option Elab.async false

namespace Sys2Proof.Machine

open Sys2Proof.Claims

/-! ## Signed low bits -/

/-- The model's SEXT is the signed number of the low bits. -/
theorem sext_eq (x n : Nat) : sext x n = signedLow n (x : Int) := by
  have low : ((x : Int) % ((2 ^ n : Nat) : Int)) = ((x % 2 ^ n : Nat) : Int) := (Int.natCast_emod x (2 ^ n)).symm
  rw [sext, signedLow, Int.bmod_def, low]
  by_cases small : 2 * (x % 2 ^ n) < 2 ^ n
  · rw [if_pos small, if_pos (by omega), BitVec.ofInt_natCast]
  · rw [if_neg small, if_neg (by omega)]

theorem zext_eq (x n : Nat) : zext x n = BitVec.ofNat 64 (x % 2 ^ n) := rfl

/-- Signed low bits depend on the low bits alone. -/
theorem signedLow_congr {n : Nat} {x y : Int} (e : x % ((2 ^ n : Nat) : Int) = y % ((2 ^ n : Nat) : Int)) : signedLow n x = signedLow n y := by
  rw [signedLow, signedLow, Int.bmod_def, Int.bmod_def, e]

theorem signedLow_zero (x : Int) : signedLow 0 x = 0 := by
  rw [signedLow, Nat.pow_zero, Int.bmod_one]
  rfl

/-- Of 64 bits the signed number is the word itself. -/
theorem signedLow_word (x : Int) : signedLow 64 x = BitVec.ofInt 64 x := by
  apply BitVec.eq_of_toInt_eq
  rw [signedLow, BitVec.toInt_ofInt, BitVec.toInt_ofInt, Int.bmod_bmod]

/-! ## Results over numbers: arithmetic, shifts and rotates (R103) -/

section
variable (a b t : Word)

theorem bits_low6 : bits t 5 0 = t.toNat % 64 := by simp [bits]

theorem bits_low5 : bits t 4 0 = t.toNat % 32 := by simp [bits]

theorem aluAdd_eq : aluAdd a b t = BitVec.ofNat 64 (a.toNat + t.toNat) := by
  apply BitVec.eq_of_toNat_eq
  simp [aluAdd]

theorem aluSub_eq : aluSub a b t = BitVec.ofInt 64 (a.toInt - t.toInt) := by
  apply BitVec.eq_of_toInt_eq
  simp [aluSub, BitVec.toInt_sub]

theorem aluSll_eq : aluSll a b t = BitVec.ofNat 64 (a.toNat * 2 ^ (t.toNat % 64)) := by
  apply BitVec.eq_of_toNat_eq
  rw [aluSll, bits_low6, BitVec.toNat_shiftLeft, BitVec.toNat_ofNat, Nat.shiftLeft_eq]

theorem aluSrl_eq : aluSrl a b t = BitVec.ofNat 64 (a.toNat / 2 ^ (t.toNat % 64)) := by
  apply BitVec.eq_of_toNat_eq
  rw [aluSrl, bits_low6, BitVec.toNat_ushiftRight, BitVec.toNat_ofNat, Nat.shiftRight_eq_div_pow,
    Nat.mod_eq_of_lt ((Nat.div_le_self _ _).trans_lt a.isLt)]

theorem aluSra_eq : aluSra a b t = BitVec.ofInt 64 (a.toInt / 2 ^ (t.toNat % 64)) := by
  apply BitVec.eq_of_toInt_eq
  rw [aluSra, bits_low6, ← BitVec.ofInt_toInt (x := a.sshiftRight _), BitVec.toInt_sshiftRight, Int.shiftRight_eq_div_pow]
  norm_cast

/-- The high part of a rotated word lies below the low part. -/
theorem rotate_eq (n : Nat) (le : n ≤ 64) :
    a <<< n ||| a >>> (64 - n) = BitVec.ofNat 64 (a.toNat * 2 ^ n + a.toNat / 2 ^ (64 - n)) := by
  have below : a.toNat / 2 ^ (64 - n) < 2 ^ n := Nat.div_lt_of_lt_mul (by rw [← Nat.pow_add, Nat.sub_add_cancel le]; exact a.isLt)
  have whole : 2 ^ 64 = 2 ^ n * 2 ^ (64 - n) := by rw [← Nat.pow_add, Nat.add_sub_cancel' le]
  apply BitVec.eq_of_toNat_eq
  rw [BitVec.toNat_or, BitVec.toNat_shiftLeft, BitVec.toNat_ushiftRight, BitVec.toNat_ofNat, Nat.shiftLeft_eq, Nat.shiftRight_eq_div_pow,
    whole, Nat.mul_comm a.toNat, Nat.mul_mod_mul_left, ← Nat.two_pow_add_eq_or_of_lt below, Nat.mod_mul, Nat.mul_add_mod_self_left,
    Nat.mod_eq_of_lt below, Nat.mul_add_div (Nat.two_pow_pos n), Nat.div_eq_of_lt below, Nat.add_zero, Nat.add_comm]

theorem aluRol_eq : aluRol a b t = BitVec.ofNat 64 (a.toNat * 2 ^ (t.toNat % 64) + a.toNat / 2 ^ (64 - t.toNat % 64)) := by
  have le : t.toNat % 64 ≤ 64 := (Nat.mod_lt _ (by decide)).le
  rw [aluRol, bits_low6, BitVec.rotateLeft_def, Nat.mod_mod, rotate_eq a _ le]

theorem aluRor_eq : aluRor a b t =
    BitVec.ofNat 64 (a.toNat / 2 ^ (t.toNat % 64) + a.toNat % 2 ^ (t.toNat % 64) * 2 ^ (64 - t.toNat % 64)) := by
  have le : t.toNat % 64 ≤ 64 := (Nat.mod_lt _ (by decide)).le
  have whole : 2 ^ 64 = 2 ^ (t.toNat % 64) * 2 ^ (64 - t.toNat % 64) := by rw [← Nat.pow_add, Nat.add_sub_cancel' le]
  have turned := rotate_eq a (64 - t.toNat % 64) (Nat.sub_le _ _)
  rw [Nat.sub_sub_self le] at turned
  rw [aluRor, bits_low6, BitVec.rotateRight_def, Nat.mod_mod, BitVec.or_comm, turned]
  apply BitVec.eq_of_toNat_eq
  rw [BitVec.toNat_ofNat, BitVec.toNat_ofNat, Nat.add_comm, Nat.add_mod, Nat.add_mod _ (_ * _)]
  congr 2
  rw [whole, Nat.mul_mod_mul_right, Nat.mul_mod_mul_right, Nat.mod_mod]

/-! ## Comparisons and the choice (R103, R104) -/

theorem slt_iff : a.slt t = true ↔ a.toInt < t.toInt := BitVec.slt_iff_toInt_lt

theorem ult_iff : a.ult t = true ↔ a.toNat < t.toNat := BitVec.ult_iff_lt

theorem aluMin_eq : aluMin a b t = BitVec.ofInt 64 (min a.toInt t.toInt) := by
  rw [aluMin]
  split
  · next less => rw [min_eq_left ((slt_iff a t).1 less).le, BitVec.ofInt_toInt]
  · next more => rw [min_eq_right (not_lt.1 (more ∘ (slt_iff a t).2)), BitVec.ofInt_toInt]

theorem aluMax_eq : aluMax a b t = BitVec.ofInt 64 (max a.toInt t.toInt) := by
  rw [aluMax]
  split
  · next less => rw [max_eq_right ((slt_iff a t).1 less).le, BitVec.ofInt_toInt]
  · next more => rw [max_eq_left (not_lt.1 (more ∘ (slt_iff a t).2)), BitVec.ofInt_toInt]

theorem aluMinu_eq : aluMinu a b t = BitVec.ofNat 64 (min a.toNat t.toNat) := by
  rw [aluMinu]
  split
  · next less => rw [min_eq_left ((ult_iff a t).1 less).le, BitVec.ofNat_toNat, BitVec.setWidth_eq]
  · next more => rw [min_eq_right (not_lt.1 (more ∘ (ult_iff a t).2)), BitVec.ofNat_toNat, BitVec.setWidth_eq]

theorem aluMaxu_eq : aluMaxu a b t = BitVec.ofNat 64 (max a.toNat t.toNat) := by
  rw [aluMaxu]
  split
  · next less => rw [max_eq_right ((ult_iff a t).1 less).le, BitVec.ofNat_toNat, BitVec.setWidth_eq]
  · next more => rw [max_eq_left (not_lt.1 (more ∘ (ult_iff a t).2)), BitVec.ofNat_toNat, BitVec.setWidth_eq]

/-- A flag is the truth value of what its bit says. -/
theorem flag_eq {c : Bool} {P : Prop} [Decidable P] (e : c = true ↔ P) : flag c = truth P := by
  rw [flag, truth]
  exact if_congr e rfl rfl

theorem aluCeq_eq : aluCeq a b t = truth (a.toNat = t.toNat) := flag_eq (by rw [beq_iff_eq, BitVec.toNat_inj])

theorem aluCne_eq : aluCne a b t = truth (a.toNat ≠ t.toNat) := flag_eq (by rw [bne_iff_ne, Ne, Ne, BitVec.toNat_inj])

theorem aluClt_eq : aluClt a b t = truth (a.toInt < t.toInt) := flag_eq (slt_iff a t)

theorem aluCltu_eq : aluCltu a b t = truth (a.toNat < t.toNat) := flag_eq (ult_iff a t)

theorem aluCge_eq : aluCge a b t = truth (t.toInt ≤ a.toInt) :=
  flag_eq (by rw [Bool.not_eq_true', ← Bool.not_eq_true, slt_iff, not_lt])

theorem aluCgeu_eq : aluCgeu a b t = truth (t.toNat ≤ a.toNat) :=
  flag_eq (by rw [Bool.not_eq_true', ← Bool.not_eq_true, ult_iff, not_lt])

theorem aluSel_eq : aluSel a b t = if t.toNat = 0 then b else a := by
  rw [aluSel, ← ite_not]
  exact if_congr (by rw [bne_iff_ne, not_not, ← BitVec.toNat_inj]; rfl) rfl rfl

/-! ## Bit counts (R105) -/

theorem aluPopc_eq : aluPopc a b t = BitVec.ofNat 64 ((List.range 64).countP fun i => t.getLsbD i) := by
  rw [List.countP_eq_length_filter]
  rfl

theorem aluClz_eq : aluClz a b t = BitVec.ofNat 64 (64 - (if t.toNat = 0 then 0 else t.toNat.log2 + 1)) := by
  have zero : (t == 0) = true ↔ t.toNat = 0 := by rw [beq_iff_eq, ← BitVec.toNat_inj]; rfl
  rw [aluClz, leadingZeros, w64]
  by_cases e : t.toNat = 0
  · rw [if_pos e, if_pos (zero.2 e)]
  · rw [if_neg e, if_neg (e ∘ zero.1), Nat.add_comm, Nat.sub_add_eq]

/-- The first number of a run with a property, or its end, comes after those without it. -/
theorem find_range' (p : Nat → Bool) (n k : Nat) :
    ((List.range' k n).find? p).getD (k + n) = k + ((List.range' k n).takeWhile fun i => !p i).length := by
  induction n generalizing k with
  | zero => rfl
  | succ n ih =>
    rw [List.range'_succ, List.find?_cons, List.takeWhile_cons]
    cases p k with
    | true => rfl
    | false =>
      have next := ih (k + 1)
      simp only [Bool.not_false, if_true, List.length_cons]
      rw [← Nat.add_assoc, Nat.add_right_comm, next, Nat.add_right_comm, Nat.add_assoc]

theorem aluCtz_eq : aluCtz a b t = BitVec.ofNat 64 ((List.range 64).takeWhile fun i => !t.getLsbD i).length := by
  have found := find_range' (bit t) 64 0
  rw [← List.range_eq_range', Nat.zero_add, Nat.zero_add] at found
  rw [aluCtz, trailingZeros, found]
  rfl

/-! ## Bit fields (R106) -/

theorem fieldLen_eq : fieldLen t = fieldSize t := by simp [fieldLen, fieldSize, bits]

theorem aluExt_eq : aluExt a b t = signedLow (fieldSize t) (a.toNat / 2 ^ fieldPos t : Nat) := by
  rw [aluExt, extField]
  simp only [fieldLen_eq, bits_low6, sext_eq, if_true, beq_iff_eq]
  split
  · next none => rw [none, signedLow_zero]
  · rfl

theorem aluExtu_eq : aluExtu a b t = BitVec.ofNat 64 (a.toNat / 2 ^ fieldPos t % 2 ^ fieldSize t) := by
  rw [aluExtu, extField]
  simp only [fieldLen_eq, bits_low6, zext_eq, Bool.false_eq_true, if_false, beq_iff_eq]
  split
  · next none =>
    rw [none, Nat.pow_zero, Nat.mod_one]
    rfl
  · rfl

theorem aluIns_eq : aluIns a b t = BitVec.ofNat 64 (a.toNat % 2 ^ fieldPos t + b.toNat % 2 ^ fieldSize t * 2 ^ fieldPos t +
    a.toNat / 2 ^ (fieldPos t + fieldSize t) * 2 ^ (fieldPos t + fieldSize t)) := by
  rw [aluIns, insField]
  simp only [fieldLen_eq, bits_low6, beq_iff_eq]
  split
  · next none =>
    rw [none, Nat.pow_zero, Nat.mod_one, Nat.zero_mul, Nat.add_zero, Nat.add_zero, Nat.mod_add_div', BitVec.ofNat_toNat, BitVec.setWidth_eq]
  · next some =>
    have top : t.toNat % 64 + fieldSize t - 1 + 1 = t.toNat % 64 + fieldSize t := by omega
    rw [setBits, top, Nat.add_sub_cancel_left]
    rfl

/-! ## Word forms (R107) -/

theorem aluAddw_eq : aluAddw a b t = signedLow 32 (a.toNat + t.toNat) := by
  rw [aluAddw, sext_eq, BitVec.toNat_add]
  exact signedLow_congr (by omega)

theorem aluSubw_eq : aluSubw a b t = signedLow 32 (a.toNat - t.toNat) := by
  have lt := t.isLt
  rw [aluSubw, sext_eq, BitVec.toNat_sub]
  exact signedLow_congr (by omega)

theorem low32_toNat : (low32 a).toNat = a.toNat % 2 ^ 32 := BitVec.toNat_setWidth 32 a

theorem aluSllw_eq : aluSllw a b t = signedLow 32 (a.toNat * 2 ^ (t.toNat % 32)) := by
  rw [aluSllw, sext_eq, bits_low5, BitVec.toNat_shiftLeft, low32_toNat, Nat.shiftLeft_eq]
  apply signedLow_congr
  norm_cast
  rw [Nat.mod_mod, Nat.mod_mul_mod]

theorem aluSrlw_eq : aluSrlw a b t = signedLow 32 (a.toNat % 2 ^ 32 / 2 ^ (t.toNat % 32) : Nat) := by
  rw [aluSrlw, sext_eq, bits_low5, BitVec.toNat_ushiftRight, low32_toNat, Nat.shiftRight_eq_div_pow]

theorem aluSraw_eq : aluSraw a b t = BitVec.ofInt 64 ((a.toNat : Int).bmod (2 ^ 32) / 2 ^ (t.toNat % 32)) := by
  have low : (low32 a).toInt = (a.toNat : Int).bmod (2 ^ 32) := by
    rw [BitVec.toInt_eq_toNat_bmod, low32_toNat, Int.natCast_emod, Int.emod_bmod]
  have shifted : ((low32 a).sshiftRight (t.toNat % 32)).toInt = (a.toNat : Int).bmod (2 ^ 32) / 2 ^ (t.toNat % 32) := by
    rw [BitVec.toInt_sshiftRight, low, Int.shiftRight_eq_div_pow]
    norm_cast
  rw [aluSraw, bits_low5, sext_eq, signedLow, ← BitVec.toInt_eq_toNat_bmod, shifted]

end

/-! ## The statement -/

variable {u : FU} {opc : Nat} {h : Hdr} {s : State}

/-- An integer operation whose result is the table's answers it. -/
theorem alu_answers {f k : Word → Word → Word → Word} (e : ∀ a b t, f a b t = k a b t) (g : Goes u opc h s) :
    ∃ t, execTrigger u opc h (alu u f) s = .next t ∧ Answers u h (k (s.lat u).a (s.lat u).b (s.moved64 h)) 0 s t :=
  answers_complete g (by rw [alu, lat_latched, e])

/-- A table's row is settled by what its operation computes, on either unit. -/
def AnswersRow (r : IntegerRow) : Prop :=
  ∃ f, (∀ a b t, f a b t = r.2.2.2 a b t) ∧ (∀ h s, exec (r.2.1 h) s = execTrigger .ia r.1 h (alu .ia f) s) ∧
    ∀ h s, exec (r.2.2.1 h) s = execTrigger .ib r.1 h (alu .ib f) s

theorem integerRows_of {rows : List IntegerRow} (each : ∀ r ∈ rows, AnswersRow r) : IntegerRows rows := by
  intro r hr h s
  obtain ⟨f, e, ia, ib⟩ := each r hr
  rw [ia, ib]
  exact ⟨alu_answers e, alu_answers e⟩

theorem answersRow {i j : Hdr → Instr} {f k : Word → Word → Word → Word} (e : ∀ a b t, f a b t = k a b t)
    (ia : ∀ h s, exec (i h) s = execTrigger .ia opc h (alu .ia f) s := by exact fun _ _ => rfl)
    (ib : ∀ h s, exec (j h) s = execTrigger .ib opc h (alu .ib f) s := by exact fun _ _ => rfl) : AnswersRow (opc, i, j, k) :=
  ⟨f, e, ia, ib⟩

theorem arithmetic_rows : ∀ r ∈ arithmeticTable, AnswersRow r := by
  simp only [arithmeticTable, List.forall_mem_cons, List.not_mem_nil, false_imp_iff, implies_true, and_true]
  exact ⟨answersRow aluAdd_eq, answersRow aluSub_eq, answersRow (f := aluAnd) fun _ _ _ => rfl,
    answersRow (f := aluOr) fun _ _ _ => rfl, answersRow (f := aluXor) fun _ _ _ => rfl, answersRow (f := aluAndn) fun _ _ _ => rfl,
    answersRow aluSll_eq, answersRow aluSrl_eq, answersRow aluSra_eq, answersRow aluRol_eq, answersRow aluRor_eq⟩

theorem comparison_rows : ∀ r ∈ comparisonTable, AnswersRow r := by
  simp only [comparisonTable, List.forall_mem_cons, List.not_mem_nil, false_imp_iff, implies_true, and_true]
  exact ⟨answersRow aluMin_eq, answersRow aluMax_eq, answersRow aluMinu_eq, answersRow aluMaxu_eq, answersRow aluCeq_eq,
    answersRow aluCne_eq, answersRow aluClt_eq, answersRow aluCltu_eq, answersRow aluCge_eq, answersRow aluCgeu_eq, answersRow aluSel_eq⟩

theorem field_rows : ∀ r ∈ fieldTable, AnswersRow r := by
  simp only [fieldTable, List.forall_mem_cons, List.not_mem_nil, false_imp_iff, implies_true, and_true]
  exact ⟨answersRow aluPopc_eq, answersRow aluClz_eq, answersRow aluCtz_eq, answersRow aluExt_eq, answersRow aluExtu_eq,
    answersRow aluIns_eq, answersRow (f := aluSxb) fun _ _ t => sext_eq t.toNat 8, answersRow (f := aluSxh) fun _ _ t => sext_eq t.toNat 16,
    answersRow (f := aluSxw) fun _ _ t => sext_eq t.toNat 32, answersRow (f := aluZxb) fun _ _ _ => rfl,
    answersRow (f := aluZxh) fun _ _ _ => rfl, answersRow (f := aluZxw) fun _ _ _ => rfl, answersRow aluAddw_eq, answersRow aluSubw_eq,
    answersRow aluSllw_eq, answersRow aluSrlw_eq, answersRow aluSraw_eq⟩

/-- Settles O1: every row of the three tables is what its operation computes, and an operation answers from its latches. -/
theorem integerResults : Obligations.IntegerResults :=
  integerRows_of fun r hr => by
    rcases List.mem_append.1 hr with hr | hr
    · exact (List.mem_append.1 hr).elim (arithmetic_rows r) (comparison_rows r)
    · exact field_rows r hr

end Sys2Proof.Machine
end

section
/-! PROOF. The address unit (spec/04_scalar_control_ops.md R108 to R115): each operation of the model comes to its table's answer. -/

set_option autoImplicit false
set_option Elab.async false

namespace Sys2Proof.Machine

open Sys2Proof.Claims

/-- What a trigger of `ag` comes to, from its table's answer. -/
def addressRes (s : State) : Answer → Res
  | .ok q => .ok (s.complete .ag q 0)
  | .error (code, tval) => .trap code tval

/-! ## The fields of a pointer (R76) -/

section
variable (w : Word)

theorem bits_tag : bits w 63 56 = w.toNat / 2 ^ 56 := Nat.mod_eq_of_lt (by have lt := w.isLt; omega)

theorem bits_format : bits w 63 59 = w.toNat / 2 ^ 59 := Nat.mod_eq_of_lt (by have lt := w.isLt; omega)

theorem bits_address : bits w 55 0 = w.toNat % 2 ^ 56 := by rw [bits, Nat.pow_zero, Nat.div_one]

theorem bits_low (n : Nat) : bits w n 0 = w.toNat % 2 ^ (n + 1) := by rw [bits, Nat.pow_zero, Nat.div_one, Nat.sub_zero]

end

/-- The bits of an element of a format are those of the table, which ends at code 15 (R77). -/
theorem widths_format (f : Nat) : widths[f]? = if f < 16 then some (formatBits f) else none := by
  by_cases lt : f < 16
  · rw [if_pos lt]
    interval_cases f <;> rfl
  · rw [if_neg lt]
    exact List.getElem?_eq_none (not_lt.1 lt)

theorem addressRes_ite (s : State) (c : Prop) [Decidable c] (x y : Answer) :
    addressRes s (if c then x else y) = if c then addressRes s x else addressRes s y := apply_ite ..

/-! ## The operations, from the latches -/

section
variable {s : State} {l : Lat}

theorem movePointer_eq (s : State) (a : Word) (d : Int) : movePointer s a d = addressRes s (shifted a d) := by
  simp only [movePointer, shifted, withTag, bits_tag, bits_address, Bool.or_eq_true, decide_eq_true_eq, addressRes_ite]
  rfl

theorem agPadd_eq (e : s.lat .ag = l) : agPadd s = addressRes s (shifted l.a l.t.toInt) := by
  subst e
  exact movePointer_eq s _ _

theorem agPsub_eq (e : s.lat .ag = l) :
    agPsub s = addressRes s (.ok (BitVec.ofInt 64 ((l.a.toNat % 2 ^ 56 : Nat) - (l.t.toNat % 2 ^ 56 : Nat)))) := by
  subst e
  have difference (x y : Nat) : w64 x - w64 y = BitVec.ofInt 64 ((x : Int) - (y : Int)) := by
    apply BitVec.eq_of_toInt_eq
    rw [w64, w64, BitVec.toInt_sub, BitVec.toInt_ofNat', BitVec.toInt_ofNat', BitVec.toInt_ofInt, Int.bmod_sub_bmod, Int.sub_bmod_bmod]
  rw [agPsub, bits_address, bits_address, difference]
  rfl

theorem agPtag_eq (e : s.lat .ag = l) : agPtag s = addressRes s (if 16 ≤ l.t.toNat / 8 % 32 then .error (0x0A, l.t)
    else .ok (BitVec.ofNat 64 (l.t.toNat % 256 * 2 ^ 56 + l.a.toNat % 2 ^ 56))) := by
  subst e
  rw [addressRes_ite, agPtag, bits_low, bits_low]
  rfl

theorem agPfmt_eq (e : s.lat .ag = l) : agPfmt s = addressRes s (.ok (BitVec.ofNat 64 (l.t.toNat / 2 ^ 59))) := by
  subst e
  rw [agPfmt, bits_format]
  rfl

theorem agPblk_eq (e : s.lat .ag = l) : agPblk s =
    addressRes s (.ok (if l.t.toNat / 2 ^ 56 % 8 = 0 then 0 else BitVec.ofNat 64 (8 * 2 ^ (l.t.toNat / 2 ^ 56 % 8)))) := by
  subst e
  have field : bits (s.lat .ag).t 58 56 = (s.lat .ag).t.toNat / 2 ^ 56 % 8 := rfl
  have block (n : Nat) : w64 (blockLen n) = if n = 0 then 0 else BitVec.ofNat 64 (8 * 2 ^ n) := by
    rw [blockLen, apply_ite w64, pow_add, mul_comm]
    exact if_congr beq_iff_eq rfl rfl
  rw [agPblk, field, block]
  rfl

theorem agPclr_eq (e : s.lat .ag = l) : agPclr s = addressRes s (.ok (BitVec.ofNat 64 (l.t.toNat % 2 ^ 56))) := by
  subst e
  rw [agPclr, bits_address]
  rfl

theorem agPidx_eq (e : s.lat .ag = l) : agPidx s = addressRes s (
    if l.a.toNat / 2 ^ 59 < 16 then
      let n := l.t.toInt * (formatBits (l.a.toNat / 2 ^ 59) : Int)
      if ¬ (8 : Int) ∣ n then .error (0x0A, l.a) else shifted l.a (n / 8)
    else .error (0x0A, l.a)) := by
  subst e
  rw [agPidx, bits_format]
  by_cases known : (s.lat .ag).a.toNat / 2 ^ 59 < 16
  · rw [if_pos known, if_neg (Nat.not_le.2 known), addressRes_ite, movePointer_eq]
    exact if_congr (by rw [bne_iff_ne, Ne, Int.dvd_iff_emod_eq_zero]) rfl rfl
  · rw [if_neg known, if_pos (Nat.not_lt.1 known)]
    rfl

theorem agCadr_eq (e : s.lat .ag = l) : agCadr s = addressRes s (if s.coreId.kind ≠ .compute then .error (0x02, l.t)
    else if 256 ≤ l.a.toNat then .error (0x07, l.a) else if 0x30000 ≤ l.t.toNat then .error (0x07, l.t)
    else .ok (BitVec.ofNat 64 (l.a.toNat * 2 ^ 18 + l.t.toNat))) := by
  subst e
  rw [agCadr, addressRes_ite, addressRes_ite, addressRes_ite]
  exact if_congr bne_iff_ne rfl rfl

theorem agLcl_eq (e : s.lat .ag = l) : agLcl s = addressRes s (if s.coreId.kind ≠ .compute then .error (0x02, l.t)
    else if 0x30000 ≤ l.t.toNat then .error (0x07, l.t) else .ok (BitVec.ofNat 64 (0x4000000 + l.t.toNat))) := by
  subst e
  rw [agLcl, addressRes_ite, addressRes_ite]
  exact if_congr bne_iff_ne rfl rfl

theorem agCoord_eq (e : s.lat .ag = l) : agCoord s = addressRes s (
    let row := l.t.toNat / 2 ^ 8 % 32
    let col := l.t.toNat % 32
    if s.coreId.kind ≠ .compute then .error (0x02, l.t)
    else if ¬ (row / 16 = s.core.row / 16 ∧ col / 16 = s.core.col / 16) then .error (0x07, l.t)
    else .ok (BitVec.ofNat 64 ((row % 16 * 16 + col % 16) * 2 ^ 18))) := by
  subst e
  rw [agCoord, addressRes_ite, addressRes_ite, bits_low]
  exact if_congr bne_iff_ne rfl (if_congr (by rw [Bool.or_eq_true, bne_iff_ne, bne_iff_ne, ← not_and_or]; rfl) rfl rfl)

end

/-! ## The statement -/

variable {h : Hdr} {s : State}

/-- A trigger of `ag` answers, or traps on the state before its bundle, as its operation comes to. -/
theorem address_row {opc : Nat} {op : State → Res} {x : Answer} (g : Goes .ag opc h s)
    (e : op (s.latched .ag h) = addressRes (s.latched .ag h) x) :
    (∀ q, x = .ok q → ∃ t, execTrigger .ag opc h op s = .next t ∧ Answers .ag h q 0 s t) ∧
    (∀ code tval, x = .error (code, tval) → execTrigger .ag opc h op s = .next (enterTrap code tval s.sl.pc s)) := by
  constructor
  · rintro q rfl
    exact answers_complete g e
  · rintro code tval rfl
    exact execTrigger_trap g e

/-- A table's row is settled by an operation that comes to its answer on the latches that the trigger finds. -/
def AddressRowIs (r : AddressRow) (op : State → Res) : Prop :=
  (∀ h s, exec (r.2.1 h) s = execTrigger .ag r.1 h op s) ∧
    ∀ (h : Hdr) (s : State) (l : Lat), (s.latched .ag h).lat .ag = l →
      op (s.latched .ag h) = addressRes (s.latched .ag h) (r.2.2 s.coreId.kind s.core l.a l.t)

theorem address_rows {r : AddressRow} (hr : r ∈ addressTable) : ∃ op, AddressRowIs r op := by
  simp only [addressTable, List.mem_cons, List.not_mem_nil, or_false] at hr
  rcases hr with rfl | rfl | rfl | rfl | rfl | rfl | rfl | rfl | rfl | rfl
  · exact ⟨agPadd, fun _ _ => rfl, fun _ _ _ e => agPadd_eq e⟩
  · exact ⟨agPsub, fun _ _ => rfl, fun _ _ _ e => agPsub_eq e⟩
  · exact ⟨agPtag, fun _ _ => rfl, fun _ _ _ e => agPtag_eq e⟩
  · exact ⟨agPfmt, fun _ _ => rfl, fun _ _ _ e => agPfmt_eq e⟩
  · exact ⟨agPblk, fun _ _ => rfl, fun _ _ _ e => agPblk_eq e⟩
  · exact ⟨agPclr, fun _ _ => rfl, fun _ _ _ e => agPclr_eq e⟩
  · refine ⟨agPidx, fun _ _ => rfl, fun _ _ l e => (agPidx_eq e).trans (congrArg _ ?_)⟩
    dsimp only
    rw [widths_format]
    split <;> rfl
  · exact ⟨agCadr, fun _ _ => rfl, fun _ _ _ e => agCadr_eq e⟩
  · exact ⟨agLcl, fun _ _ => rfl, fun _ _ _ e => agLcl_eq e⟩
  · exact ⟨agCoord, fun _ _ => rfl, fun _ _ _ e => agCoord_eq e⟩

/-- Settles O2: each operation comes to its table's answer on the latches that its trigger finds. -/
theorem addressResults : Obligations.AddressResults := by
  intro r hr h s g
  obtain ⟨op, run, answer⟩ := address_rows hr
  have l := lat_latched s .ag h
  rw [run]
  exact address_row g (answer h s _ l)

end Sys2Proof.Machine
end

section
/-! PROOF. The multiplier and divider (spec/02_numbers.md R49; spec/04_scalar_control_ops.md R116 to R120): exact products, truncated quotients
and remainders, and the latencies of the divide forms. -/

set_option autoImplicit false
set_option Elab.async false

namespace Sys2Proof.Machine

open Sys2Proof.Claims

/-! ## Products (R117) -/

section
variable (a t : Word)

theorem mulLow_eq : mulLow a t = BitVec.ofNat 64 (a.toNat * t.toNat) := by
  apply BitVec.eq_of_toNat_eq
  rw [mulLow, BitVec.toNat_mul, BitVec.toNat_ofNat]

theorem mulHighU_eq : mulHighU a t = upperHalf ((a.toNat : Int) * t.toNat) := by
  rw [mulHighU, Nat.cast_mul]
  rfl

theorem mulWord_eq : mulWord a t = signedLow 32 (a.toNat % 2 ^ 32 * (t.toNat % 2 ^ 32) : Nat) := by
  rw [mulWord, sext_eq, bits_low, bits_low]

end

/-! ## Operands of a divide form (R49) -/

section
variable (a t w : Word)

/-- A width in which divide forms work. -/
def DivideWidth (n : Nat) : Prop := n = 32 ∨ n = 64

variable {n : Nat}

/-- A signed number of no more than 64 bits is kept by its word. -/
theorem toInt_signedLow (x : Int) (dw : DivideWidth n) : (signedLow n x).toInt = x.bmod (2 ^ n) := by
  rw [signedLow, BitVec.toInt_ofInt]
  rcases dw with rfl | rfl
  · have low := Int.le_bmod (x := x) (m := 2 ^ 32) (by decide)
    have high := Int.bmod_lt (x := x) (m := 2 ^ 32) (by decide)
    exact Int.bmod_eq_of_le (by omega) (by omega)
  · exact Int.bmod_bmod

theorem signedPart_eq (dw : DivideWidth n) : signedPart w n = operand n true w := by
  rw [signedPart, sext_eq, toInt_signedLow _ dw]
  rfl

theorem operand_unsigned : operand 64 false w = (w.toNat : Int) := by
  rw [operand, if_neg Bool.false_ne_true, Nat.mod_eq_of_lt w.isLt]

theorem bits_operand (dw : DivideWidth n) : (bits w (n - 1) 0 : Int) = operand n false w := by
  have width : n - 1 + 1 = n := by rcases dw with rfl | rfl <;> rfl
  rw [bits_low, width]
  rfl

/-- The low bits of a word that holds a number are the number's. -/
theorem sext_ofInt (x : Int) (dw : DivideWidth n) : sext (BitVec.ofInt 64 x).toNat n = signedLow n x := by
  rw [sext_eq]
  apply signedLow_congr
  rcases dw with rfl | rfl
  · rw [BitVec.toNat_ofInt]
    omega
  · rw [BitVec.toNat_ofInt]
    omega

/-! ## Quotients and remainders (R49, R118) -/

theorem divided_zero (x : Int) : divided n x 0 = (-1, x) := if_pos rfl

/-- Away from zero the pair is the truncated one, but for the quotient that overflows, whose low bits are the same. -/
theorem divided_nonzero (x y : Int) (dw : DivideWidth n) (ne : y ≠ 0) :
    signedLow n (divided n x y).1 = signedLow n (x.tdiv y) ∧ (divided n x y).2 = x.tmod y := by
  rw [divided, if_neg ne]
  split
  · next bound =>
    obtain ⟨rfl, rfl⟩ := bound
    refine ⟨signedLow_congr ?_, by rw [Int.tmod_neg, Int.tmod_one]⟩
    rw [Int.tdiv_neg, Int.tdiv_one]
    rcases dw with rfl | rfl <;> rfl
  · exact ⟨rfl, rfl⟩

theorem signedLow_operand : signedLow n (operand n true w) = signedLow n (w.toNat : Int) := by
  apply signedLow_congr
  rw [operand, if_pos rfl, Int.bmod_emod]

theorem quotient_eq (dw : DivideWidth n) : quotient n a t = signedLow n (divided n (operand n true a) (operand n true t)).1 := by
  rw [quotient, signedPart_eq a dw, signedPart_eq t dw]
  by_cases zero : operand n true t = 0
  · rw [zero, divided_zero]
    rcases dw with rfl | rfl <;> rfl
  · rw [if_neg (by rwa [beq_iff_eq]), sext_ofInt _ dw, (divided_nonzero _ _ dw zero).1]

theorem remainder_eq (dw : DivideWidth n) : remainder n a t = signedLow n (divided n (operand n true a) (operand n true t)).2 := by
  rw [remainder, signedPart_eq a dw, signedPart_eq t dw]
  by_cases zero : operand n true t = 0
  · rw [zero, divided_zero, signedLow_operand, sext_eq]
    rfl
  · rw [if_neg (by rwa [beq_iff_eq]), sext_ofInt _ dw, (divided_nonzero _ _ dw zero).2]

theorem word_zero_iff : (w == 0) = true ↔ operand 64 false w = 0 := by
  rw [beq_iff_eq, operand_unsigned, Int.natCast_eq_zero, ← BitVec.toNat_inj]
  rfl

theorem quotientU_eq : quotientU a t = signedLow 64 (divided 64 (operand 64 false a) (operand 64 false t)).1 := by
  rw [quotientU]
  by_cases zero : operand 64 false t = 0
  · rw [if_pos ((word_zero_iff t).2 zero), zero, divided_zero]
    rfl
  · rw [if_neg (zero ∘ (word_zero_iff t).1), (divided_nonzero _ _ (.inr rfl) zero).1, signedLow_word, operand_unsigned, operand_unsigned,
      ← Int.ofNat_tdiv, BitVec.ofInt_natCast]
    rfl

theorem remainderU_eq : remainderU a t = signedLow 64 (divided 64 (operand 64 false a) (operand 64 false t)).2 := by
  rw [remainderU]
  by_cases zero : operand 64 false t = 0
  · rw [if_pos ((word_zero_iff t).2 zero), zero, divided_zero, signedLow_word, operand_unsigned, BitVec.ofInt_natCast, BitVec.ofNat_toNat,
      BitVec.setWidth_eq]
  · rw [if_neg (zero ∘ (word_zero_iff t).1), (divided_nonzero _ _ (.inr rfl) zero).2, signedLow_word, operand_unsigned, operand_unsigned,
      ← Int.ofNat_tmod, BitVec.ofInt_natCast]
    rfl

/-! ## Latencies (R119) -/

theorem divideLatency_eq (dw : DivideWidth n) (signed : Bool) :
    divideLatency n signed a t = divideCycles n signed (operand n signed a) (operand n signed t) := by
  have x : (if signed then signedPart a n else (bits a (n - 1) 0 : Int)) = operand n signed a := by
    cases signed
    · exact bits_operand a dw
    · exact signedPart_eq a dw
  have y : (if signed then signedPart t n else (bits t (n - 1) 0 : Int)) = operand n signed t := by
    cases signed
    · exact bits_operand t dw
    · exact signedPart_eq t dw
  simp only [divideLatency, divideCycles, x, y, Bool.or_eq_true, Bool.and_eq_true, beq_iff_eq, or_assoc, and_assoc]
  split
  · rfl
  · next some =>
    rw [significant, if_neg]
    rw [beq_iff_eq, Int.natAbs_eq_zero]
    exact fun zero => some (.inr (.inl zero))

end

/-! ## The statement -/

variable {opc n : Nat} {h : Hdr} {s : State} {f : Word → Word → Word}

theorem multiply_launches {k : Word → Word → Word} (e : ∀ a t, f a t = k a t) (g : Goes .mu opc h s) :
    ∃ t, execTrigger .mu opc h (multiply opc f) s = .next t ∧ Launches .mu opc h 3 3 (k (s.lat .mu).a (s.moved64 h)) 0 s t :=
  launches_launch g (by rw [multiply, lat_latched, e])

theorem multiply_rows {r : Nat × (Hdr → Instr) × (Word → Word → Word)} (hr : r ∈ multiplyTable) (g : Goes .mu r.1 h s) :
    ∃ t, exec (r.2.1 h) s = .next t ∧ Launches .mu r.1 h 3 3 (r.2.2 (s.lat .mu).a (s.moved64 h)) 0 s t := by
  simp only [multiplyTable, List.mem_cons, List.not_mem_nil, or_false] at hr
  rcases hr with rfl | rfl | rfl | rfl | rfl
  · exact multiply_launches mulLow_eq g
  · exact multiply_launches (f := mulHigh) (fun _ _ => rfl) g
  · exact multiply_launches mulHighU_eq g
  · exact multiply_launches (f := mulHighSU) (fun _ _ => rfl) g
  · exact multiply_launches mulWord_eq g

/-- The result of a divide form (R49). -/
def divideResult (n : Nat) (signed rem : Bool) (a t : Word) : Word :=
  let d := divided n (operand n signed a) (operand n signed t)
  signedLow n (if rem then d.2 else d.1)

theorem divideResult_quotient (n : Nat) (signed : Bool) (a t : Word) :
    divideResult n signed false a t = signedLow n (divided n (operand n signed a) (operand n signed t)).1 := by
  rw [divideResult, if_neg Bool.false_ne_true]

theorem divideResult_remainder (n : Nat) (signed : Bool) (a t : Word) :
    divideResult n signed true a t = signedLow n (divided n (operand n signed a) (operand n signed t)).2 := by
  rw [divideResult, if_pos rfl]

/-- A divide form enters its unit with its result, for the cycles that its operands ask for. -/
theorem divide_launches (dw : DivideWidth n) {signed rem : Bool} (e : ∀ a t, f a t = divideResult n signed rem a t) (g : Goes .mu opc h s) :
    let lat := divideCycles n signed (operand n signed (s.lat .mu).a) (operand n signed (s.moved64 h))
    ∃ t, execTrigger .mu opc h (divide opc n signed f) s = .next t ∧
      Launches .mu opc h lat lat (divideResult n signed rem (s.lat .mu).a (s.moved64 h)) 0 s t :=
  launches_launch g (by rw [divide, lat_latched, e, divideLatency_eq _ _ dw])

/-- A row of the divide table is settled by its width and what its operation computes. -/
theorem divide_rows {r : Nat × (Hdr → Instr) × Nat × Bool × Bool} (hr : r ∈ divideTable) : DivideWidth r.2.2.1 ∧
    ∃ f, (∀ h s, exec (r.2.1 h) s = execTrigger .mu r.1 h (divide r.1 r.2.2.1 r.2.2.2.1 f) s) ∧
      ∀ a t, f a t = divideResult r.2.2.1 r.2.2.2.1 r.2.2.2.2 a t := by
  simp only [divideTable, List.mem_cons, List.not_mem_nil, or_false] at hr
  rcases hr with rfl | rfl | rfl | rfl | rfl | rfl
  · exact ⟨.inr rfl, _, fun _ _ => rfl, fun a t => (quotient_eq a t (.inr rfl)).trans (divideResult_quotient ..).symm⟩
  · exact ⟨.inr rfl, _, fun _ _ => rfl, fun a t => (quotientU_eq a t).trans (divideResult_quotient ..).symm⟩
  · exact ⟨.inr rfl, _, fun _ _ => rfl, fun a t => (remainder_eq a t (.inr rfl)).trans (divideResult_remainder ..).symm⟩
  · exact ⟨.inr rfl, _, fun _ _ => rfl, fun a t => (remainderU_eq a t).trans (divideResult_remainder ..).symm⟩
  · exact ⟨.inl rfl, _, fun _ _ => rfl, fun a t => (quotient_eq a t (.inl rfl)).trans (divideResult_quotient ..).symm⟩
  · exact ⟨.inl rfl, _, fun _ _ => rfl, fun a t => (remainder_eq a t (.inl rfl)).trans (divideResult_remainder ..).symm⟩

/-- Settles O3: each multiply form computes its product's bits, each divide form its quotient or remainder. -/
theorem multiplyDivideResults : Obligations.MultiplyDivideResults := by
  refine ⟨fun r hr h s g => multiply_rows hr g, fun r hr h s g => ?_⟩
  obtain ⟨dw, f, run, e⟩ := divide_rows hr
  rw [run]
  exact divide_launches dw e g

end Sys2Proof.Machine
end

section
/-! PROOF. Loops, repetition and the breakpoint of the control unit (spec/01_transport_core.md R30 to R34; spec/04_scalar_control_ops.md R123 to
R130): their traps in the order of their rules, and the slots they leave. -/

set_option autoImplicit false
set_option Elab.async false

namespace Sys2Proof.Machine

open Sys2Proof.Claims

variable {h : Hdr} {s : State}

/-! ## Checks in their order -/

/-- What a trigger comes to after its checks: the trap of the first one failed, or its work (R101). -/
def trapOr (fault : Option (Nat × Word)) (k : Res) : Res := fault.elim k fun e => .trap e.1 e.2

theorem trapOr_ite (c : Prop) [Decidable c] (e : Nat × Word) (f : Option (Nat × Word)) (k : Res) :
    trapOr (if c then some e else f) k = if c then .trap e.1 e.2 else trapOr f k := by
  split <;> rfl

/-- A trigger one of whose checks fails traps on the state before its bundle. -/
theorem execTrigger_fault {u : FU} {opc : Nat} {op : State → Res} {fault : Option (Nat × Word)} {k : Res} (g : Goes u opc h s)
    (ho : op (s.latched u h) = trapOr fault k) {code : Nat} {tval : Word} (f : fault = some (code, tval)) :
    execTrigger u opc h op s = .next (enterTrap code tval s.sl.pc s) :=
  execTrigger_trap g (by rw [ho, f]; rfl)

theorem misaligned_iff (w : Word) : (bits w 1 0 != 0) = true ↔ w.toNat % 4 ≠ 0 := by rw [bne_iff_ne, bits_low]; rfl

/-! ## Loops (R124, R125) -/

/-- A slot whose loop level is set: its body from `b` to `e`, its count, and the levels active. -/
def Slot.withLoop (level1 : Bool) (b e count : Word) (t : Slot) : Slot :=
  let t1 := t.onCsr fun c => if level1 then { c with lb1 := bundleAddr b, le1 := bundleAddr e, lc1 := count }
    else { c with lb0 := bundleAddr b, le0 := bundleAddr e, lc0 := count }
  let on := count != 0
  let t2 := if level1 then t1.setLA on false else t1.setLA t1.la1 on
  { t2 with flow := .loopSet }

/-- A slot that skips a body which ends with the bundle at `e`, to go on at `after` or where level 1 goes on (R125). -/
def Slot.skipBody (level1 : Bool) (e after : Word) (t : Slot) : Slot :=
  let x := if level1 then (t, after) else t.endCheck1 e after
  { x.1 with npc := x.2, bubble := 2 }

/-- The checks of a loop instruction, from what it reads: repetition active, the moved value, the count, NEXT, the end, and whether the body
leaves level 1's. -/
def loopChecks (rep : Bool) (t count next e : Word) (leaves : Bool) : Option (Nat × Word) :=
  if rep then some (0x02, t) else if bits e 1 0 != 0 then some (0x06, e) else if e.ult next then some (0x02, t)
  else if 0xFFFFFFFF < count.toNat then some (0x02, count) else if leaves then some (0x02, t) else none

theorem cfLoop_eq (level1 : Bool) (s : State) : cfLoop level1 s =
    let l := s.lat .cf
    let e := s.sl.pc + l.t
    let s1 := (s.complete .cf 0 0).onSl (Slot.withLoop level1 s.sl.npc e l.a)
    trapOr (loopChecks s.sl.repActive l.t l.a s.sl.npc e
        (!level1 && s.sl.la1 && (s.sl.npc.ult s.sl.csr.lb1 || s.sl.csr.le1.ult e)))
      (if l.a != 0 then .ok s1 else .ok (s1.onSl (Slot.skipBody level1 e (w64 (s.bundleAfter e.toNat))))) := by
  simp only [loopChecks, trapOr_ite]
  rfl

theorem loopTrap_eq (level1 : Bool) (s : State) (h : Hdr) : loopTrap level1 s h =
    let e := s.sl.pc + s.moved64 h
    loopChecks s.sl.repActive (s.moved64 h) (s.lat .cf).a (s.nextPc h) e
      (!level1 && s.sl.la1 && ((s.nextPc h).ult s.sl.csr.lb1 || s.sl.csr.le1.ult e)) := by
  simp only [loopTrap, loopChecks, misaligned_iff, ult_iff, Bool.and_eq_true, Bool.or_eq_true, Bool.not_eq_true', and_assoc]

/-- The slot that a loop instruction makes of its own, before its bundle retires. -/
def loopSlot (level1 : Bool) (s : State) (h : Hdr) (t : Slot) : Slot :=
  let e := s.sl.pc + s.moved64 h
  let t1 := (t.setResult .cf 0 0).withLoop level1 (s.nextPc h) e (s.lat .cf).a
  if (s.lat .cf).a ≠ 0 then t1 else t1.skipBody level1 e (w64 ((s.latched .cf h).bundleAfter e.toNat))

theorem complete_latched {u : FU} {opc : Nat} (g : Goes u opc h s) (q q2 : Word) :
    (s.latched u h).complete u q q2 = (s.latched u h).onSl fun t => t.setResult u q q2 := by
  rw [State.complete]
  exact onSl_congr (by rw [unblock_issuing (latched_issuing g)])

theorem pc_latched (s : State) (u : FU) (h : Hdr) : (s.latched u h).sl.pc = s.sl.pc := by
  rw [sl_latched]
  rfl

theorem npc_latched (s : State) (u : FU) (h : Hdr) : (s.latched u h).sl.npc = s.nextPc h := by rw [sl_latched]

theorem repActive_latched (s : State) (u : FU) (h : Hdr) : (s.latched u h).sl.repActive = s.sl.repActive := by
  rw [Slot.repActive, csr_latched]
  rfl

theorem la_latched (s : State) (u : FU) (h : Hdr) : (s.latched u h).sl.la0 = s.sl.la0 ∧ (s.latched u h).sl.la1 = s.sl.la1 := by
  rw [Slot.la0, Slot.la1, csr_latched]
  exact ⟨rfl, rfl⟩

/-- A loop instruction traps by `loopTrap`, and else sets its level in the slot. -/
theorem cfLoop_latched {opc : Nat} (g : Goes .cf opc h s) (level1 : Bool) :
    cfLoop level1 (s.latched .cf h) = trapOr (loopTrap level1 s h) (.ok ((s.latched .cf h).onSl (loopSlot level1 s h))) := by
  rw [cfLoop_eq, loopTrap_eq, complete_latched g]
  simp only [lat_latched, pc_latched, npc_latched, csr_latched, repActive_latched, la_latched, State.onSl_onSl]
  by_cases zero : (s.lat .cf).a = 0
  · have skips : loopSlot level1 s h = fun t => _ := funext fun _ => if_neg (not_not.2 zero)
    rw [skips, if_neg (by rw [bne_iff_ne]; exact not_not.2 zero)]
  · have sets : loopSlot level1 s h = fun t => _ := funext fun _ => if_pos zero
    rw [sets, if_pos (bne_iff_ne.2 zero)]

/-! ## The slot that a loop leaves -/

/-- A slot with another retired count, its bundle no longer stalled. -/
def Slot.counted (t : Slot) (n : Word) : Slot := { t with csr := { t.csr with iret := n }, stall := 0 }

theorem retired_counted (t : Slot) : t.retired = t.counted (t.csr.iret + 1) := rfl

/-- A slot whose loop level has its registers, and the levels their active bits. -/
def Slot.levelSet (level1 : Bool) (b e count levels : Word) (t : Slot) : Slot :=
  { t with
    csr := if level1 then { t.csr with lb1 := b, le1 := e, lc1 := count, xstat := levels }
      else { t.csr with lb0 := b, le0 := e, lc0 := count, xstat := levels }
    flow := .loopSet }

/-- The levels active once a loop instruction has set its own (R124). -/
def loopLevels (level1 : Bool) (count : Word) (t : Slot) : Word :=
  setBits t.csr.xstat 15 14 (if level1 then 2 * (count != 0).toNat else 2 * t.la1.toNat + (count != 0).toNat)

theorem withLoop_eq (level1 : Bool) (b e count : Word) (t : Slot) :
    t.withLoop level1 b e count = t.levelSet level1 (bundleAddr b) (bundleAddr e) count (loopLevels level1 count t) := by
  cases level1
  · simp only [Slot.withLoop, Slot.levelSet, loopLevels, Slot.setLA, Slot.onCsr, Slot.la1, Bool.false_eq_true, if_false, Nat.mul_comm 2]
  · simp only [Slot.withLoop, Slot.levelSet, loopLevels, Slot.setLA, Slot.onCsr, if_true, Nat.mul_comm 2, Bool.toNat_false, Nat.add_zero]

theorem levelSet_retired (level1 : Bool) (b e count levels : Word) (t : Slot) :
    (t.levelSet level1 b e count levels).retired = t.retired.levelSet level1 b e count levels := by
  have counted (n : Word) : (t.levelSet level1 b e count levels).counted n = (t.counted n).levelSet level1 b e count levels := by
    cases level1 <;> rfl
  have iret : (t.levelSet level1 b e count levels).csr.iret = t.csr.iret := by cases level1 <;> rfl
  rw [retired_counted, iret, counted, ← retired_counted]

theorem afterLoop_eq (level1 : Bool) (s : State) (h : Hdr) : afterLoop level1 s h =
    (((s.latched .cf h).sl.setResult .cf 0 0).withLoop level1 (s.nextPc h) (s.sl.pc + s.moved64 h) (s.lat .cf).a).retired := by
  have on : (if (s.lat .cf).a = 0 then 0 else 1) = ((s.lat .cf).a != 0).toNat := by
    by_cases zero : (s.lat .cf).a = 0
    · rw [if_pos zero, zero]
      rfl
    · rw [if_neg zero, bne_iff_ne.2 zero]
      rfl
  have levels : loopLevels level1 (s.lat .cf).a ((s.latched .cf h).sl.setResult .cf 0 0) =
      loopLevels level1 (s.lat .cf).a (s.ran .cf h (answered 0 0)) := by
    rw [ran_answered, loopLevels, loopLevels]
    rfl
  rw [withLoop_eq, levelSet_retired, ← ran_answered, levels]
  simp only [afterLoop, on, Slot.levelSet, loopLevels]
  cases level1
  · simp only [Bool.false_eq_true, if_false]
  · simp only [if_true]

/-- The end of a body of level 1 (R31), from the count that is left and whether it loops back. -/
def Slot.levelEnd (t : Slot) (left after : Word) (loops : Bool) : Slot × Word :=
  let t1 := t.onCsr fun c => { c with lc1 := left }
  if loops then (t1, t1.csr.lb1) else (t1.setLA false t1.la0, after)

theorem endCheck1_eq (t : Slot) (a after : Word) : t.endCheck1 a after =
    if t.la1 && t.csr.le1 == a then
      t.levelEnd (w64 (bits (t.csr.lc1 - 1) 31 0)) after (w64 (bits (t.csr.lc1 - 1) 31 0) != 0) else (t, after) := rfl

theorem levelEnd_slot (t : Slot) (left after : Word) (loops : Bool) :
    ∃ c, (t.levelEnd left after loops).1 = { t with csr := c } ∧ c.iret = t.csr.iret := by
  cases loops <;> exact ⟨_, rfl, rfl⟩

theorem levelEnd_counted (t : Slot) (left after n : Word) (loops : Bool) :
    (t.counted n).levelEnd left after loops = ((t.levelEnd left after loops).1.counted n, (t.levelEnd left after loops).2) := by
  cases loops
  · simp only [Slot.levelEnd, Slot.setLA, Slot.onCsr, Slot.counted, Slot.la0, Bool.false_eq_true, if_false]
  · rfl

/-- An end check changes CSRs of its slot other than the retired count. -/
theorem endCheck1_slot (t : Slot) (a after : Word) : ∃ c, (t.endCheck1 a after).1 = { t with csr := c } ∧ c.iret = t.csr.iret := by
  rw [endCheck1_eq]
  split
  · exact levelEnd_slot ..
  · exact ⟨_, rfl, rfl⟩

/-- The end check of level 1 and the retirement of the bundle do not meet. -/
theorem endCheck1_retired (t : Slot) (a after : Word) :
    t.retired.endCheck1 a after = ((t.endCheck1 a after).1.retired, (t.endCheck1 a after).2) := by
  obtain ⟨c, e, iret⟩ := endCheck1_slot t a after
  have same : (t.endCheck1 a after).1.csr.iret = t.csr.iret := by rw [e, ← iret]
  rw [retired_counted (t.endCheck1 a after).1, same, retired_counted]
  generalize t.csr.iret + 1 = n
  have la1 : (t.counted n).la1 = t.la1 := rfl
  have end1 : (t.counted n).csr.le1 = t.csr.le1 := rfl
  have count : (t.counted n).csr.lc1 = t.csr.lc1 := rfl
  rw [endCheck1_eq, endCheck1_eq, la1, end1, count]
  split
  · exact levelEnd_counted ..
  · rfl

theorem skipBody_retired (level1 : Bool) (e after : Word) (t : Slot) : (t.skipBody level1 e after).retired =
    let x := if level1 then (t.retired, after) else t.retired.endCheck1 e after
    { x.1 with npc := x.2, bubble := 2 } := by
  cases level1
  · simp only [Slot.skipBody, endCheck1_retired, Bool.false_eq_true, if_false]
    rfl
  · rfl

/-- A loop instruction leaves a slot whose bundle ends plainly. -/
theorem loopSlot_plain (level1 : Bool) (s : State) (h : Hdr) (t : Slot) : (loopSlot level1 s h t).seedw = t.seedw ∧
    (loopSlot level1 s h t).csrw = t.csrw ∧ (loopSlot level1 s h t).after = t.after ∧ (loopSlot level1 s h t).flow = .loopSet := by
  have set (b e count : Word) : ∃ c, (t.setResult .cf 0 0).withLoop level1 b e count =
      { t.setResult .cf 0 0 with csr := c, flow := .loopSet } := by cases level1 <;> exact ⟨_, rfl⟩
  obtain ⟨c, hc⟩ := set (s.nextPc h) (s.sl.pc + s.moved64 h) (s.lat .cf).a
  rw [loopSlot, hc]
  dsimp only
  split
  · exact ⟨rfl, rfl, rfl, rfl⟩
  · cases level1
    · rw [Slot.skipBody, if_neg Bool.false_ne_true]
      obtain ⟨c2, hc2, -⟩ := endCheck1_slot { t.setResult .cf 0 0 with csr := c, flow := .loopSet } (s.sl.pc + s.moved64 h)
        (w64 ((s.latched .cf h).bundleAfter (s.sl.pc + s.moved64 h).toNat))
      rw [hc2]
      exact ⟨rfl, rfl, rfl, rfl⟩
    · exact ⟨rfl, rfl, rfl, rfl⟩

/-- A trigger whose operation makes a plain slot of its own leaves that slot, retired, and nothing else has changed. -/
theorem exec_slot_retired {u : FU} {opc : Nat} {op : State → Res} (g : Goes u opc h s) (F : Slot → Slot)
    (ho : op (s.latched u h) = .ok ((s.latched u h).onSl F)) (h0 : (F (s.latched u h).sl).seedw = none)
    (h1 : (F (s.latched u h).sl).csrw = none) (h2 : (F (s.latched u h).sl).after = none) (h3 : (F (s.latched u h).sl).flow ≠ .ended) :
    ∃ t, execTrigger u opc h op s = .next t ∧ t.sl = (F (s.latched u h).sl).retired ∧ OnlySlot s t :=
  exec_slot_plain g F ho h0 h1 h2 h3

/-- A loop instruction that passes its checks leaves its slot, and nothing else has changed. -/
theorem loop_result {opc : Nat} (g : Goes .cf opc h s) (level1 : Bool) (passes : loopTrap level1 s h = none) :
    ∃ t, execTrigger .cf opc h (cfLoop level1) s = .next t ∧ t.sl = (loopSlot level1 s h (s.latched .cf h).sl).retired ∧ OnlySlot s t := by
  obtain ⟨seed, csrw, after, flow⟩ := loopSlot_plain level1 s h (s.latched .cf h).sl
  refine exec_slot_retired g (loopSlot level1 s h) ?_ ?_ ?_ ?_ ?_
  · rw [cfLoop_latched g, passes]
    rfl
  · rw [seed, sl_latched]
  · rw [csrw, sl_latched]
  · rw [after, sl_latched]
  · rw [flow]
    nofun

/-! ## Repetition (R127) -/

/-- The fields of repetition's register that `rep` sets (R47, R127). -/
def repWord (a t : Word) : Word := BitVec.ofNat 64 (2 ^ 63 + a.toNat % 32 * 2 ^ 58 + a.toNat / 2 ^ 8 % 64 * 2 ^ 52 +
  a.toNat / 2 ^ 16 % 8 * 2 ^ 49 + t.toNat % 16 * 2 ^ 44 + t.toNat / 2 ^ 16 % 2 ^ 12 * 2 ^ 24)

/-- A slot in which repetition begins, from the body's address and repetition's register. -/
def Slot.withRep (b word : Word) (t : Slot) : Slot :=
  { t.onCsr (fun c => { c with rpb := b, rpc := word }) with flow := .loopSet, rep := [] }

/-- The slot that `rep` makes of its own, before its bundle retires. -/
def repSlot (next a t : Word) (x : Slot) : Slot := (x.setResult .cf 0 0).withRep (bundleAddr next) (repWord a t)

/-- The checks of `rep`, from what it reads (R127). -/
def repChecks (rep : Bool) (a t : Word) (ends : Bool) : Option (Nat × Word) :=
  let base := bits a 4 0
  let size := bits a 13 8
  if rep then some (0x02, t) else if bits a 63 19 != 0 || bits a 15 14 != 0 || bits a 7 5 != 0 then some (0x02, a)
  else if bits t 63 28 != 0 || bits t 15 4 != 0 then some (0x02, t)
  else if size != 0 && (base == 0 || 32 < base + size) then some (0x02, a) else if ends then some (0x02, t) else none

/-- The last bundle of an active loop level lies in a body. -/
def endsIn (t : Slot) (body : List Nat) : Bool :=
  (t.la0 && body.contains t.csr.le0.toNat) || (t.la1 && body.contains t.csr.le1.toNat)

theorem cfRep_eq (s : State) : cfRep s =
    let l := s.lat .cf
    trapOr (repChecks s.sl.repActive l.a l.t (endsIn s.sl (s.bundleAddrs (bits l.t 3 0 + 1) s.sl.npc.toNat)))
      (.ok ((s.complete .cf 0 0).onSl fun t => t.withRep (bundleAddr t.npc) (repWord l.a l.t))) := by
  simp only [repChecks, trapOr_ite, repWord]
  rw [cfRep, bits_low, bits_low]
  rfl

theorem repTrap_eq (s : State) (h : Hdr) (body : List Nat) :
    repTrap s h body = repChecks s.sl.repActive (s.lat .cf).a (s.moved64 h) (endsIn s.sl body) := by
  have a := (s.lat .cf).a.isLt
  have t := (s.moved64 h).isLt
  have high {w : Word} {n : Nat} (lt : n < 64) : bits w 63 n = w.toNat / 2 ^ n :=
    Nat.mod_eq_of_lt (Nat.div_lt_of_lt_mul (by rw [← pow_add]; convert w.isLt using 2; omega))
  simp only [repTrap, repChecks, endsIn, Bool.or_eq_true, Bool.and_eq_true, bne_iff_ne, beq_iff_eq, decide_eq_true_eq,
    List.contains_iff_mem, or_assoc, high (show 19 < 64 by decide), high (show 28 < 64 by decide), bits_low]
  rfl

/-- `rep` traps by `repTrap`, and else sets repetition's registers in the slot. -/
theorem cfRep_latched {opc : Nat} (g : Goes .cf opc h s) : cfRep (s.latched .cf h) =
    trapOr (repTrap s h ((s.latched .cf h).bundleAddrs ((s.moved64 h).toNat % 16 + 1) (s.nextPc h).toNat))
      (.ok ((s.latched .cf h).onSl (repSlot (s.nextPc h) (s.lat .cf).a (s.moved64 h)))) := by
  have ends (body : List Nat) : endsIn (s.latched .cf h).sl body = endsIn s.sl body := by simp only [endsIn, la_latched, csr_latched]
  rw [cfRep_eq, repTrap_eq, complete_latched g]
  simp only [lat_latched, npc_latched, repActive_latched, ends, State.onSl_onSl, bits_low]
  exact congrArg (fun r => trapOr _ (.ok r)) (onSl_congr (by rw [sl_latched]; rfl))

theorem withRep_counted (b word n : Word) (t : Slot) : (t.withRep b word).counted n = (t.counted n).withRep b word := rfl

theorem iret_withRep (b word : Word) (t : Slot) : (t.withRep b word).csr.iret = t.csr.iret := rfl

theorem afterRep_eq (s : State) (h : Hdr) : afterRep s h =
    (repSlot (s.nextPc h) (s.lat .cf).a (s.moved64 h) (s.latched .cf h).sl).retired := by
  rw [retired_counted, repSlot, withRep_counted, iret_withRep, ← retired_counted, ← ran_answered]
  simp only [afterRep, ← repWord.eq_def]
  generalize repWord (s.lat .cf).a (s.moved64 h) = word
  rfl

/-! ## The breakpoint (R130, R484) -/

/-- A trigger that goes out and whose operation is a debug halt halts the core before its bundle issues. -/
theorem execTrigger_halt {u : FU} {opc : Nat} {op : State → Res} (g : Goes u opc h s) (ho : op (s.latched u h) = .halt) :
    execTrigger u opc h op s = .next (s.halt 3 s.core.cur) := by
  have ready : s.srcStall (renameSrc s.sl.csr.rpc h.src) = false := g.ready
  simp only [State.latched, State.moved, State.srcOf] at ho
  simp [execTrigger, g.alone, soloTrigger, g.noFault, ready, g.free, g.taken, ho]

/-- A bundle that rounds nothing, without a CSR write, takes its trap of kind after once it has retired; a body bundle of a repetition ends
first. -/
theorem closeBundle_after {t : Slot} {code : Nat} {tval : Word} (h0 : t.seedw = none) (h1 : t.csrw = none)
    (h2 : t.after = some (code, tval)) (h3 : t.flow = .seq) :
    (s.setSl t).closeBundle = enterTrap code tval t.next
      (if t.repActive then ((s.setSl t.retired).count 1).repetitionEnd else (s.setSl t.retired).count 1) := by
  have e : ((s.setSl t).onSl fun t => { t with csr := { t.csr with iret := t.csr.iret + 1 }, stall := 0 }) = s.setSl t.retired :=
    State.setSl_onSl ..
  have slot : ((s.setSl t.retired).count 1).sl = t.retired := by rw [State.sl_count, State.sl_setSl]
  have applied : ((s.setSl t.retired).count 1).applyCsr = (s.setSl t.retired).count 1 := by
    have seed : t.retired.seedw = none := h0
    have csr : t.retired.csrw = none := h1
    simp only [State.applyCsr, State.applySeed, slot, seed, csr]
  have after : t.retired.after = some (code, tval) := h2
  have flow : (t.retired.flow != .loopSet) = true := by rw [show t.retired.flow = .seq from h3]; rfl
  rw [State.closeBundle, e, applied]
  simp only [slot, after, flow, Bool.and_true]
  rfl

/-- A breakpoint that the debug module does not catch notes its trap and answers (R130). -/
theorem cfBrk_notes (g : Goes .cf 0x0F h s) (caught : (bit (s.reg (.dctl s.coreId)) 15 && bit (s.reg (.dctl s.coreId)) 14) = false) :
    cfBrk (s.latched .cf h) =
      .ok (s.setSl { (s.latched .cf h).sl.setResult .cf 0 0 with after := some (0x0E, s.moved64 h) }) := by
  have ctl : (s.latched .cf h).reg (.dctl (s.latched .cf h).coreId) = s.reg (.dctl s.coreId) := rfl
  have latch : (((s.latched .cf h).sl.setResult .cf 0 0).lat .cf).t = s.moved64 h := by
    rw [Slot.setResult, Slot.lat_onLat]
    exact trigger_latch s .cf h
  rw [cfBrk, ctl]
  simp only [caught, Bool.false_eq_true, if_false, complete_latched g, onSl_latched, State.setSl_onSl, latch]

/-- A breakpoint halts the core where the debug module catches it, and else raises BREAK once its bundle has retired (R130). -/
theorem brk_result (g : Goes .cf 0x0F h s) :
    if bit (s.reg (.dctl s.coreId)) 15 && bit (s.reg (.dctl s.coreId)) 14 then execTrigger .cf 0x0F h cfBrk s = .next (s.halt 3 s.core.cur)
    else
      let r := (s.setSl { s.ran .cf h (answered 0 0) with after := some (0x0E, s.moved64 h) }).count 1
      execTrigger .cf 0x0F h cfBrk s =
        .next (enterTrap 0x0E (s.moved64 h) (s.nextPc h) (if s.sl.repActive then r.repetitionEnd else r)) := by
  split
  · next caught => exact execTrigger_halt g (if_pos caught)
  · next free =>
    have next : (s.latched .cf h).sl.next = s.nextPc h := by rw [sl_latched]
    have rep : ({ (s.latched .cf h).sl.setResult .cf 0 0 with after := some (0x0E, s.moved64 h) } : Slot).repActive = s.sl.repActive :=
      repActive_latched s .cf h
    have retired : ({ (s.latched .cf h).sl.setResult .cf 0 0 with after := some (0x0E, s.moved64 h) } : Slot).retired =
        { s.ran .cf h (answered 0 0) with after := some (0x0E, s.moved64 h) } := by
      rw [ran_answered]
      rfl
    rw [execTrigger_ok g (cfBrk_notes g (Bool.not_eq_true _ ▸ free)), closeBundle_after (by rw [sl_latched]; rfl) (by rw [sl_latched]; rfl)
      rfl (by rw [sl_latched]; rfl), rep, retired, ← next]
    rfl

/-! ## The statements -/

theorem exec_loop (level1 : Bool) (h : Hdr) (s : State) : exec (if level1 then .cfLoop1 h else .cfLoop0 h) s =
    execTrigger .cf (if level1 then 0x09 else 0x08) h (cfLoop level1) s := by
  cases level1
  · rw [if_neg Bool.false_ne_true, if_neg Bool.false_ne_true]
    rfl
  · rw [if_pos rfl, if_pos rfl]
    rfl

theorem exec_rep (h : Hdr) (s : State) : exec (.cfRep h) s = execTrigger .cf 0x0A h cfRep s := rfl

theorem exec_brk (h : Hdr) (s : State) : exec (.cfBrk h) s = execTrigger .cf 0x0F h cfBrk s := rfl

/-- A repetition that passes its checks leaves its slot, and nothing else has changed. -/
theorem rep_result (g : Goes .cf 0x0A h s)
    (passes : repTrap s h ((s.latched .cf h).bundleAddrs ((s.moved64 h).toNat % 16 + 1) (s.nextPc h).toNat) = none) :
    ∃ t, execTrigger .cf 0x0A h cfRep s = .next t ∧ t.sl = afterRep s h ∧ OnlySlot s t := by
  rw [afterRep_eq]
  refine exec_slot_retired g (repSlot (s.nextPc h) (s.lat .cf).a (s.moved64 h)) ?_ (by rw [sl_latched]; rfl) (by rw [sl_latched]; rfl)
    (by rw [sl_latched]; rfl) nofun
  rw [cfRep_latched g, passes]
  rfl

/-- A loop instruction with a count of zero leaves the slot that skips its body (R125). -/
theorem loopSlot_zero (level1 : Bool) (zero : (s.lat .cf).a = 0) :
    let e := s.sl.pc + s.moved64 h
    let after := w64 ((s.latched .cf h).bundleAfter e.toNat)
    let x := if level1 then (afterLoop true s h, after) else (afterLoop false s h).endCheck1 e after
    (loopSlot level1 s h (s.latched .cf h).sl).retired = { x.1 with npc := x.2, bubble := 2 } := by
  rw [loopSlot, if_neg (not_not.2 zero), skipBody_retired, ← afterLoop_eq]
  cases level1
  · simp only [Bool.false_eq_true, if_false]
  · simp only [if_true]

/-- Settles O5: the slots that `loop0`, `loop1` and `rep` leave, and the two courses of `brk`. -/
theorem loopResults : Obligations.LoopResults := by
  intro h s
  simp only [exec_loop, exec_rep, exec_brk]
  refine ⟨fun level1 g passes => ?_, rep_result, brk_result⟩
  obtain ⟨t, e, slot, only⟩ := loop_result g level1 passes
  refine ⟨fun count => ⟨t, e, ?_, only⟩, fun zero => ⟨t, e, ?_, only⟩⟩
  · rw [slot, loopSlot, if_pos count, afterLoop_eq]
  · rw [slot, loopSlot_zero level1 zero]

theorem branch_trap {target q : Word} (bad : target.toNat % 4 ≠ 0) : s.branch target q = .trap 0x06 target :=
  if_pos ((misaligned_iff target).2 bad)

/-- A row of the branch table is settled by an operation that branches to its target. -/
theorem branch_rows {r : Nat × (Hdr → Instr) × (State → Hdr → Word) × (State → Hdr → Word)} (hr : r ∈ branchTable) :
    ∃ op, (∀ h s, exec (r.2.1 h) s = execTrigger .cf r.1 h op s) ∧
      ∀ (h : Hdr) (s : State), op (s.latched .cf h) = (s.latched .cf h).branch (r.2.2.1 s h) (r.2.2.2 s h) := by
  simp only [branchTable, List.mem_cons, List.not_mem_nil, or_false] at hr
  rcases hr with rfl | rfl | rfl
  · exact ⟨cfBr, fun _ _ => rfl, fun h s => by rw [cfBr, trigger_latch, pc_latched]⟩
  · exact ⟨cfJmp, fun _ _ => rfl, fun h s => by rw [cfJmp, trigger_latch]⟩
  · exact ⟨cfCall, fun _ _ => rfl, fun h s => by rw [cfCall, trigger_latch, npc_latched]⟩

/-- Settles O6: each control operation comes to the first of its checks that fails. -/
theorem controlTraps : Obligations.ControlTraps := by
  intro h s
  simp only [exec_loop, exec_rep]
  refine ⟨fun r hr g bad => ?_, fun level1 code tval g trap => execTrigger_fault g (cfLoop_latched g level1) trap,
    fun code tval g trap => execTrigger_fault g (cfRep_latched g) trap⟩
  obtain ⟨op, run, branch⟩ := branch_rows hr
  rw [run]
  exact execTrigger_trap g ((branch h s).trans (branch_trap bad))

end Sys2Proof.Machine
end

section
/-! PROOF. The address checks of `ls`, `vp` and `mx` operands (spec/05_scratchpad_ops.md R135, R136), and the triggers of `ls` that they trap. -/

set_option autoImplicit false
set_option Elab.async false

namespace Sys2Proof.Machine

open Sys2Proof.Claims

variable {h : Hdr} {s : State}

/-! ## The checks in their order -/

/-- What an access comes to after a check: the trap of the first one failed, or its place. -/
def placeOr (p : CoreId × Nat) (fault : Option Nat) : Except Nat (CoreId × Nat) := fault.elim (.ok p) .error

theorem placeOr_ite (p : CoreId × Nat) (c : Prop) [Decidable c] (e : Nat) (f : Option Nat) :
    placeOr p (if c then some e else f) = if c then .error e else placeOr p f := by
  split <;> rfl

theorem spa_of_error {t : Word} {e n : Nat} {writes : Bool} (target : s.spaTarget t = .error e) : s.spa t n writes = .error e := by
  rw [State.spa, target]

theorem spa_of_ok {t : Word} {c : CoreId} {off n : Nat} {writes : Bool} (target : s.spaTarget t = .ok (c, off)) :
    s.spa t n writes = placeOr (c, off) (s.spaOffset c off n n writes) := by
  rw [State.spa, target]
  dsimp only
  cases s.spaOffset c off n n writes <;> rfl

theorem bit_iff (w : Word) (n : Nat) : bit w n = true ↔ w.toNat / 2 ^ n % 2 = 1 := by
  rw [bit, BitVec.getLsbD, Nat.testBit_eq_decide_div_mod_eq, decide_eq_true_iff]

theorem spaTarget_eq (s : State) (t : Word) : s.spaTarget t =
    if t.toNat / 2 ^ 27 % 2 ^ 29 ≠ 0 then .error 0x07
    else if t.toNat / 2 ^ 26 % 2 = 1 then
      if s.coreId.kind = .compute ∧ t.toNat / 2 ^ 18 % 2 ^ 8 ≠ 0 then .error 0x07 else .ok (s.coreId, t.toNat % 2 ^ 26)
    else if s.coreId.kind ≠ .compute then .error 0x07
    else if s.clusterInSpan (t.toNat / 2 ^ 18 % 2 ^ 8) = false then .error 0x07
    else .ok (s.clusterCore (t.toNat / 2 ^ 18 % 2 ^ 8), t.toNat % 2 ^ 18) := by
  simp only [State.spaTarget, bit_iff, bits_low, bne_iff_ne, Bool.and_eq_true, beq_iff_eq, Bool.not_eq_true']
  rfl

/-- A berth's descriptor of a core is met by the bytes of an access (R309). -/
theorem meetsDescriptor_iff (m : Core) (off n : Nat) : m.meetsDescriptor off n = true ↔
    ∃ b : Fin 16, m.berths[b].isSome ∧ off < 0x2C800 + 32 * b + 32 ∧ 0x2C800 + 32 * b < off + n := by
  simp only [Core.meetsDescriptor, List.any_eq_true, List.mem_range, Bool.and_eq_true, decide_eq_true_eq, and_assoc]
  constructor
  · rintro ⟨b, lt, rest⟩
    have same : Fin.ofNat 16 b = ⟨b, lt⟩ := Fin.ext (Nat.mod_eq_of_lt lt)
    simp only [same] at rest
    exact ⟨⟨b, lt⟩, rest⟩
  · rintro ⟨b, rest⟩
    have same : Fin.ofNat 16 b.val = b := Fin.ext (Nat.mod_eq_of_lt b.isLt)
    exact ⟨b, b.isLt, by simp only [same]; exact rest⟩

/-- A range lock of a core stands against an access (R136). -/
theorem conflict_iff (m : Core) (off n : Nat) (writes : Bool) : (m.conflict off n writes).isSome = true ↔
    ∃ l ∈ m.ranges, (writes = true ∨ l.write = true) ∧ l.start < off + n ∧ off ≤ l.stop := by
  simp only [Core.conflict, List.find?_isSome, Bool.and_eq_true, Bool.or_eq_true, decide_eq_true_eq, and_assoc]

theorem spa_eq_accessPlace (s : State) (t : Word) (n : Nat) (writes : Bool) : s.spa t n writes = accessPlace s t n writes := by
  simp only [accessPlace, ← spaTarget_eq]
  cases target : s.spaTarget t with
  | error e => exact spa_of_error target
  | ok p =>
    obtain ⟨c, off⟩ := p
    rw [spa_of_ok target]
    simp only [State.spaOffset, placeOr_ite]
    refine if_congr Iff.rfl rfl (if_congr ?_ rfl (if_congr ?_ rfl (if_congr bne_iff_ne rfl (if_congr ?_ rfl (if_congr ?_ rfl rfl)))))
    · simp only [Bool.and_eq_true, Bool.or_eq_true, decide_eq_true_eq, beq_iff_eq, and_assoc]
    · simp only [Bool.and_eq_true, beq_iff_eq]
    · rw [Bool.and_eq_true, meetsDescriptor_iff]
    · exact conflict_iff ..

/-! ## The place of a trigger's access -/

theorem ranges_setSl (s : State) (t : Slot) (c : CoreId) : ((s.setSl t).coreAt c).ranges = (s.coreAt c).ranges :=
  s.coreAt_onCore_keeps (·.ranges) (f := fun c => { c with slots := c.slots.set c.cur t }) rfl c

theorem conflict_setSl (s : State) (t : Slot) (c : CoreId) (off n : Nat) (writes : Bool) :
    ((s.setSl t).coreAt c).conflict off n writes = (s.coreAt c).conflict off n writes := by
  rw [Core.conflict, Core.conflict, ranges_setSl]

/-- An access is checked alike in two slots of one level. -/
theorem spa_setSl {t : Slot} (level : t.priv = s.sl.priv) (w : Word) (n : Nat) (writes : Bool) :
    (s.setSl t).spa w n writes = s.spa w n writes := by
  have target : (s.setSl t).spaTarget w = s.spaTarget w := rfl
  have offset : (s.setSl t).spaOffset = s.spaOffset := by
    funext c off n align writes
    simp only [State.spaOffset, State.sl_setSl, level, meetsDescriptor_setSl, conflict_setSl]
  rw [State.spa, State.spa, target, offset]

theorem spa_latched (s : State) (u : FU) (h : Hdr) (w : Word) (n : Nat) (writes : Bool) :
    (s.latched u h).spa w n writes = accessPlace s w n writes := by
  rw [latched_setSl, spa_setSl (priv_latched s u h), spa_eq_accessPlace]

theorem resuming_latched {u : FU} {opc : Nat} (g : Goes u opc h s) : (s.latched u h).resuming = false := by
  simp [State.resuming, latched_issuing g]

section
variable {u : FU} {opc n : Nat} {w tval : Word} {writes : Bool} {k : CoreId × Nat → Res}

/-- A trigger whose address fails a check traps. -/
theorem withSpa_error (g : Goes u opc h s) {e : Nat} (place : accessPlace s w n writes = .error e) :
    (s.latched u h).withSpa w n writes tval k = .trap e tval := by
  rw [State.withSpa, resuming_latched g, if_neg Bool.false_ne_true, spa_latched, place]

/-- A trigger whose address passes the checks goes on with its place. -/
theorem withSpa_ok (g : Goes u opc h s) {p : CoreId × Nat} (place : accessPlace s w n writes = .ok p) :
    (s.latched u h).withSpa w n writes tval k = k p := by
  rw [State.withSpa, resuming_latched g, if_neg Bool.false_ne_true, spa_latched, place]

end

/-! ## Loads, stores and atomics of `ls` -/

section
variable {opc n e : Nat} {signed : Bool} {sc : Nat} {f : Word → Word → Word → Option Word}

theorem lsLoad_error (g : Goes .ls opc h s) (place : accessPlace s (s.moved64 h) n false = .error e) :
    lsLoad opc n signed (s.latched .ls h) = .trap e (s.moved64 h) := by
  simp only [lsLoad, trigger_latch]
  exact withSpa_error g place

/-- The operation of a store of the table: a plain one, or a release with its scope. -/
def storeOp (n : Nat) (sc : Option Nat) : State → Res := sc.elim (lsStore n) lsRelease

theorem storeOp_error {sc : Option Nat} (g : Goes .ls opc h s) (whole : sc.isSome = true → n = 8)
    (place : accessPlace s (s.moved64 h) n true = .error e) : storeOp n sc (s.latched .ls h) = .trap e (s.moved64 h) := by
  cases sc with
  | none =>
    simp only [storeOp, Option.elim_none, lsStore, trigger_latch]
    exact withSpa_error g place
  | some sc =>
    obtain rfl := whole rfl
    simp only [storeOp, Option.elim_some, lsRelease, trigger_latch]
    exact withSpa_error g place

theorem lsAtomic_error (g : Goes .ls opc h s) (place : accessPlace s (s.moved64 h) 8 true = .error e) :
    lsAtomic opc f (s.latched .ls h) = .trap e (s.moved64 h) := by
  simp only [lsAtomic, trigger_latch]
  exact withSpa_error g place

end

theorem exec_load {r : Nat × (Hdr → Instr) × Nat × Bool} (hr : r ∈ loadTable) (h : Hdr) (s : State) :
    exec (r.2.1 h) s = execTrigger .ls r.1 h (lsLoad r.1 r.2.2.1 r.2.2.2) s := by
  simp only [loadTable, List.mem_cons, List.not_mem_nil, or_false] at hr
  rcases hr with rfl | rfl | rfl | rfl | rfl | rfl | rfl | rfl | rfl | rfl | rfl | rfl | rfl <;> rfl

theorem exec_store {r : Nat × (Hdr → Instr) × Nat × Option Nat} (hr : r ∈ storeTable) :
    (r.2.2.2.isSome = true → r.2.2.1 = 8) ∧ ∀ h s, exec (r.2.1 h) s = execTrigger .ls r.1 h (storeOp r.2.2.1 r.2.2.2) s := by
  simp only [storeTable, List.mem_cons, List.not_mem_nil, or_false] at hr
  rcases hr with rfl | rfl | rfl | rfl | rfl | rfl | rfl | rfl | rfl | rfl | rfl <;> exact ⟨by decide, fun _ _ => rfl⟩

theorem exec_atomic {r : AtomicRow} (hr : r ∈ atomicTable) :
    ∃ f, ∀ h s, exec (r.2.1 h) s = execTrigger .ls r.1 h (lsAtomic r.1 f) s := by
  simp only [atomicTable, List.mem_cons, List.not_mem_nil, or_false] at hr
  rcases hr with rfl | rfl | rfl | rfl | rfl | rfl | rfl | rfl | rfl <;> exact ⟨_, fun _ _ => rfl⟩

/-! ## Locks (R142, R143) -/

theorem link_latched (s : State) (u : FU) (h : Hdr) : (s.latched u h).sl.link = s.sl.link := by
  rw [sl_latched]
  rfl

/-- `lla` of a slot that holds a link traps. -/
theorem lsLla_linked {opc : Nat} (g : Goes .ls opc h s) (linked : s.sl.link.isSome = true) :
    lsLla (s.latched .ls h) = .trap 0x02 (s.moved64 h) := by
  simp only [lsLla, check_latched g, link_latched, linked, trigger_latch, if_true]
  rfl

/-- `ssu` to another doubleword than the one linked traps. -/
theorem lsSsu_other {opc : Nat} {c : CoreId} {off : Nat} (g : Goes .ls opc h s) (place : accessPlace s (s.moved64 h) 8 true = .ok (c, off))
    (linked : s.sl.link.isSome = true) (other : s.sl.link ≠ some (c, off)) : lsSsu (s.latched .ls h) = .trap 0x02 (s.moved64 h) := by
  obtain ⟨p, link⟩ := Option.isSome_iff_exists.1 linked
  have ne : (p != (c, off)) = true := bne_iff_ne.2 fun e => other (link.trans (congrArg some e))
  simp only [lsSsu, trigger_latch]
  rw [withSpa_ok g place]
  simp only [link_latched, link, ne, if_true]
  rfl

/-! ## The statement -/

/-- Settles O16: the model's checks are those of R135 in their order, and each trigger that reads or writes a place makes them first. -/
theorem addressChecks : Obligations.AddressChecks := by
  refine ⟨spa_eq_accessPlace, fun h s e => ⟨fun r hr g place => ?_, fun r hr g place => ?_, fun r hr g place => ?_,
    fun g linked => execTrigger_trap g (lsLla_linked g linked),
    fun c off g place linked other => execTrigger_trap g (lsSsu_other g place linked other)⟩⟩
  · rw [exec_load hr]
    exact execTrigger_trap g (lsLoad_error g place)
  · obtain ⟨whole, run⟩ := exec_store hr
    rw [run]
    exact execTrigger_trap g (storeOp_error g whole place)
  · obtain ⟨f, run⟩ := exec_atomic hr
    rw [run]
    exact execTrigger_trap g (lsAtomic_error g place)

end Sys2Proof.Machine
end

section
/-! PROOF. Control words of the vector port that break a check (spec/04_scalar_control_ops.md R101; spec/06_vector_ops.md R158, R160): the trap of
every computing operation, and the row `illegalOp`, which is a trigger of the port by its opcode alone and traps otherwise. -/

set_option autoImplicit false
set_option Elab.async false

namespace Sys2Proof.Machine

open Sys2Proof.Claims

variable {i : Instr} {h : Hdr} {s : State} {opc : Nat} {o : VOp} {ctl : Word}

/-! ## The row `illegalOp` -/

/-- The device after reset, a slot of its core in focus issuing, its trap vectors enabled. -/
def vectoredAtReset : State := State.reset.onSl fun t => { t with run := .issuing, csr := { t.csr with svec := 1, uvec := 1 } }

/-- A header that carries zero, which names no lane format, and is always taken. -/
def carriesZero : Hdr := ⟨true, false, 0, .imm8 0⟩

theorem goes_vectored : Goes .vp 0x10 carriesZero vectoredAtReset :=
  ⟨⟨rfl, by decide +kernel, rfl, rfl, rfl⟩, by decide +kernel, by decide +kernel, by decide +kernel⟩

theorem format_vectored :
    vectorTrap vectoredAtReset (arithOp true true true fmtsAll latKind vAdd) (vectoredAtReset.moved64 carriesZero) = some 0x0A := by
  decide +kernel

/-- The row traps as an opcode with no operation does, by ILLEGAL_OP. -/
theorem illegalOp_cause : ∃ t, exec (.illegalOp carriesZero .vp 0x10) vectoredAtReset = .next t ∧ t.sl.csr.cause = 0x02 :=
  ⟨_, rfl, by decide +kernel⟩

theorem format_cause :
    (enterTrap 0x0A (vectoredAtReset.moved64 carriesZero) vectoredAtReset.sl.pc vectoredAtReset).sl.csr.cause = 0x0A := by decide +kernel

/-- Refutes O26: the row `illegalOp` of opcode 0x10 of the port, which no word decodes to, raises ILLEGAL_OP for a control word whose format breaks
the checks of `add`. -/
theorem not_vectorTraps : ¬ Obligations.VectorTraps := by
  intro traps
  obtain ⟨t, next, cause⟩ := illegalOp_cause
  have format := traps (.illegalOp carriesZero .vp 0x10) carriesZero 0x10 _ vectoredAtReset 0x0A rfl rfl goes_vectored format_vectored
  rw [Host.Outcome.next.inj (next.symm.trans format), format_cause] at cause
  exact absurd cause (by decide)

/-! ## What stands -/

theorem mask_fields (m rm sat lane fmt2 : Bool) : (w64 (0x1F + m.toNat * 2 ^ 8 + rm.toNat * 7 * 2 ^ 5 + sat.toNat * 2 ^ 9 +
      lane.toNat * 0x3F * 2 ^ 24 + fmt2.toNat * 0x1F * 2 ^ 16)).toNat =
    0x1F ||| (if m then 0x100 else 0) ||| (if rm then 0xE0 else 0) ||| (if sat then 0x200 else 0) ||| (if lane then 0x3F000000 else 0) |||
      (if fmt2 then 0x1F0000 else 0) := by
  revert m rm sat lane fmt2
  decide

/-- The bits that a control word may set, as one number. -/
theorem mask_toNat (f : VForm) : f.mask.toNat = 0x1F ||| (if f.m then 0x100 else 0) ||| (if f.rm then 0xE0 else 0) |||
    (if f.sat then 0x200 else 0) ||| (if f.lane then 0x3F000000 else 0) ||| (if f.fmt2 then 0x1F0000 else 0) :=
  mask_fields f.m f.rm f.sat f.lane f.fmt2

/-- A word sets a bit outside a mask. -/
theorem outside_iff (w m : Word) : (w &&& ~~~m != 0) = true ↔ w.toNat &&& m.toNat ≠ w.toNat := by
  rw [bne_iff_ne, ← BitVec.toNat_and, Ne, Ne, BitVec.toNat_inj, not_iff_not]
  constructor
  · intro none
    have parts : w &&& m ||| w &&& ~~~m = w := by
      ext k
      simp only [BitVec.getElem_or, BitVec.getElem_and, BitVec.getElem_not]
      cases w[k] <;> cases m[k] <;> rfl
    rw [none] at parts
    exact BitVec.or_zero.symm.trans parts
  · intro within
    rw [← within]
    ext k
    have zero : (0 : Word)[k] = false := by simp
    rw [BitVec.getElem_and, BitVec.getElem_and, BitVec.getElem_not, zero]
    cases w[k] <;> cases m[k] <;> rfl

/-- A mode code that an operation's opcode fixes is one of eight. -/
theorem mode_lt (e : vpCompute opc = some o) {m : Nat} (fixed : o.mode = some m) : m < 8 := by
  unfold vpCompute at e
  split at e <;> cases e <;> cases fixed <;> decide

/-- The mode in force is one of eight. -/
theorem modeInForce_lt (e : vpCompute opc = some o) (s : State) (ctl : Word) : modeInForce s (o.mode.getD (bits ctl 7 5)) < 8 := by
  have code : o.mode.getD (bits ctl 7 5) < 8 := by
    cases fixed : o.mode with
    | none => exact bits_lt
    | some m => exact mode_lt e fixed
  rw [modeInForce]
  split
  · exact Nat.mod_lt _ (by decide)
  · exact code

theorem orElse_ite (c : Prop) [Decidable c] (a : Nat) (x : Option Nat) (f : Unit → Option Nat) :
    (if c then some a else x).orElse f = if c then some a else x.orElse f := by
  split <;> rfl

/-- The model's checks of a control word are those of R160 in their order. -/
theorem vectorTrap_eq (e : vpCompute opc = some o) (s : State) (ctl : Word) :
    let code := modeInForce s (o.mode.getD (bits ctl 7 5))
    vectorTrap s o ctl = (o.form.fault ctl code).orElse fun _ =>
      if o.late ctl code || o.limit ctl ≤ bits ctl 29 24 then some 0x02 else none := by
  have lt := modeInForce_lt e s ctl
  intro code
  have last : 5 ≤ code ↔ code ∈ [5, 6, 7] := by
    simp only [List.mem_cons, List.not_mem_nil, or_false]
    omega
  simp only [vectorTrap, ← mask_toNat]
  rw [VForm.fault, orElse_ite, orElse_ite, orElse_ite, ← ite_or]
  refine if_congr ?_ rfl (if_congr ?_ rfl (if_congr ?_ rfl rfl))
  · simp only [Bool.or_eq_true, decide_eq_true_eq, outside_iff, beq_iff_eq, or_assoc, last]
    rfl
  · simp only [Bool.and_eq_true, Bool.not_eq_true', ← Bool.not_eq_true, List.contains_iff_mem, bits_low]
    rfl
  · simp only [Bool.or_eq_true, decide_eq_true_eq]
    rfl

/-- A computing operation whose control word breaks a check traps. -/
theorem vecOp_trap (e : vpCompute opc = some o) {code : Nat} (trap : vectorTrap s o (s.moved64 h) = some code) :
    vecOp opc o (s.latched .vp h) = .trap code (s.moved64 h) := by
  have mode (n : Nat) : (s.latched .vp h).sl.modeCode n = modeInForce s n := by
    rw [Slot.modeCode, csr_latched, bits_low, modeInForce]
    exact if_congr beq_iff_eq rfl rfl
  rw [vectorTrap_eq e] at trap
  simp only [vecOp, trigger_latch, mode]
  cases fault : o.form.fault (s.moved64 h) (modeInForce s (o.mode.getD (bits (s.moved64 h) 7 5))) with
  | some code =>
    rw [fault] at trap
    cases trap
    rfl
  | none =>
    rw [fault] at trap
    dsimp only [Option.orElse] at trap
    split at trap
    · next late =>
      cases trap
      exact if_pos late
    · cases trap

/-- A trigger row that computes runs so, unless its word names no operation. -/
theorem exec_vector (row : triggerOf i = some (.vp, opc, h)) (e : vpCompute opc = some o) (names : ∀ b, i ≠ .illegalOp h .vp b) (s : State) :
    exec i s = execTrigger .vp opc h (vecOp opc o) s := by
  cases i with
  | illegalOp => cases row; exact absurd rfl (names _)
  | _ => cases row; all_goals (cases e <;> rfl)

/-- What stands of O26: it holds of every row of a computing operation but `illegalOp`, so of every word whose opcode holds an operation. -/
theorem vectorTraps_of_operation (row : triggerOf i = some (.vp, opc, h)) (e : vpCompute opc = some o)
    (names : ∀ b, i ≠ .illegalOp h .vp b) (g : Goes .vp opc h s) {code : Nat} (trap : vectorTrap s o (s.moved64 h) = some code) :
    exec i s = .next (enterTrap code (s.moved64 h) s.sl.pc s) := by
  rw [exec_vector row e names]
  exact execTrigger_trap g (vecOp_trap e trap)

end Sys2Proof.Machine
end

section
/-! PROOF. Device memory of quay and harbour cores (spec/04_scalar_control_ops.md R101; spec/07_engine_ops.md R195, R196): where an address
goes, the bytes that a load finds there, and what loads, stores, releases and atomics come to. -/

set_option autoImplicit false
set_option Elab.async false

namespace Sys2Proof.Machine

open Sys2Proof.Claims

variable {h : Hdr} {s : State} {t : Slot}

/-! ## Translation of an address in another slot -/

theorem walkFrom_setSl (va fuel level table : Nat) : (s.setSl t).walkFrom va fuel level table = s.walkFrom va fuel level table := by
  induction fuel generalizing level table with
  | zero => rfl
  | succ fuel ih =>
    have leaf : (s.setSl t).leafOk = s.leafOk := rfl
    simp only [State.walkFrom, ih, leaf]
    rfl

theorem walk_setSl (asid vf va : Nat) : (s.setSl t).walk asid vf va = s.walk asid vf va := by
  simp only [State.walk, walkFrom_setSl]
  rfl

theorem translate_setSl (tlb : List TlbEntry) (asid vf va : Nat) (a : Access) (user : Bool) :
    (s.setSl t).translate tlb asid vf va a user = s.translate tlb asid vf va a user := by
  have key : (s.setSl t).keySlotOf = s.keySlotOf := rfl
  have home : (s.setSl t).pageHome = s.pageHome := rfl
  simp only [State.translate, walk_setSl, key, home]

/-- The model's checks of an address are those of R195, in their order. -/
theorem vaOf_eq_devicePlace (s : State) (w : Word) (n : Nat) (a : Access) : s.vaOf w n a = devicePlace s w n a := by
  have level : (s.sl.priv == 0) = decide (s.sl.priv = 0) := rfl
  have format : bits w 55 52 = w.toNat / 2 ^ 52 % 16 := rfl
  simp only [State.vaOf, devicePlace, bits_low, format, bne_iff_ne, level]
  rfl

theorem vaOf_setSl (level : t.priv = s.sl.priv) (w : Word) (n : Nat) (a : Access) : (s.setSl t).vaOf w n a = s.vaOf w n a := by
  have tlb : (s.setSl t).core.tlb = s.core.tlb := rfl
  have die : (s.setSl t).dieTlb = s.dieTlb := rfl
  have id : (s.setSl t).coreId = s.coreId := rfl
  have asid : (s.setSl t).asid = s.asid := rfl
  have vf : (s.setSl t).vf = s.vf := rfl
  simp only [State.vaOf, translate_setSl, State.sl_setSl, level, tlb, die, id, asid, vf]

theorem vaOf_latched (s : State) (u : FU) (h : Hdr) (w : Word) (n : Nat) (a : Access) :
    (s.latched u h).vaOf w n a = devicePlace s w n a := by
  rw [latched_setSl, vaOf_setSl (priv_latched s u h), vaOf_eq_devicePlace]

section
variable {n : Nat} {a : Access} {k : Home → Res}

/-- A trigger of `qm` whose address fails a check traps. -/
theorem withVa_error {e : Nat} (place : devicePlace s (s.moved64 h) n a = .error e) :
    (s.latched .qm h).withVa n a k = .trap e (s.moved64 h) := by
  rw [State.withVa, trigger_latch, vaOf_latched, place]

/-- A trigger of `qm` whose address passes the checks goes on with its place. -/
theorem withVa_ok {p : Home} (place : devicePlace s (s.moved64 h) n a = .ok p) : (s.latched .qm h).withVa n a k = k p := by
  rw [State.withVa, trigger_latch, vaOf_latched, place]

end

/-! ## The bytes that a load finds, and its time -/

theorem length_remoteBytes (s : State) (d a n : Nat) : (s.remoteBytes d a n).length = n := by
  rw [State.remoteBytes]
  split <;> simp

/-- Bytes read under a key slot are at most those asked for. -/
theorem length_unseal_le (s : State) (pa key n : Nat) {raw : Nat → Nat → List Byte} (whole : ∀ a n, (raw a n).length = n) :
    (s.unseal pa key n raw).length ≤ n := by
  rw [State.unseal]
  split
  · exact (whole pa n).le
  · exact List.length_take_le ..

theorem length_readHome_le (s : State) (p : Home) (n : Nat) : (s.readHome p n).length ≤ n := by
  cases p with
  | core c off => exact (Memory.length_bytes ..).le
  | device pa key => exact length_unseal_le s pa key n (Memory.length_bytes s.dm)
  | host a key => exact length_unseal_le s a key n (Memory.length_bytes s.hm)
  | remote d a key => exact length_unseal_le s a key n (length_remoteBytes s d)

theorem length_seenBy (s : State) (id : CoreId) (slot : Nat) (p : Home) (bs : List Byte) :
    (s.seenBy id slot p bs).length = bs.length := by
  rw [State.seenBy]
  split
  · rfl
  · exact List.length_mapIdx

theorem length_loadFar_le (s : State) (p : Home) (n : Nat) : (s.loadFar p n).length ≤ n := by
  refine le_trans (le_of_eq ?_) (length_readHome_le s p n)
  rw [State.loadFar]
  split
  · exact length_seenBy ..
  · exact List.length_mapIdx.trans (length_seenBy ..)

/-- The number that a load of `n` bytes reads fits its bytes. -/
theorem leNat_loadFar_lt (s : State) (p : Home) (n : Nat) : leNat (s.loadFar p n) < 2 ^ (8 * n) := by
  rw [Nat.pow_mul]
  exact lt_of_lt_of_le (leNat_lt _) (Nat.pow_le_pow_right (by decide) (length_loadFar_le s p n))

theorem extend_eq {x n : Nat} (fits : x < 2 ^ (8 * n)) (signed : Bool) :
    extend x n signed = if signed then signedLow (8 * n) x else BitVec.ofNat 64 x := by
  rw [extend, sext_eq, zext_eq, Nat.mod_eq_of_lt fits]

theorem loadFar_setSl (buffer : t.sb = s.sl.sb) (p : Home) (n : Nat) : (s.setSl t).loadFar p n = s.loadFar p n := by
  have seen : (s.setSl t).seenBy = s.seenBy := rfl
  have core : (s.setSl t).core.cur = s.core.cur := rfl
  have id : (s.setSl t).coreId = s.coreId := rfl
  have read : (s.setSl t).readHome p n = s.readHome p n := by
    cases p with
    | core c off =>
      have mem : ((s.setSl t).coreAt c).mem = (s.coreAt c).mem :=
        s.coreAt_onCore_keeps (·.mem) (f := fun c => { c with slots := c.slots.set c.cur t }) rfl c
      rw [State.readHome, State.readHome, mem]
    | device | host | remote => rfl
  simp only [State.loadFar, State.sl_setSl, buffer, seen, core, id, read]

theorem sb_latched (s : State) (u : FU) (h : Hdr) : (s.latched u h).sl.sb = s.sl.sb := by
  rw [sl_latched]
  rfl

theorem loadFar_latched (s : State) (u : FU) (h : Hdr) (p : Home) (n : Nat) : (s.latched u h).loadFar p n = s.loadFar p n := by
  rw [latched_setSl, loadFar_setSl (sb_latched s u h)]

/-- With every performed store seen everywhere, a load finds what its slot's own buffer forwards. -/
theorem loadFar_of_seen (seen : s.unseen = []) (p : Home) (n : Nat) : s.loadFar p n = s.loadHome p n := by
  rw [State.loadFar, State.loadHome, State.seenBy, seen]
  rfl

theorem qmLatency_eq (s : State) (p : Home) : s.qmLatency p = (s.cycles (deviceTime s p).1, s.cycles (deviceTime s p).2) := by
  cases p with
  | device pa key => simp only [State.qmLatency, deviceTime, beq_iff_eq]
  | core | host | remote => rfl

theorem qmLatency_latched (s : State) (u : FU) (h : Hdr) (p : Home) :
    (s.latched u h).qmLatency p = (s.cycles (deviceTime s p).1, s.cycles (deviceTime s p).2) := by
  rw [latched_setSl, ← qmLatency_eq]
  rfl

/-! ## The request of a load of another device's memory -/

/-- A state as requests to other devices leave it: flits have left, and refusals are counted (R469, R472). -/
def State.requested (s : State) (ports : List (Nat × ShumPort)) (regs : List (Reg × Word)) (errs : List (Nat × Nat)) : State :=
  { s with shum := ports, regs := regs, errs := errs }

theorem requested_requested (s : State) (p p' : List (Nat × ShumPort)) (r r' : List (Reg × Word)) (e e' : List (Nat × Nat)) :
    (s.requested p r e).requested p' r' e' = s.requested p' r' e' := rfl

theorem sendFlit_requested (s : State) (pa : Nat) (body : List Byte) : ∃ ports, s.sendFlit pa body = s.requested ports s.regs s.errs := by
  rw [State.sendFlit]
  split
  · exact ⟨_, rfl⟩
  · exact ⟨s.shum, rfl⟩

theorem refuseRemote_requested (s : State) (pa : Nat) : ∃ regs errs, s.refuseRemote pa = s.requested s.shum regs errs := ⟨_, _, rfl⟩

/-- The request for one stripe leaves, and is counted where the other device refuses it. -/
def State.asksStripe (s : State) (d a : Nat) (bs : List Byte) (p : Nat × Nat) : State :=
  let s1 := s.sendFlit p.1 ((bs.drop (p.1 - a)).take p.2)
  if Config.remoteRefuses d (p.1 / 2 ^ 32) s.time then s1.refuseRemote p.1 else s1

theorem asks_eq_foldl (s : State) (d a n : Nat) (bs : List Byte) :
    s.asks d a n bs = (stripes a n).foldl (fun s p => s.asksStripe d a bs p) s := rfl

theorem asksStripe_requested (s : State) (d a : Nat) (bs : List Byte) (p : Nat × Nat) :
    ∃ ports regs errs, s.asksStripe d a bs p = s.requested ports regs errs := by
  obtain ⟨ports, sent⟩ := sendFlit_requested s p.1 ((bs.drop (p.1 - a)).take p.2)
  rw [State.asksStripe, sent]
  split
  · exact ⟨_, _, _, rfl⟩
  · exact ⟨_, _, _, rfl⟩

theorem asks_requested (s : State) (d a n : Nat) (bs : List Byte) :
    ∃ ports regs errs, s.asks d a n bs = s.requested ports regs errs := by
  rw [asks_eq_foldl]
  generalize stripes a n = l
  induction l generalizing s with
  | nil => exact ⟨s.shum, s.regs, s.errs, rfl⟩
  | cons p l ih =>
    obtain ⟨ports, regs, errs, first⟩ := asksStripe_requested s d a bs p
    obtain ⟨ports', regs', errs', rest⟩ := ih (s.asksStripe d a bs p)
    refine ⟨ports', regs', errs', ?_⟩
    rw [List.foldl_cons, rest, first, requested_requested]

theorem asked_requested (s : State) (p : Home) : ∃ ports regs errs, s.asked p = s.requested ports regs errs := by
  cases p with
  | remote d a key => exact asks_requested s d a 8 []
  | core | device | host => exact ⟨s.shum, s.regs, s.errs, rfl⟩

theorem sendFlit_setSl (pa : Nat) (body : List Byte) : (s.setSl t).sendFlit pa body = (s.sendFlit pa body).setSl t := by
  have plane : (s.setSl t).planeOf pa = s.planeOf pa := rfl
  rw [State.sendFlit, State.sendFlit, plane]
  split <;> rfl

theorem asksStripe_setSl (d a : Nat) (bs : List Byte) (p : Nat × Nat) :
    (s.setSl t).asksStripe d a bs p = (s.asksStripe d a bs p).setSl t := by
  have time : (s.setSl t).time = s.time := rfl
  rw [State.asksStripe, State.asksStripe, sendFlit_setSl, time]
  split <;> rfl

theorem asks_setSl (d a n : Nat) (bs : List Byte) : (s.setSl t).asks d a n bs = (s.asks d a n bs).setSl t := by
  rw [asks_eq_foldl, asks_eq_foldl]
  exact List.foldl_hom (f := fun s : State => s.setSl t) fun s p => asksStripe_setSl (s := s) d a bs p

/-- A load asks for its bytes alike in every slot. -/
theorem asked_setSl (p : Home) : (s.setSl t).asked p = (s.asked p).setSl t := by
  cases p with
  | remote d a key => exact asks_setSl ..
  | core | device | host => rfl

/-- Only a load of another device's memory asks. -/
theorem asked_of_here {p : Home} (here : ∀ dev a k, p ≠ .remote dev a k) : s.asked p = s := by
  cases p with
  | remote d a key => exact absurd rfl (here d a key)
  | core | device | host => rfl

section
variable {u : FU} {opc : Nat} {ports : List (Nat × ShumPort)} {regs : List (Reg × Word)} {errs : List (Nat × Nat)}

theorem latched_requested (s : State) (u : FU) (h : Hdr) :
    (s.requested ports regs errs).latched u h = (s.latched u h).requested ports regs errs := rfl

theorem goes_requested (g : Goes u opc h s) : Goes u opc h (s.requested ports regs errs) :=
  ⟨⟨g.alone, g.issuing, g.source, g.valid, g.ready⟩, g.carries, g.free, g.taken⟩

end

theorem goes_asked {u : FU} {opc : Nat} (g : Goes u opc h s) (p : Home) : Goes u opc h (s.asked p) := by
  obtain ⟨ports, regs, errs, e⟩ := asked_requested s p
  rw [e]
  exact goes_requested g

theorem latched_asked (s : State) (u : FU) (h : Hdr) (p : Home) : (s.latched u h).asked p = (s.asked p).latched u h := by
  obtain ⟨ports, regs, errs, e⟩ := asked_requested s p
  have slot : ((s.asked p).latched u h).sl = (s.latched u h).sl := by
    rw [e]
    rfl
  rw [latched_setSl s, asked_setSl, latched_setSl (s.asked p), slot]

/-! ## Loads, stores, releases and atomics -/

section
variable {opc n e : Nat} {signed : Bool} {p : Home} {f : Word → Word → Word → Option Word}

/-- A load whose address passes the checks has asked for its bytes and enters its unit with them. -/
theorem qmLoad_ok (g : Goes .qm opc h s) (place : devicePlace s (s.moved64 h) n .read = .ok p) :
    ∃ t, execTrigger .qm opc h (qmLoad opc n signed) s = .next t ∧
      Launches .qm opc h (s.cycles (deviceTime s p).1) (s.cycles (deviceTime s p).2)
        (if signed then signedLow (8 * n) (leNat (s.loadFar p n)) else BitVec.ofNat 64 (leNat (s.loadFar p n))) 0 (s.asked p) t := by
  let goesOut : State → Res := fun x => .ok (x.launch .qm opc (s.cycles (deviceTime s p).1) (s.cycles (deviceTime s p).2)
    (if signed then signedLow (8 * n) (leNat (s.loadFar p n)) else BitVec.ofNat 64 (leNat (s.loadFar p n))) 0)
  have load : qmLoad opc n signed (s.latched .qm h) = goesOut ((s.asked p).latched .qm h) := by
    simp only [qmLoad, goesOut]
    rw [withVa_ok place, qmLatency_latched, latched_asked, loadFar_latched, extend_eq (leNat_loadFar_lt s p n)]
  obtain ⟨t, run, launched⟩ := launches_launch (op := goesOut) (goes_asked g p) rfl
  refine ⟨t, ?_, launched⟩
  rw [← run, execTrigger_ok g load, execTrigger_ok (op := goesOut) (goes_asked g p) rfl]

theorem qmLoad_error (place : devicePlace s (s.moved64 h) n .read = .error e) :
    qmLoad opc n signed (s.latched .qm h) = .trap e (s.moved64 h) := withVa_error place

/-- The operation of a store of the table: a plain one, or a release with its scope. -/
def deviceStoreOp (n : Nat) (sc : Option Nat) : State → Res := sc.elim (qmStore n) qmRelease

theorem deviceStoreOp_error {sc : Option Nat} (whole : sc.isSome = true → n = 8)
    (place : devicePlace s (s.moved64 h) n .write = .error e) : deviceStoreOp n sc (s.latched .qm h) = .trap e (s.moved64 h) := by
  cases sc with
  | none => exact withVa_error place
  | some sc =>
    obtain rfl := whole rfl
    exact withVa_error place

theorem qmAtomic_error (place : devicePlace s (s.moved64 h) 8 .atomic = .error e) :
    qmAtomic opc f (s.latched .qm h) = .trap e (s.moved64 h) := withVa_error place

/-- A state with no push or pull of its slot on its way, and no notice to come, waits for none. -/
def State.NoneOut (s : State) : Prop := s.core.outside = [] ∧ (∀ x ∈ s.pushes, s.isMine x = false) ∧ ∀ x ∈ s.pulls, s.isMine x = false

theorem flushPulls_of_none (others : ∀ x ∈ s.pulls, s.isMine x = false) : s.flushPulls = s := by
  rw [State.flushPulls, List.filter_eq_nil_iff.2 fun x hx => by simp [others x hx]]
  rfl

theorem flushPushes_of_none (others : ∀ x ∈ s.pushes, s.isMine x = false) : s.flushPushes = s := by
  rw [State.flushPushes, List.filter_eq_nil_iff.2 fun x hx => by simp [others x hx]]
  rfl

theorem noneOut_latched {u : FU} (out : s.NoneOut) : (s.latched u h).NoneOut := out

/-- A store that has entered the FIFO of the slot in focus and answered. -/
def State.stored (s : State) (e : StoreEntry) : State := ((s.complete .qm 0 0).buffer e).count 7

theorem qmRelease_of_none (out : s.NoneOut) (sc : Nat) :
    qmRelease sc s = s.withVa 8 .write fun p =>
      .ok (s.stored ⟨p, leBytes 8 (s.lat .qm).a.toNat, some sc, true, (s.lat .qm).t, false⟩) := by
  obtain ⟨outside, pushes, pulls⟩ := out
  have free : s.pushes.any s.isMine = false := List.any_eq_false.2 fun x hx => by simp [pushes x hx]
  simp only [qmRelease, flushPulls_of_none pulls, flushPushes_of_none pushes, ite_self, outside, free, State.stored]
  simp

/-- A store of the table whose address passes the checks, and that waits for nothing, enters the FIFO. -/
theorem deviceStoreOp_ok {sc : Option Nat} (whole : sc.isSome = true → n = 8) (out : sc.isSome = true → s.NoneOut)
    (place : devicePlace s (s.moved64 h) n .write = .ok p) : deviceStoreOp n sc (s.latched .qm h) =
      .ok ((s.latched .qm h).stored ⟨p, leBytes n (s.lat .qm).a.toNat, sc, true, s.moved64 h, false⟩) := by
  have latch : (s.latched .qm h).lat .qm = { s.lat .qm with t := s.moved64 h } := lat_latched ..
  cases sc with
  | none =>
    refine Eq.trans (withVa_ok place) ?_
    rw [latch]
    rfl
  | some sc =>
    obtain rfl := whole rfl
    rw [deviceStoreOp, Option.elim_some, qmRelease_of_none (noneOut_latched (out rfl)), withVa_ok place, latch]

theorem store_enters (g : Goes .qm opc h s) {op : State → Res} {en : StoreEntry}
    (ho : op (s.latched .qm h) = .ok ((s.latched .qm h).stored en)) : ∃ t, execTrigger .qm opc h op s = .next t ∧ OnlySlot s t ∧
      t.sl = { s.ran .qm h (answered 0 0) with sb := s.sl.sb ++ [en] } := by
  rw [State.stored, complete_latched g, State.buffer, State.onSl_onSl] at ho
  obtain ⟨t, run, slot, only⟩ := exec_slot_count g (fun x => { x.setResult .qm 0 0 with sb := (x.setResult .qm 0 0).sb ++ [en] }) 7 ho
    (by rw [sl_latched]; rfl) (by rw [sl_latched]; rfl) (by rw [sl_latched]; rfl) (by rw [sl_latched]; exact Flow.noConfusion)
  refine ⟨t, run, only, slot.trans ?_⟩
  rw [ran_answered, ← sb_latched s .qm h]
  rfl

end

/-! ## The instructions of the tables -/

theorem exec_deviceLoad {r : Nat × (Hdr → Instr) × Nat × Bool} (hr : r ∈ deviceLoadTable) (h : Hdr) (s : State) :
    exec (r.2.1 h) s = execTrigger .qm r.1 h (qmLoad r.1 r.2.2.1 r.2.2.2) s := by
  simp only [deviceLoadTable, List.mem_cons, List.not_mem_nil, or_false] at hr
  rcases hr with rfl | rfl | rfl | rfl | rfl | rfl | rfl | rfl | rfl | rfl | rfl | rfl | rfl <;> rfl

theorem exec_deviceStore {r : Nat × (Hdr → Instr) × Nat × Option Nat} (hr : r ∈ deviceStoreTable) :
    (r.2.2.2.isSome = true → r.2.2.1 = 8) ∧
      ∀ (h : Hdr) (s : State), exec (r.2.1 h) s = execTrigger .qm r.1 h (deviceStoreOp r.2.2.1 r.2.2.2) s := by
  simp only [deviceStoreTable, List.mem_cons, List.not_mem_nil, or_false] at hr
  rcases hr with rfl | rfl | rfl | rfl | rfl | rfl | rfl | rfl | rfl | rfl <;> exact ⟨by decide, fun _ _ => rfl⟩

theorem exec_deviceAtomic {r : AtomicRow} (hr : r ∈ deviceAtomicTable) :
    ∃ f, ∀ (h : Hdr) (s : State), exec (r.2.1 h) s = execTrigger .qm r.1 h (qmAtomic r.1 f) s := by
  simp only [deviceAtomicTable, atomicTable, List.zip_cons_cons, List.zip_nil_right, List.map_cons, List.map_nil, List.mem_cons,
    List.not_mem_nil, or_false] at hr
  rcases hr with rfl | rfl | rfl | rfl | rfl | rfl | rfl | rfl | rfl <;> exact ⟨_, fun _ _ => rfl⟩

/-! ## The statement -/

/-- Settles O30: each access checks its address first; a load enters its unit with the bytes that its slot sees, and a store or a release enters
the FIFO of its slot. -/
theorem deviceMemoryResults : Obligations.DeviceMemoryResults := by
  refine fun h s => ⟨fun r hr p g place => ?_, fun r hr p g place out => ?_, fun r hr e g place => ?_, fun r hr e g place => ?_,
    fun r hr e g place => ?_⟩
  · rw [exec_deviceLoad hr]
    obtain ⟨t, run, launched⟩ := qmLoad_ok (signed := r.2.2.2) g place
    exact ⟨t, run, launched, asked_of_here, fun seen => loadFar_of_seen seen p _⟩
  · obtain ⟨whole, run⟩ := exec_deviceStore hr
    rw [run]
    exact store_enters g (deviceStoreOp_ok whole out place)
  · rw [exec_deviceLoad hr]
    exact execTrigger_trap g (qmLoad_error place)
  · obtain ⟨whole, run⟩ := exec_deviceStore hr
    rw [run]
    exact execTrigger_trap g (deviceStoreOp_error whole place)
  · obtain ⟨f, run⟩ := exec_deviceAtomic hr
    rw [run]
    exact execTrigger_trap g (qmAtomic_error place)

end Sys2Proof.Machine
end

section
/-! PROOF. The instructions of the stream engine (spec/04_scalar_control_ops.md R101; spec/07_engine_ops.md R202, R203): a record's place in
the run queue, the wait for one, the engine's status, and the end of a record. -/

set_option autoImplicit false
set_option Elab.async false

namespace Sys2Proof.Machine

open Sys2Proof.Claims

variable {h : Hdr} {s x : State} {t : Slot}

/-! ## The engine in another slot, and past the end of a bundle -/

theorem targetBerth_setSl (bs : List Byte) (i : Nat) : (s.setSl t).targetBerth bs i = s.targetBerth bs i := by
  have core : (s.setSl t).target bs i = s.target bs i := rfl
  rw [State.targetBerth, State.targetBerth, core, State.berthAt, State.berthAt, berths_setSl]

/-- A record is checked alike in every slot. -/
theorem streamFault_setSl (bs : List Byte) : (s.setSl t).streamFault bs = s.streamFault bs := by
  have span : (s.setSl t).farInSpan = s.farInSpan := rfl
  have party : streamParty (s.setSl t).core = streamParty s.core := rfl
  have record : (s.setSl t).record? = s.record? := rfl
  have granted : (s.setSl t).granted = s.granted := rfl
  simp only [State.streamFault, targetBerth_setSl, span, party, record, granted]

theorem nextSlot_setSl (r : StreamRun) : (s.setSl t).nextSlot r = s.nextSlot r := by
  simp only [State.nextSlot, targetBerth_setSl]

/-- The engine waits alike for every slot. -/
theorem streamWait_setSl (s : State) (t : Slot) : (s.setSl t).streamWait = s.streamWait := by
  have stream : (s.setSl t).core.stream = s.core.stream := rfl
  have page : (s.setSl t).core.prq = s.core.prq := rfl
  have may : (s.setSl t).streamMay = s.streamMay := rfl
  have target : (s.setSl t).target = s.target := rfl
  simp only [State.streamWait, stream, page, may, target, nextSlot_setSl, conflict_setSl]

theorem streamState_setSl (s : State) (t : Slot) : (s.setSl t).streamState = s.streamState := by
  have stream : (s.setSl t).core.stream = s.core.stream := rfl
  simp only [State.streamState, stream, streamWait_setSl]

theorem stream_latched (s : State) (u : FU) (h : Hdr) : (s.latched u h).core.stream = s.core.stream := rfl

theorem streamParty_latched (s : State) (u : FU) (h : Hdr) : streamParty (s.latched u h).core = streamParty s.core := by
  rw [latched_setSl]
  rfl

theorem stream_count (s : State) (e : Nat) : (s.count e).core.stream = s.core.stream := by
  obtain ⟨p, hp, -⟩ := s.count_perf e
  rw [hp]
  rfl

theorem loadHome_latched (s : State) (u : FU) (h : Hdr) (c : CoreId) (off n : Nat) :
    (s.latched u h).loadHome (.core c off) n = s.loadHome (.core c off) n := by
  have mem : ((s.latched u h).coreAt c).mem = (s.coreAt c).mem := by
    rw [latched_setSl]
    exact s.coreAt_onCore_keeps (·.mem) (f := fun m => { m with slots := m.slots.set m.cur (s.latched u h).sl }) rfl c
  simp only [State.loadHome, State.readHome, sb_latched, mem]

/-- A slot whose bundle notes nothing for its end (R15, R122). -/
def Slot.Plain (t : Slot) : Prop := t.seedw = none ∧ t.csrw = none ∧ t.after = none ∧ t.flow ≠ .ended

theorem plain_latched (s : State) (u : FU) (h : Hdr) : (s.latched u h).sl.Plain := by
  rw [sl_latched]
  exact ⟨rfl, rfl, rfl, nofun⟩

theorem plain_setResult (plain : t.Plain) (u : FU) (q q2 : Word) : (t.setResult u q q2).Plain := plain

theorem plain_waits (plain : t.Plain) (u : FU) (opc since : Nat) (reason : Word) : (t.waits u opc since reason).Plain := plain

/-- A trigger that has gone out leaves its slot retired, the memories, and the engine. -/
theorem execTrigger_retires_stream {u : FU} {opc : Nat} {op : State → Res} (g : Goes u opc h s) (ho : op (s.latched u h) = .ok x)
    (plain : x.sl.Plain) :
    ∃ t, execTrigger u opc h op s = .next t ∧ t.sl = x.sl.retired ∧ SameMemory x t ∧ t.core.stream = x.core.stream := by
  obtain ⟨seed, csrw, after, flow⟩ := plain
  obtain ⟨t, run, slot, memory, -⟩ := execTrigger_retires g ho seed csrw after flow
  have closed : t = x.closeBundle := by simpa using run.symm.trans (execTrigger_ok g ho)
  refine ⟨t, run, slot, memory, ?_⟩
  rw [closed, closeBundle_plain seed csrw after flow, stream_count]
  rfl

/-- A trigger that leaves its slot as it found it and answers, whatever it has done to the engine. -/
theorem stream_answers {opc : Nat} {op : State → Res} {q : Word} (g : Goes .qs opc h s)
    (ho : op (s.latched .qs h) = .ok (x.complete .qs q 0)) (slot : x.sl = (s.latched .qs h).sl) (memory : SameMemory (s.latched .qs h) x) :
    ∃ t, execTrigger .qs opc h op s = .next t ∧ t.sl = s.ran .qs h (answered q 0) ∧ SameMemory s t ∧ t.core.stream = x.core.stream := by
  have left : (x.complete .qs q 0).sl = (s.latched .qs h).sl.setResult .qs q 0 := by
    rw [State.complete, State.sl_onSl, slot, unblock_issuing (latched_issuing g)]
  obtain ⟨t, run, retired, memory2, stream⟩ := execTrigger_retires_stream g ho (left ▸ plain_setResult (plain_latched s .qs h) ..)
  refine ⟨t, run, ?_, (((sameMemory_latched s .qs h).trans memory).trans (sameMemory_onSl x _)).trans memory2, stream⟩
  rw [retired, left, ran_answered]

/-! ## A place in the run queue (R202) -/

theorem qsRun_error (g : Goes .qs 0x01 h s) {code : Nat} (place : accessPlace s (s.moved64 h) 64 false = .error code) :
    qsRun (s.latched .qs h) = .trap code (s.moved64 h) := by
  simp only [qsRun, trigger_latch, resuming_latched g, Bool.false_eq_true, if_false]
  exact withSpa_error g place

/-- A record that has been read is checked, and then queued. -/
theorem qsRun_ok (g : Goes .qs 0x01 h s) {c : CoreId} {off : Nat} (place : accessPlace s (s.moved64 h) 64 false = .ok (c, off)) :
    qsRun (s.latched .qs h) = (s.streamFault (s.loadHome (.core c off) 64)).elim
      ((s.latched .qs h).queueStream (s.loadHome (.core c off) 64)) fun code => .trap code (s.moved64 h) := by
  have checks (bs : List Byte) : (s.latched .qs h).streamFault bs = s.streamFault bs := by rw [latched_setSl, streamFault_setSl]
  simp only [qsRun, trigger_latch, resuming_latched g, Bool.false_eq_true, if_false]
  rw [withSpa_ok g place]
  simp only [loadHome_latched, checks]
  cases s.streamFault (s.loadHome (.core c off) 64) with
  | none => rfl
  | some code => rfl

/-- The engine with one more record in its run queue. -/
def Stream.queued (e : Stream) (me : Nat) (bs : List Byte) : Stream :=
  { e with queue := e.queue ++ [(e.next, bs)], order := e.order ++ [none], next := (e.next + 1) % 2 ^ 32,
           waiting := e.waiting.filter fun w => w.1 != me }

theorem sameMemory_onStream (s : State) (f : Stream → Stream) : SameMemory s (s.onStream f) := sameMemory_of rfl rfl rfl rfl rfl rfl rfl

theorem queueStream_place (place : s.core.stream.queue.length < 4) (first : s.core.stream.waiting = []) (bs : List Byte) :
    s.queueStream bs =
      .ok ((s.onStream fun e => e.queued s.core.cur.val bs).complete .qs (BitVec.ofNat 64 s.core.stream.next) 0) := by
  have free : decide (s.core.stream.queue.length < 4) = true := decide_eq_true place
  simp only [State.queueStream, first, free, List.head?_nil, Bool.and_self, if_true]
  rfl

/-- The slot in focus stands among those that wait for a place. -/
def State.waitStream (s : State) (bs : List Byte) : State :=
  if s.core.stream.waiting.any fun w => w.1 == s.core.cur.val then s
  else s.onStream fun e => { e with waiting := e.waiting ++ [(s.core.cur.val, bs)] }

theorem waitStream_keeps (s : State) (bs : List Byte) : (s.waitStream bs).sl = s.sl ∧ (s.waitStream bs).reg = s.reg ∧
    (s.waitStream bs).coreId = s.coreId ∧ (s.waitStream bs).time = s.time ∧ (s.waitStream bs).core.stream.queue = s.core.stream.queue := by
  rw [State.waitStream]
  split <;> exact ⟨rfl, rfl, rfl, rfl, rfl⟩

theorem queueStream_full (full : 4 ≤ s.core.stream.queue.length) (bs : List Byte) :
    s.queueStream bs = (s.waitStream bs).block .qs 1 11 0 (streamParty s.core) 0 := by
  have noPlace : decide (s.core.stream.queue.length < 4) = false := decide_eq_false (Nat.not_lt.2 full)
  simp only [State.queueStream, noPlace, Bool.false_and, Bool.false_eq_true, if_false]
  rfl

/-- A slot that enters a wait leaves the engine. -/
theorem stream_block (untraced : s.untraced) {u : FU} {opc kind mode releaser object : Nat}
    (blocked : s.block u opc kind mode releaser object = .ok x) : x.core.stream = s.core.stream := by
  have silent (f : Slot → Slot) : (s.onSl f).untraced := untraced
  simp only [State.block, trace_untraced (silent _)] at blocked
  split at blocked
  · cases blocked
  · split at blocked
    · rw [Res.ok.inj blocked]
    · rw [← Res.ok.inj blocked]
      rfl

/-- A record that passes its checks takes the next place. -/
theorem stream_queued (g : Goes .qs 0x01 h s) {c : CoreId} {off : Nat} (place : accessPlace s (s.moved64 h) 64 false = .ok (c, off))
    (passes : s.streamFault (s.loadHome (.core c off) 64) = none) (free : s.core.stream.queue.length < 4)
    (first : s.core.stream.waiting = []) :
    ∃ t, execTrigger .qs 0x01 h qsRun s = .next t ∧ t.sl = s.ran .qs h (answered (BitVec.ofNat 64 s.core.stream.next) 0) ∧
      SameMemory s t ∧ t.core.stream = s.core.stream.queued s.core.cur.val (s.loadHome (.core c off) 64) := by
  refine stream_answers (x := (s.latched .qs h).onStream fun e => e.queued s.core.cur.val (s.loadHome (.core c off) 64)) g ?_ rfl
    (sameMemory_onStream _ _)
  rw [qsRun_ok g place, passes, Option.elim_none]
  exact queueStream_place (s := s.latched .qs h) free first _

/-- A record that passes its checks and finds the queue full waits for a place in it. -/
theorem stream_waits (g : Goes .qs 0x01 h s) {c : CoreId} {off : Nat} (place : accessPlace s (s.moved64 h) 64 false = .ok (c, off))
    (passes : s.streamFault (s.loadHome (.core c off) 64) = none) (full : 4 ≤ s.core.stream.queue.length)
    (untraced : s.untraced) (may : MayWait s) :
    ∃ t, execTrigger .qs 0x01 h qsRun s = .next t ∧ t.core.stream.queue = s.core.stream.queue ∧
      t.sl = Claims.waiting s .qs 0x01 h 11 0 (streamParty s.core) 0 [] := by
  obtain ⟨slot, reg, core, time, queue⟩ := waitStream_keeps (s.latched .qs h) (s.loadHome (.core c off) 64)
  have op : qsRun (s.latched .qs h) =
      ((s.latched .qs h).waitStream (s.loadHome (.core c off) 64)).block .qs 1 11 0 (streamParty s.core) 0 := by
    rw [qsRun_ok g place, passes, Option.elim_none, ← streamParty_latched s .qs h]
    exact queueStream_full (s := s.latched .qs h) full _
  generalize (s.latched .qs h).waitStream (s.loadHome (.core c off) 64) = w at *
  have mayWait : MayWait w := by
    rw [MayWait, slot, sl_latched]
    exact may
  have silent : w.untraced := by
    rw [State.untraced, reg, core]
    exact untraced
  obtain ⟨x, blocked, -, -, entered⟩ := block_enters (slot ▸ latched_issuing g) mayWait silent .qs 1 11 0 (streamParty s.core) 0
  rw [slot, time, time_latched, csr_latched] at entered
  obtain ⟨t, next, retired, -, stream⟩ := execTrigger_retires_stream g (op.trans blocked) (entered ▸ plain_waits (plain_latched s .qs h) ..)
  refine ⟨t, next, ?_, ?_⟩
  · rw [stream, stream_block silent blocked, queue, stream_latched]
  · rw [retired, entered, waiting_eq]

/-! ## Status (R203) -/

theorem qsStat_latched (s : State) (h : Hdr) : qsStat (s.latched .qs h) = .ok ((s.latched .qs h).complete .qs
    (BitVec.ofNat 64 (s.streamState * 2 ^ 61 + s.core.stream.err.getD 0 * 2 ^ 48 + s.core.stream.queue.length * 2 ^ 40 +
      s.core.stream.seq)) 0) := by
  have state : (s.latched .qs h).streamState = s.streamState := by rw [latched_setSl, streamState_setSl]
  rw [qsStat, state, stream_latched, w64]

/-! ## Cancel (R203) -/

/-- The running record once it is cancelled: none at a slot boundary, else the record that stops at the next one. -/
def Stream.ended (e : Stream) : Option StreamRun := e.run.bind fun r => if r.wrote = 0 then none else some { r with ending := true }

theorem ended_idle {e : Stream} (boundary : ∀ r, e.run = some r → r.wrote = 0) : e.ended = none := by
  rw [Stream.ended]
  cases run : e.run with
  | none => rfl
  | some r => exact if_pos (boundary r run)

theorem ended_running {e : Stream} {r : StreamRun} (run : e.run = some r) (wrote : r.wrote ≠ 0) : e.ended = some { r with ending := true } := by
  rw [Stream.ended, run]
  exact if_neg wrote

theorem cancelRun_keeps (s : State) : s.cancelRun.sl = s.sl ∧ SameMemory s s.cancelRun ∧
    s.cancelRun.core.stream = { s.core.stream with run := s.core.stream.ended, err := none } := by
  rw [State.cancelRun]
  cases run : s.core.stream.run with
  | none =>
    rw [ended_idle (by simp [run])]
    exact ⟨rfl, sameMemory_onStream s _, by simp only [State.onStream, State.onCore, run]⟩
  | some r =>
    by_cases boundary : r.wrote = 0
    · rw [ended_idle (by simp [run, boundary])]
      simp only [boundary, beq_self_eq_true, if_true]
      cases page : s.core.prq <;> exact ⟨rfl, sameMemory_of rfl rfl rfl rfl rfl rfl rfl, rfl⟩
    · rw [ended_running run boundary]
      simp only [beq_iff_eq, boundary, if_false]
      exact ⟨rfl, sameMemory_onStream s _, rfl⟩

/-- The engine with another wait reason, recorded at a time. -/
def Stream.noted (e : Stream) (wrr : Word) (since : Nat) : Stream := { e with wrr := wrr, since := since }

theorem noted_keeps (e : Stream) (wrr : Word) (since : Nat) :
    (e.noted wrr since).run = e.run ∧ (e.noted wrr since).err = e.err ∧ (e.noted wrr since).queue = e.queue := ⟨rfl, rfl, rfl⟩

/-- The engine with its wait recorded, or its end (R381). -/
def Stream.noting (e : Stream) (wait : Option (Nat × Nat × Nat)) (now : Nat) : Stream := match wait with
  | none => e.noted (setBits e.wrr 63 63 0) e.since
  | some (kind, object, releaser) =>
    if sameReason e.wrr kind 0 releaser object then e else e.noted (wrrWord e.wrr kind 0 releaser object) now

theorem noting_keeps (e : Stream) (wait : Option (Nat × Nat × Nat)) (now : Nat) :
    (e.noting wait now).run = e.run ∧ (e.noting wait now).err = e.err ∧ (e.noting wait now).queue = e.queue := by
  cases wait with
  | none => exact noted_keeps ..
  | some w =>
    dsimp only [Stream.noting]
    split
    · exact ⟨rfl, rfl, rfl⟩
    · exact noted_keeps ..

theorem noteStream_eq (s : State) : s.noteStream = s.onStream fun e => e.noting s.streamWait s.time := by
  rw [State.noteStream]
  cases s.streamWait with
  | none => rfl
  | some w => rfl

theorem noteStream_keeps (s : State) : s.noteStream.sl = s.sl ∧ SameMemory s s.noteStream ∧
    s.noteStream.core.stream.run = s.core.stream.run ∧ s.noteStream.core.stream.err = s.core.stream.err ∧
    s.noteStream.core.stream.queue = s.core.stream.queue := by
  rw [noteStream_eq]
  exact ⟨rfl, sameMemory_onStream s _, noting_keeps s.core.stream s.streamWait s.time⟩

/-- An engine that runs no record waits for nothing. -/
theorem noteStream_idle (idle : s.core.stream.run = none) : bit s.noteStream.core.stream.wrr 63 = false := by
  have waits : s.streamWait = none := by rw [State.streamWait, idle]
  have wrr : s.noteStream.core.stream.wrr = setBits s.core.stream.wrr 63 63 0 := by
    rw [noteStream_eq, waits]
    rfl
  rw [wrr, bit, BitVec.getLsbD, testBit_setBits (by decide) (by decide)]
  rfl

/-- The engine after a cancel, which takes all of the run queue or none of it. -/
def State.cancelled (s : State) (all : Bool) : State :=
  (s.cancelRun.onStream fun e => if all then { e with queue := [], order := e.order.filter fun o => o.isSome } else e).noteStream

theorem cancelled_keeps (s : State) (all : Bool) : (s.cancelled all).sl = s.sl ∧ SameMemory s (s.cancelled all) ∧
    (s.cancelled all).core.stream.run = s.core.stream.ended ∧ (s.cancelled all).core.stream.err = none ∧
    (s.cancelled all).core.stream.queue = (if all then [] else s.core.stream.queue) ∧
    (s.core.stream.ended = none → bit (s.cancelled all).core.stream.wrr 63 = false) := by
  obtain ⟨slot, memory, stream⟩ := cancelRun_keeps s
  rw [State.cancelled]
  generalize s.cancelRun = c at *
  obtain ⟨slot2, memory2, run, err, queue⟩ :=
    noteStream_keeps (c.onStream fun e => if all then { e with queue := [], order := e.order.filter fun o => o.isSome } else e)
  have before : (c.onStream fun e => if all then { e with queue := [], order := e.order.filter fun o => o.isSome } else e).core.stream.run =
      s.core.stream.ended := by
    cases all <;> exact congrArg Stream.run stream
  refine ⟨slot2.trans slot, (memory.trans (sameMemory_onStream c _)).trans memory2, run.trans before, err.trans ?_, queue.trans ?_,
    fun idle => noteStream_idle (before.trans idle)⟩
  · cases all <;> exact congrArg Stream.err stream
  · cases all
    · exact (congrArg Stream.queue stream :)
    · rfl

/-- The records that a cancel drops. -/
def Stream.dropped (e : Stream) (all : Bool) : Nat := (e.run.any fun r => !r.ending).toNat + if all then e.queue.length else 0

theorem qsCancel_ok (small : (s.moved64 h).toNat ≤ 1) : qsCancel (s.latched .qs h) =
    .ok (((s.latched .qs h).cancelled (s.moved64 h == 1)).complete .qs (BitVec.ofNat 64 (s.core.stream.dropped (s.moved64 h == 1))) 0) := by
  have known : (s.moved64 h != 0 && s.moved64 h != 1) = false := by
    rw [← Bool.not_eq_true, Bool.and_eq_true, bne_iff_ne, bne_iff_ne]
    bv_omega
  simp only [qsCancel, trigger_latch, known, Bool.false_eq_true, if_false]
  rfl

theorem qsCancel_trap (large : 1 < (s.moved64 h).toNat) : qsCancel (s.latched .qs h) = .trap 0x02 (s.moved64 h) := by
  have other : (s.moved64 h != 0 && s.moved64 h != 1) = true := by
    rw [Bool.and_eq_true, bne_iff_ne, bne_iff_ne]
    bv_omega
  simp only [qsCancel, trigger_latch, other, if_true]
  rfl

/-- A cancel answers with the number of records dropped, and leaves the engine without its error. -/
theorem stream_cancelled (g : Goes .qs 0x03 h s) (small : (s.moved64 h).toNat ≤ 1) :
    ∃ t, execTrigger .qs 0x03 h qsCancel s = .next t ∧
      t.sl = s.ran .qs h (answered (BitVec.ofNat 64 (s.core.stream.dropped (s.moved64 h == 1))) 0) ∧ SameMemory s t ∧
      t.core.stream.run = s.core.stream.ended ∧ t.core.stream.err = none ∧
      t.core.stream.queue = (if s.moved64 h == 1 then [] else s.core.stream.queue) ∧
      (s.core.stream.ended = none → bit t.core.stream.wrr 63 = false) := by
  obtain ⟨slot, memory, run, err, queue, idle⟩ := cancelled_keeps (s.latched .qs h) (s.moved64 h == 1)
  obtain ⟨t, next, retired, memory2, stream⟩ := stream_answers g (qsCancel_ok small) slot memory
  rw [← stream] at run err queue idle
  exact ⟨t, next, retired, memory2, run, err, queue, idle⟩

/-! ## The statement -/

theorem exec_qsRun (h : Hdr) (s : State) : exec (.qsRun h) s = execTrigger .qs 0x01 h qsRun s := rfl

theorem exec_qsStat (h : Hdr) (s : State) : exec (.qsStat h) s = execTrigger .qs 0x02 h qsStat s := rfl

theorem exec_qsCancel (h : Hdr) (s : State) : exec (.qsCancel h) s = execTrigger .qs 0x03 h qsCancel s := rfl

/-- Settles O33: a record is read, checked and then queued or waited with; the status packs the engine's state; and a cancel stops the running
record where its slot ends. -/
theorem streamResults : Obligations.StreamResults := by
  intro h s e
  rw [exec_qsRun, exec_qsStat, exec_qsCancel]
  refine ⟨fun c off g _ place => ⟨fun passes free first => ?_, fun passes full untraced may => ?_, fun code fault => ?_⟩,
    fun code g _ place => execTrigger_trap g (qsRun_error g place), fun g => answers_complete g (qsStat_latched s h),
    fun g small => ?_, fun g large => execTrigger_trap g (qsCancel_trap large)⟩
  · obtain ⟨t, next, slot, memory, stream⟩ := stream_queued g place passes free first
    exact ⟨t, next, slot, memory, by rw [stream]; rfl, by rw [stream]; rfl⟩
  · exact stream_waits g place passes full untraced may
  · refine execTrigger_trap g ?_
    rw [qsRun_ok g place, fault, Option.elim_some]
  · obtain ⟨t, next, slot, memory, run, err, queue, idle⟩ := stream_cancelled g small
    simp only [Stream.dropped, beq_iff_eq] at slot queue
    exact ⟨t, next, slot, memory, err, queue, fun boundary => ⟨run.trans (ended_idle boundary), err, idle (ended_idle boundary)⟩,
      fun r running wrote => run.trans (ended_running running wrote)⟩

end Sys2Proof.Machine
end

section
/-! SUPPORT. What a trigger of an operation on banks leaves (spec/05_scratchpad_ops.md R134 to R154): the cores as the operation has changed them,
but for their slots and event counts, and the slot in focus as it was, but for its unit's latches, its link and a wait. -/

set_option autoImplicit false
set_option Elab.async false

namespace Sys2Proof.Machine

open Sys2Proof.Claims

variable {u : FU} {opc : Nat} {h : Hdr} {s t x y : State} {op : State → Res}

/-! ## States that differ in their cores -/

/-- Nothing but cores has changed. -/
def State.OnlyCores (s t : State) : Prop := ∃ core others, t = { s with core := core, others := others }

theorem State.OnlyCores.refl (s : State) : s.OnlyCores s := ⟨s.core, s.others, rfl⟩

theorem State.OnlyCores.trans (a : s.OnlyCores t) (b : t.OnlyCores x) : s.OnlyCores x := by
  obtain ⟨core, others, rfl⟩ := a
  obtain ⟨core2, others2, rfl⟩ := b
  exact ⟨core2, others2, rfl⟩

theorem State.OnlyCores.coreId_eq (a : s.OnlyCores t) : t.coreId = s.coreId := by
  obtain ⟨core, others, rfl⟩ := a
  rfl

theorem onlyCores_onCore (s : State) (f : Core → Core) : s.OnlyCores (s.onCore f) := ⟨f s.core, s.others, rfl⟩

theorem onlyCores_onCoreAt (s : State) (c : CoreId) (f : Core → Core) : s.OnlyCores (s.onCoreAt c f) := by
  rw [State.onCoreAt, State.setCoreAt]
  split
  · exact ⟨_, s.others, rfl⟩
  · exact ⟨s.core, _, rfl⟩

/-- Where only cores have changed, and no core's memory, every memory is as it was. -/
theorem State.OnlyCores.sameMemory (a : s.OnlyCores t) (mem : ∀ id, (t.coreAt id).mem = (s.coreAt id).mem) : SameMemory s t := by
  obtain ⟨core, others, rfl⟩ := a
  exact sameMemory_of_cores mem

/-- Two cores differ in their slots and event counts alone. -/
def Core.Alike (c d : Core) : Prop := ∃ slots perf, d = { c with slots := slots, perf := perf }

theorem Core.Alike.refl (c : Core) : c.Alike c := ⟨c.slots, c.perf, rfl⟩

theorem Core.Alike.trans {a b c : Core} (ab : a.Alike b) (bc : b.Alike c) : a.Alike c := by
  obtain ⟨slots, perf, rfl⟩ := ab
  obtain ⟨slots2, perf2, rfl⟩ := bc
  exact ⟨slots2, perf2, rfl⟩

/-- Nothing but slots and event counts of cores has changed. -/
structure CoresAlike (s t : State) : Prop where
  rest : s.OnlyCores t
  cores : ∀ id, (s.coreAt id).Alike (t.coreAt id)

theorem CoresAlike.refl (s : State) : CoresAlike s s := ⟨.refl s, fun _ => .refl _⟩

theorem CoresAlike.trans (a : CoresAlike s t) (b : CoresAlike t x) : CoresAlike s x :=
  ⟨a.rest.trans b.rest, fun id => (a.cores id).trans (b.cores id)⟩

/-- What no slot and no count shows is alike in every core. -/
theorem CoresAlike.part {α : Type} (a : CoresAlike s t) (id : CoreId) (part : Core → α)
    (blind : ∀ (c : Core) slots perf, part { c with slots := slots, perf := perf } = part c) : part (t.coreAt id) = part (s.coreAt id) := by
  obtain ⟨slots, perf, e⟩ := a.cores id
  rw [e, blind]

theorem CoresAlike.mem (a : CoresAlike s t) (id : CoreId) : (t.coreAt id).mem = (s.coreAt id).mem := a.part id (·.mem) fun _ _ _ => rfl

theorem CoresAlike.sameMemory (a : CoresAlike s t) : SameMemory s t := a.rest.sameMemory a.mem

theorem coresAlike_onCore {f : Core → Core} (alike : s.core.Alike (f s.core)) : CoresAlike s (s.onCore f) := by
  refine ⟨onlyCores_onCore s f, fun id => ?_⟩
  by_cases e : id = s.coreId
  · subst e
    have focus : (s.onCore f).coreAt s.coreId = f s.core := (s.onCore f).coreAt_self
    rw [State.coreAt_self, focus]
    exact alike
  · simp only [State.coreAt, State.coreId_onCore, State.others_onCore, if_neg e]
    exact .refl _

theorem coresAlike_onSl (s : State) (f : Slot → Slot) : CoresAlike s (s.onSl f) :=
  coresAlike_onCore (f := fun c => { c with slots := c.slots.set c.cur (f s.sl) }) ⟨_, _, rfl⟩

theorem coresAlike_count (s : State) (e : Nat) : CoresAlike s (s.count e) := by
  obtain ⟨p, hp, -⟩ := s.count_perf e
  rw [hp]
  exact coresAlike_onCore ⟨_, p, rfl⟩

theorem coresAlike_latched (s : State) (u : FU) (h : Hdr) : CoresAlike s (s.latched u h) := by
  rw [latched_setSl]
  exact coresAlike_onSl s fun _ => (s.latched u h).sl

theorem lookCore_mapSlots (f : CoreId → Core → Slot → Slot) (l : List (CoreId × Core)) (id : CoreId) :
    (lookCore l id).Alike (lookCore (l.map fun p => (p.1, { p.2 with slots := p.2.slots.map (f p.1 p.2) })) id) := by
  induction l with
  | nil => exact .refl _
  | cons p l ih =>
    simp only [List.map_cons, lookCore]
    split
    · exact ⟨_, _, rfl⟩
    · exact ih

theorem coresAlike_mapSlots (s : State) (f : CoreId → Core → Slot → Slot) : CoresAlike s (s.mapSlots f) := by
  refine ⟨⟨_, _, rfl⟩, fun id => ?_⟩
  have focus : (s.mapSlots f).coreId = s.coreId := rfl
  rw [State.coreAt, State.coreAt, focus]
  split
  · exact ⟨_, _, rfl⟩
  · exact lookCore_mapSlots f s.others id

/-! ## The slot in focus and its core -/

/-- A core in which nothing but its slots, its counts and what its banks hold has changed. -/
def Core.Banked (c d : Core) : Prop := ∃ slots perf mem tags locks lockq berths,
  d = { c with slots := slots, perf := perf, mem := mem, tags := tags, locks := locks, lockq := lockq, berths := berths }

/-- A slot in which nothing but its wait has changed. -/
def Slot.Stays (a b : Slot) : Prop := ∃ wait, b = { a with wait := wait }

/-- An operation on banks leaves the slot in focus but for its wait, and its core but for its banks. -/
structure BankOp (s t : State) : Prop where
  rest : s.OnlyCores t
  core : s.core.Banked t.core
  slot : s.sl.Stays t.sl

theorem BankOp.refl (s : State) : BankOp s s := ⟨.refl s, ⟨_, _, _, _, _, _, _, rfl⟩, ⟨_, rfl⟩⟩

theorem BankOp.trans (a : BankOp s t) (b : BankOp t x) : BankOp s x := by
  refine ⟨a.rest.trans b.rest, ?_, ?_⟩
  · obtain ⟨_, _, _, _, _, _, _, e⟩ := a.core
    obtain ⟨_, _, _, _, _, _, _, e2⟩ := b.core
    exact ⟨_, _, _, _, _, _, _, e2.trans (by rw [e])⟩
  · obtain ⟨_, e⟩ := a.slot
    obtain ⟨_, e2⟩ := b.slot
    exact ⟨_, e2.trans (by rw [e])⟩

theorem BankOp.link (a : BankOp s t) : t.sl.link = s.sl.link := by
  obtain ⟨wait, e⟩ := a.slot
  rw [e]

/-- What a change of a core's banks may touch. -/
def BankChange (f : Core → Core) : Prop := ∀ m : Core, ∃ mem tags locks lockq berths,
  f m = { m with mem := mem, tags := tags, locks := locks, lockq := lockq, berths := berths }

theorem core_onCoreAt {f : Core → Core} (change : BankChange f) (s : State) (c : CoreId) : ∃ mem tags locks lockq berths,
    (s.onCoreAt c f).core = { s.core with mem := mem, tags := tags, locks := locks, lockq := lockq, berths := berths } := by
  rw [State.onCoreAt, State.setCoreAt]
  split
  · next e =>
    subst e
    rw [State.coreAt_self]
    exact change s.core
  · exact ⟨_, _, _, _, _, rfl⟩

theorem bankOp_onCoreAt {f : Core → Core} (change : BankChange f) (s : State) (c : CoreId) : BankOp s (s.onCoreAt c f) := by
  obtain ⟨mem, tags, locks, lockq, berths, core⟩ := core_onCoreAt change s c
  have slot : (s.onCoreAt c f).sl = s.sl := (congrArg (fun m : Core => m.slots[m.cur]) core :)
  exact ⟨onlyCores_onCoreAt s c f, ⟨_, _, _, _, _, _, _, core⟩, ⟨_, slot⟩⟩

theorem bankOp_mapSlots {f : CoreId → Core → Slot → Slot} (stays : ∀ id c t, (t : Slot).Stays (f id c t)) (s : State) :
    BankOp s (s.mapSlots f) := by
  refine ⟨(coresAlike_mapSlots s f).rest, ⟨_, _, _, _, _, _, _, rfl⟩, ?_⟩
  have slot : (s.mapSlots f).sl = f s.coreId s.core s.sl := by simp [State.sl, State.mapSlots, State.mapCores]
  rw [slot]
  exact stays ..

/-! ## The end of a trigger's bundle -/

/-- A trigger that goes out leaves its slot retired, and nothing else has changed but counts. -/
theorem execTrigger_closes (g : Goes u opc h s) (ho : op (s.latched u h) = .ok x) (plain : x.sl.Plain) :
    ∃ t, execTrigger u opc h op s = .next t ∧ t.sl = x.sl.retired ∧ CoresAlike x t := by
  obtain ⟨seed, csrw, after, flow⟩ := plain
  refine ⟨_, execTrigger_ok g ho, ?_⟩
  rw [closeBundle_plain seed csrw after flow]
  exact ⟨by rw [State.sl_count, State.sl_onSl, Slot.retired], (coresAlike_onSl x _).trans (coresAlike_count _ 1)⟩

/-- What CSRs show of a core beside its slots (R38). -/
def Core.csrs (c : Core) : Word × Word × Word × Word := (c.coordOfSlot c.cur, c.cycle, c.vqw, c.mqw)

/-- A slot that has retired a bundle without writing one, of its registers, guards and CSRs, on a core that keeps its CSRs. -/
theorem sameRegs_of {f : Lat → Lat} (slot : ∃ link wait, t.sl = { s.ran u h f with link := link, wait := wait })
    (core : t.core.csrs = s.core.csrs) : SameRegs s t := by
  obtain ⟨link, wait, left⟩ := slot
  rw [Core.csrs, Core.csrs, Prod.mk.injEq, Prod.mk.injEq, Prod.mk.injEq] at core
  obtain ⟨coord, cycle, vqw, mqw⟩ := core
  refine ⟨by rw [left]; rfl, by rw [left]; rfl, by rw [left]; rfl, by rw [left]; rfl, fun n other => ?_, ?_⟩
  · simp only [State.csr, coord, cycle, vqw, mqw]
    rw [left]
    split
    case h_8 => exact absurd rfl other
    all_goals rfl
  · show t.sl.csr.iret = s.sl.csr.iret + 1
    rw [left]
    rfl

/-- A trigger of an operation on banks enters its unit: the latches show it, no register has changed, and the cores are as the operation left
them, but for slots and counts. -/
theorem launches_banked {lo hi : Nat} {q q2 : Word} {link : Option (CoreId × Nat)} (g : Goes u opc h s) (banked : BankOp (s.latched u h) y)
    (cores : CoresAlike y x) (linked : x.sl = { y.sl with link := link }) (ho : op (s.latched u h) = .ok (x.launch u opc lo hi q q2)) :
    ∃ t, execTrigger u opc h op s = .next t ∧ t.lat u = entered opc lo hi q q2 { s.lat u with t := s.moved64 h } ∧ SameRegs s t ∧
      t.sl.link = link ∧ CoresAlike y t := by
  obtain ⟨wait, stays⟩ := banked.slot
  have left : x.sl = { (s.latched u h).sl with link := link, wait := wait } := by rw [linked, stays]
  have awake : x.sl.run = .issuing := by
    rw [left]
    exact latched_issuing g
  have launched : (x.launch u opc lo hi q q2).sl = x.sl.onLat u (entered opc lo hi q q2) := by
    rw [State.launch, State.sl_onSl, unblock_issuing awake]
    rfl
  have plain : (x.launch u opc lo hi q q2).sl.Plain := by
    rw [launched, left]
    exact plain_latched s u h
  obtain ⟨t, run, slot, alike⟩ := execTrigger_closes g ho plain
  have same : CoresAlike y t := (cores.trans (coresAlike_onSl x _)).trans alike
  have ran : t.sl = { s.ran u h (entered opc lo hi q q2) with link := link, wait := wait } := by
    rw [slot, launched, left, ran_eq, ← csr_latched s u h]
    rfl
  refine ⟨t, run, ?_, sameRegs_of ⟨link, wait, ran⟩ ?_, by rw [ran], same⟩
  · rw [State.lat, ran]
    exact Slot.lat_onLat s.sl u fun l => entered opc lo hi q q2 { l with t := s.moved64 h }
  · obtain ⟨_, _, _, _, _, _, _, core⟩ := banked.core
    obtain ⟨_, _, focus⟩ := same.cores y.coreId
    rw [State.coreAt_self, ← same.rest.coreId_eq, State.coreAt_self, core] at focus
    rw [focus, latched_setSl]
    rfl

end Sys2Proof.Machine
end

section
/-! PROOF. Loads, stores and releases of scratchpads (spec/05_scratchpad_ops.md R134, R138 to R140, R149): a load answers the bytes that its
slot sees, and a store enters its slot's FIFO. -/

set_option autoImplicit false
set_option Elab.async false

namespace Sys2Proof.Machine

open Sys2Proof.Claims

variable {u : FU} {opc n : Nat} {h : Hdr} {s t : State} {op : State → Res} {c : CoreId} {off : Nat}

/-! ## Triggers that change their slot and count an event -/

/-- The slot as `State.without` shows it. -/
def Slot.without (t : Slot) (u : FU) : Slot :=
  { t with csr := { t.csr with iret := 0 }, npc := 0, next := 0, flow := .seq, after := none, csrw := none, seedw := none,
           stall := 0 }.onLat u fun _ => Lat.reset

theorem without_eq (s : State) (u : FU) : s.without u = s.uncounted.setSl (s.sl.without u) := by
  simp only [State.without, State.blur, State.uncounted, State.onSl, State.onCore, State.setSl, State.sl, Slot.without, Vector.set_set,
    Vector.getElem_set_self, Fin.getElem_fin]

theorem without_ran (s : State) (u : FU) (h : Hdr) (f : Lat → Lat) : (s.ran u h f).without u = s.sl.without u := by
  simp only [State.ran, Slot.without, Slot.onLat, Slot.lat, Vector.set_set]

/-- A bundle that has changed nothing but its slot, and of the slot only latches of its unit. -/
theorem onlyUnit_of_ran {f : Lat → Lat} (slot : t.sl = s.ran u h f) (only : OnlySlot s t) : OnlyUnit u s t := by
  have blank : t.sl.without u = s.sl.without u := by rw [slot, without_ran]
  have core : t.core.csrs = s.core.csrs := (congrArg (fun x : State => x.core.csrs) only.rest :)
  have regs : SameRegs s t := sameRegs_of ⟨s.sl.link, s.sl.wait, slot⟩ core
  refine ⟨regs, fun w other => ?_, only.slots, only.memory, ?_⟩
  · rw [State.lat, slot]
    exact Slot.lat_onLat_ne s.sl u w (fun l => f { l with t := s.moved64 h }) other
  · calc t.without u = t.uncounted.setSl (t.sl.without u) := without_eq t u
      _ = (t.setSl s.sl).uncounted.setSl (t.sl.without u) := by
        simp only [State.uncounted, State.onCore, State.setSl, Vector.set_set]
      _ = s.without u := by rw [only.rest, blank, without_eq]

/-- A trigger that enters its unit and counts an event. -/
theorem launches_counted {lo hi e : Nat} {q q2 : Word} (g : Goes u opc h s)
    (ho : op (s.latched u h) = .ok (((s.latched u h).launch u opc lo hi q q2).count e)) :
    ∃ t, execTrigger u opc h op s = .next t ∧ Launches u opc h lo hi q q2 s t := by
  have launched : (s.latched u h).launch u opc lo hi q q2 = (s.latched u h).onSl fun k => k.onLat u (entered opc lo hi q q2) := by
    rw [State.launch]
    exact onSl_congr (by rw [unblock_issuing (latched_issuing g)]; rfl)
  rw [launched] at ho
  obtain ⟨seed, csrw, after, flow⟩ := plain_latched s u h
  obtain ⟨t, run, slot, only⟩ := exec_slot_count g _ e ho seed csrw after flow
  have ran : t.sl = s.ran u h (entered opc lo hi q q2) := by
    rw [slot, ran_eq, ← csr_latched s u h]
    rfl
  refine ⟨t, run, onlyUnit_of_ran ran only, ?_, by rw [ran]; rfl⟩
  rw [State.lat, ran]
  exact Slot.lat_onLat s.sl u fun l => entered opc lo hi q q2 { l with t := s.moved64 h }

/-- A trigger that answers at once and enters a store into its slot's FIFO. -/
theorem buffers_store {e : Nat} {en : StoreEntry} (g : Goes u opc h s)
    (ho : op (s.latched u h) = .ok ((((s.latched u h).complete u 0 0).buffer en).count e)) : ∃ t, execTrigger u opc h op s = .next t ∧
      t.sl = { s.ran u h (answered 0 0) with sb := s.sl.sb ++ [en] } ∧ OnlySlot s t := by
  rw [complete_latched g, State.buffer, State.onSl_onSl] at ho
  obtain ⟨seed, csrw, after, flow⟩ := plain_latched s u h
  obtain ⟨t, run, slot, only⟩ := exec_slot_count g (fun k => { k.setResult u 0 0 with sb := k.sb ++ [en] }) e ho seed csrw after flow
  refine ⟨t, run, slot.trans ?_, only⟩
  rw [ran_answered, ← sb_latched s u h]
  rfl

/-! ## What a load finds (R138, R139) -/

theorem lsLatency_eq (s : State) (c : CoreId) (near far : Nat) : s.lsLatency c near far = accessCycles s c near far :=
  if_congr decide_eq_true_iff rfl rfl

theorem lsLatency_latched (s : State) (u : FU) (h : Hdr) (c : CoreId) (near far : Nat) :
    (s.latched u h).lsLatency c near far = accessCycles s c near far := lsLatency_eq s c near far

theorem length_loadHome (s : State) (c : CoreId) (off n : Nat) : (s.loadHome (.core c off) n).length = n := by
  rw [State.loadHome]
  split
  · exact Memory.length_bytes ..
  · exact List.length_mapIdx.trans (Memory.length_bytes ..)

/-- The number that a load of `n` bytes reads fits its bytes. -/
theorem leNat_loadHome_lt (s : State) (c : CoreId) (off n : Nat) : leNat (s.loadHome (.core c off) n) < 2 ^ (8 * n) := by
  have lt := leNat_lt (s.loadHome (.core c off) n)
  rw [length_loadHome] at lt
  rwa [Nat.pow_mul]

theorem lsLoad_ok {signed : Bool} (g : Goes .ls opc h s) (place : accessPlace s (s.moved64 h) n false = .ok (c, off)) :
    let x := leNat (s.loadHome (.core c off) n)
    let lat := accessCycles s c 2 18
    lsLoad opc n signed (s.latched .ls h) = .ok (((s.latched .ls h).launch .ls opc lat.1 lat.2
      (if signed then signedLow (8 * n) x else BitVec.ofNat 64 x) 0).count (if (s.latched .ls h).isLocal c then 5 else 6)) := by
  simp only [lsLoad, trigger_latch]
  rw [withSpa_ok g place, loadHome_latched, lsLatency_latched, extend_eq (leNat_loadHome_lt s c off n)]

/-- A store that is buffered has reached no memory. -/
theorem mem_buffer (s : State) (e : StoreEntry) (c : CoreId) : ((s.buffer e).coreAt c).mem = (s.coreAt c).mem :=
  (coresAlike_onSl s fun t => { t with sb := t.sb ++ [e] }).mem c

/-- What a slot sees of a core's memory, byte by byte: the youngest buffered store to it, or the performed one. -/
theorem getElem_loadHome (s : State) (c : CoreId) (off n i : Nat) (lt : i < (s.loadHome (.core c off) n).length) :
    (s.loadHome (.core c off) n)[i] = forward s.sl.sb (.core c (off + i)) ((s.coreAt c).mem.byte (off + i)) := by
  have raw (k : i < (s.readHome (.core c off) n).length) : (s.readHome (.core c off) n)[i] = (s.coreAt c).mem.byte (off + i) :=
    Memory.getElem_bytes ..
  by_cases none : s.sl.sb = []
  · have same : s.loadHome (.core c off) n = s.readHome (.core c off) n := by rw [State.loadHome, none]; rfl
    have passed (b : Byte) : forward [] (.core c (off + i)) b = b := rfl
    rw [none, passed, ← raw (same ▸ lt)]
    exact List.getElem_of_eq same lt
  · have some : s.sl.sb.isEmpty = false := List.isEmpty_eq_false_iff.2 none
    have mapped : s.loadHome (.core c off) n =
        (s.readHome (.core c off) n).mapIdx fun i b => forward s.sl.sb (.core c (off + i)) b := by
      rw [State.loadHome, some]
      rfl
    rw [List.getElem_of_eq mapped lt, List.getElem_mapIdx, raw]

/-- The youngest store comes first. -/
theorem forward_append (sb : List StoreEntry) (e : StoreEntry) (p : Home) (b : Byte) :
    forward (sb ++ [e]) p b = (e.byteAt p).getD (forward sb p b) := by
  rw [forward, List.reverse_append, List.reverse_singleton, List.singleton_append, List.findSome?_cons]
  cases e.byteAt p <;> rfl

theorem byteAt_core (bs : List Byte) (sc : Option Nat) (qm more : Bool) (va : Word) (c : CoreId) (off b : Nat) :
    StoreEntry.byteAt ⟨.core c off, bs, sc, qm, va, more⟩ (.core c b) = if off ≤ b then bs[b - off]? else none := by
  simp [StoreEntry.byteAt, Home.byteOf]

section
variable (s c off n) (a va : Word) (sc : Option Nat) (qm : Bool)

theorem sb_buffer (e : StoreEntry) : (s.buffer e).sl.sb = s.sl.sb ++ [e] := by rw [State.buffer, State.sl_onSl]

/-- Right after a store of bytes its slot reads them. -/
theorem loadHome_buffer : (s.buffer ⟨.core c off, leBytes n a.toNat, sc, qm, va, false⟩).loadHome (.core c off) n = leBytes n a.toNat := by
  refine List.ext_getElem (by rw [length_loadHome, length_leBytes]) fun i lt lt2 => ?_
  rw [getElem_loadHome, sb_buffer, forward_append, byteAt_core, if_pos (Nat.le_add_right ..), Nat.add_sub_cancel_left,
    List.getElem?_eq_getElem lt2, Option.getD_some]

/-- A store leaves what its slot reads elsewhere. -/
theorem loadHome_buffer_apart {b m : Nat} (apart : b + m ≤ off ∨ off + n ≤ b) :
    (s.buffer ⟨.core c off, leBytes n a.toNat, sc, qm, va, false⟩).loadHome (.core c b) m = s.loadHome (.core c b) m := by
  refine List.ext_getElem (by rw [length_loadHome, length_loadHome]) fun i lt lt2 => ?_
  rw [length_loadHome] at lt2
  have missed : StoreEntry.byteAt ⟨.core c off, leBytes n a.toNat, sc, qm, va, false⟩ (.core c (b + i)) = none := by
    rw [byteAt_core]
    split
    · exact List.getElem?_eq_none (by rw [length_leBytes]; omega)
    · rfl
  rw [getElem_loadHome, getElem_loadHome, sb_buffer, forward_append, missed, mem_buffer]
  rfl

end

/-- With nothing buffered a slot reads the bytes of memory. -/
theorem loadHome_of_empty (empty : s.sl.sb = []) (c : CoreId) (off n : Nat) :
    s.loadHome (.core c off) n = (List.range n).map fun i => (s.coreAt c).mem.byte (off + i) := by
  refine List.ext_getElem (by rw [length_loadHome, List.length_map, List.length_range]) fun i lt lt2 => ?_
  rw [getElem_loadHome, empty, List.getElem_map, List.getElem_range]
  rfl

/-- Settles O17: a load enters its unit with the bytes that its slot sees, which are the youngest buffered ones, or those of memory. -/
theorem loadResults : Obligations.LoadResults := by
  refine ⟨fun r hr h s c off g place => ?_, fun s c off n a sc qm va => ⟨fun empty => loadHome_of_empty empty c off n,
    loadHome_buffer n s c off a va sc qm, fun b m apart => loadHome_buffer_apart n s c off a va sc qm apart⟩⟩
  rw [exec_load hr]
  exact launches_counted g (lsLoad_ok g place)

/-! ## Stores and releases (R138 to R140, R149) -/

theorem lsRelease_of_none (out : s.NoneOut) (sc : Nat) : lsRelease sc s =
    s.withSpa (s.lat .ls).t 8 true (s.lat .ls).t fun p =>
      .ok (((s.complete .ls 0 0).buffer ⟨.core p.1 p.2, leBytes 8 (s.lat .ls).a.toNat, some sc, false, (s.lat .ls).t, false⟩).count 7) := by
  obtain ⟨outside, pushes, pulls⟩ := out
  have free : s.pushes.any s.isMine = false := List.any_eq_false.2 fun x hx => by simp [pushes x hx]
  simp only [lsRelease, flushPulls_of_none pulls, flushPushes_of_none pushes, ite_self, outside, free]
  simp

/-- A store of the table whose address passes the checks, and that waits for nothing, answers and enters the FIFO. -/
theorem storeOp_ok {sc : Option Nat} (g : Goes .ls opc h s) (whole : sc.isSome = true → n = 8) (out : sc.isSome = true → s.NoneOut)
    (place : accessPlace s (s.moved64 h) n true = .ok (c, off)) : storeOp n sc (s.latched .ls h) =
      .ok ((((s.latched .ls h).complete .ls 0 0).buffer
        ⟨.core c off, leBytes n (s.lat .ls).a.toNat, sc, false, s.moved64 h, false⟩).count 7) := by
  have latch : (s.latched .ls h).lat .ls = { s.lat .ls with t := s.moved64 h } := lat_latched ..
  cases sc with
  | none =>
    simp only [storeOp, Option.elim_none, lsStore, latch]
    exact withSpa_ok g place
  | some sc =>
    obtain rfl := whole rfl
    rw [storeOp, Option.elim_some, lsRelease_of_none (noneOut_latched (out rfl)), latch]
    exact withSpa_ok g place

/-- Settles O18: a store, a release or `fput` answers as it enters the FIFO, and only its slot has changed. -/
theorem storeResults : Obligations.StoreResults := by
  intro r hr h s c off g place out
  obtain ⟨whole, run⟩ := exec_store hr
  rw [run]
  exact buffers_store g (storeOp_ok g whole out place)

end Sys2Proof.Machine
end

section
/-! SUPPORT. Writes of banks (spec/05_scratchpad_ops.md R147; spec/09_traps.md R249): the bytes written, the TAG of a save area that they meet,
the tags of full doublewords, and the waits that a write ends. -/

set_option autoImplicit false
set_option Elab.async false

namespace Sys2Proof.Machine

open Sys2Proof.Claims

variable {s t x y : State} {c : CoreId} {off n a : Nat} {bs : List Byte}

/-! ## A bank's bytes and tags -/

/-- The TAG of a save area holds a byte, and a write meets the area but ends before its TAG (R249). -/
def KeepsTag (off n slot a : Nat) : Prop := off < saveArea slot + 0x800 ∧ saveArea slot < off + n ∧
  off + n ≤ saveArea slot + 0x7F8 ∧ saveArea slot + 0x7F8 ≤ a ∧ a < saveArea slot + 0x800

/-- Upkeep of a save area's TAG changes no byte but those of the TAG. -/
theorem byte_tagUpkeep (old new : Memory) {slot : Nat} (apart : ¬ KeepsTag off n slot a) : (tagUpkeep old new off n slot).byte a = new.byte a := by
  rw [tagUpkeep]
  split
  · rfl
  · next meets =>
    split
    · rfl
    · next covers =>
      simp only [Bool.or_eq_true, Bool.and_eq_true, decide_eq_true_eq] at meets covers
      rw [KeepsTag] at apart
      refine Memory.byte_write_apart new ?_
      rw [length_leBytes]
      omega

theorem byte_tagUpkeeps (old : Memory) (slots : List Nat) (new : Memory) (apart : ∀ k ∈ slots, ¬ KeepsTag off n k a) :
    (slots.foldl (fun m slot => tagUpkeep old m off n slot) new).byte a = new.byte a := by
  induction slots generalizing new with
  | nil => rfl
  | cons k slots ih =>
    obtain ⟨first, rest⟩ := List.forall_mem_cons.1 apart
    rw [List.foldl_cons, ih _ rest, byte_tagUpkeep old new first]

/-- A write leaves the bytes that it does not touch. -/
theorem byte_bankWrite_apart (m : Core) (apart : ¬ Touches off bs.length a) : (m.bankWrite off bs).mem.byte a = m.mem.byte a := by
  rw [Touches] at apart
  have outside : a < off ∨ off + bs.length ≤ a := by
    by_contra inside
    exact apart (.inl (by omega))
  refine (byte_tagUpkeeps m.mem _ _ fun k lt tag => ?_).trans (Memory.byte_write_apart m.mem outside)
  rw [KeepsTag, saveArea] at tag
  exact apart (.inr ⟨k, List.mem_range.1 lt, by omega⟩)

/-- The bytes that a write stores read as stored. -/
theorem bytes_bankWrite (m : Core) (off : Nat) (bs : List Byte) : (m.bankWrite off bs).mem.bytes off bs.length = bs := by
  refine List.ext_getElem (Memory.length_bytes ..) fun i lt lt2 => ?_
  rw [Memory.getElem_bytes, ← Memory.byte_write m.mem lt2]
  refine byte_tagUpkeeps m.mem _ _ fun k _ tag => ?_
  rw [KeepsTag] at tag
  omega

theorem dword_bankWrite (m : Core) (off : Nat) (w : Word) : (m.bankWrite off (leBytes 8 w.toNat)).mem.dword off = w := by
  have bytes := bytes_bankWrite m off (leBytes 8 w.toNat)
  rw [length_leBytes] at bytes
  rw [Memory.dword, Memory.nat, bytes, leNat_leBytes, Nat.mod_eq_of_lt (w.isLt.trans_eq (by decide)), BitVec.ofNat_toNat, BitVec.setWidth_eq]

theorem mem_insertNats {l tags : List Nat} {d : Nat} : d ∈ l.foldl insertNat tags ↔ d ∈ l ∨ d ∈ tags := by
  induction l generalizing tags with
  | nil => simp
  | cons k l ih =>
    rw [List.foldl_cons, ih, mem_insertNat, List.mem_cons]
    tauto

/-- A doubleword that a write covers is full. -/
theorem full_bankWrite (m : Core) (aligned : off % 8 = 0) (whole : bs.length = 8) : (m.bankWrite off bs).full off = true := by
  have covered : off / 8 ∈ fullDwords off bs.length := by
    rw [fullDwords, List.mem_map]
    exact ⟨0, List.mem_range.2 (by omega), by omega⟩
  exact List.contains_iff_mem.2 (mem_insertNats.2 (.inl covered))

/-! ## A write of a core's memory -/

theorem stays_hand (t : Slot) (w : Word) : t.Stays (t.hand w) := by
  rw [Slot.hand]
  split
  · split
    · exact ⟨_, rfl⟩
    · exact ⟨_, rfl⟩
  · exact ⟨_, rfl⟩

theorem Slot.Stays.refl (t : Slot) : t.Stays t := ⟨_, rfl⟩

theorem Slot.Stays.ite {p : Prop} [Decidable p] {t k l : Slot} (yes : t.Stays k) (no : t.Stays l) : t.Stays (if p then k else l) := by
  split
  · exact yes
  · exact no

/-- A write may end a wait, and changes nothing else of a slot. -/
theorem stays_onWrite (id c : CoreId) (off : Nat) (w : Word) (full : Bool) (t : Slot) : t.Stays (t.onWrite id c off w full) := by
  rw [Slot.onWrite]
  split
  · exact .refl t
  · exact .ite (.ite (stays_hand t w) (.refl t)) (.ite (.ite (stays_hand t w) (.refl t)) (.refl t))

theorem coresAlike_foldl {α : Type} {f : State → α → State} (alike : ∀ s k, CoresAlike s (f s k)) (l : List α) (s : State) :
    CoresAlike s (l.foldl f s) := by
  induction l generalizing s with
  | nil => exact .refl s
  | cons k l ih => exact (alike s k).trans (ih _)

theorem bankOp_foldl {α : Type} {f : State → α → State} (op : ∀ s k, BankOp s (f s k)) (l : List α) (s : State) : BankOp s (l.foldl f s) := by
  induction l generalizing s with
  | nil => exact .refl s
  | cons k l ih => exact (op s k).trans (ih _)

/-- Waits that end leave every core but for its slots. -/
theorem coresAlike_wakeWrite (s : State) (c : CoreId) (off n : Nat) : CoresAlike s (s.wakeWrite c off n) :=
  coresAlike_foldl (fun s _ => coresAlike_mapSlots s _) _ s

theorem bankChange_bankWrite (off : Nat) (bs : List Byte) : BankChange fun m => m.bankWrite off bs := fun _ => ⟨_, _, _, _, _, rfl⟩

theorem bankOp_writeCore (s : State) (c : CoreId) (off : Nat) (bs : List Byte) : BankOp s (s.writeCore c off bs) :=
  (bankOp_onCoreAt (bankChange_bankWrite off bs) s c).trans
    (bankOp_foldl (fun s _ => bankOp_mapSlots (fun _ _ t => stays_onWrite _ _ _ _ _ t) s) _ _)

/-- The core that is written, in every part that no slot and no count shows. -/
theorem part_writeCore {α : Type} (part : Core → α) (blind : ∀ (c : Core) slots perf, part { c with slots := slots, perf := perf } = part c)
    (s : State) (c : CoreId) (off : Nat) (bs : List Byte) :
    part ((s.writeCore c off bs).coreAt c) = part ((s.coreAt c).bankWrite off bs) := by
  rw [State.writeCore, (coresAlike_wakeWrite _ c off bs.length).part c part blind, State.coreAt_onCoreAt]

/-- Nothing but cores has changed, and no core's memory. -/
def State.SameBytes (s t : State) : Prop := s.OnlyCores t ∧ ∀ id, (t.coreAt id).mem = (s.coreAt id).mem

theorem State.SameBytes.trans (a : s.SameBytes t) (b : t.SameBytes x) : s.SameBytes x := ⟨a.1.trans b.1, fun id => (b.2 id).trans (a.2 id)⟩

theorem State.SameBytes.sameMemory (a : s.SameBytes t) : SameMemory s t := a.1.sameMemory a.2

theorem CoresAlike.sameBytes (a : CoresAlike s t) : s.SameBytes t := ⟨a.rest, a.mem⟩

theorem sameBytes_onCoreAt {f : Core → Core} (keeps : ∀ m, (f m).mem = m.mem) (s : State) (c : CoreId) : s.SameBytes (s.onCoreAt c f) := by
  refine ⟨onlyCores_onCoreAt s c f, fun id => ?_⟩
  by_cases e : id = c
  · rw [e, State.coreAt_onCoreAt, keeps]
  · rw [State.coreAt_onCoreAt_ne _ _ _ _ e]

/-- Where only cores have changed, device and host memory are as they were. -/
theorem State.OnlyCores.memories (a : s.OnlyCores t) : t.dm = s.dm ∧ t.hm = s.hm := by
  obtain ⟨core, others, rfl⟩ := a
  exact ⟨rfl, rfl⟩

theorem State.SameBytes.writesOnly (a : s.SameBytes t) (c : CoreId) (off n : Nat) : WritesOnly c off n s t := by
  obtain ⟨dm, hm⟩ := a.1.memories
  exact ⟨fun id b _ => by rw [a.2 id], fun b => by rw [dm], fun b => by rw [hm]⟩

theorem writesOnly_trans (a : WritesOnly c off n s t) (b : WritesOnly c off n t x) : WritesOnly c off n s x :=
  ⟨fun id k apart => (b.1 id k apart).trans (a.1 id k apart), fun k => (b.2.1 k).trans (a.2.1 k), fun k => (b.2.2 k).trans (a.2.2 k)⟩

/-- A write of a core's memory changes no other byte, but the TAG of a save area. -/
theorem writesOnly_writeCore (s : State) (c : CoreId) (off : Nat) (bs : List Byte) : WritesOnly c off bs.length s (s.writeCore c off bs) := by
  have woken := (coresAlike_wakeWrite (s.onCoreAt c fun m => m.bankWrite off bs) c off bs.length).sameBytes
  refine writesOnly_trans ⟨fun id b apart => ?_, fun b => ?_, fun b => ?_⟩ (woken.writesOnly c off bs.length)
  · by_cases e : id = c
    · rw [e, State.coreAt_onCoreAt]
      exact byte_bankWrite_apart _ (apart.resolve_left (not_not.2 e))
    · rw [State.coreAt_onCoreAt_ne _ _ _ _ e]
  · rw [(onlyCores_onCoreAt s c _).memories.1]
  · rw [(onlyCores_onCoreAt s c _).memories.2]

end Sys2Proof.Machine
end

section
/-! PROOF. Locks and atomics of scratchpads (spec/05_scratchpad_ops.md R134, R141 to R146, R150, R154): what an operation on a doubleword does at
its instant where the lock is open, and its wait where another slot holds the lock. -/

set_option autoImplicit false
set_option Elab.async false

namespace Sys2Proof.Machine

open Sys2Proof.Claims

variable {u : FU} {opc : Nat} {h : Hdr} {s t x y : State} {c : CoreId} {off : Nat} {k : State → Res}

/-! ## Operations that come behind everything of their slot -/

theorem settled_latched (settled : Settled s) (u : FU) (h : Hdr) : Settled (s.latched u h) :=
  ⟨(sb_latched s u h).trans settled.stores, settled.pushes, settled.pulls, settled.notices, settled.seen⟩

theorem drain_of_empty (empty : s.sl.sb = []) : s.drain = s := by rw [State.drain, empty]; rfl

/-- An operation whose slot has nothing outstanding runs at once (R146). -/
theorem ordered_of_settled (settled : Settled s) (k : State → Res) : s.ordered k = k s := by
  have none : s.pushes.any s.isMine = false := List.any_eq_false.2 fun p hp => by simp [settled.pushes p hp]
  have seen : s.seeAll = s := by rw [State.seeAll, settled.seen]; rfl
  simp only [State.ordered, flushPulls_of_none settled.pulls, flushPushes_of_none settled.pushes, none, drain_of_empty settled.stores, seen,
    Bool.false_eq_true, if_false]

/-! ## The gate of a lock (R142, R145) -/

theorem holder_latched (s : State) (u : FU) (h : Hdr) (c : CoreId) (b : Nat) :
    ((s.latched u h).coreAt c).holder b = (s.coreAt c).holder b :=
  (coresAlike_latched s u h).part c (·.holder b) fun _ _ _ => rfl

theorem lockOpen_latched (opened : LockOpen s c off) (u : FU) (h : Hdr) : LockOpen (s.latched u h) c off := by
  intro q holds
  rw [holder_latched] at holds
  exact opened q holds

/-- The slot in focus no longer asks for a lock bit. -/
def State.unasked (s : State) (c : CoreId) (off : Nat) : State :=
  s.onCoreAt c fun m => { m with lockq := m.lockq.filter fun q => q != (lockBit off, me s) }

theorem bankOp_unasked (s : State) (c : CoreId) (off : Nat) : BankOp s (s.unasked c off) :=
  bankOp_onCoreAt (fun _ => ⟨_, _, _, _, _, rfl⟩) s c

theorem sameBytes_unasked (s : State) (c : CoreId) (off : Nat) : s.SameBytes (s.unasked c off) := by
  refine sameBytes_onCoreAt ?_ s c
  exact fun _ => rfl

theorem coreAt_unasked (s : State) (c : CoreId) (off : Nat) : ∃ lockq, (s.unasked c off).coreAt c = { s.coreAt c with lockq := lockq } :=
  ⟨_, State.coreAt_onCoreAt ..⟩

/-- An operation goes on where no other slot holds the lock. -/
theorem lockGate_open (opened : LockOpen s c off) (opc : Nat) (k : State → Res) : s.lockGate opc c off k = k (s.unasked c off) := by
  have free : (((s.coreAt c).holder (lockBit off)).filter fun q => q != (s.coreId, s.core.cur.val)) = none := by
    refine Option.filter_eq_none_iff.2 fun q holds => ?_
    have mine : q = (s.coreId, s.core.cur.val) := opened q holds
    simp [mine]
  rw [State.lockGate]
  simp only [free]
  rfl

/-- The slot in focus asks for a lock bit, behind those that asked before it. -/
def State.asksLock (s : State) (c : CoreId) (off : Nat) : State :=
  if (s.coreAt c).lockq.contains (lockBit off, me s) then s
  else s.onCoreAt c fun m => { m with lockq := m.lockq ++ [(lockBit off, me s)] }

theorem bankOp_asksLock (s : State) (c : CoreId) (off : Nat) : BankOp s (s.asksLock c off) := by
  rw [State.asksLock]
  split
  · exact .refl s
  · exact bankOp_onCoreAt (fun _ => ⟨_, _, _, _, _, rfl⟩) s c

theorem sameMemory_asksLock (s : State) (c : CoreId) (off : Nat) : SameMemory s (s.asksLock c off) := by
  rw [State.asksLock]
  split
  · exact fun _ => rfl
  · refine (sameBytes_onCoreAt ?_ s c).sameMemory
    exact fun _ => rfl

/-- An operation waits where another slot holds the lock. -/
theorem lockGate_held {id : CoreId} {slot : Nat} (holds : (s.coreAt c).holder (lockBit off) = some (id, slot)) (other : (id, slot) ≠ me s)
    (opc : Nat) (k : State → Res) : s.lockGate opc c off k =
      (s.asksLock c off).block .ls opc 13 0 (partyOf id (s.coreAt id) slot) (lockIdentity (s.coreAt c) off) := by
  have held : (((s.coreAt c).holder (lockBit off)).filter fun q => q != (s.coreId, s.core.cur.val)) = some (id, slot) := by
    exact (congrArg _ holds).trans (if_pos (bne_iff_ne.2 other))
  rw [State.lockGate]
  simp only [held]
  rfl

/-! ## Atomics (R145) -/

/-! ### The functions of the model's atomics, over numbers -/

theorem casNew_eq : casNew = fun old a b => if old = a then some b else none := funext₃ fun _ _ _ => if_congr beq_iff_eq rfl rfl

theorem aaddNew_eq : aaddNew = fun old a _ => some (BitVec.ofNat 64 (old.toNat + a.toNat)) :=
  funext₃ fun old a b => congrArg some (aluAdd_eq old b a)

theorem aminNew_eq : aminNew = fun old a _ => some (BitVec.ofInt 64 (min old.toInt a.toInt)) :=
  funext₃ fun old a b => congrArg some (aluMin_eq old b a)

theorem amaxNew_eq : amaxNew = fun old a _ => some (BitVec.ofInt 64 (max old.toInt a.toInt)) :=
  funext₃ fun old a b => congrArg some (aluMax_eq old b a)

theorem aminuNew_eq : aminuNew = fun old a _ => some (BitVec.ofNat 64 (min old.toNat a.toNat)) :=
  funext₃ fun old a b => congrArg some (aluMinu_eq old b a)

theorem amaxuNew_eq : amaxuNew = fun old a _ => some (BitVec.ofNat 64 (max old.toNat a.toNat)) :=
  funext₃ fun old a b => congrArg some (aluMaxu_eq old b a)

/-- An atomic of the table runs with the function of its row. -/
theorem exec_atomicRow {r : AtomicRow} (hr : r ∈ atomicTable) (h : Hdr) (s : State) :
    exec (r.2.1 h) s = execTrigger .ls r.1 h (lsAtomic r.1 r.2.2) s := by
  have row {opc : Nat} {f g : Word → Word → Word → Option Word} (same : f = g) :
      execTrigger .ls opc h (lsAtomic opc f) s = execTrigger .ls opc h (lsAtomic opc g) s := by rw [same]
  simp only [atomicTable, List.mem_cons, List.not_mem_nil, or_false] at hr
  rcases hr with rfl | rfl | rfl | rfl | rfl | rfl | rfl | rfl | rfl
  exacts [row casNew_eq, rfl, row aaddNew_eq, rfl, rfl, row aminNew_eq, row amaxNew_eq, row aminuNew_eq, row amaxuNew_eq]

/-- What an atomic leaves of a doubleword of a core's memory, from what it stores, if it stores. -/
def State.atomicLeaves (s : State) (c : CoreId) (off : Nat) (new : Option Word) : State :=
  new.elim s fun w => s.writeCore c off (leBytes 8 w.toNat)

theorem bankOp_atomicLeaves (s : State) (c : CoreId) (off : Nat) (new : Option Word) : BankOp s (s.atomicLeaves c off new) := by
  cases new with
  | none => exact .refl s
  | some w => exact bankOp_writeCore s c off _

theorem dword_atomicLeaves (s : State) (c : CoreId) (off : Nat) (new : Option Word) :
    ((s.atomicLeaves c off new).coreAt c).mem.dword off = new.getD ((s.coreAt c).mem.dword off) := by
  cases new with
  | none => rfl
  | some w => exact (part_writeCore (·.mem.dword off) (fun _ _ _ => rfl) s c off _).trans (dword_bankWrite _ off w)

theorem writesOnly_atomicLeaves (s : State) (c : CoreId) (off : Nat) (new : Option Word) : WritesOnly c off 8 s (s.atomicLeaves c off new) := by
  cases new with
  | none => exact (CoresAlike.refl s).sameBytes.writesOnly c off 8
  | some w => exact length_leBytes 8 w.toNat ▸ writesOnly_writeCore s c off (leBytes 8 w.toNat)

theorem full_atomicLeaves (s : State) (c : CoreId) {off : Nat} (aligned : off % 8 = 0) (w : Word) :
    ((s.atomicLeaves c off (some w)).coreAt c).full off = true :=
  (part_writeCore (·.full off) (fun _ _ _ => rfl) s c off _).trans (full_bankWrite _ aligned (length_leBytes ..))

/-- A misaligned offset fails a check (R135). -/
theorem spaOffset_misaligned {n align : Nat} {writes : Bool} (misaligned : off % align ≠ 0) :
    (s.spaOffset c off n align writes).isSome = true := by
  rw [State.spaOffset, if_pos (bne_iff_ne.2 misaligned)]
  simp only [apply_ite Option.isSome, Option.isSome_some, ite_self]

/-- A place that an access names is aligned to its size (R135). -/
theorem accessPlace_aligned {w : Word} {n : Nat} {writes : Bool} (place : accessPlace s w n writes = .ok (c, off)) : off % n = 0 := by
  by_contra misaligned
  rw [← spa_eq_accessPlace] at place
  cases target : s.spaTarget w with
  | error e =>
    rw [spa_of_error target] at place
    cases place
  | ok p =>
    rw [spa_of_ok target] at place
    cases checks : s.spaOffset p.1 p.2 n n writes with
    | some e =>
      rw [checks] at place
      cases place
    | none =>
      rw [checks] at place
      cases place
      have trap := spaOffset_misaligned (s := s) (c := p.1) (n := n) (writes := writes) misaligned
      rw [checks] at trap
      cases trap

theorem lsLatency_of_onlyCores (only : s.OnlyCores t) (c : CoreId) (near far : Nat) : t.lsLatency c near far = accessCycles s c near far := by
  rw [lsLatency_eq, accessCycles, accessCycles, only.coreId_eq]

/-- The state in which an operation of the slot in focus has passed the gate of a lock. -/
def State.gated (s : State) (h : Hdr) (c : CoreId) (off : Nat) : State := (s.latched .ls h).unasked c off

theorem sameBytes_gated (s : State) (h : Hdr) (c : CoreId) (off : Nat) : s.SameBytes (s.gated h c off) :=
  (coresAlike_latched s .ls h).sameBytes.trans (sameBytes_unasked _ c off)

/-- A trigger of `ls` at a place whose lock is open passes its gate. -/
theorem gate_latched (settled : Settled s) (opened : LockOpen s c off) (h : Hdr) (opc : Nat) (k : State → Res) :
    ((s.latched .ls h).ordered fun s => s.lockGate opc c off k) = k (s.gated h c off) := by
  rw [ordered_of_settled (settled_latched settled .ls h), lockGate_open (lockOpen_latched opened .ls h)]
  rfl

theorem lsAtomic_open {f : Word → Word → Word → Option Word} (g : Goes .ls opc h s) (settled : Settled s)
    (place : accessPlace s (s.moved64 h) 8 true = .ok (c, off)) (opened : LockOpen s c off) :
    let old := (s.coreAt c).mem.dword off
    let new := f old (s.lat .ls).a (s.lat .ls).b
    let lat := accessCycles s c 3 20
    lsAtomic opc f (s.latched .ls h) = .ok (((s.gated h c off).atomicLeaves c off new).launch .ls opc lat.1 lat.2 old
      (if opc = 0x22 ∧ new.isSome then 1 else 0)) := by
  obtain ⟨only, mem⟩ := sameBytes_gated s h c off
  simp only [lsAtomic, lat_latched]
  rw [withSpa_ok g place, gate_latched settled opened, mem c, lsLatency_of_onlyCores only]
  simp only [Bool.and_eq_true, beq_iff_eq]
  cases f ((s.coreAt c).mem.dword off) (s.lat .ls).a (s.lat .ls).b <;> rfl

/-- Settles O19: an atomic reads its doubleword, writes it where it stores, and enters its unit with the old value. -/
theorem atomicResults : Obligations.AtomicResults := by
  intro r hr h s c off g settled place opened old new lat
  rw [exec_atomicRow hr]
  have banked := (bankOp_unasked (s.latched .ls h) c off).trans (bankOp_atomicLeaves (s.gated h c off) c off new)
  obtain ⟨t, run, latch, regs, link, cores⟩ := launches_banked (link := ((s.gated h c off).atomicLeaves c off new).sl.link) g
    banked (.refl _) rfl (lsAtomic_open g settled place opened)
  have before := sameBytes_gated s h c off
  refine ⟨t, run, latch, ?_, ?_, regs, ?_, fun stores => ?_⟩
  · rw [cores.mem c, dword_atomicLeaves, before.2 c]
  · exact writesOnly_trans (writesOnly_trans (before.writesOnly c off 8) (writesOnly_atomicLeaves _ c off new)) (cores.sameBytes.writesOnly c off 8)
  · rw [link, banked.link, link_latched]
  · obtain ⟨w, stored⟩ := Option.isSome_iff_exists.1 stores
    rw [cores.part c (·.full off) fun _ _ _ => rfl, stored]
    exact full_atomicLeaves _ c (accessPlace_aligned place) w

/-! ## Load-and-lock, store-and-unlock, clear (R142, R143, R150) -/

theorem BankOp.me (a : BankOp s t) : me t = me s := by
  obtain ⟨_, _, _, _, _, _, _, core⟩ := a.core
  rw [Claims.me, Claims.me, a.rest.coreId_eq, core]

theorem bankOp_latched_unasked (s : State) (h : Hdr) (c : CoreId) (off : Nat) : BankOp (s.latched .ls h) (s.gated h c off) :=
  bankOp_unasked _ c off

theorem me_gated (s : State) (h : Hdr) (c : CoreId) (off : Nat) : me (s.gated h c off) = me s := (bankOp_latched_unasked s h c off).me

theorem lockOpen_gated (opened : LockOpen s c off) (h : Hdr) : LockOpen (s.gated h c off) c off := by
  obtain ⟨lockq, e⟩ := coreAt_unasked (s.latched .ls h) c off
  intro q holds
  rw [State.gated, e] at holds
  rw [me_gated]
  exact lockOpen_latched opened .ls h q holds

/-- The slot in focus has taken the lock of a doubleword. -/
def State.locked (s : State) (c : CoreId) (off : Nat) : State :=
  s.onCoreAt c fun m => { m with locks := m.locks ++ [(lockBit off, me s)] }

theorem bankOp_locked (s : State) (c : CoreId) (off : Nat) : BankOp s (s.locked c off) := bankOp_onCoreAt (fun _ => ⟨_, _, _, _, _, rfl⟩) s c

theorem sameBytes_locked (s : State) (c : CoreId) (off : Nat) : s.SameBytes (s.locked c off) := by
  refine sameBytes_onCoreAt ?_ s c
  exact fun _ => rfl

/-- A lock that was open is then held by the slot in focus. -/
theorem holder_locked (opened : LockOpen s c off) : ((s.locked c off).coreAt c).holder (lockBit off) = some (me s) := by
  have last : ((s.locked c off).coreAt c).holder (lockBit off) = ((s.coreAt c).holder (lockBit off)).or (some (me s)) := by
    rw [State.locked, State.coreAt_onCoreAt, Core.holder, Core.holder, List.find?_append, Option.map_or]
    simp
  rw [last]
  cases holds : (s.coreAt c).holder (lockBit off) with
  | none => rfl
  | some q => exact congrArg some (opened q holds)

theorem lsLla_open (g : Goes .ls 0x20 h s) (settled : Settled s) (place : accessPlace s (s.moved64 h) 8 true = .ok (c, off))
    (opened : LockOpen s c off) (unlinked : s.sl.link = none) :
    let lat := accessCycles s c 3 20
    lsLla (s.latched .ls h) = .ok ((((s.gated h c off).locked c off).onSl fun t => { t with link := some (c, off) }).launch .ls 0x20
      lat.1 lat.2 ((s.coreAt c).mem.dword off) 0) := by
  obtain ⟨only, -⟩ := sameBytes_gated s h c off
  have mem := (((sameBytes_gated s h c off).trans (sameBytes_locked _ c off)).trans
    (coresAlike_onSl _ fun t => { t with link := some (c, off) }).sameBytes).2 c
  simp only [lsLla, trigger_latch, check_latched g, link_latched, unlinked, Option.isSome_none, Bool.false_eq_true, if_false]
  rw [withSpa_ok g place, gate_latched settled opened, lsLatency_of_onlyCores only, ← mem]
  rfl

/-- Two changes of a core's locks and of the slot in focus make the release of its lock (R144). -/
def State.unlocked (s : State) (c : CoreId) : State := s.onCoreAt c fun m => { m with locks := m.locks.filter fun l => l.2 != me s }

theorem bankOp_unlocked (s : State) (c : CoreId) : BankOp s (s.unlocked c) := bankOp_onCoreAt (fun _ => ⟨_, _, _, _, _, rfl⟩) s c

theorem sameBytes_unlocked (s : State) (c : CoreId) : s.SameBytes (s.unlocked c) := by
  refine sameBytes_onCoreAt ?_ s c
  exact fun _ => rfl

theorem slot_cur (m : Core) : m.slot m.cur = m.slots[m.cur] :=
  congrArg (fun k : Fin 4 => m.slots[k]) (Fin.ofNat_val_eq_self m.cur)

theorem onSlot_cur (m : Core) (f : Slot → Slot) : m.onSlot m.cur f = { m with slots := m.slots.set m.cur (f m.slots[m.cur]) } := by
  simp only [Core.onSlot, slot_cur, Fin.val_ofNat, Nat.mod_eq_of_lt m.cur.isLt]

theorem onCoreAt_focus (s : State) (f : Slot → Slot) : s.onCoreAt s.coreId (fun m => m.onSlot s.core.cur f) = s.onSl f := by
  simp only [State.onCoreAt, State.coreAt_self, State.setCoreAt, if_pos, onSlot_cur]
  rfl

theorem releaseLock_linked (linked : s.sl.link = some (c, off)) :
    s.releaseLock s.coreId s.core.cur = (s.unlocked c).onSl fun t => { t with link := none } := by
  have link : ((s.coreAt s.coreId).slot s.core.cur).link = some (c, off) := by
    rw [State.coreAt_self, slot_cur]
    exact linked
  have same : (s.unlocked c).coreId = s.coreId ∧ (s.unlocked c).core.cur.val = s.core.cur.val := Prod.mk.inj (bankOp_unlocked s c).me
  rw [← onCoreAt_focus, same.1, same.2, State.releaseLock, link]
  rfl

theorem not_mine_of_mem_unlocked {l : Nat × CoreId × Nat} (mem : l ∈ ((s.unlocked c).coreAt c).locks) : l.2 ≠ me s := by
  rw [State.unlocked, State.coreAt_onCoreAt, List.mem_filter] at mem
  exact bne_iff_ne.1 mem.2

theorem full_unlocked (s : State) (c : CoreId) (off : Nat) : ((s.unlocked c).coreAt c).full off = (s.coreAt c).full off := by
  rw [State.unlocked, State.coreAt_onCoreAt, Core.full, Core.full]

/-- The state in which `ssu` has stored and unlocked, but for its slot's link. -/
def State.storeUnlocks (s : State) (h : Hdr) (c : CoreId) (off : Nat) : State :=
  ((s.latched .ls h).atomicLeaves c off (some (s.lat .ls).a)).unlocked c

theorem lsSsu_linked (g : Goes .ls 0x21 h s) (settled : Settled s) (place : accessPlace s (s.moved64 h) 8 true = .ok (c, off))
    (linked : s.sl.link = some (c, off)) :
    let lat := accessCycles s c 2 18
    lsSsu (s.latched .ls h) = .ok (((s.storeUnlocks h c off).onSl fun t => { t with link := none }).launch .ls 0x21 lat.1 lat.2 1 0) := by
  have stored : ((s.latched .ls h).atomicLeaves c off (some (s.lat .ls).a)).sl.link = some (c, off) := by
    rw [(bankOp_atomicLeaves ..).link, link_latched, linked]
  have same : ((c, off) != (c, off)) = false := bne_self_eq_false _
  simp only [lsSsu, lat_latched]
  rw [withSpa_ok g place, lsLatency_latched]
  simp only [link_latched, linked, same, Bool.false_eq_true, if_false]
  rw [ordered_of_settled (settled_latched settled .ls h), State.storeUnlocks, ← releaseLock_linked stored]
  rfl

theorem lsSsu_unlinked (g : Goes .ls 0x21 h s) (settled : Settled s) (place : accessPlace s (s.moved64 h) 8 true = .ok (c, off))
    (unlinked : s.sl.link = none) :
    let lat := accessCycles s c 2 18
    lsSsu (s.latched .ls h) = .ok ((s.latched .ls h).launch .ls 0x21 lat.1 lat.2 0 0) := by
  simp only [lsSsu, trigger_latch]
  rw [withSpa_ok g place, lsLatency_latched]
  simp only [link_latched, unlinked]
  rw [ordered_of_settled (settled_latched settled .ls h)]

/-- A doubleword's tag is empty. -/
def State.cleared (s : State) (c : CoreId) (off : Nat) : State := s.onCoreAt c fun m => { m with tags := m.tags.filter fun d => d != off / 8 }

theorem bankOp_cleared (s : State) (c : CoreId) (off : Nat) : BankOp s (s.cleared c off) := bankOp_onCoreAt (fun _ => ⟨_, _, _, _, _, rfl⟩) s c

theorem sameBytes_cleared (s : State) (c : CoreId) (off : Nat) : s.SameBytes (s.cleared c off) := by
  refine sameBytes_onCoreAt ?_ s c
  exact fun _ => rfl

theorem full_cleared (s : State) (c : CoreId) (off : Nat) : ((s.cleared c off).coreAt c).full off = false := by
  rw [State.cleared, State.coreAt_onCoreAt, Core.full]
  simp

theorem full_gated (s : State) (h : Hdr) (c : CoreId) (off : Nat) : ((s.gated h c off).coreAt c).full off = (s.coreAt c).full off := by
  obtain ⟨lockq, e⟩ := coreAt_unasked (s.latched .ls h) c off
  rw [State.gated, e]
  exact (coresAlike_latched s .ls h).part c (·.full off) fun _ _ _ => rfl

theorem lsFclr_open (g : Goes .ls 0x32 h s) (settled : Settled s) (place : accessPlace s (s.moved64 h) 8 true = .ok (c, off))
    (opened : LockOpen s c off) :
    let lat := accessCycles s c 3 20
    lsFclr (s.latched .ls h) = .ok (((s.gated h c off).cleared c off).launch .ls 0x32 lat.1 lat.2 ((s.coreAt c).mem.dword off)
      (if (s.coreAt c).full off then 1 else 0)) := by
  obtain ⟨only, mem⟩ := sameBytes_gated s h c off
  simp only [lsFclr, trigger_latch]
  rw [withSpa_ok g place, gate_latched settled opened, lsLatency_of_onlyCores only, mem c, full_gated]
  rfl

/-- Settles O20: `lla` takes the lock as it reads, `ssu` stores and gives the lock back or, without it, stores nothing, and `fclr` empties the
tag as it reads. -/
theorem lockResults : Obligations.LockResults := by
  intro h s c off settled place old
  refine ⟨fun g opened unlinked => ?_, fun g unlinked => ?_, fun g linked => ?_, fun g opened => ?_⟩
  · have banked := (bankOp_latched_unasked s h c off).trans (bankOp_locked (s.gated h c off) c off)
    have before := (sameBytes_gated s h c off).trans (sameBytes_locked _ c off)
    obtain ⟨t, run, latch, regs, link, cores⟩ := launches_banked (link := some (c, off)) g banked (coresAlike_onSl _ _) (State.sl_onSl ..)
      (lsLla_open g settled place opened unlinked)
    refine ⟨t, run, latch, link, ?_, regs, before.sameMemory.trans cores.sameMemory⟩
    rw [cores.part c (·.holder (lockBit off)) fun _ _ _ => rfl, ← me_gated s h c off]
    exact holder_locked (lockOpen_gated opened h)
  · exact launches_launch g (lsSsu_unlinked g settled place unlinked)
  · have stores := bankOp_atomicLeaves (s.latched .ls h) c off (some (s.lat .ls).a)
    obtain ⟨t, run, latch, regs, link, cores⟩ := launches_banked (link := none) g (stores.trans (bankOp_unlocked _ c)) (coresAlike_onSl _ _)
      (State.sl_onSl ..) (lsSsu_linked g settled place linked)
    have after := (sameBytes_unlocked ((s.latched .ls h).atomicLeaves c off (some (s.lat .ls).a)) c).trans cores.sameBytes
    refine ⟨t, run, latch, link, fun l mem => ?_, ?_, ?_, ?_, regs⟩
    · rw [cores.part c (·.locks) fun _ _ _ => rfl] at mem
      have others := not_mine_of_mem_unlocked mem
      rwa [stores.me] at others
    · rw [after.2 c, dword_atomicLeaves]
      rfl
    · rw [cores.part c (·.full off) fun _ _ _ => rfl, full_unlocked]
      exact full_atomicLeaves _ c (accessPlace_aligned place) _
    · exact writesOnly_trans (writesOnly_trans ((coresAlike_latched s .ls h).sameBytes.writesOnly c off 8) (writesOnly_atomicLeaves _ c off _))
        (after.writesOnly c off 8)
  · have banked := (bankOp_latched_unasked s h c off).trans (bankOp_cleared (s.gated h c off) c off)
    obtain ⟨t, run, latch, regs, -, cores⟩ := launches_banked (link := ((s.gated h c off).cleared c off).sl.link) g banked (.refl _) rfl
      (lsFclr_open g settled place opened)
    refine ⟨t, run, latch, ?_, regs, ((sameBytes_gated s h c off).trans (sameBytes_cleared _ c off)).sameMemory.trans cores.sameMemory⟩
    rw [cores.part c (·.full off) fun _ _ _ => rfl, full_cleared]

end Sys2Proof.Machine
end

section
/-! PROOF. Waits of `ls` (spec/05_scratchpad_ops.md R142, R145, R148, R154): an operation that finds its doubleword locked by another slot, and
`fget` of an empty doubleword. -/

set_option autoImplicit false
set_option Elab.async false

namespace Sys2Proof.Machine

open Sys2Proof.Claims

variable {u : FU} {opc kind mode releaser object : Nat} {h : Hdr} {s y : State} {c : CoreId} {off : Nat} {op k : State → Res}

/-! ## Operations that enter a wait -/

/-- The slot in focus in a wait with its reason. -/
def State.waiter (s : State) (u : FU) (opc kind mode releaser object : Nat) : State :=
  s.onSl fun t => t.waits u opc s.time (reasonWord s.sl.csr.wrr kind mode releaser object)

/-- An operation that waits, where no wait is refused and its core writes no trace, changes its slot alone. -/
theorem block_eq (awake : s.sl.run = .issuing) (may : MayWait s) (untraced : s.untraced) (u : FU) (opc kind mode releaser object : Nat) :
    s.block u opc kind mode releaser object = .ok (s.waiter u opc kind mode releaser object) := by
  have level : (s.sl.inh && s.sl.hlvl != 0) = false := by
    rw [← Bool.not_eq_true, Bool.and_eq_true, bne_iff_ne]
    exact may
  have fresh : (s.sl.run == .blocked) = false := by rw [awake]; rfl
  have silent (f : Slot → Slot) : (s.onSl f).untraced := untraced
  simp only [State.block, level, fresh, Bool.false_and, Bool.false_eq_true, if_false, trace_untraced (silent _), wrrWord_eq]
  rfl

theorem mayWait_latched (may : MayWait s) (u : FU) (h : Hdr) : MayWait (s.latched u h) := by
  rw [MayWait, sl_latched]
  exact may

/-- A wait of the slot as its bundle has found it. -/
theorem block_latched (g : Goes u opc h s) (may : MayWait s) (untraced : s.untraced) (kind mode releaser object : Nat) :
    (s.latched u h).block u opc kind mode releaser object = .ok ((s.latched u h).waiter u opc kind mode releaser object) :=
  block_eq (latched_issuing g) (mayWait_latched may u h) untraced u opc kind mode releaser object

/-- A trigger whose operation waits leaves everything but its slot. -/
theorem execTrigger_waits (g : Goes u opc h s) (may : MayWait s) (untraced : s.untraced)
    (ho : op (s.latched u h) = (s.latched u h).block u opc kind mode releaser object) :
    ∃ t, execTrigger u opc h op s = .next t ∧ OnlySlot s t ∧ t.sl = Claims.waiting s u opc h kind mode releaser object [] := by
  rw [block_latched g may untraced] at ho
  obtain ⟨seed, csrw, after, flow⟩ := plain_waits (plain_latched s u h) u opc s.time
    (reasonWord (s.latched u h).sl.csr.wrr kind mode releaser object)
  obtain ⟨t, run, slot, only⟩ := exec_slot_plain g _ ho seed csrw after flow
  refine ⟨t, run, only, slot.trans ?_⟩
  rw [waiting_eq, csr_latched, time_latched, Slot.retired]

theorem BankOp.time_eq (a : BankOp s y) : y.time = s.time := by
  obtain ⟨core, others, rfl⟩ := a.rest
  rfl

theorem BankOp.untraced (a : BankOp s y) (untraced : s.untraced) : y.untraced := by
  obtain ⟨core, others, rfl⟩ := a.rest
  exact untraced

/-- A trigger of an operation on banks that waits leaves every memory as the operation has left it. -/
theorem execTrigger_waits_banked (g : Goes u opc h s) (may : MayWait s) (untraced : s.untraced) (banked : BankOp (s.latched u h) y)
    (ho : op (s.latched u h) = y.block u opc kind mode releaser object) :
    ∃ t, execTrigger u opc h op s = .next t ∧ t.sl = Claims.waiting s u opc h kind mode releaser object [] ∧ SameMemory y t := by
  obtain ⟨wait, stays⟩ := banked.slot
  have awake : y.sl.run = .issuing := by
    rw [stays]
    exact latched_issuing g
  have mayWait : MayWait y := by
    rw [MayWait, stays]
    exact mayWait_latched may u h
  have entered : (y.waiter u opc kind mode releaser object).sl =
      (s.latched u h).sl.waits u opc s.time (reasonWord s.sl.csr.wrr kind mode releaser object) := by
    rw [State.waiter, State.sl_onSl, banked.time_eq, stays, ← csr_latched s u h]
    rfl
  have plain : (y.waiter u opc kind mode releaser object).sl.Plain := by
    rw [entered]
    exact plain_waits (plain_latched s u h) ..
  rw [block_eq awake mayWait (banked.untraced untraced)] at ho
  obtain ⟨t, run, slot, alike⟩ := execTrigger_closes g ho plain
  exact ⟨t, run, by rw [slot, entered, waiting_eq], ((coresAlike_onSl y _).trans alike).sameMemory⟩

/-! ## Locks that another slot holds (R142, R145, R154) -/

section
variable {id : CoreId} {slot : Nat}

/-- The wait of an operation for a doubleword's lock, from its holder. -/
def State.waitsLock (s : State) (h : Hdr) (opc : Nat) (c : CoreId) (off : Nat) (id : CoreId) (slot : Nat) : Res :=
  ((s.latched .ls h).asksLock c off).block .ls opc 13 0 (partyOf id (s.coreAt id) slot)
    ((s.coreAt c).cidx * 2 ^ 16 + lockBit off / 64 * 2 ^ 8 + lockBit off % 64)

/-- A trigger of `ls` at a place whose lock another slot holds does not pass its gate. -/
theorem gate_latched_held (settled : Settled s) (holds : (s.coreAt c).holder (lockBit off) = some (id, slot)) (other : (id, slot) ≠ me s)
    (h : Hdr) (opc : Nat) (k : State → Res) :
    ((s.latched .ls h).ordered fun s => s.lockGate opc c off k) = s.waitsLock h opc c off id slot := by
  have party : partyOf id ((s.latched .ls h).coreAt id) slot = partyOf id (s.coreAt id) slot :=
    (coresAlike_latched s .ls h).part id (partyOf id · slot) fun _ _ _ => rfl
  have index : ((s.latched .ls h).coreAt c).cidx = (s.coreAt c).cidx := (coresAlike_latched s .ls h).part c (·.cidx) fun _ _ _ => rfl
  rw [ordered_of_settled (settled_latched settled .ls h), lockGate_held (s := s.latched .ls h) ((holder_latched ..).trans holds) other, party,
    lockIdentity, index]
  rfl

/-- A trigger that meets a lock waits, and no memory has changed. -/
theorem execTrigger_waitsLock (g : Goes .ls opc h s) (may : MayWait s) (untraced : s.untraced)
    (ho : op (s.latched .ls h) = s.waitsLock h opc c off id slot) :
    ∃ t, execTrigger .ls opc h op s = .next t ∧ t.sl = Claims.waiting s .ls opc h 13 0 (partyOf id (s.coreAt id) slot)
      ((s.coreAt c).cidx * 2 ^ 16 + lockBit off / 64 * 2 ^ 8 + lockBit off % 64) [] ∧ SameMemory s t := by
  obtain ⟨t, run, sl, memory⟩ := execTrigger_waits_banked g may untraced (bankOp_asksLock _ c off) ho
  exact ⟨t, run, sl, (coresAlike_latched s .ls h).sameMemory.trans ((sameMemory_asksLock _ c off).trans memory)⟩

end

/-- Settles O23: an atomic, `lla` or `fclr` whose lock another slot holds waits for it. -/
theorem lockWaits : Obligations.LockWaits := by
  intro h s c off id slot settled untraced may place holds other lock object releaser
  refine ⟨fun r hr g => ?_, fun g unlinked => ?_, fun g => ?_⟩
  · rw [exec_atomicRow hr]
    refine execTrigger_waitsLock g may untraced ?_
    rw [lsAtomic, trigger_latch, withSpa_ok g place]
    exact gate_latched_held settled holds other h r.1 _
  · refine execTrigger_waitsLock g may untraced ?_
    simp only [lsLla, trigger_latch, check_latched g, link_latched, unlinked, Option.isSome_none, Bool.false_eq_true, if_false]
    rw [withSpa_ok g place]
    exact gate_latched_held settled holds other h 0x20 _
  · refine execTrigger_waitsLock g may untraced ?_
    rw [lsFclr, trigger_latch, withSpa_ok g place]
    exact gate_latched_held settled holds other h 0x32 _

/-! ## Futures (R148) -/

theorem handed_latched (fresh : s.sl.wait = none) (u : FU) (h : Hdr) : (s.latched u h).handed = none := by
  have same : (s.latched u h).sl.wait = s.sl.wait := by rw [sl_latched]; rfl
  rw [State.handed, same, fresh]
  rfl

theorem full_latched (s : State) (u : FU) (h : Hdr) (c : CoreId) (off : Nat) : ((s.latched u h).coreAt c).full off = (s.coreAt c).full off :=
  (coresAlike_latched s u h).part c (·.full off) fun _ _ _ => rfl

/-- The control word of a wait is one that `fget` takes (R148). -/
def GoodFutureWait (w : Word) : Prop :=
  bit w 63 = false ∨ (w.toNat / 2 ^ 59 % 16 = 0 ∧ w.toNat / 2 ^ 48 % 256 = 0 ∧ w.toNat % 2 ^ 24 = 0 ∧ w.toNat / 2 ^ 56 % 8 ≤ 3)

theorem check_futureWait {w : Word} (good : GoodFutureWait w) :
    (bit w 63 && (bits w 62 59 != 0 || bits w 55 48 != 0 || bits w 23 0 != 0 || 3 < bits w 58 56)) = false := by
  obtain off | ⟨kind, count, low, mode⟩ := good
  · rw [off, Bool.false_and]
  · have fields : bits w 62 59 = 0 ∧ bits w 55 48 = 0 ∧ bits w 23 0 = 0 ∧ bits w 58 56 ≤ 3 := ⟨kind, count, (bits_low _ 23).trans low, mode⟩
    obtain ⟨kind, count, low, mode⟩ := fields
    simp [kind, count, low, mode]

theorem lsFget_latched (g : Goes .ls 0x30 h s) (empty : s.sl.sb = []) (fresh : s.sl.wait = none)
    (place : accessPlace s (s.moved64 h) 8 false = .ok (c, off)) (good : GoodFutureWait (s.lat .ls).c) :
    let lat := accessCycles s c 2 18
    let w := (s.lat .ls).c
    lsFget (s.latched .ls h) =
      if (s.coreAt c).full off then .ok ((s.latched .ls h).launch .ls 0x30 lat.1 lat.2 ((s.coreAt c).mem.dword off) 0)
      else if bit w 63 = false then .trap 0x0C (s.moved64 h)
      else (s.latched .ls h).block .ls 0x30 7 (w.toNat / 2 ^ 56 % 8) (w.toNat / 2 ^ 24 % 2 ^ 24) ((s.moved64 h).toNat % 2 ^ 24) := by
  have drained : (s.latched .ls h).drain = s.latched .ls h := drain_of_empty ((sb_latched s .ls h).trans empty)
  have mem : ((s.latched .ls h).coreAt c).mem = (s.coreAt c).mem := (coresAlike_latched s .ls h).mem c
  simp only [lsFget, lat_latched, check_latched g, check_futureWait good, Bool.false_eq_true, if_false]
  rw [withSpa_ok g place]
  simp only [drained, handed_latched fresh, full_latched, lsLatency_latched, mem, bits_low, Bool.not_eq_true']
  rfl

/-- Settles O21: `fget` answers a full doubleword, and traps or waits at an empty one. -/
theorem futureResults : Obligations.FutureResults := by
  intro h s c off g empty fresh place w lat good
  have result := lsFget_latched g empty fresh place good
  refine ⟨fun full => ?_, fun vacant trap => ?_, fun vacant waits untraced may => ?_⟩
  · exact launches_launch g (result.trans (if_pos full))
  · exact execTrigger_trap g (result.trans ((if_neg (ne_true_of_eq_false vacant)).trans (if_pos trap)))
  · exact execTrigger_waits g may untraced (result.trans ((if_neg (ne_true_of_eq_false vacant)).trans (if_neg (ne_false_of_eq_true waits))))

end Sys2Proof.Machine
end

section
/-! PROOF. Operations on berths (spec/05_scratchpad_ops.md R151 to R153): what a handle that passes its checks names, and what each operation
answers and leaves of the berth. -/

set_option autoImplicit false
set_option Elab.async false

namespace Sys2Proof.Machine

open Sys2Proof.Claims

variable {u : FU} {opc : Nat} {h : Hdr} {s : State} {c : CoreId} {d : Berth} {counted wide : Bool} {ends : Option Bool}

/-! ## The checks of a handle (R151) -/

/-- The end that an operation asks for: the producer's, the consumer's, or either. -/
def berthEnd (ends : Option Bool) : BerthEnd := ends.elim .either fun e => if e then .prod else .cons

theorem berthAt_latched (s : State) (u : FU) (h : Hdr) (c : CoreId) (b : Nat) : (s.latched u h).berthAt c b = s.berthAt c b :=
  (coresAlike_latched s u h).part c (fun m => m.berths[Fin.ofNat 16 b]) fun _ _ _ => rfl

theorem isMyCore_latched (s : State) (u : FU) (h : Hdr) (p : Nat) : (s.latched u h).isMyCore p = (p / 4 == s.party / 4) := by
  rw [latched_setSl]
  rfl

theorem clusterInSpan_latched (s : State) (u : FU) (h : Hdr) (i : Nat) : (s.latched u h).clusterInSpan i = s.clusterInSpan i := by
  rw [latched_setSl]
  rfl

section
variable (berth : BerthOpen s h counted wide ends c d)
include berth

theorem handleCore_latched (u : FU) : (s.latched u h).handleCore (s.moved64 h) = c := berth.core.symm

theorem handle_good :
    (bits (s.moved64 h) 63 24 != 0 || bits (s.moved64 h) 15 9 != 0 || bits (s.moved64 h) 7 4 != 0) = false := by
  obtain ⟨high, middle, low⟩ := berth.handle
  have fields : bits (s.moved64 h) 63 24 = 0 ∧ bits (s.moved64 h) 15 9 = 0 ∧ bits (s.moved64 h) 7 4 = 0 := by
    refine ⟨?_, middle, low⟩
    rw [bits, high, Nat.zero_mod]
  obtain ⟨high, middle, low⟩ := fields
  simp [high, middle, low]

theorem count_good : (counted && ((if wide then bits (s.lat .ls).a 63 17 != 0 else bits (s.lat .ls).a 63 16 != 0) ||
    bits (s.lat .ls).a 15 0 == 0)) = false := by
  cases counted with
  | false => rfl
  | true =>
    obtain ⟨some, fits⟩ := berth.count rfl
    have nonzero : (bits (s.lat .ls).a 15 0 == 0) = false := by
      rw [bits_low]
      exact beq_eq_false_iff_ne.2 some
    have narrow : (if wide then bits (s.lat .ls).a 63 17 != 0 else bits (s.lat .ls).a 63 16 != 0) = false := by
      cases wide with
      | false => exact bne_eq_false_iff_eq.2 (by rw [bits, show (s.lat .ls).a.toNat / 2 ^ 16 = 0 from fits, Nat.zero_mod])
      | true => exact bne_eq_false_iff_eq.2 (by rw [bits, show (s.lat .ls).a.toNat / 2 ^ 17 = 0 from fits, Nat.zero_mod])
    rw [narrow, nonzero]
    rfl

theorem span_good : (bit (s.moved64 h) 8 && !s.clusterInSpan (bits (s.moved64 h) 23 16)) = false := by
  cases far : bit (s.moved64 h) 8 with
  | false => rfl
  | true =>
    have spanned : s.clusterInSpan (bits (s.moved64 h) 23 16) = true := berth.span far
    rw [spanned]
    rfl

theorem end_mine (u : FU) {e : Bool} (asked : ends = some e) : (s.latched u h).isMyCore (if e then d.prod else d.cons) = true := by
  rw [isMyCore_latched]
  exact beq_iff_eq.2 (berth.mine e asked)

theorem slots_good : (wide && decide (d.n < bits (s.lat .ls).a 15 0)) = false := by
  cases wide with
  | false => rfl
  | true =>
    rw [bits_low]
    exact decide_eq_false (Nat.not_lt.2 (berth.fits rfl))

/-- An operation whose handle passes the checks goes on with its berth. -/
theorem withBerth_ok (g : Goes .ls opc h s) (k : CoreId → Nat → Berth → Res) :
    (s.latched .ls h).withBerth counted wide (berthEnd ends) k = k c ((s.moved64 h).toNat % 16) d := by
  have compute : ((s.latched .ls h).coreId.kind != .compute) = false := bne_eq_false_iff_eq.2 berth.kind
  have declared : (s.latched .ls h).berthAt c ((s.moved64 h).toNat % 16) = some d := (berthAt_latched ..).trans berth.declared
  have number : bits (s.moved64 h) 3 0 = (s.moved64 h).toNat % 16 := bits_low _ 3
  rw [State.withBerth]
  simp only [lat_latched, compute, check_latched g, handle_good berth, count_good berth, clusterInSpan_latched, span_good berth,
    handleCore_latched berth, number, declared, slots_good berth, Bool.false_eq_true, if_false]
  cases ends with
  | none => rfl
  | some e =>
    have mine := end_mine berth .ls rfl
    cases e with
    | false => exact if_neg (by simpa [berthEnd] using mine)
    | true => exact if_neg (by simpa [berthEnd] using mine)

end

/-! ## `bwait` (R152) -/

theorem slotAddress_eq (t : Word) (d : Berth) (i : Nat) : berthAddr t (d.slotOff i) = slotAddress t d i := by
  rw [berthAddr, slotAddress]
  split <;> rfl

/-- What an end of a berth counts: the producer its space, the consumer what is filled. -/
def Berth.ready (d : Berth) (dir : Bool) : Nat := if dir then d.space else d.filled

theorem berthObject_latched (s : State) (u : FU) (h : Hdr) (c : CoreId) (b : Nat) :
    (s.latched u h).berthObject c b = (s.coreAt c).cidx * 2 ^ 8 + b :=
  congrArg (· * 2 ^ 8 + b) ((coresAlike_latched s u h).part c (·.cidx) fun _ _ _ => rfl)

theorem lsBwait_latched {dir : Bool} (g : Goes .ls 0x40 h s) (fresh : s.sl.wait = none) (berth : BerthOpen s h true true (some dir) c d)
    (asked : (s.lat .ls).a.toNat / 2 ^ 16 % 2 = dir.toNat) :
    let lat := accessCycles s c 2 18
    lsBwait (s.latched .ls h) =
      if d.ready dir < (s.lat .ls).a.toNat % 2 ^ 16 then (s.latched .ls h).block .ls 0x40 (if dir then 3 else 2) 0
        (if dir then d.cons else d.prod) ((s.coreAt c).cidx * 2 ^ 8 + (s.moved64 h).toNat % 16)
      else .ok ((s.latched .ls h).launch .ls 0x40 lat.1 lat.2 (slotAddress (s.moved64 h) d (if dir then d.pi else d.ci))
        (BitVec.ofNat 64 (d.ready dir))) := by
  have direction : bit (s.lat .ls).a 16 = dir := by
    rw [Bool.eq_iff_iff, bit_iff, asked, Bool.toNat_eq_one]
  have count : bits (s.lat .ls).a 15 0 = (s.lat .ls).a.toNat % 2 ^ 16 := bits_low _ 15
  simp only [lsBwait, lat_latched, direction, count]
  refine (withBerth_ok berth g _).trans ?_
  simp only [handed_latched fresh, lsLatency_latched, berthObject_latched, slotAddress_eq]
  cases dir with
  | false => simp only [Berth.ready, w64, Bool.false_eq_true, if_false]
  | true => simp only [Berth.ready, w64, if_true]

/-! ## Indices that move on (R152, R153) -/

/-- A core with the descriptor of a berth written. -/
def Core.describe (m : Core) (b : Nat) (d : Berth) : Core :=
  { m with berths := m.berths.set (Fin.ofNat 16 b) (some d), mem := m.mem.write (descriptorOff b) d.bytes }

theorem setBerth_eq (s : State) (c : CoreId) (b : Nat) (d : Berth) :
    s.setBerth c b d = (s.onCoreAt c fun m => m.describe b d).wakeBerth c b d := rfl

/-- Indices that move on may end waits, and change nothing else of a slot. -/
theorem bankOp_wakeBerth (s : State) (c : CoreId) (b : Nat) (d : Berth) : BankOp s (s.wakeBerth c b d) := by
  refine bankOp_mapSlots (fun id m t => ?_) s
  split
  · exact .refl t
  · exact .ite (.ite (stays_hand t _) (.refl t)) (.refl t)

theorem bankOp_setBerth (s : State) (c : CoreId) (b : Nat) (d : Berth) : BankOp s (s.setBerth c b d) := by
  rw [setBerth_eq]
  exact (bankOp_onCoreAt (fun _ => ⟨_, _, _, _, _, rfl⟩) s c).trans (bankOp_wakeBerth _ c b d)

/-- A berth whose indices have been set shows them. -/
theorem berthAt_setBerth (s : State) (c : CoreId) (b : Nat) (d : Berth) : (s.setBerth c b d).berthAt c b = some d := by
  have woken : ((s.setBerth c b d).coreAt c).berths = ((s.onCoreAt c fun m => m.describe b d).coreAt c).berths :=
    (coresAlike_mapSlots _ _).part c (·.berths) fun _ _ _ => rfl
  rw [State.berthAt, woken, State.coreAt_onCoreAt]
  exact Vector.getElem_set_self ..

/-- A trigger that sets a berth's indices enters its unit, and the berth shows them. -/
theorem launches_setBerth {b lo hi : Nat} {op : State → Res} (g : Goes .ls opc h s)
    (ho : op (s.latched .ls h) = .ok (((s.latched .ls h).setBerth c b d).launch .ls opc lo hi 0 0)) :
    ∃ t, execTrigger .ls opc h op s = .next t ∧ t.berthAt c b = some d ∧
      t.lat .ls = entered opc lo hi 0 0 { s.lat .ls with t := s.moved64 h } ∧ SameRegs s t := by
  obtain ⟨t, run, latch, regs, -, cores⟩ := launches_banked (link := ((s.latched .ls h).setBerth c b d).sl.link) g (bankOp_setBerth _ c b d)
    (.refl _) rfl ho
  refine ⟨t, run, ?_, latch, regs⟩
  rw [State.berthAt, cores.part c (·.berths) fun _ _ _ => rfl]
  exact berthAt_setBerth ..

theorem drain_latched (empty : s.sl.sb = []) (u : FU) (h : Hdr) : (s.latched u h).drain = s.latched u h :=
  drain_of_empty ((sb_latched s u h).trans empty)

theorem lsBadv_latched (g : Goes .ls 0x41 h s) (empty : s.sl.sb = []) (berth : BerthOpen s h true false (some false) c d) :
    let n := (s.lat .ls).a.toNat % 2 ^ 16
    let lat := accessCycles s c 2 18
    lsBadv (s.latched .ls h) = if d.filled < n then .trap 0x0D (s.lat .ls).a
      else .ok (((s.latched .ls h).setBerth c ((s.moved64 h).toNat % 16) { d with ci := (d.ci + n) % 2 ^ 32 }).launch .ls 0x41 lat.1 lat.2
        0 0) := by
  have count : bits (s.lat .ls).a 15 0 = (s.lat .ls).a.toNat % 2 ^ 16 := bits_low _ 15
  simp only [lsBadv, lat_latched, count]
  refine (withBerth_ok berth g _).trans ?_
  simp only [drain_latched empty, lsLatency_latched, State.advanceCi, berthAt_latched, berth.declared]
  rfl

theorem lsBpush_latched (g : Goes .ls 0x42 h s) (empty : s.sl.sb = []) (berth : BerthOpen s h true false (some true) c d) :
    let n := (s.lat .ls).a.toNat % 2 ^ 16
    let lat := accessCycles s c 2 18
    lsBpush (s.latched .ls h) = if d.space < n then .trap 0x0D (s.lat .ls).a
      else .ok (((s.latched .ls h).setBerth c ((s.moved64 h).toNat % 16) { d with pi := (d.pi + n) % 2 ^ 32 }).launch .ls 0x42 lat.1 lat.2
        0 0) := by
  have count : bits (s.lat .ls).a 15 0 = (s.lat .ls).a.toNat % 2 ^ 16 := bits_low _ 15
  simp only [lsBpush, lat_latched, count]
  refine (withBerth_ok berth g _).trans ?_
  simp only [drain_latched empty, lsLatency_latched, State.advancePi, berthAt_latched, berth.declared]
  rfl

theorem lsBstat_latched (g : Goes .ls 0x43 h s) (berth : BerthOpen s h false false none c d) :
    let lat := accessCycles s c 2 18
    lsBstat (s.latched .ls h) = .ok ((s.latched .ls h).launch .ls 0x43 lat.1 lat.2 (BitVec.ofNat 64 (d.pi * 2 ^ 32 + d.ci))
      (BitVec.ofNat 64 d.filled)) := by
  rw [lsBstat]
  refine (withBerth_ok berth g _).trans ?_
  simp only [lsLatency_latched, w64]

/-- Settles O22: `bwait` answers a slot or waits for the other end, `badv` and `bpush` move an index or trap, and `bstat` answers both
indices. -/
theorem berthResults : Obligations.BerthResults := by
  intro h s c d empty fresh a n b filled object lat
  refine ⟨fun dir g berth asked => ?_, fun g berth => ?_, fun g berth => ?_, fun g berth => ?_⟩
  · have result := lsBwait_latched g fresh berth asked
    refine ⟨fun enough => ?_, fun short untraced may => ?_⟩
    · exact launches_launch g (result.trans (if_neg (Nat.not_lt.2 enough)))
    · exact execTrigger_waits g may untraced (result.trans (if_pos short))
  · have result := lsBadv_latched g empty berth
    exact ⟨fun enough => launches_setBerth g (result.trans (if_neg (Nat.not_lt.2 enough))),
      fun short => execTrigger_trap g (result.trans (if_pos short))⟩
  · have result := lsBpush_latched g empty berth
    exact ⟨fun enough => launches_setBerth g (result.trans (if_neg (Nat.not_lt.2 enough))),
      fun short => execTrigger_trap g (result.trans (if_pos short))⟩
  · exact launches_launch g (lsBstat_latched g berth)

end Sys2Proof.Machine
end

section
/-! SUPPORT. Doublewords of a page under a key slot (spec/19_virtualisation.md R467): the 16-byte unit in which one is enciphered, and what a
write of one leaves, as bytes are read under the key slot. -/

set_option autoImplicit false
set_option Elab.async false

namespace Sys2Proof.Machine

open Sys2Proof.Claims

variable {s t : State} {k a b n : Nat} {w : Word} {bs : List Byte} {m : Memory}

/-! ## Units (R467) -/

/-- What a 16-byte unit holds, from what is stored of it. -/
def State.deciphered (s : State) (k f : Nat) (bs : List Byte) : List Byte :=
  leBytes 16 ((Config.xts (look [] s.keySlots k) (16 * f % 2 ^ 64)).symm (unitOfBytes bs)).toNat

/-- What is stored of a 16-byte unit, from what it holds. -/
def State.enciphered (s : State) (k f : Nat) (bs : List Byte) : List Byte :=
  leBytes 16 (Config.xts (look [] s.keySlots k) (16 * f % 2 ^ 64) (unitOfBytes bs)).toNat

theorem length_deciphered (s : State) (k f : Nat) (bs : List Byte) : (s.deciphered k f bs).length = 16 := length_leBytes ..

theorem length_enciphered (s : State) (k f : Nat) (bs : List Byte) : (s.enciphered k f bs).length = 16 := length_leBytes ..

theorem unitOfBytes_leBytes (x : BitVec 128) : unitOfBytes (leBytes 16 x.toNat) = x := by
  rw [unitOfBytes, leNat_leBytes, Nat.mod_eq_of_lt (x.isLt.trans_eq (by decide)), BitVec.ofNat_toNat, BitVec.setWidth_eq]

theorem leBytes_unitOfBytes (whole : bs.length = 16) : leBytes 16 (unitOfBytes bs).toNat = bs := by
  have lt : leNat bs < 2 ^ 128 := (leNat_lt bs).trans_eq (by rw [whole]; decide)
  rw [unitOfBytes, BitVec.toNat_ofNat, Nat.mod_eq_of_lt lt, ← whole, leBytes_leNat]

/-- What is stored deciphers to what was enciphered. -/
theorem deciphered_enciphered (s : State) (k f : Nat) (whole : bs.length = 16) : s.deciphered k f (s.enciphered k f bs) = bs := by
  rw [State.deciphered, State.enciphered, unitOfBytes_leBytes, Equiv.symm_apply_apply, leBytes_unitOfBytes whole]

/-- Bytes of one unit, as an access under a key slot sees them. -/
theorem unseal_unit (keyed : k ≠ 0) (some : 0 < n) (within : a % 16 + n ≤ 16) (raw : Nat → Nat → List Byte) :
    s.unseal a k n raw = ((s.deciphered k (a / 16) (raw (16 * (a / 16)) 16)).drop (a % 16)).take n := by
  have one : (a + n + 15) / 16 - a / 16 = 1 := by omega
  have plain : (k == 0) = false := beq_eq_false_iff_ne.2 keyed
  simp only [State.unseal, plain, Bool.false_eq_true, if_false, one, List.range_one, List.flatMap_singleton, Nat.add_zero]
  rfl

theorem unseal_plain (s : State) (a n : Nat) (raw : Nat → Nat → List Byte) : s.unseal a 0 n raw = raw a n := rfl

/-- A unit with a doubleword in it replaced. -/
def replaced (unit : List Byte) (r : Nat) (bs : List Byte) : List Byte := unit.take r ++ bs ++ unit.drop (r + bs.length)

theorem length_replaced {unit : List Byte} {r : Nat} (whole : unit.length = 16) (within : r + bs.length ≤ 16) :
    (replaced unit r bs).length = 16 := by
  simp only [replaced, List.length_append, List.length_take, List.length_drop, whole]
  omega

/-- The bytes that replace others stand in their place. -/
theorem take_drop_replaced {unit : List Byte} {r : Nat} (within : r ≤ unit.length) : ((replaced unit r bs).drop r).take bs.length = bs := by
  have front : (unit.take r).length = r := List.length_take_of_le within
  rw [replaced, List.append_assoc, List.drop_append_of_le_length front.ge, List.drop_of_length_le front.le, List.nil_append,
    List.take_left]

/-- Every other byte of the unit is as it was. -/
theorem getElem?_replaced {unit : List Byte} {r i : Nat} (within : r + bs.length ≤ unit.length) (apart : i < r ∨ r + bs.length ≤ i) :
    (replaced unit r bs)[i]? = unit[i]? := by
  have front : (unit.take r).length = r := List.length_take_of_le (by omega)
  have both : (unit.take r ++ bs).length = r + bs.length := by rw [List.length_append, front]
  rcases apart with before | after
  · rw [replaced, List.append_assoc, List.getElem?_append_left (by omega), List.getElem?_take_of_lt before]
  · rw [replaced, List.getElem?_append_right (by omega), both, List.getElem?_drop, Nat.add_sub_cancel' after]

/-- What a write of bytes of one unit stores: the unit, enciphered whole. -/
theorem sealUnits_unit (keyed : k ≠ 0) (some : bs ≠ []) (within : a % 16 + bs.length ≤ 16) (raw : Nat → Nat → List Byte) :
    s.sealUnits a k bs raw = (16 * (a / 16), s.enciphered k (a / 16)
      (replaced (s.deciphered k (a / 16) (raw (16 * (a / 16)) 16)) (a % 16) bs)) := by
  have positive : 0 < bs.length := List.length_pos_iff.2 some
  have one : (a + bs.length + 15) / 16 - a / 16 = 1 := by omega
  have plain : (k == 0) = false := beq_eq_false_iff_ne.2 keyed
  have unit : s.unseal (16 * (a / 16)) k 16 raw = s.deciphered k (a / 16) (raw (16 * (a / 16)) 16) := by
    rw [unseal_unit keyed (by decide) (by omega), Nat.mul_div_cancel_left _ (by decide), Nat.mul_mod_right, List.drop_zero,
      List.take_of_length_le (length_deciphered ..).le]
  have whole := length_replaced (length_deciphered s k (a / 16) (raw (16 * (a / 16)) 16)) within
  simp only [State.sealUnits, plain, Bool.false_eq_true, if_false, one, List.range_one, List.flatMap_singleton, Nat.add_zero, Nat.mul_one,
    Nat.mul_zero, List.drop_zero, unit]
  rw [← replaced, List.take_of_length_le whole.le]
  rfl

/-! ## A doubleword that is written (R145, R467) -/

theorem unseal_congr (keys : t.keySlots = s.keySlots) (a k n : Nat) (raw : Nat → Nat → List Byte) : t.unseal a k n raw = s.unseal a k n raw := by
  simp only [State.unseal, keys]

theorem becomes_congr {m' : Memory} (keys : t.keySlots = s.keySlots) (same : Becomes k a w m m' s s) : Becomes k a w m m' s t := by
  obtain ⟨stored, others, rest⟩ := same
  exact ⟨(unseal_congr keys ..).trans stored, fun b apart => (unseal_congr keys ..).trans (others b apart), rest⟩

theorem bytes_write_of_length {bs : List Byte} (whole : bs.length = n) (m : Memory) (a : Nat) : (m.write a bs).bytes a n = bs := by
  rw [← whole, Memory.bytes_write]

/-- A doubleword under no key. -/
theorem becomes_plain (s : State) (a : Nat) (w : Word) (m : Memory) : Becomes 0 a w m (m.write a (leBytes 8 w.toNat)) s s := by
  have eight := length_leBytes 8 w.toNat
  refine ⟨?_, fun b apart => ?_, fun b apart => ?_⟩
  · rw [unseal_plain, bytes_write_of_length eight]
  · rw [unseal_plain, unseal_plain]
    exact Memory.bytes_write_apart m (by omega)
  · rw [if_pos rfl, if_pos rfl] at apart
    exact Memory.byte_write_apart m (by omega)

/-- One byte of a unit, taken from its place. -/
theorem take_one_drop (l : List Byte) (i : Nat) : (l.drop i).take 1 = l[i]?.toList := by rw [List.take_one, List.head?_drop]

/-- A doubleword under a key slot: its unit is enciphered whole. -/
theorem becomes_keyed (s : State) (keyed : k ≠ 0) (aligned : a % 8 = 0) (w : Word) (m : Memory) :
    let unit := s.deciphered k (a / 16) (m.bytes (16 * (a / 16)) 16)
    Becomes k a w m (m.write (16 * (a / 16)) (s.enciphered k (a / 16) (replaced unit (a % 16) (leBytes 8 w.toNat)))) s s := by
  intro unit
  have eight := length_leBytes 8 w.toNat
  have sixteen : unit.length = 16 := length_deciphered ..
  have within : a % 16 + (leBytes 8 w.toNat).length ≤ 16 := by omega
  have whole := length_replaced sixteen within
  have cipher := length_enciphered s k (a / 16) (replaced unit (a % 16) (leBytes 8 w.toNat))
  refine ⟨?_, fun b apart => ?_, fun b apart => ?_⟩
  · rw [unseal_unit keyed (by decide) (by omega), bytes_write_of_length cipher, deciphered_enciphered s k _ whole]
    have placed := take_drop_replaced (unit := unit) (r := a % 16) (bs := leBytes 8 w.toNat) (by omega)
    rwa [eight] at placed
  · rw [unseal_unit keyed Nat.one_pos (by omega), unseal_unit keyed Nat.one_pos (by omega)]
    by_cases same : b / 16 = a / 16
    · rw [same, bytes_write_of_length cipher, deciphered_enciphered s k _ whole, take_one_drop, take_one_drop,
        getElem?_replaced (by omega) (by omega)]
    · rw [Memory.bytes_write_apart m (by omega)]
  · rw [if_neg keyed, if_neg keyed] at apart
    exact Memory.byte_write_apart m (by omega)

/-- A doubleword that is written becomes what is written, as it is read under its key slot. -/
theorem becomes_sealed (s : State) (aligned : a % 8 = 0) (k : Nat) (w : Word) (m : Memory) :
    let stored := s.sealUnits a k (leBytes 8 w.toNat) m.bytes
    Becomes k a w m (m.write stored.1 stored.2) s s := by
  by_cases plain : k = 0
  · subst plain
    exact becomes_plain s a w m
  · have eight := length_leBytes 8 w.toNat
    rw [sealUnits_unit plain (List.ne_nil_of_length_pos (by omega)) (by omega)]
    exact becomes_keyed s plain aligned w m

end Sys2Proof.Machine
end

section
/-! PROOF. Atomics and fences of `qm` (spec/07_engine_ops.md R196, R197; spec/05_scratchpad_ops.md R145; spec/20_scaleup.md R471): an atomic
at its home's memory controller, and a fence with nothing before it. -/

set_option autoImplicit false
set_option Elab.async false

namespace Sys2Proof.Machine

open Sys2Proof.Claims

variable {u : FU} {opc : Nat} {h : Hdr} {s t : State} {p : Home} {sl : Slot}

/-! ## Where an atomic goes (R195, R455, R471) -/

/-- A doubleword of device memory, of host memory or of another device. -/
def AtDword : Home → Prop
  | .core _ _ => False
  | .device a _ => a % 8 = 0
  | .host a _ => a % 8 = 0
  | .remote _ a _ => a % 8 = 0

theorem dvd_mod_two_pow {va : Nat} (aligned : 8 ∣ va) (size : Nat) : 8 ∣ va % 2 ^ size := by
  by_cases wide : 3 ≤ size
  · exact (Nat.dvd_mod_iff (pow_dvd_pow 2 wide)).2 aligned
  · have narrow : 2 ^ size ∣ va := (pow_dvd_pow 2 (by omega : size ≤ 3)).trans aligned
    rw [Nat.mod_eq_zero_of_dvd narrow]
    exact Nat.dvd_zero 8

/-- A page keeps the alignment of an address, and is no core's memory. -/
theorem pageHome_dword (s : State) (e : TlbEntry) {va : Nat} (aligned : va % 8 = 0) : AtDword (s.pageHome e va) := by
  have offset := dvd_mod_two_pow (Nat.dvd_of_mod_eq_zero aligned) e.size
  rw [State.pageHome]
  split
  · show (_ * 2 ^ 16 + va % 2 ^ e.size) % 8 = 0
    omega
  · split
    · show (_ * 2 ^ 16 + va % 2 ^ e.size + _ * 2 ^ 64) % 8 = 0
      omega
    · split
      · show (_ * 2 ^ 16 + va % 2 ^ e.size) % 2 ^ 40 % 8 = 0
        omega
      · show (_ * 2 ^ 16 + va % 2 ^ e.size) % 2 ^ 40 % 8 = 0
        omega

theorem translate_dword {tlb : List TlbEntry} {asid vf va : Nat} {a : Access} {user : Bool} (aligned : va % 8 = 0)
    (place : s.translate tlb asid vf va a user = .ok p) : AtDword p := by
  rw [State.translate] at place
  split at place
  · cases place
  · next e _ =>
    split at place
    · cases place
    · split at place
      · cases place
      · cases place
        exact pageHome_dword s e aligned

/-- An access of a doubleword through `qm` goes to an aligned one. -/
theorem devicePlace_dword {w : Word} {a : Access} (place : devicePlace s w 8 a = .ok p) : AtDword p := by
  rw [devicePlace] at place
  split at place
  · cases place
  · split at place
    · cases place
    · next aligned =>
      cases page : s.translate (s.core.tlb ++ s.dieTlb s.coreId.die) s.asid s.vf (w.toNat % 2 ^ 52) a (decide (s.sl.priv = 0)) with
      | error e =>
        rw [page] at place
        cases e <;> cases place
      | ok p =>
        rw [page] at place
        cases place
        exact translate_dword (not_not.1 aligned) page

/-! ## What an atomic leaves (R145, R471) -/

/-- A state as an atomic at a doubleword of a page leaves it: memories written, flits sent, queues that watched released. -/
def State.served (s : State) (dm hm : Memory) (queues : List (Nat × FQueue)) (ports : List (Nat × ShumPort)) (regs : List (Reg × Word))
    (errs : List (Nat × Nat)) : State :=
  { s with dm := dm, hm := hm, queues := queues, shum := ports, regs := regs, errs := errs }

/-- What an atomic at a home leaves, from what it stores, if it stores: the write, or the request for the old value alone. -/
def State.homeLeaves (s : State) (p : Home) (new : Option Word) : State := new.elim (s.asked p) fun w => s.writeHome p (leBytes 8 w.toNat)

theorem writeHome_served (page : AtDword p) (bs : List Byte) : ∃ dm hm queues ports regs errs,
    s.writeHome p bs = s.served dm hm queues ports regs errs := by
  cases p with
  | core c off => exact page.elim
  | device a k => exact ⟨_, s.hm, _, s.shum, s.regs, s.errs, rfl⟩
  | host a k => exact ⟨s.dm, _, s.queues, s.shum, s.regs, s.errs, rfl⟩
  | remote d a k =>
    obtain ⟨ports, regs, errs, asks⟩ := asks_requested s d (s.sealUnits a k bs (s.remoteBytes d)).1
      (s.sealUnits a k bs (s.remoteBytes d)).2.length (s.sealUnits a k bs (s.remoteBytes d)).2
    exact ⟨s.dm, s.hm, s.queues, ports, regs, errs, asks⟩

theorem homeLeaves_served (page : AtDword p) (new : Option Word) : ∃ dm hm queues ports regs errs,
    s.homeLeaves p new = s.served dm hm queues ports regs errs := by
  cases new with
  | none =>
    obtain ⟨ports, regs, errs, asked⟩ := asked_requested s p
    exact ⟨s.dm, s.hm, s.queues, ports, regs, errs, asked⟩
  | some w => exact writeHome_served page _

theorem writeHome_setSl (page : AtDword p) (bs : List Byte) : (s.setSl sl).writeHome p bs = (s.writeHome p bs).setSl sl := by
  cases p with
  | core c off => exact page.elim
  | device a k => rfl
  | host a k => rfl
  | remote d a k => exact asks_setSl ..

/-- An atomic leaves alike what is not its slot. -/
theorem homeLeaves_setSl (page : AtDword p) (new : Option Word) : (s.setSl sl).homeLeaves p new = (s.homeLeaves p new).setSl sl := by
  cases new with
  | none => exact asked_setSl p
  | some w => exact writeHome_setSl page _

theorem goes_homeLeaves (g : Goes u opc h s) (page : AtDword p) (new : Option Word) : Goes u opc h (s.homeLeaves p new) := by
  obtain ⟨dm, hm, queues, ports, regs, errs, e⟩ := homeLeaves_served (s := s) page new
  rw [e]
  exact ⟨⟨g.alone, g.issuing, g.source, g.valid, g.ready⟩, g.carries, g.free, g.taken⟩

theorem latched_homeLeaves (s : State) (u : FU) (h : Hdr) (page : AtDword p) (new : Option Word) :
    (s.latched u h).homeLeaves p new = (s.homeLeaves p new).latched u h := by
  obtain ⟨dm, hm, queues, ports, regs, errs, e⟩ := homeLeaves_served (s := s) page new
  have slot : ((s.homeLeaves p new).latched u h).sl = (s.latched u h).sl := by
    rw [e]
    rfl
  rw [latched_setSl s, homeLeaves_setSl page, latched_setSl (s.homeLeaves p new), slot]

theorem readHome_latched (s : State) (u : FU) (h : Hdr) (p : Home) (n : Nat) : (s.latched u h).readHome p n = s.readHome p n := by
  cases p with
  | core c off => exact congrArg (·.bytes off n) ((coresAlike_latched s u h).mem c)
  | device | host | remote => rfl

/-- An atomic whose address passes the checks has been served at its home, and enters its unit with the old value. -/
theorem qmAtomic_ok {f : Word → Word → Word → Option Word} (g : Goes .qm opc h s) (settled : Settled s)
    (place : devicePlace s (s.moved64 h) 8 .atomic = .ok p) :
    let old := BitVec.ofNat 64 (leNat (s.readHome p 8))
    let new := f old (s.lat .qm).a (s.lat .qm).b
    ∃ t, execTrigger .qm opc h (qmAtomic opc f) s = .next t ∧
      Launches .qm opc h (s.cycles (deviceTime s p).1) (s.cycles (deviceTime s p).2) old (if opc = 0x22 ∧ new.isSome then 1 else 0)
        (s.homeLeaves p new) t := by
  intro old new
  have page := devicePlace_dword place
  let goesOut : State → Res := fun x => .ok (x.launch .qm opc (s.cycles (deviceTime s p).1) (s.cycles (deviceTime s p).2) old
    (if opc = 0x22 ∧ new.isSome then 1 else 0))
  have atomic : qmAtomic opc f (s.latched .qm h) = goesOut ((s.homeLeaves p new).latched .qm h) := by
    rw [← latched_homeLeaves s .qm h page]
    simp only [qmAtomic, goesOut, new, old, lat_latched]
    rw [withVa_ok place, ordered_of_settled (settled_latched settled .qm h), qmLatency_latched, readHome_latched]
    simp only [Bool.and_eq_true, beq_iff_eq, w64]
    congr 2
    cases f (BitVec.ofNat 64 (leNat (s.readHome p 8))) (s.lat .qm).a (s.lat .qm).b <;> rfl
  obtain ⟨t, run, launched⟩ := launches_launch (op := goesOut) (goes_homeLeaves g page new) rfl
  refine ⟨t, ?_, launched⟩
  rw [← run, execTrigger_ok g atomic, execTrigger_ok (op := goesOut) (goes_homeLeaves g page new) rfl]

theorem exec_deviceAtomicRow {r : AtomicRow} (hr : r ∈ deviceAtomicTable) (h : Hdr) (s : State) :
    exec (r.2.1 h) s = execTrigger .qm r.1 h (qmAtomic r.1 r.2.2) s := by
  have row {opc : Nat} {f g : Word → Word → Word → Option Word} (same : f = g) :
      execTrigger .qm opc h (qmAtomic opc f) s = execTrigger .qm opc h (qmAtomic opc g) s := by rw [same]
  simp only [deviceAtomicTable, atomicTable, List.zip_cons_cons, List.zip_nil_right, List.map_cons, List.map_nil, List.mem_cons,
    List.not_mem_nil, or_false] at hr
  rcases hr with rfl | rfl | rfl | rfl | rfl | rfl | rfl | rfl | rfl
  exacts [row casNew_eq, rfl, row aaddNew_eq, rfl, rfl, row aminNew_eq, row amaxNew_eq, row aminuNew_eq, row amaxuNew_eq]

/-! ## What has changed at the end of the bundle -/

/-- What a bundle of one unit shows of the state but for the core in focus. -/
theorem elsewhere_of_onlyUnit {α : Type} (only : OnlyUnit u s t) (part : State → α)
    (blind : ∀ (s : State) core, part { s with core := core } = part s) : part t = part s := by
  have blanked (s : State) : part (s.without u) = part s := by
    rw [without_eq]
    exact (blind s.uncounted _).trans (blind s _)
  rw [← blanked t, only.rest, blanked]

theorem sameMemory_requested (s : State) (ports : List (Nat × ShumPort)) (regs : List (Reg × Word)) (errs : List (Nat × Nat)) :
    SameMemory s (s.requested ports regs errs) := by
  intro p
  cases p <;> rfl

theorem sameMemory_asked (s : State) (p : Home) : SameMemory s (s.asked p) := by
  obtain ⟨ports, regs, errs, e⟩ := asked_requested s p
  rw [e]
  exact sameMemory_requested s ports regs errs

theorem sameCores_of_sameMemory (memory : SameMemory s t) : SameCores s t := fun id b => by
  have read : (t.coreAt id).mem.bytes b 1 = (s.coreAt id).mem.bytes b 1 := memory (.core id b)
  exact (List.cons.inj read).1

section
variable {lo hi : Nat} {q q2 : Word} {new : Option Word} {w : Word}

/-- An atomic changes no register, and enters its unit. -/
theorem regs_of_homeLeaves (page : AtDword p) (launched : Launches u opc h lo hi q q2 (s.homeLeaves p new) t) :
    SameRegs s t ∧ t.lat u = entered opc lo hi q q2 { s.lat u with t := s.moved64 h } := by
  obtain ⟨dm, hm, queues, ports, regs, errs, e⟩ := homeLeaves_served (s := s) page new
  rw [e] at launched
  obtain ⟨x, v, o, g, csrs, iret⟩ := launched.toSameRegs
  exact ⟨⟨x, v, o, g, csrs, iret⟩, launched.lat⟩

theorem sameCores_written {bs : List Byte} (page : AtDword p) (only : OnlyUnit u (s.writeHome p bs) t) : SameCores s t := by
  obtain ⟨dm, hm, queues, ports, regs, errs, e⟩ := writeHome_served (s := s) page bs
  rw [e] at only
  exact sameCores_of_sameMemory (s := s.served dm hm queues ports regs errs) only.memory

/-- A doubleword of host memory that is written. -/
theorem host_stored {a k : Nat} (page : AtDword (.host a k)) (only : OnlyUnit u (s.writeHome (.host a k) (leBytes 8 w.toNat)) t) :
    Becomes k a w s.hm t.hm s t ∧ (∀ b, t.dm.byte b = s.dm.byte b) ∧ SameCores s t := by
  have hm := elsewhere_of_onlyUnit only (·.hm) fun _ _ => rfl
  have dm := elsewhere_of_onlyUnit only (·.dm) fun _ _ => rfl
  have keys := elsewhere_of_onlyUnit only (·.keySlots) fun _ _ => rfl
  refine ⟨?_, fun b => by rw [dm]; rfl, sameCores_written page only⟩
  rw [hm]
  exact becomes_congr keys (becomes_sealed s page k w s.hm)

/-- A doubleword of device memory that is written. -/
theorem device_stored {a k : Nat} (page : AtDword (.device a k)) (only : OnlyUnit u (s.writeHome (.device a k) (leBytes 8 w.toNat)) t) :
    Becomes k a w s.dm t.dm s t ∧ (∀ b, t.hm.byte b = s.hm.byte b) ∧ SameCores s t := by
  have hm := elsewhere_of_onlyUnit only (·.hm) fun _ _ => rfl
  have dm := elsewhere_of_onlyUnit only (·.dm) fun _ _ => rfl
  have keys := elsewhere_of_onlyUnit only (·.keySlots) fun _ _ => rfl
  refine ⟨?_, fun b => by rw [hm]; rfl, sameCores_written page only⟩
  rw [dm]
  exact becomes_congr keys (becomes_sealed s page k w s.dm)

/-- A doubleword of another device that is written: its request has left. -/
theorem remote_stored {d a k : Nat} (only : OnlyUnit u (s.writeHome (.remote d a k) (leBytes 8 w.toNat)) t) :
    SameMemory s t ∧ t.shum = (s.writeHome (.remote d a k) (leBytes 8 w.toNat)).shum := by
  refine ⟨?_, elsewhere_of_onlyUnit only (·.shum) fun _ _ => rfl⟩
  obtain ⟨ports, regs, errs, e⟩ := asks_requested s d (s.sealUnits a k (leBytes 8 w.toNat) (s.remoteBytes d)).1
    (s.sealUnits a k (leBytes 8 w.toNat) (s.remoteBytes d)).2.length (s.sealUnits a k (leBytes 8 w.toNat) (s.remoteBytes d)).2
  have sent : SameMemory s (s.writeHome (.remote d a k) (leBytes 8 w.toNat)) := by
    rw [State.writeHome, e]
    exact sameMemory_requested s ports regs errs
  exact sent.trans only.memory

end

/-! ## Fences (R197) -/

theorem exec_deviceFence {r : Nat × (Hdr → Instr)} (hr : r ∈ deviceFenceTable) (h : Hdr) (s : State) :
    exec (r.2 h) s = execTrigger .qm r.1 h qmFence s := by
  simp only [deviceFenceTable, List.mem_cons, List.not_mem_nil, or_false] at hr
  rcases hr with rfl | rfl | rfl | rfl | rfl | rfl <;> rfl

/-- Settles O31: an atomic is served at its home as its trigger goes out, and a fence with nothing before it answers. -/
theorem deviceAtomicResults : Obligations.DeviceAtomicResults := by
  intro h s settled
  refine ⟨fun r hr p g place => ?_, fun r hr g => ?_⟩
  · intro old new
    rw [exec_deviceAtomicRow hr]
    obtain ⟨t, run, launched⟩ := qmAtomic_ok (f := r.2.2) g settled place
    have page := devicePlace_dword place
    obtain ⟨regs, latch⟩ := regs_of_homeLeaves page launched
    refine ⟨t, run, regs, latch, fun none => ?_, fun w stores => ?_⟩
    · have asked : OnlyUnit .qm (s.asked p) t := by
        have only : OnlyUnit .qm (s.homeLeaves p new) t := launched.toOnlyUnit
        rw [none] at only
        exact only
      exact ⟨(sameMemory_asked s p).trans asked.memory, elsewhere_of_onlyUnit asked (·.shum) fun _ _ => rfl⟩
    · have only : OnlyUnit .qm (s.writeHome p (leBytes 8 w.toNat)) t := by
        have only : OnlyUnit .qm (s.homeLeaves p new) t := launched.toOnlyUnit
        rw [stores] at only
        exact only
      cases p with
      | core c off => exact page.elim
      | device a k => exact device_stored page only
      | host a k => exact host_stored page only
      | remote d a k => exact remote_stored only
  · rw [exec_deviceFence hr]
    exact answers_complete g (ordered_of_settled (settled_latched settled .qm h) _)

end Sys2Proof.Machine
end
